-- ==== Sys2Proof/Word.lean ====
section
/-! DEFINITION. The word types of the Edior E7 and the names of its registers and codes
(spec 00 Table 0-2, 01 Tables 1-7, 02 Tables 2-14 and 2-17). -/

namespace Sys2Proof

abbrev Byte := BitVec 8
abbrev Word := BitVec 32
abbrev Dword := BitVec 64

/-- A scalar register `s0`-`s127` (Table 0-2). -/
abbrev SReg := Fin 128
/-- A scalar pair: `n` names `s(2n):s(2n+1)` (R3, R28). -/
abbrev Pair := Fin 64
/-- A vector register `v0`-`v255`. -/
abbrev VReg := Fin 256
/-- A predicate `p0`-`p15`. -/
abbrev PReg := Fin 16

/-- The scopes of Table 1-7. -/
inductive Scope where
  | gang | crew | core | die | dev | sys
  deriving DecidableEq, Repr

/-- Table 1-7: the code of a scope. -/
def Scope.code : Scope → Nat
  | .gang => 0 | .crew => 1 | .core => 2 | .die => 3 | .dev => 4 | .sys => 5

/-- Table 1-7: codes 6 and 7 are reserved (R19). -/
def Scope.ofCode : Nat → Option Scope
  | 0 => some .gang | 1 => some .crew | 2 => some .core
  | 3 => some .die | 4 => some .dev | 5 => some .sys | _ => none

/-- The orders of R21. -/
inductive Order where
  | rlx | acq | rel | ar
  deriving DecidableEq, Repr

def Order.code : Order → Nat
  | .rlx => 0 | .acq => 1 | .rel => 2 | .ar => 3

def Order.ofCode : Nat → Option Order
  | 0 => some .rlx | 1 => some .acq | 2 => some .rel | 3 => some .ar | _ => none

/-- An order with an acquire half (R21). -/
def Order.acquires : Order → Bool
  | .acq => true | .ar => true | _ => false

/-- An order with a release half (R21). -/
def Order.releases : Order → Bool
  | .rel => true | .ar => true | _ => false

/-- The atomic operations of Table 2-17. -/
inductive AtomOp where
  | add | min | max | minn | maxn | and | or | xor | xchg | addf | maxvi
  deriving DecidableEq, Repr

def AtomOp.code : AtomOp → Nat
  | .add => 0 | .min => 1 | .max => 2 | .minn => 3 | .maxn => 4 | .and => 5
  | .or => 6 | .xor => 7 | .xchg => 8 | .addf => 9 | .maxvi => 10

/-- Table 2-17: codes 11 to 15 are reserved (R44). -/
def AtomOp.ofCode : Nat → Option AtomOp
  | 0 => some .add | 1 => some .min | 2 => some .max | 3 => some .minn | 4 => some .maxn
  | 5 => some .and | 6 => some .or | 7 => some .xor | 8 => some .xchg | 9 => some .addf
  | 10 => some .maxvi | _ => none

/-- The hierarchy levels of R18 in the coding of R298 and R348. -/
inductive Level where
  | launch | graph | phase | job
  deriving DecidableEq, Repr

def Level.code : Level → Nat
  | .launch => 0 | .graph => 1 | .phase => 2 | .job => 3

def Level.ofCode : Nat → Option Level
  | 0 => some .launch | 1 => some .graph | 2 => some .phase | 3 => some .job | _ => none

/-- The kinds of `sfence` (R165); code 0 is illegal. -/
inductive FenceKind where
  | acq | rel | full
  deriving DecidableEq, Repr

def FenceKind.code : FenceKind → Nat
  | .acq => 1 | .rel => 2 | .full => 3

def FenceKind.ofCode : Nat → Option FenceKind
  | 1 => some .acq | 2 => some .rel | 3 => some .full | _ => none

/-- The compares of `mwait` (Table 2-6, major 0x11). -/
inductive WaitCmp where
  | gen | eq | ne
  deriving DecidableEq, Repr

def WaitCmp.code : WaitCmp → Nat
  | .gen => 0 | .eq => 1 | .ne => 2

def WaitCmp.ofCode : Nat → Option WaitCmp
  | 0 => some .gen | 1 => some .eq | 2 => some .ne | _ => none

/-- The type codes of Table 2-14, which are also the format tags. -/
inductive Ty where
  | raw32 | s32 | n32 | f32 | f16x2 | bf16x2 | e4m3x4 | e5m2x4 | e2m1x8
  | s8x4 | n8x4 | s16x2 | n16x2 | e3m5x4
  deriving DecidableEq, Repr

def Ty.code : Ty → Nat
  | .raw32 => 0 | .s32 => 1 | .n32 => 2 | .f32 => 3 | .f16x2 => 4 | .bf16x2 => 5
  | .e4m3x4 => 6 | .e5m2x4 => 7 | .e2m1x8 => 8 | .s8x4 => 9 | .n8x4 => 10
  | .s16x2 => 11 | .n16x2 => 12 | .e3m5x4 => 13

/-- Table 2-14: codes 14 to 63 are reserved (R41). -/
def Ty.ofCode : Nat → Option Ty
  | 0 => some .raw32 | 1 => some .s32 | 2 => some .n32 | 3 => some .f32 | 4 => some .f16x2
  | 5 => some .bf16x2 | 6 => some .e4m3x4 | 7 => some .e5m2x4 | 8 => some .e2m1x8
  | 9 => some .s8x4 | 10 => some .n8x4 | 11 => some .s16x2 | 12 => some .n16x2
  | 13 => some .e3m5x4 | _ => none

/-- Table 2-14: elements per 32-bit register. -/
def Ty.elems : Ty → Nat
  | .raw32 | .s32 | .n32 | .f32 => 1
  | .f16x2 | .bf16x2 | .s16x2 | .n16x2 => 2
  | .e4m3x4 | .e5m2x4 | .s8x4 | .n8x4 | .e3m5x4 => 4
  | .e2m1x8 => 8

/-- Table 2-14: width of one element in bits. -/
def Ty.width (t : Ty) : Nat := 32 / t.elems

/-- The signed integer types. -/
def Ty.isSigned : Ty → Bool
  | .s32 | .s8x4 | .s16x2 => true
  | _ => false

/-- The integer element types of R54. -/
def Ty.isInt : Ty → Bool
  | .s32 | .n32 | .s8x4 | .n8x4 | .s16x2 | .n16x2 => true
  | _ => false

end Sys2Proof
end

