-- ==== Sys2Proof/Machine/Num.lean ====
section
/-! DEFINITION. Number formats, rounding, conversions and the order of sums (spec 03). Exact values are naturals and
integers over powers of two; each result is rounded once. Flags are the six bits of R113:
IV 0, DZ 1, OF 2, UF 3, NX 4, SA 5. -/

namespace Sys2Proof.Machine

/-- The sticky flags as a set (R113). -/
abbrev Flags := BitVec 6

def fIV : Flags := 1
def fDZ : Flags := 2
def fOF : Flags := 4
def fUF : Flags := 8
def fNX : Flags := 16
def fSA : Flags := 32

/-- The rounding functions of R57. -/
inductive Rnd where
  | rn | rna | rz | ru | rd
  deriving DecidableEq, Repr

/-- The float formats of Table 3-1. -/
inductive Fmt where
  | f32 | f16 | bf16 | e4m3 | e5m2 | e2m1 | e3m5
  deriving DecidableEq, Repr

/-- Table 3-1: exponent and fraction widths, bias. -/
def Fmt.eBits : Fmt → Nat
  | .f32 => 8 | .f16 => 5 | .bf16 => 8 | .e4m3 => 4 | .e5m2 => 5 | .e2m1 => 2 | .e3m5 => 3
def Fmt.mBits : Fmt → Nat
  | .f32 => 23 | .f16 => 10 | .bf16 => 7 | .e4m3 => 3 | .e5m2 => 2 | .e2m1 => 1 | .e3m5 => 5
def Fmt.bias : Fmt → Nat
  | .f32 => 127 | .f16 => 15 | .bf16 => 127 | .e4m3 => 7 | .e5m2 => 15 | .e2m1 => 1 | .e3m5 => 3

/-- R50: a finite value is a whole number of quanta of 2^-k. -/
def Fmt.k (f : Fmt) : Nat := f.bias + f.mBits - 1

/-- Table 3-1: the code, without sign, of the largest finite value. -/
def Fmt.maxCode : Fmt → Nat
  | .f32 => 0x7F7FFFFF | .f16 => 0x7BFF | .bf16 => 0x7F7F | .e4m3 => 0x7E
  | .e5m2 => 0x7B | .e2m1 => 7 | .e3m5 => 0xFF

/-- Table 3-1: the formats with infinities. -/
def Fmt.hasInf : Fmt → Bool
  | .e4m3 | .e2m1 | .e3m5 => false
  | _ => true

/-- R61: the formats whose NaNs can be signalling. -/
def Fmt.hasSnan : Fmt → Bool
  | .f32 | .f16 | .bf16 => true
  | _ => false

/-- The sign bit (R51); E3M5 has none. -/
def Fmt.signBit : Fmt → Nat
  | .e3m5 => 0
  | f => 2 ^ (f.eBits + f.mBits)

/-- Table 3-5; E2M1 and E3M5 have no NaN (Table 3-6 gives zero). -/
def Fmt.defaultNan : Fmt → Nat
  | .f32 => 0x7FC00000 | .f16 => 0x7E00 | .bf16 => 0x7FC0 | .e4m3 => 0x7F | .e5m2 => 0x7E
  | .e2m1 => 0 | .e3m5 => 0

/-- The code of infinity, without sign. -/
def Fmt.infCode (f : Fmt) : Nat := (2 ^ f.eBits - 1) * 2 ^ f.mBits

/-- R59, R60: E2M1 and E3M5 always saturate. -/
def Fmt.alwaysSat : Fmt → Bool
  | .e2m1 | .e3m5 => true
  | _ => false

/-- A decoded element: a NaN (signalling or not), an infinity, or a signed number of quanta. -/
inductive FVal where
  | nan (snan neg : Bool)
  | inf (neg : Bool)
  | fin (neg : Bool) (q : Nat)
  deriving DecidableEq, Repr

/-- The quanta of a code without sign (R50). -/
def Fmt.quanta (f : Fmt) (c : Nat) : Nat :=
  if c < 2 ^ f.mBits then c else (2 ^ f.mBits + c % 2 ^ f.mBits) * 2 ^ (c / 2 ^ f.mBits - 1)

/-- The code without sign of a representable number of quanta. -/
def Fmt.codeOf (f : Fmt) (q : Nat) : Nat :=
  if q < 2 ^ f.mBits then q
  else
    let e := Nat.log2 q - f.mBits
    (e + 1) * 2 ^ f.mBits + (q / 2 ^ e - 2 ^ f.mBits)

/-- Decode an element's bits (R50-R53). -/
def Fmt.decode (f : Fmt) (bits : Nat) : FVal :=
  let neg := decide (f.signBit ≠ 0 ∧ f.signBit ≤ bits)
  let c := if f.signBit = 0 then bits else bits % f.signBit
  if c ≤ f.maxCode then .fin neg (f.quanta c)
  else if f.hasInf && c == f.infCode then .inf neg
  else .nan (f.hasSnan && decide (c % 2 ^ f.mBits < 2 ^ (f.mBits - 1))) neg

/-- Put a sign on a code. -/
def Fmt.withSign (f : Fmt) (neg : Bool) (c : Nat) : Nat := if neg then f.signBit + c else c

/-- R57: whether the magnitude is rounded up, from its sign, the parity of its truncation, and the remainder `rem`
of `whole` one unit. -/
def Rnd.up (m : Rnd) (neg odd : Bool) (rem whole : Nat) : Bool :=
  match m with
  | .rn => decide (whole < 2 * rem) || (decide (2 * rem = whole) && odd)
  | .rna => decide (whole ≤ 2 * rem)
  | .rz => false
  | .ru => decide (rem ≠ 0) && !neg
  | .rd => decide (rem ≠ 0) && neg

/-- R59: the result and flags of an overflow. -/
def Fmt.overflow (f : Fmt) (m : Rnd) (sat neg : Bool) : Nat × Flags :=
  if sat || f.alwaysSat then (f.withSign neg f.maxCode, fSA ||| fNX)
  else
    let toInf := match m with
      | .rn | .rna => true | .rz => false | .ru => !neg | .rd => neg
    let c := if toInf then (if f.hasInf then f.infCode else 0x7F) else f.maxCode
    (f.withSign neg c, fOF ||| fNX)

/-- R57 to R60: round the exact magnitude `num / den` with its sign to a format. A zero keeps its sign. R60 calls a nonzero result
tiny, and the example of R139 names one quotient for its UF and not another, which is delivered as zero: that an inexact value below
the normal range which is delivered as zero sets UF and NX too is the model's choice (log 36). -/
def Fmt.round (f : Fmt) (m : Rnd) (sat neg : Bool) (num den : Nat) : Nat × Flags :=
  let n := num * 2 ^ f.k
  let t := n / den
  let sh := if t < 2 ^ (f.mBits + 1) then 0 else Nat.log2 t - f.mBits
  let unit := 2 ^ sh * den
  let sig := n / unit
  let rem := n % unit
  let q := (if m.up neg (sig % 2 == 1) rem unit then sig + 1 else sig) * 2 ^ sh
  if f.quanta f.maxCode < q then f.overflow m sat neg
  else
    let sig2 := 2 * n / den
    let r2 := if m.up neg (sig2 % 2 == 1) (2 * n % den) den then sig2 + 1 else sig2
    let tiny := decide (t < 2 ^ f.mBits) && decide (r2 < 2 ^ (f.mBits + 1))
    let fl := if rem = 0 then 0 else if tiny then fUF ||| fNX else fNX
    (f.withSign neg (f.codeOf q), fl)

/-- Round a signed exact value `n / 2^k`; `zneg` is the sign of an exact zero. -/
def Fmt.roundInt (f : Fmt) (m : Rnd) (sat zneg : Bool) (n : Int) (k : Nat) : Nat × Flags :=
  if n = 0 then f.round m sat zneg 0 1
  else f.round m sat (decide (n < 0)) n.natAbs (2 ^ k)

/-- The signed quanta of a finite value. -/
def signed (neg : Bool) (q : Nat) : Int := if neg then -(q : Int) else (q : Int)

/-- R61: IV where an operand is a signalling NaN. -/
def snanFlag : FVal → Flags
  | .nan true _ => fIV
  | _ => 0

def FVal.isNan : FVal → Bool
  | .nan _ _ => true
  | _ => false

/-- The exact sum of two values that share a quantum, rounded once; `rdZero`: an exact zero of unlike signs is -0
under RD only. -/
def Fmt.add (f : Fmt) (m : Rnd) (sat : Bool) (a b : FVal) : Nat × Flags :=
  let iv := snanFlag a ||| snanFlag b
  match a, b with
  | .nan _ _, _ => (f.defaultNan, iv)
  | _, .nan _ _ => (f.defaultNan, iv)
  | .inf x, .inf y => if x = y then (f.withSign x f.infCode, 0) else (f.defaultNan, fIV)
  | .inf x, .fin _ _ => (f.withSign x f.infCode, 0)
  | .fin _ _, .inf y => (f.withSign y f.infCode, 0)
  | .fin x p, .fin y q =>
    let z := if x = y then x else decide (m = .rd)
    f.roundInt m sat z (signed x p + signed y q) f.k

/-- Negate a value. -/
def FVal.neg : FVal → FVal
  | .nan s n => .nan s n
  | .inf n => .inf (!n)
  | .fin n q => .fin (!n) q

/-- The product (R57, R61). -/
def Fmt.mul (f : Fmt) (m : Rnd) (sat : Bool) (a b : FVal) : Nat × Flags :=
  let iv := snanFlag a ||| snanFlag b
  match a, b with
  | .nan _ _, _ => (f.defaultNan, iv)
  | _, .nan _ _ => (f.defaultNan, iv)
  | .inf x, .inf y => (f.withSign (x != y) f.infCode, 0)
  | .inf x, .fin y q => if q = 0 then (f.defaultNan, fIV) else (f.withSign (x != y) f.infCode, 0)
  | .fin x p, .inf y => if p = 0 then (f.defaultNan, fIV) else (f.withSign (x != y) f.infCode, 0)
  | .fin x p, .fin y q => f.round m sat (x != y) (p * q) (2 ^ (2 * f.k))

/-- a * b + c with one rounding (Table 6-2): 0 times an infinity is the default NaN with IV whatever c is. -/
def Fmt.fma (f : Fmt) (m : Rnd) (sat : Bool) (a b c : FVal) : Nat × Flags :=
  let iv := snanFlag a ||| snanFlag b ||| snanFlag c
  let bad : Bool := match a, b with
    | .inf _, .fin _ q => q == 0
    | .fin _ p, .inf _ => p == 0
    | _, _ => false
  if bad then (f.defaultNan, fIV)
  else if a.isNan || b.isNan || c.isNan then (f.defaultNan, iv)
  else
    let sgn : FVal → Bool := fun | .nan _ n => n | .inf n => n | .fin n _ => n
    let ps := sgn a != sgn b
    let pinf : Bool := match a, b with
      | .inf _, _ => true | _, .inf _ => true | _, _ => false
    match pinf, c with
    | true, .inf y => if ps = y then (f.withSign ps f.infCode, 0) else (f.defaultNan, fIV)
    | true, _ => (f.withSign ps f.infCode, 0)
    | false, .inf y => (f.withSign y f.infCode, 0)
    | false, .fin y r =>
      let q : FVal → Nat := fun | .fin _ q => q | _ => 0
      let z := if ps = y then ps else decide (m = .rd)
      f.roundInt m sat z (signed ps (q a * q b) + signed y (r * 2 ^ f.k)) (2 * f.k)
    | false, .nan _ _ => (f.defaultNan, iv)

/-- Floor of the square root, bit by bit from bit `i` down. -/
def isqrtGo : Nat → Nat → Nat → Nat
  | 0, n, r => if (r + 1) * (r + 1) ≤ n then r + 1 else r
  | i + 1, n, r =>
    let r' := r + 2 ^ (i + 1)
    if r' * r' ≤ n then isqrtGo i n r' else isqrtGo i n r

/-- Floor of the square root. -/
def isqrt (n : Nat) : Nat := isqrtGo (Nat.log2 n / 2 + 1) n 0

/-- Round a real whose floor at 2^-p is `d` and which is above it unless `exact`: no representable value and no
midpoint lies strictly between, so one sticky bit below keeps every rounding (R135). -/
def Fmt.roundFloor (f : Fmt) (m : Rnd) (sat neg exact : Bool) (d p : Nat) : Nat × Flags :=
  if exact then f.round m sat neg d (2 ^ p) else f.round m sat neg (2 * d + 1) (2 ^ (p + 1))

/-- An infinite result from a finite operand (R135, R59, R62). -/
def Fmt.divZero (f : Fmt) (sat neg : Bool) : Nat × Flags :=
  if sat then (f.withSign neg f.maxCode, fDZ ||| fSA ||| fNX) else (f.withSign neg f.infCode, fDZ)

/-- Table 6-3, `vfrcp`. -/
def Fmt.rcp (f : Fmt) (m : Rnd) (sat : Bool) (a : FVal) : Nat × Flags :=
  match a with
  | .nan _ _ => (f.defaultNan, snanFlag a)
  | .inf n => (f.withSign n 0, 0)
  | .fin n q => if q = 0 then f.divZero sat n else f.round m sat n (2 ^ f.k) q

/-- Table 6-3, `vfsqrt`. -/
def Fmt.sqrt (f : Fmt) (m : Rnd) (sat : Bool) (a : FVal) : Nat × Flags :=
  match a with
  | .nan _ _ => (f.defaultNan, snanFlag a)
  | .inf n => if n then (f.defaultNan, fIV) else (f.infCode, 0)
  | .fin n q =>
    if q = 0 then (f.withSign n 0, 0)
    else if n then (f.defaultNan, fIV)
    else
      let x := q * 2 ^ f.k * 2 ^ 128
      let d := isqrt x
      f.roundFloor m sat false (d * d == x) d (f.k + 64)

/-- Table 6-3, `vfrsqrt`. -/
def Fmt.rsqrt (f : Fmt) (m : Rnd) (sat : Bool) (a : FVal) : Nat × Flags :=
  match a with
  | .nan _ _ => (f.defaultNan, snanFlag a)
  | .inf n => if n then (f.defaultNan, fIV) else (0, 0)
  | .fin n q =>
    if q = 0 then f.divZero sat n
    else if n then (f.defaultNan, fIV)
    else
      let x := 2 ^ (f.k + 320)
      let d := isqrt (x / q)
      f.roundFloor m sat false (d * d * q == x) d 160

/-- Binary digits of log2 x by repeated squaring, for x in [1, 2) at 256 fraction bits. -/
def log2Digits : Nat → Nat → Nat → Nat
  | 0, _, d => d
  | i + 1, x, d =>
    let y := x * x / 2 ^ 256
    if 2 ^ 257 ≤ y then log2Digits i (y / 2) (2 * d + 1) else log2Digits i y (2 * d)

/-- Table 6-3, `vflog2`: exact for powers of two, otherwise from 96 digits of the logarithm. -/
def Fmt.log2 (f : Fmt) (m : Rnd) (sat : Bool) (a : FVal) : Nat × Flags :=
  match a with
  | .nan _ _ => (f.defaultNan, snanFlag a)
  | .inf n => if n then (f.defaultNan, fIV) else (f.infCode, 0)
  | .fin n q =>
    if q = 0 then f.divZero sat true
    else if n then (f.defaultNan, fIV)
    else
      let l := Nat.log2 q
      let e : Int := (l : Int) - (f.k : Int)
      if q = 2 ^ l then f.roundInt m sat false e 0
      else
        let d := log2Digits 96 (q * 2 ^ 256 / 2 ^ l) 0
        f.roundInt m sat false (e * 2 ^ 97 + 2 * (d : Int) + 1) 97

/-- The product of 2^(2^-i) over the set bits i of a fraction, at 320 fraction bits: `r` is 2^(2^-(i-1)), `fr` the
fraction left at `k` bits. -/
def exp2Go : Nat → Nat → Nat → Nat → Nat → Nat
  | 0, _, _, _, acc => acc
  | i + 1, r, fr, k, acc =>
    let r' := isqrt (r * 2 ^ 320)
    let fr' := 2 * fr
    if 2 ^ k ≤ fr' then exp2Go i r' (fr' - 2 ^ k) k (acc * r' / 2 ^ 320)
    else exp2Go i r' fr' k acc

/-- Table 6-3, `vfexp2`: exact for integers, otherwise from 64 digits of the power. -/
def Fmt.exp2 (f : Fmt) (m : Rnd) (sat : Bool) (a : FVal) : Nat × Flags :=
  match a with
  | .nan _ _ => (f.defaultNan, snanFlag a)
  | .inf n => if n then (0, 0) else (f.infCode, 0)
  | .fin n q =>
    if q = 0 then f.round m sat false 1 1
    else if 2 ^ (f.k + 10) ≤ q then
      if n then f.round m sat false 1 (2 ^ 1024) else f.round m sat false (2 ^ 1024) 1
    else
      let v : Int := signed n q
      let fl : Int := v / 2 ^ f.k
      let fr : Nat := (v % 2 ^ f.k).toNat
      let up := fl.toNat
      let dn := (-fl).toNat
      if fr = 0 then f.round m sat false (2 ^ up) (2 ^ dn)
      else
        let d := exp2Go 64 (2 * 2 ^ 320) fr f.k (2 ^ 320) / 2 ^ 256
        f.round m sat false ((2 * d + 1) * 2 ^ up) (2 ^ (65 + dn))

/-- R133, `vfrnd`: round to an integral value in the value's own format. -/
def Fmt.rint (f : Fmt) (m : Rnd) (sat : Bool) (a : FVal) : Nat × Flags :=
  match a with
  | .nan _ _ => (f.defaultNan, snanFlag a)
  | .inf n => (f.withSign n f.infCode, 0)
  | .fin n q =>
    let w := q / 2 ^ f.k
    let rem := q % 2 ^ f.k
    let r := if m.up n (w % 2 == 1) rem (2 ^ f.k) then w + 1 else w
    let out := f.round .rz sat n r 1
    (out.1, out.2 ||| (if rem = 0 then 0 else fNX))

/-- The numeric comparison of two values of one format; none when unordered (R61). -/
def FVal.cmp (a b : FVal) : Option Ordering :=
  match a, b with
  | .nan _ _, _ => none
  | _, .nan _ _ => none
  | .inf x, .inf y => some (if x = y then .eq else if x then .lt else .gt)
  | .inf x, .fin _ _ => some (if x then .lt else .gt)
  | .fin _ _, .inf y => some (if y then .gt else .lt)
  | .fin x p, .fin y q => some (compare (signed x p) (signed y q))

/-- R134: `vfmin` (`big = false`) and `vfmax`. -/
def Fmt.minmax (f : Fmt) (big : Bool) (x y : Nat) : Nat × Flags :=
  let a := f.decode x
  let b := f.decode y
  let iv := snanFlag a ||| snanFlag b
  match FVal.cmp a b with
  | none =>
    if a.isNan && b.isNan then (f.defaultNan, iv) else if a.isNan then (y, iv) else (x, iv)
  | some .lt => (if big then y else x, iv)
  | some .gt => (if big then x else y, iv)
  | some .eq =>
    -- only zeros of unlike sign differ: the minimum is -0 and the maximum +0
    (if x = y then x else if big then (if x < f.signBit then x else y) else (if x < f.signBit then y else x), iv)

/-- Table 6-4: the class bit of an f32 value. -/
def f32Class (x : Nat) : Nat :=
  match Fmt.f32.decode x with
  | .nan s _ => if s then 0 else 1
  | .inf n => if n then 2 else 9
  | .fin n q =>
    if q = 0 then (if n then 5 else 6)
    else if q < 2 ^ 23 then (if n then 4 else 7) else (if n then 3 else 8)

/-- Table 3-6: convert a float of format `src` to a float of format `dst`. A negative value whose rounding to the unsigned
E3M5 is not zero sets IV and NX and no UF, also where the rounded value is tiny: Table 3-6 and R60 do not say (log 36). -/
def cvtFF (dst src : Fmt) (m : Rnd) (sat : Bool) (bits : Nat) : Nat × Flags :=
  match src.decode bits with
  | .nan s _ =>
    if dst.alwaysSat then (0, fIV) else (dst.defaultNan, if s then fIV else 0)
  | .inf n =>
    match dst with
    | .e2m1 => (dst.withSign n dst.maxCode, fSA)
    | .e3m5 => if n then (0, fIV) else (dst.maxCode, fSA)
    | .e4m3 => if sat then (dst.withSign n dst.maxCode, fSA) else (dst.withSign n 0x7F, fIV)
    | _ => if sat then (dst.withSign n dst.maxCode, fSA) else (dst.withSign n dst.infCode, 0)
  | .fin n q =>
    if dst = .e3m5 && n then
      -- negative to the unsigned format: zero, with IV where it is nonzero after rounding
      let r := dst.round m sat true q (2 ^ src.k)
      if r.1 = 0 then (0, if q = 0 then 0 else r.2) else (0, fIV ||| fNX)
    else dst.round m sat n q (2 ^ src.k)

/-- The range of an integer type of width w. -/
def intLo (sg : Bool) (w : Nat) : Int := if sg then -(2 ^ (w - 1)) else 0
def intHi (sg : Bool) (w : Nat) : Int := if sg then 2 ^ (w - 1) - 1 else 2 ^ w - 1

/-- The low w bits of an integer. -/
def intBits (w : Nat) (v : Int) : Nat := (v % 2 ^ w).toNat

/-- The value of w bits. -/
def intVal (sg : Bool) (w : Nat) (b : Nat) : Int :=
  if sg && decide (2 ^ (w - 1) ≤ b) then (b : Int) - 2 ^ w else (b : Int)

/-- Table 3-6: convert a float to an integer of width w. -/
def cvtFI (sg : Bool) (w : Nat) (src : Fmt) (m : Rnd) (sat : Bool) (bits : Nat) : Nat × Flags :=
  match src.decode bits with
  | .nan _ _ => (0, fIV)
  | .inf n => (intBits w (if n then intLo sg w else intHi sg w), if sat then fSA else fIV)
  | .fin n q =>
    let wq := q / 2 ^ src.k
    let rem := q % 2 ^ src.k
    let r := signed n (if m.up n (wq % 2 == 1) rem (2 ^ src.k) then wq + 1 else wq)
    let nx : Flags := if rem = 0 then 0 else fNX
    if r < intLo sg w then (intBits w (intLo sg w), (if sat then fSA else fIV) ||| fNX)
    else if intHi sg w < r then (intBits w (intHi sg w), (if sat then fSA else fIV) ||| fNX)
    else (intBits w r, nx)

/-- An integer to a float, rounded by the mode (the text after Table 3-6). -/
def cvtIF (dst : Fmt) (m : Rnd) (sat : Bool) (v : Int) : Nat × Flags :=
  if dst = .e3m5 && decide (v < 0) then (0, fIV ||| fNX) else dst.roundInt m sat false v 0

/-- Integer to integer (the text after Table 3-6). A clamp sets SA alone: the text before the table sets NX wherever a finite value is
changed, and this one names SA and no other flag (log 36). -/
def cvtII (sg : Bool) (w : Nat) (sat : Bool) (v : Int) : Nat × Flags :=
  if sat && decide (v < intLo sg w) then (intBits w (intLo sg w), fSA)
  else if sat && decide (intHi sg w < v) then (intBits w (intHi sg w), fSA)
  else (intBits w v, 0)

/-- The float format of a type, where its elements are floats. -/
def tyFmt : Ty → Option Fmt
  | .f32 => some .f32 | .f16x2 => some .f16 | .bf16x2 => some .bf16 | .e4m3x4 => some .e4m3
  | .e5m2x4 => some .e5m2 | .e2m1x8 => some .e2m1 | .e3m5x4 => some .e3m5
  | _ => none

/-- R138, R63: convert one element. Raw bits are converted by no instruction; they are copied. -/
def cvtElem (dst src : Ty) (m : Rnd) (sat : Bool) (bits : Nat) : Nat × Flags :=
  if dst = src then (bits, 0)
  else match tyFmt dst, tyFmt src with
    | some d, some s => cvtFF d s m sat bits
    | some d, none => cvtIF d m sat (intVal src.isSigned src.width bits)
    | none, some s => cvtFI dst.isSigned dst.width s m sat bits
    | none, none => cvtII dst.isSigned dst.width sat (intVal src.isSigned src.width bits)

/-- A step sum (R64, R65): NaN, an infinity, or an exact value with the sign of its zero. -/
inductive StepSum where
  | nan
  | inf (neg : Bool)
  | fin (n : Int) (k : Nat) (zneg : Bool)
  deriving DecidableEq, Repr

/-- One product as a term: whether it is a NaN, an infinity (with sign), or signed quanta with the sign of zero. -/
inductive Term where
  | nan (iv : Flags)
  | inf (neg : Bool)
  | fin (neg : Bool) (n : Nat)
  deriving DecidableEq, Repr

/-- A product of R64 (R65). -/
def mulTerm (a b : FVal) : Term :=
  match a, b with
  | .nan s _, .nan t _ => .nan (if s || t then fIV else 0)
  | .nan s _, _ => .nan (if s then fIV else 0)
  | _, .nan t _ => .nan (if t then fIV else 0)
  | .inf x, .inf y => .inf (x != y)
  | .inf x, .fin y q => if q = 0 then .nan fIV else .inf (x != y)
  | .fin x p, .inf y => if p = 0 then .nan fIV else .inf (x != y)
  | .fin x p, .fin y q => .fin (x != y) (p * q)

/-- The exact sum of the finite terms at 2^-k, with the sign of its zero (R65). -/
def sumFin (k : Nat) : List Term → StepSum
  | [] => .fin 0 k true
  | t :: ts =>
    match t, sumFin k ts with
    | .fin x n, .fin a k' z => .fin (signed x n + a) k' (z && x && (n == 0))
    | _, r => r

def Term.isNan : Term → Bool | .nan _ => true | _ => false
/-- The flags that a term raises as its product is formed. -/
def Term.flags : Term → Flags | .nan iv => iv | _ => 0

/-- The running sum of terms at 2^-k and the flags raised (R65): infinities of both signs set IV whatever the other terms
are, and a NaN term makes the sum NaN. -/
def sumTerms (k : Nat) (ts : List Term) : StepSum × Flags :=
  let fl := ts.foldl (fun f t => f ||| t.flags) 0
  let pos := ts.contains (.inf false)
  let neg := ts.contains (.inf true)
  if pos && neg then (.nan, fl ||| fIV)
  else if ts.any Term.isNan then (.nan, fl)
  else if pos then (.inf false, fl)
  else if neg then (.inf true, fl)
  else (sumFin k ts, fl)

/-- The accumulation acc + stepsum, rounded RN (R64, R65); `sat` as `vfdp2` takes it (R137). -/
def accumulate (sat : Bool) (acc : Nat) (s : StepSum) : Nat × Flags :=
  let a := Fmt.f32.decode acc
  let iv := snanFlag a
  match a, s with
  | .nan _ _, _ => (Fmt.f32.defaultNan, iv)
  | _, .nan => (Fmt.f32.defaultNan, iv)
  | .inf x, .inf y => if x = y then (acc, 0) else (Fmt.f32.defaultNan, fIV)
  | .inf _, .fin _ _ _ => (acc, 0)
  | .fin _ _, .inf y => (Fmt.f32.withSign y Fmt.f32.infCode, 0)
  | .fin x q, .fin n k z =>
    let kk := max k Fmt.f32.k
    let sum := signed x q * 2 ^ (kk - Fmt.f32.k) + n * 2 ^ (kk - k)
    Fmt.f32.roundInt .rn sat (x && z) sum kk

/-- One K-step of unscaled float elements (R64). -/
def stepFloat (sat : Bool) (f : Fmt) (acc : Nat) (as bs : List Nat) : Nat × Flags :=
  let r := sumTerms (2 * f.k) (List.zipWith (fun a b => mulTerm (f.decode a) (f.decode b)) as bs)
  let out := accumulate sat acc r.1
  (out.1, r.2 ||| out.2)

/-- The E2M1 code 0x8 counts as +0 in a product (R52, R65). -/
def e2m1Val (c : Nat) : FVal := if c = 8 then .fin false 0 else Fmt.e2m1.decode c

/-- One block of block-scaled E2M1 data: RN32(blocksum * scale) as a term at 2^-149 (R64). -/
def blockTerm (as bs : List Nat) (sa sb : Nat) : Term × Flags :=
  let r := sumTerms 2 (List.zipWith (fun a b => mulTerm (e2m1Val a) (e2m1Val b)) as bs)
  match r.1 with
  | .fin n _ z =>
    let sc := Fmt.e3m5.quanta sa * Fmt.e3m5.quanta sb
    let out := Fmt.f32.roundInt .rn false (if n = 0 then z else decide (n < 0)) (n * (sc : Int)) (2 + 2 * Fmt.e3m5.k)
    (match Fmt.f32.decode out.1 with
      | .fin x q => .fin x q
      | .inf x => .inf x
      | .nan _ _ => .nan 0, out.2)
  | .inf x => (.inf x, 0)
  | .nan => (.nan 0, 0)

/-- The block terms of a K-step. -/
def blockTerms : Nat → List Nat → List Nat → List Nat → List Nat → List Term × Flags
  | 0, _, _, _, _ => ([], 0)
  | n + 1, as, bs, sa, sb =>
    let t := blockTerm (as.take 8) (bs.take 8) (sa.headD 0) (sb.headD 0)
    let r := blockTerms n (as.drop 8) (bs.drop 8) sa.tail sb.tail
    (t.1 :: r.1, t.2 ||| r.2)

/-- One K-step of block-scaled elements (R64): `sa`, `sb` are the scales of its blocks. -/
def stepBlock (acc : Nat) (as bs sa sb : List Nat) : Nat × Flags :=
  let ts := blockTerms (as.length / 8) as bs sa sb
  let r := sumTerms Fmt.f32.k ts.1
  let out := accumulate false acc r.1
  (out.1, ts.2 ||| r.2 ||| out.2)

/-- R67: an integer accumulation into s32. -/
def accInt (sat : Bool) (v : Int) : Nat × Flags :=
  if intLo true 32 ≤ v ∧ v ≤ intHi true 32 then (intBits 32 v, 0)
  else if sat then (intBits 32 (if v < 0 then intLo true 32 else intHi true 32), fOF ||| fSA)
  else (intBits 32 v, fOF)

/-- The exact sum of the products of integer elements. -/
def dotInt (sg : Bool) (w : Nat) (as bs : List Nat) : Int :=
  (List.zipWith (fun a b => intVal sg w a * intVal sg w b) as bs).foldl (· + ·) 0

/-- One K-step of integer elements (R67). -/
def stepInt (sat sg : Bool) (acc : Nat) (as bs : List Nat) : Nat × Flags :=
  accInt sat (intVal true 32 acc + dotInt sg 8 as bs)

/-- R66: RN32(acc * bandA * bandB), one rounding of the exact triple product. -/
def bandScale (acc a b : Nat) : Nat × Flags :=
  let x := Fmt.f32.decode acc
  let y := Fmt.bf16.decode a
  let z := Fmt.bf16.decode b
  match mulTerm y z with
  | .nan iv => (Fmt.f32.defaultNan, iv ||| snanFlag x)
  | .inf s =>
    match x with
    | .nan _ _ => (Fmt.f32.defaultNan, snanFlag x)
    | .inf t => (Fmt.f32.withSign (s != t) Fmt.f32.infCode, 0)
    | .fin t q => if q = 0 then (Fmt.f32.defaultNan, fIV) else (Fmt.f32.withSign (s != t) Fmt.f32.infCode, 0)
  | .fin s n =>
    match x with
    | .nan _ _ => (Fmt.f32.defaultNan, snanFlag x)
    | .inf t => if n = 0 then (Fmt.f32.defaultNan, fIV) else (Fmt.f32.withSign (s != t) Fmt.f32.infCode, 0)
    | .fin t q => Fmt.f32.round .rn false (s != t) (n * q) (2 ^ (Fmt.f32.k + 2 * Fmt.bf16.k))

/-- R167: the key of an f32 bit pattern. -/
def maxviKey (b : Word) : Word := if b.getLsbD 31 then ~~~b else b ^^^ 0x80000000

/-- R167: whether a packed operand's key is that of a NaN. -/
def maxviNan (key : Word) : Bool := decide (0xFF800000 < key.toNat) || decide (key.toNat < 0x007FFFFF)

/-- R166, Table 7-4: the new value of an atomic on w bits, and IV for a NaN operand of `.maxvi`, which leaves
memory unchanged (R167). -/
def atomNew (op : AtomOp) (w : Nat) (m x : Nat) : Nat × Flags :=
  match op with
  | .add => ((m + x) % 2 ^ w, 0)
  | .min => (if intVal true w x < intVal true w m then x else m, 0)
  | .max => (if intVal true w m < intVal true w x then x else m, 0)
  | .minn => (min m x, 0)
  | .maxn => (max m x, 0)
  | .and => (m &&& x, 0)
  | .or => (m ||| x, 0)
  | .xor => (m ^^^ x, 0)
  | .xchg => (x, 0)
  | .addf => ((Fmt.f32.add .rn false (Fmt.f32.decode m) (Fmt.f32.decode x)).1, 0)
  | .maxvi => if maxviNan (BitVec.ofNat 32 (x / 2 ^ 32)) then (m, fIV) else (max m x, 0)

end Sys2Proof.Machine
end

