-- ==== Sys2Proof/Syntax.lean ====
section
/-! DEFINITION. The syntax: one constructor of `Instr` per row of the opcode table
(spec 02 Tables 2-6 to 2-15 and the events of spec 95). A scalar instruction carries its fields by name;
a lane instruction carries the fields of the lane format (Table 2-12); an event carries what names the
work that it moves, and, where the manual leaves a choice open, the choice that is taken. -/

namespace Sys2Proof

/-- The fields of a 96-bit lane word other than its op (R36, Table 2-12). -/
structure LaneWord where
  ge   : Bool
  gn   : Bool
  pn   : PReg
  vd   : VReg
  va   : VReg
  vb   : VReg
  vc   : VReg
  pd   : PReg
  typ  : Fin 64
  bsrc : Fin 4
  mode : Fin 8
  opx  : Fin 8
  ext  : Word
  deriving DecidableEq, Repr

/-- What a peer device answers to a request that crosses the Apfiz link (R190, R369): the peer's own
translation is outside this device. An absent page is named at the level at which the peer's walk ended (R200). -/
inductive PeerAnswer where
  | ok | absent (level : Fin 4) | permission
  deriving DecidableEq, Repr

/-- The choices that the manual leaves to a slice access: whether a cached L1 line or TLB entry is still
there, and whether one is filled (R153, R281), and what a peer answers (R369). -/
structure Choice where
  l1Hit   : Bool
  l1Fill  : Bool
  tlbHit  : Bool
  tlbFill : Bool
  peer    : PeerAnswer
  deriving DecidableEq, Repr

/-- The states of an Apfiz port (R368). -/
inductive PortState where
  | up | training | down
  deriving DecidableEq, Repr

/-- The rows of the opcode table. -/
inductive Instr where
  /-- `SADD` (R101): Writes (sa + sb) mod 2^32 to sd. -/
  | sadd (sd : SReg) (sa : SReg) (sb : SReg)
  /-- `SSUB` (R101): Writes (sa - sb) mod 2^32 to sd. -/
  | ssub (sd : SReg) (sa : SReg) (sb : SReg)
  /-- `SAND` (R101): Writes the bitwise AND of sa and sb to sd. -/
  | sand (sd : SReg) (sa : SReg) (sb : SReg)
  /-- `SOR` (R101): Writes the bitwise OR of sa and sb to sd. -/
  | sor (sd : SReg) (sa : SReg) (sb : SReg)
  /-- `SXOR` (R101): Writes the bitwise XOR of sa and sb to sd. -/
  | sxor (sd : SReg) (sa : SReg) (sb : SReg)
  /-- `SSHL` (R101): Shifts sa left by sb, giving 0 for counts of 32 or more. -/
  | sshl (sd : SReg) (sa : SReg) (sb : SReg)
  /-- `SSHR` (R101): Shifts sa right by sb with zero fill. -/
  | sshr (sd : SReg) (sa : SReg) (sb : SReg)
  /-- `SSRA` (R101): Shifts sa right by sb with sign fill. -/
  | ssra (sd : SReg) (sa : SReg) (sb : SReg)
  /-- `SMIN` (R101): Writes the signed minimum of sa and sb. -/
  | smin (sd : SReg) (sa : SReg) (sb : SReg)
  /-- `SMAX` (R101): Writes the signed maximum of sa and sb. -/
  | smax (sd : SReg) (sa : SReg) (sb : SReg)
  /-- `SMINN` (R101): Writes the unsigned minimum of sa and sb. -/
  | sminn (sd : SReg) (sa : SReg) (sb : SReg)
  /-- `SMAXN` (R101): Writes the unsigned maximum of sa and sb. -/
  | smaxn (sd : SReg) (sa : SReg) (sb : SReg)
  /-- `SMUL` (R101): Writes the low 32 bits of sa × sb. -/
  | smul (sd : SReg) (sa : SReg) (sb : SReg)
  /-- `SMULH` (R101): Writes the high 32 bits of the signed product of sa and sb. -/
  | smulh (sd : SReg) (sa : SReg) (sb : SReg)
  /-- `SMULHN` (R101): Writes the high 32 bits of the unsigned product of sa and sb. -/
  | smulhn (sd : SReg) (sa : SReg) (sb : SReg)
  /-- `SCLZ` (R101): Counts the leading zero bits of sa. -/
  | sclz (sd : SReg) (sa : SReg)
  /-- `SPOPC` (R101): Counts the one bits of sa. -/
  | spopc (sd : SReg) (sa : SReg)
  /-- `SMOV` (R101): Copies sa to sd. -/
  | smov (sd : SReg) (sa : SReg)
  /-- `SCMP` (R99): Sets the condition codes from the 32-bit compare of sa with sb. -/
  | scmp (sa : SReg) (sb : SReg)
  /-- `SANDN` (R101): Writes sa AND NOT sb to sd. -/
  | sandn (sd : SReg) (sa : SReg) (sb : SReg)
  /-- `SADD_D` (R102): Adds two 64-bit pairs modulo 2^64. -/
  | saddD (sd : Pair) (sa : Pair) (sb : Pair)
  /-- `SSUB_D` (R102): Subtracts two 64-bit pairs modulo 2^64. -/
  | ssubD (sd : Pair) (sa : Pair) (sb : Pair)
  /-- `SSHL_D` (R102): Shifts a pair left by a single-register count. -/
  | sshlD (sd : Pair) (sa : Pair) (sb : SReg)
  /-- `SSHR_D` (R102): Shifts a pair right by a single-register count with zero fill. -/
  | sshrD (sd : Pair) (sa : Pair) (sb : SReg)
  /-- `SMOV_D` (R102): Copies a 64-bit pair. -/
  | smovD (sd : Pair) (sa : Pair)
  /-- `SCMP_D` (R102): Sets the condition codes from the 64-bit compare of two pairs. -/
  | scmpD (sa : Pair) (sb : Pair)
  /-- `SMULW` (R102): Writes the exact signed 64-bit product of two registers to a pair. -/
  | smulw (sd : Pair) (sa : SReg) (sb : SReg)
  /-- `SMULWN` (R102): Writes the exact unsigned 64-bit product of two registers to a pair. -/
  | smulwn (sd : Pair) (sa : SReg) (sb : SReg)
  /-- `SADDI` (R103): Adds a sign-extended 12-bit immediate to sa. -/
  | saddi (sd : SReg) (sa : SReg) (imm : Fin 4096)
  /-- `SANDI` (R103): ANDs sa with a zero-extended immediate. -/
  | sandi (sd : SReg) (sa : SReg) (imm : Fin 4096)
  /-- `SORI` (R103): ORs sa with a zero-extended immediate. -/
  | sori (sd : SReg) (sa : SReg) (imm : Fin 4096)
  /-- `SXORI` (R103): XORs sa with a zero-extended immediate. -/
  | sxori (sd : SReg) (sa : SReg) (imm : Fin 4096)
  /-- `SSHLI` (R103): Shifts sa left by an immediate count. -/
  | sshli (sd : SReg) (sa : SReg) (n : Fin 32)
  /-- `SSHRI` (R103): Shifts sa right by an immediate count with zero fill. -/
  | sshri (sd : SReg) (sa : SReg) (n : Fin 32)
  /-- `SSRAI` (R103): Shifts sa right by an immediate count with sign fill. -/
  | ssrai (sd : SReg) (sa : SReg) (n : Fin 32)
  /-- `SCMPI` (R103): Sets the condition codes from sa compared with a signed immediate. -/
  | scmpi (sa : SReg) (imm : Fin 4096)
  /-- `SLI` (R103): Loads a sign-extended 19-bit immediate into sd. -/
  | sli (sd : SReg) (imm : Fin 524288)
  /-- `SLUI` (R103): Loads imm19 × 2^13 into sd. -/
  | slui (sd : SReg) (imm : Fin 524288)
  /-- `SBR` (R104): Branches by a word offset when the selected condition test holds. -/
  | sbr (cnd : Fin 32) (inv : Bool) (off : Fin 1048576)
  /-- `SCALL` (R105): Jumps by a word offset and writes the link to sd. -/
  | scall (sd : SReg) (imm : Fin 524288)
  /-- `SJR` (R106): Jumps to sa plus a word offset, writes the link, and leaves handler mode when sd is s0. -/
  | sjr (sd : SReg) (sa : SReg) (imm : Fin 4096)
  /-- `LRUN` (R107): Enqueues the clause at an immediate offset, waiting for a free queue entry. -/
  | lrun (imm : Fin 524288)
  /-- `LRUNR` (R108): Enqueues the clause at the byte offset held in sa. -/
  | lrunr (sa : SReg)
  /-- `SWAITF` (R110): Waits until the named completion flags are clear. -/
  | swaitf (mask : Fin 4096)
  /-- `MWAIT` (R171): Waits until a 64-bit word meets a comparison, then acquires at the named scope. -/
  | mwait (sd : SReg) (sa : Pair) (sb : Pair) (sc : Scope) (cmp : WaitCmp)
  /-- `SLD` (R159): Loads a 32-bit word into a pending scalar register. -/
  | sld (sd : SReg) (sa : Pair) (imm : Fin 4096)
  /-- `SLD_D` (R159): Loads a 64-bit doubleword into a pending pair. -/
  | sldD (sd : Pair) (sa : Pair) (imm : Fin 4096)
  /-- `SST` (R159): Stores a 32-bit word of a given colour through the store queue. -/
  | sst (sd : SReg) (sa : Pair) (col : Fin 8) (woff : Fin 512)
  /-- `SST_D` (R159): Stores a 64-bit pair of a given colour through the store queue. -/
  | sstD (sd : Pair) (sa : Pair) (col : Fin 8) (woff : Fin 512)
  /-- `SATOM` (R168): Performs a scalar atomic at the point of coherence and returns the old value. -/
  | satom (op : AtomOp) (wide : Bool) (sc : Scope) (ord : Order) (col : Fin 8) (sd : SReg) (sa : Pair) (sb : SReg)
  /-- `SCAS` (R168): Performs a compare-and-swap and returns the old value. -/
  | scas (wide : Bool) (sc : Scope) (ord : Order) (col : Fin 8) (sd : SReg) (sa : Pair) (sb : SReg)
  /-- `SLD_ACQ` (R164): Loads with acquire order at the named scope. -/
  | sldAcq (wide : Bool) (sc : Scope) (sd : SReg) (sa : Pair)
  /-- `SST_REL` (R164): Stores with release order over a colour mask at the named scope. -/
  | sstRel (wide : Bool) (sc : Scope) (mask : Fin 256) (col : Fin 8) (sd : SReg) (sa : Pair)
  /-- `SFENCE` (R165): Orders the gang's accesses as an acquire, release or full fence at a scope and colour mask. -/
  | sfence (sc : Scope) (kind : FenceKind) (mask : Fin 256)
  /-- `FETCHK` (R303): Starts a fetch at the home slice and returns a ticket word. -/
  | fetchk (tr : Bool) (sectors : Fin 16) (life : Level) (sd : Pair) (sa : Pair)
  /-- `KDROP` (R309): Sends a drop of an unclaimed berth directly to its slice. -/
  | kdrop (sa : Pair)
  /-- `KSTAT` (R308): Reads a berth's state into a pending register. -/
  | kstat (sd : SReg) (sa : Pair)
  /-- `SREDEEM` (R306): Redeems a ticket into the crew scratchpad and writes a stamp. -/
  | sredeem (tr : Bool) (sc : Scope) (sd : SReg) (off : SReg) (sa : Pair) (sb : Pair)
  /-- `PCOMMIT` (R286): Sends a frame commit request for a page through the store queue to its control slice. -/
  | pcommit (tr : Bool) (sd : SReg) (sa : Pair)
  /-- `PDECOMMIT` (R286): Sends a decommit request for a page, as a die-scope release, to its control slice. -/
  | pdecommit (sd : SReg) (sa : Pair)
  /-- `PQUERY` (R286): Sends a query of a page or its pool to the control slice. -/
  | pquery (pool : Bool) (sd : Pair) (sa : Pair)
  /-- `PFXWALK` (R325): Issues a walk request to the prefix engine as a device-scope release. -/
  | pfxwalk (sc : Scope) (sd : Pair) (blk : Fin 16) (sb : Pair)
  /-- `PFXINS` (R325): Issues an insert request to the prefix engine. -/
  | pfxins (sc : Scope) (sd : Pair) (blk : Fin 16) (sb : Pair)
  /-- `PFXREL` (R325): Issues a release request to the prefix engine. -/
  | pfxrel (sc : Scope) (sd : Pair) (blk : Fin 16) (sb : Pair)
  /-- `PFXEVICT` (R325): Issues an evict request to the prefix engine. -/
  | pfxevict (sc : Scope) (sd : Pair) (blk : Fin 16) (sb : Pair)
  /-- `SLAUNCH` (R344): Posts a launch descriptor to a slipway queue as a device-scope release. -/
  | slaunch (tr : Bool) (q : Fin 8) (sd : SReg) (sa : Pair)
  /-- `JCOUNT` (R348): Reads a level's counter word and acquires if it is complete. -/
  | jcount (lvl : Level) (sc : Scope) (sd : Pair) (sa : SReg)
  /-- `JCANCEL` (R348): Requests cancellation of a level instance at the harbour master. -/
  | jcancel (lvl : Level) (sd : SReg) (sa : SReg)
  /-- `SRD` (R112): Reads a special register into sd. -/
  | srd (sd : SReg) (num : Fin 1024)
  /-- `SWR` (R112): Writes sa into a writable special register. -/
  | swr (sa : SReg) (num : Fin 1024)
  /-- `SGETF` (R113): Reads the gang's sticky flags into sd. -/
  | sgetf (sd : SReg)
  /-- `SCLRF` (R113): Clears the named sticky flags. -/
  | sclrf (mask : Fin 64)
  /-- `VACQ` (R114): Requests extended register blocks, with a try form that does not wait. -/
  | vacq (tr : Bool) (sd : SReg) (n : Fin 4)
  /-- `VREL` (R115): Releases extended blocks so that the gang holds at most n. -/
  | vrel (n : Fin 4)
  /-- `SBAR` (R172): Arrives at a hardware barrier after a crew-scope release and waits for the generation. -/
  | sbar (id : Fin 16) (sa : SReg)
  /-- `SBARW` (R173): Arrives at a scratchpad barrier object and optionally waits for the generation to change. -/
  | sbarw (arrive : Bool) (sd : SReg) (sa : SReg)
  /-- `STRAP` (R117): Traps the gang precisely with cause 0x11 and a code. -/
  | strap (code : Fin 4096)
  /-- `SBRK` (R117): Traps the gang precisely with cause 0x12 and a code. -/
  | sbrk (code : Fin 4096)
  /-- `SSENDSIG` (R175): Writes an 8-byte payload after a release, then adds to a counter. -/
  | ssendsig (sc : Scope) (mask : Fin 256) (inc : Fin 256) (col : Fin 8) (sd : Pair) (sa : Pair) (sb : Pair)
  /-- `VADD` (R126): Adds integer elements, wrapping or saturating. -/
  | vadd (f : LaneWord)
  /-- `VSUB` (R126): Subtracts integer elements. -/
  | vsub (f : LaneWord)
  /-- `VMUL` (R126): Multiplies integer elements. -/
  | vmul (f : LaneWord)
  /-- `VMULH` (R126): Writes the upper half of the exact integer products. -/
  | vmulh (f : LaneWord)
  /-- `VMAD` (R126): Computes a × b + c per integer element. -/
  | vmad (f : LaneWord)
  /-- `VAND` (R126): Bitwise AND of raw32 registers. -/
  | vand (f : LaneWord)
  /-- `VOR` (R126): Bitwise OR of raw32 registers. -/
  | vor (f : LaneWord)
  /-- `VXOR` (R126): Bitwise XOR of raw32 registers. -/
  | vxor (f : LaneWord)
  /-- `VANDN` (R126): Bitwise AND NOT of raw32 registers. -/
  | vandn (f : LaneWord)
  /-- `VSHL` (R126): Shifts elements left. -/
  | vshl (f : LaneWord)
  /-- `VSHR` (R126): Shifts elements right with zero fill. -/
  | vshr (f : LaneWord)
  /-- `VSRA` (R126): Shifts elements right with sign fill. -/
  | vsra (f : LaneWord)
  /-- `VMIN` (R126): Integer element minimum. -/
  | vmin (f : LaneWord)
  /-- `VMAX` (R126): Integer element maximum. -/
  | vmax (f : LaneWord)
  /-- `VABS` (R126): Absolute value of signed elements. -/
  | vabs (f : LaneWord)
  /-- `VNEG` (R126): Negates integer elements. -/
  | vneg (f : LaneWord)
  /-- `VCLZ` (R126): Counts the leading zero bits of each element. -/
  | vclz (f : LaneWord)
  /-- `VPOPC` (R126): Counts the one bits of each element. -/
  | vpopc (f : LaneWord)
  /-- `VBREV` (R126): Reverses the bits of each element. -/
  | vbrev (f : LaneWord)
  /-- `VBFX` (R129): Extracts a bit field. -/
  | vbfx (f : LaneWord)
  /-- `VBFI` (R129): Inserts a bit field into c. -/
  | vbfi (f : LaneWord)
  /-- `VMOV` (R132): Writes the second source to vd. -/
  | vmov (f : LaneWord)
  /-- `VLI` (R132): Writes ext + lane × step to each lane. -/
  | vli (f : LaneWord)
  /-- `VSEL` (R128): Selects va or b per lane by a predicate. -/
  | vsel (f : LaneWord)
  /-- `VCMP` (R127): Writes a predicate from an integer comparison. -/
  | vcmp (f : LaneWord)
  /-- `VDP4` (R131): Forms a four-element 8-bit dot product added to an s32 accumulator. -/
  | vdp4 (f : LaneWord)
  /-- `VADDC` (R130): Adds with carry-in and carry-out predicates. -/
  | vaddc (f : LaneWord)
  /-- `VFADD` (R133): Adds floating-point elements with one rounding. -/
  | vfadd (f : LaneWord)
  /-- `VFSUB` (R133): Subtracts floating-point elements. -/
  | vfsub (f : LaneWord)
  /-- `VFMUL` (R133): Multiplies floating-point elements. -/
  | vfmul (f : LaneWord)
  /-- `VFMA` (R133): Fused multiply-add with one rounding. -/
  | vfma (f : LaneWord)
  /-- `VFMIN` (R134): Floating-point minimum with NaN rules. -/
  | vfmin (f : LaneWord)
  /-- `VFMAX` (R134): Floating-point maximum with NaN rules. -/
  | vfmax (f : LaneWord)
  /-- `VFRCP` (R135): Correctly rounded reciprocal. -/
  | vfrcp (f : LaneWord)
  /-- `VFSQRT` (R135): Correctly rounded square root. -/
  | vfsqrt (f : LaneWord)
  /-- `VFRSQRT` (R135): Correctly rounded reciprocal square root. -/
  | vfrsqrt (f : LaneWord)
  /-- `VFLOG2` (R135): Correctly rounded base-2 logarithm. -/
  | vflog2 (f : LaneWord)
  /-- `VFEXP2` (R135): Correctly rounded power of two. -/
  | vfexp2 (f : LaneWord)
  /-- `VFCMP` (R136): Writes a predicate from an f32 comparison. -/
  | vfcmp (f : LaneWord)
  /-- `VFCLS` (R136): Writes a predicate from the class of an f32 value. -/
  | vfcls (f : LaneWord)
  /-- `VFRND` (R133): Rounds elements to integral values by the mode. -/
  | vfrnd (f : LaneWord)
  /-- `VFDP2` (R137): Adds a two-element 16-bit dot product into an f32 accumulator. -/
  | vfdp2 (f : LaneWord)
  /-- `VCVT` (R138): Converts elements between formats over register groups. -/
  | vcvt (f : LaneWord)
  /-- `VPACKB` (R139): Packs eight f32 values into a block-scaled FP4 block and its scale. -/
  | vpackb (f : LaneWord)
  /-- `VUNPKB` (R140): Unpacks a block-scaled FP4 block into eight f32 registers. -/
  | vunpkb (f : LaneWord)
  /-- `VTAG` (R141): Copies bits and sets a new format tag. -/
  | vtag (f : LaneWord)
  /-- `VTAGQ` (R141): Writes the tag code of va to each lane. -/
  | vtagq (f : LaneWord)
  /-- `PAND` (R142): ANDs two predicates. -/
  | pand (f : LaneWord)
  /-- `POR` (R142): ORs two predicates. -/
  | por (f : LaneWord)
  /-- `PXOR` (R142): XORs two predicates. -/
  | pxor (f : LaneWord)
  /-- `PNOT` (R142): Inverts a predicate. -/
  | pnot (f : LaneWord)
  /-- `PMOV` (R142): Copies a predicate. -/
  | pmov (f : LaneWord)
  /-- `PSET` (R142): Sets a predicate from an immediate mask. -/
  | pset (f : LaneWord)
  /-- `PGET` (R142): Writes a predicate's lane bits to a scalar register. -/
  | pget (f : LaneWord)
  /-- `PCNT` (R142): Counts true acting lanes of a predicate into a scalar register. -/
  | pcnt (f : LaneWord)
  /-- `VSHFL` (R144): Shuffles a register across lanes. -/
  | vshfl (f : LaneWord)
  /-- `VBCAST` (R145): Broadcasts one lane of va. -/
  | vbcast (f : LaneWord)
  /-- `VRED` (R146): Reduces va over the acting lanes in a fixed tree. -/
  | vred (f : LaneWord)
  /-- `VSCAN` (R147): Writes a running combination in lane order. -/
  | vscan (f : LaneWord)
  /-- `VISECT` (R148): Intersects two sorted key lists across lanes. -/
  | visect (f : LaneWord)
  /-- `VROT` (R145): Rotates a register across lanes. -/
  | vrot (f : LaneWord)
  /-- `VLD` (R161): Loads one to four registers per lane from memory or a window. -/
  | vld (f : LaneWord)
  /-- `VST` (R161): Stores one to four registers per lane to memory or a window. -/
  | vst (f : LaneWord)
  /-- `VLDS` (R161): Loads registers per lane from the crew scratchpad. -/
  | vlds (f : LaneWord)
  /-- `VSTS` (R161): Stores registers per lane to the crew scratchpad. -/
  | vsts (f : LaneWord)
  /-- `VATOM` (R169): Performs per-lane atomics in memory in lane order. -/
  | vatom (f : LaneWord)
  /-- `VATOMS` (R169): Performs per-lane atomics in the crew scratchpad. -/
  | vatoms (f : LaneWord)
  /-- `VPRF` (R174): Prefetches the lines of the acting lanes' addresses. -/
  | vprf (f : LaneWord)
  /-- `VREDEEM` (R305): Redeems a ticket into four of the redeemer's own registers. -/
  | vredeem (f : LaneWord)
  /-- `VREDEEM_REMOTE` (R305): Redeems a ticket into four registers of a gang named by a window address. -/
  | vredeemRemote (f : LaneWord)
  /-- `VCPIDX` (R268): Gathers one row per acting lane by index into scratchpad. -/
  | vcpidx (f : LaneWord)
  /-- `VRNG` (R149): Computes a counter-based hash per lane. -/
  | vrng (f : LaneWord)
  /-- `VLANE` (R150): Writes lane, gang or crew lane numbers. -/
  | vlane (f : LaneWord)
  /-- `VNOP` (R151): Takes one lane issue cycle and changes nothing. -/
  | vnop (f : LaneWord)
  /-- `MXMAC` (R241): Accumulates stream rows against register lines into a tile. -/
  | mxmac (f : LaneWord)
  /-- `MXTOPK` (R242): Scores register lines against stream rows into a winner list with abandonment. -/
  | mxtopk (f : LaneWord)
  /-- `MXV` (R243): Passes streamed weight rows past resident vectors into a tile. -/
  | mxv (f : LaneWord)
  /-- `MXRDY` (R244): Holds later scratchpad-reading matrix instructions until stores and landings settle. -/
  | mxrdy (f : LaneWord)
  /-- `MXLD` (R245): Loads tile rows from scratchpad. -/
  | mxld (f : LaneWord)
  /-- `MXST` (R245): Stores tile rows to scratchpad with conversion and optional band scaling. -/
  | mxst (f : LaneWord)
  /-- `MXCLR` (R245): Clears a tile and sets its tag. -/
  | mxclr (f : LaneWord)
  /-- `MXMOV_TO_TILE` (R245): Moves vector registers into tile rows. -/
  | mxmovToTile (f : LaneWord)
  /-- `MXMOV_TO_VECTOR` (R245): Moves tile rows into vector registers. -/
  | mxmovToVector (f : LaneWord)
  /-- `WLCLR` (R248): Empties a winner list and keeps its settings. -/
  | wlclr (f : LaneWord)
  /-- `WLGET` (R251): Reads winner-list entries into vector registers. -/
  | wlget (f : LaneWord)
  /-- `WLINS` (R249): Offers register-held candidates to winner-list rows. -/
  | wlins (f : LaneWord)
  /-- `WLMRG` (R250): Offers the valid entries of a scratchpad list image to a winner list. -/
  | wlmrg (f : LaneWord)
  /-- `WLTHR` (R251): Reads row thresholds and counts into vector registers. -/
  | wlthr (f : LaneWord)
  /-- `WLST` (R250): Writes a winner-list image to scratchpad. -/
  | wlst (f : LaneWord)
  /-- `WLLD` (R250): Replaces a winner list with a scratchpad image. -/
  | wlld (f : LaneWord)
  /-- `WLCFG` (R248): Empties a winner list and sets its shape, k, score type and index base. -/
  | wlcfg (f : LaneWord)
  /-- `CLAUSE_CHECK` (R47): A clause at the head of the queue is checked whole, trapping if it fails. -/
  | clauseCheck (g : Nat)
  /-- `CLAUSE_START` (R85): A checked clause starts when its wait mask is clear and makes its set-flags busy. -/
  | clauseStart (g : Nat)
  /-- `CLAUSE_RETIRE` (R84): A clause retires once its last instruction has issued and its short results are written. -/
  | clauseRetire (g : Nat)
  /-- `LANE_OP_COMPLETE` (R86): A long-latency lane operation writes its results and its completion flag may clear. -/
  | laneOpComplete (op : Nat)
  /-- `SCALAR_RESULT_RETURN` (R83): A returned value is written into a pending scalar register. -/
  | scalarResultReturn (op : Nat)
  /-- `STORE_QUEUE_ENTRY_LEAVE` (R156): The head store-queue entry leaves the core once its release conditions hold. -/
  | storeQueueEntryLeave (g : Nat)
  /-- `STORE_ACK` (R156): The acknowledgement of a store, atomic or kdrop returns to the issuing gang. -/
  | storeAck (op : Nat)
  /-- `SLICE_ACCESS` (R176): A request is admitted, translated and performed at its home slice. -/
  | sliceAccess (op : Nat) (el : Nat) (ch : Choice)
  /-- `WINDOW_ACCESS` (R14): A window access is checked and performed at the named core. -/
  | windowAccess (op : Nat) (el : Nat)
  /-- `HOST_ACCESS_COMPLETION` (R367): A PCI Express completion of a home-16 access returns, trapping on refusal. -/
  | hostAccessCompletion (op : Nat) (el : Nat) (refused : Bool)
  /-- `MWAIT_RECHECK` (R171): A write to a waited word makes the mwait read and compare again. -/
  | mwaitRecheck (g : Nat)
  /-- `DEFERRED_TRAP_TAKE` (R192): A deferred trap report is taken at the gang's next issue boundary. -/
  | deferredTrapTake (g : Nat)
  /-- `CREW_STOP` (R193): A crew stops, drains, frees its resources and posts a stop record. -/
  | crewStop (c : Nat)
  /-- `FAULT_RING_POST` (R199): Fault or stop records are written to the fault ring once room allows, then its stamp. -/
  | faultRingPost (asid : Nat)
  /-- `FAULT_REPORT` (R197): A fault reaches the gang, which takes an operand-log entry and marks destinations faulted. -/
  | faultReport (op : Nat)
  /-- `CREW_SWITCH_OUT` (R202): A crew whose gangs are all parked or waiting is saved and its resources freed. -/
  | crewSwitchOut (c : Nat)
  /-- `CREW_RESTORE` (R203): A switched-out crew whose count reached zero is restored and replays its log. -/
  | crewRestore (c : Nat)
  /-- `REPLAY_IN_PLACE` (R204): A resident crew whose count reached zero replays its log entries in place. -/
  | replayInPlace (c : Nat)
  /-- `GRACE_TIMER_EXPIRE` (R206): The grace timer expires and each remaining crew on the die is halted and saved. -/
  | graceTimerExpire (asid : Nat) (die : Nat)
  /-- `KILL_TIMER_EXPIRE` (R206): The kill timer expires and unsaved crews are stopped and the context reset. -/
  | killTimerExpire (asid : Nat) (die : Nat)
  /-- `PAGE_COMMIT` (R287): The control slice commits a pooled frame to a sparse-reserved page. -/
  | pageCommit (op : Nat)
  /-- `PAGE_DECOMMIT` (R289): The control slice returns a pooled page to sparse-reserved and releases its frame. -/
  | pageDecommit (op : Nat)
  /-- `PAGE_QUERY` (R288): The control slice reads a page's state or its pool counts. -/
  | pageQuery (op : Nat)
  /-- `COPY_ON_WRITE` (R293): The control slice copies or privatises a shared-COW page and performs its parked writes. -/
  | copyOnWrite (page : Nat)
  /-- `FRAME_SCRUB_DONE` (R284): A scrubbed frame is linked free in its pool. -/
  | frameScrubDone (asid : Nat) (die : Nat)
  /-- `BERTH_ACCEPT` (R301): A fetch takes a free berth when quota allows and returns its ticket. -/
  | berthAccept (op : Nat)
  /-- `FETCH_LAND` (R300): A fetch lands in moored lines or is delivered to a waiting claim. -/
  | fetchLand (b : Nat)
  /-- `FETCH_FAULT` (R314): A fetch faults and its berth becomes FAULTED or frees. -/
  | fetchFault (b : Nat)
  /-- `REDEEM_AT_SLICE` (R304): A redeem is checked at the named slice and claims the berth. -/
  | redeemAtSlice (op : Nat)
  /-- `REDEEM_DELIVERY` (R305): Ticket data are delivered into registers or scratchpad. -/
  | redeemDelivery (op : Nat)
  /-- `BERTH_DROP` (R309): A kdrop frees an unclaimed berth at its slice and is acknowledged. -/
  | berthDrop (op : Nat)
  /-- `BERTH_STATUS` (R308): The slice answers a kstat with the berth's state. -/
  | berthStatus (op : Nat)
  /-- `LEVEL_RECLAIM` (R310): A slice frees unclaimed berths of a completed level and counts orphans. -/
  | levelReclaim (asid : Nat) (lvl : Nat) (id : Nat)
  /-- `ENTRY_READ` (R257): The crane reads posted ring entries while in-flight places are free. -/
  | entryRead (c : Nat)
  /-- `COPY` (R263): Crane command that moves layout-record elements between memory and scratchpad. -/
  | copy (c : Nat) (pos : Nat) (n : Nat)
  /-- `INDEX_LIST_COPY` (R263): Crane command that gathers rows by an index list. -/
  | indexListCopy (c : Nat) (pos : Nat) (n : Nat)
  /-- `FILL` (R264): Crane command that writes a pattern into each element. -/
  | fill (c : Nat) (pos : Nat) (n : Nat)
  /-- `PUTSIG` (R259): Crane command that copies out and then adds to a counter. -/
  | putsig (c : Nat) (pos : Nat) (n : Nat)
  /-- `STREAM_TO_HEARTH` (R259): Crane command that moves bytes into a hearth's stream FIFO. -/
  | streamToHearth (c : Nat) (pos : Nat)
  /-- `STAMP` (R260): Crane command that writes its sequence number after all earlier commands complete. -/
  | stamp (c : Nat) (pos : Nat)
  /-- `COMMAND_COMPLETE` (R260): A crane command completes, makes its landing and writes its stamp. -/
  | commandComplete (c : Nat) (pos : Nat)
  /-- `HELD_ELEMENT_PERFORM` (R269): After a commit the crane performs elements held by a fault. -/
  | heldElementPerform (c : Nat) (pos : Nat)
  /-- `HEARTH_START` (R221): An instruction at the head of the hearth queue starts when its operands are ready. -/
  | hearthStart (q : Nat)
  /-- `VACQ_GRANT` (R114): A queued block request at the head is granted when enough blocks are free. -/
  | vacqGrant (q : Nat)
  /-- `BLOCK_RETURN` (R115): Released extended blocks return to the pool once R80 holds. -/
  | blockReturn (g : Nat)
  /-- `GANG_SLOT_FREE` (R119): An exited gang's slot is freed once its store queue is empty. -/
  | gangSlotFree (g : Nat)
  /-- `CREW_END` (R119): A crew ends once its slots are free and its crane has settled. -/
  | crewEnd (c : Nat)
  /-- `PREFIX_WALK` (R331): The prefix engine maps matched frames into a window as shared-COW. -/
  | prefixWalk (die : Nat)
  /-- `PREFIX_INSERT` (R332): The prefix engine inserts a sequence's pages as tree nodes. -/
  | prefixInsert (die : Nat)
  /-- `PREFIX_RELEASE` (R333): The prefix engine returns window pages to sparse-reserved. -/
  | prefixRelease (die : Nat)
  /-- `PREFIX_EVICT` (R334): The prefix engine removes least recently used leaves. -/
  | prefixEvict (die : Nat)
  /-- `SLIPWAY_POST` (R344): The harbour master checks a descriptor and appends it to a slipway queue when room exists. -/
  | slipwayPost (op : Nat)
  /-- `LAUNCH_ELIGIBLE` (R345): A launch becomes eligible and its crew count is fixed. -/
  | launchEligible (q : Nat)
  /-- `CREW_PLACE` (R350): A crew is placed on an admitting core of its window. -/
  | crewPlace (part : Nat)
  /-- `LEVEL_COMPLETE` (R346): A level completes, its counter is set and its stamp is written. -/
  | levelComplete (asid : Nat) (lvl : Nat) (id : Nat)
  /-- `LEVEL_CANCEL` (R348): The harbour master cancels a level instance and stops its crews. -/
  | levelCancel (op : Nat)
  /-- `SQEMIT` (R362): The host doorbell write makes the device read new submissions. -/
  | sqemit (fn : Nat) (q : Nat) (v : Dword)
  /-- `SUBMISSION_CONSUME` (R362): A host submission is checked and appended to its slipway queue when room exists. -/
  | submissionConsume (fn : Nat) (q : Nat)
  /-- `COMPLETION_ENTRY_WRITE` (R363): A completion entry is written when the ring has room. -/
  | completionEntryWrite (fn : Nat) (q : Nat)
  /-- `CQSEEN` (R363): The host's consumed count frees room for completion entries. -/
  | cqseen (fn : Nat) (q : Nat) (v : Dword)
  /-- `CAUSESEEN` (R366): Advancing the consumed cause count clears the overflow and writes catch-up entries. -/
  | causeseen (v : Dword)
  /-- `QCFG` (R362): Enabling or disabling a queue pair resets or stops it. -/
  | qcfg (fn : Nat) (q : Nat) (v : Word)
  /-- `CONTEXT_RECORD` (R340): Writing a context record is checked and takes effect at the next use. -/
  | contextRecord (asid : Nat) (rec : BitVec 512)
  /-- `CORESPLIT` (R360): Sets a core's scratchpad split, pending until the core holds no crew. -/
  | coresplit (core : Nat) (v : Word)
  /-- `QUADMAP` (R360): Sets quadrant ownership, pending until the quadrants hold no crew. -/
  | quadmap (core : Nat) (v : Word)
  /-- `SPLIT_APPLY` (R360): A pending split or map takes effect when the last crew concerned leaves. -/
  | splitApply (core : Nat)
  /-- `ROUTE` (R370): Writes the Apfiz port set for a peer, effective per slice after its requests settle. -/
  | route (peer : Nat) (v : Dword)
  /-- `START_LADDER` (R353): ctxctl operation 1 starts the pre-emption ladder for a context. -/
  | startLadder (asid : Nat)
  /-- `RESUME` (R353): ctxctl operation 2 resumes a context and restores its halted crews. -/
  | resume (asid : Nat)
  /-- `KILL` (R353): ctxctl operation 3 kills a context. -/
  | kill (asid : Nat)
  /-- `COPY_IN` (R361): Management command 4 copies host memory into device memory, unless the host refuses the read. -/
  | copyIn (refused : Bool)
  /-- `FIRMWARE_CHECK` (R372): A read firmware image is checked and written to flash or refused; the host may refuse the
  read. -/
  | firmwareCheck (refused : Bool)
  /-- `BAR2_READ` (R364): A host read through the aperture is translated and served. -/
  | bar2Read (fn : Nat) (off : Nat) (len : Nat)
  /-- `BAR2_WRITE` (R364): A host write through the aperture is translated and performed or discarded. -/
  | bar2Write (fn : Nat) (off : Nat) (data : List Byte)
  /-- `REGISTER_WRITE` (R359): A write to a BAR0 register without behaviour of its own. -/
  | registerWrite (fn : Nat) (off : Nat) (v : Dword)
  /-- `MGCMD_RESERVED` (R361): A reserved management code finishes with result 1. -/
  | mgcmdReserved (code : Nat)
  /-- `FWGO` (R372): Writing 1 starts a firmware image load. -/
  | fwgo (v : Word)
  /-- `PORT_STATE_CHANGE` (R368): An Apfiz port changes state and its traffic moves. -/
  | portStateChange (port : Nat) (st : PortState)
  /-- `THERMAL_LIMIT` (R375): A thermal or power limit lowers a die's clock. -/
  | thermalLimit (die : Nat) (mhz : Nat)
  /-- `MEMORY_ERROR` (R365): An uncorrectable memory error writes a cause entry. -/
  | memoryError (stack : Nat)
  /-- `GET_CERTIFICATE` (R372): SPDM request returning the slot-0 chain. -/
  | getCertificate (slot : Nat)
  /-- `CHALLENGE` (R372): SPDM challenge signed with the device identity key. -/
  | challenge (slot : Nat) (nonce : BitVec 256)
  /-- `GET_MEASUREMENTS` (R372): SPDM request returning the four measurements. -/
  | getMeasurements (index : Nat)
  /-- `FUNCTION_LEVEL_RESET` (R362): A PCI Express function-level reset of a function clears the sequence registers of its queue pairs. -/
  | functionLevelReset (fn : Nat)
  /-- `MWAIT_POLL_TIMEOUT` (R171): A home-16 mwait reads again after 4,096 cycles. -/
  | mwaitPollTimeout (g : Nat)
  /-- `LSYNC` (R109): Waits until every clause enqueued earlier has retired. -/
  | lsync
  /-- `SYIELD` (R118): Marks the gang as the most recently issued on both ports. -/
  | syield
  /-- `SEXIT` (R119): Ends the gang after its clauses retire and its flags clear. -/
  | sexit
  /-- `SET_ROOT` (R361): Management command 1 sets or removes a page-table root. -/
  | setRoot
  /-- `WRITE_PHYSICAL` (R361): Management command 2 writes 8 bytes of device memory. -/
  | writePhysical
  /-- `READ_PHYSICAL` (R361): Management command 3 returns 8 bytes of device memory. -/
  | readPhysical
  /-- `SHOOTDOWN` (R282): Management command 5 shoots down a page and notifies registered crews. -/
  | shootdown
  /-- `POOL_PUSH` (R361): Management command 6 gives a host-held frame to a pool. -/
  | poolPush
  /-- `POOL_TAKE` (R361): Management command 7 takes a free frame from a pool. -/
  | poolTake
  /-- `FRAME_REFERENCE` (R361): Management command 8 adds a delta to a frame's count. -/
  | frameReference
  /-- `RECORD_APPEND` (R373): A launch's record is appended to the record ring when it fits. -/
  | recordAppend
  /-- `DEVICE_RESET` (R375): Reset runs the bring-up steps, entering recovery mode on a firmware failure. -/
  | deviceReset
  /-- `POWER_WAKE` (R375): Retraining the PCI Express link wakes a powered-down device. -/
  | powerWake
  /-- `GET_VERSION` (R372): SPDM request answered with the supported version. -/
  | getVersion
  /-- `GET_CAPABILITIES` (R372): SPDM request answered with capabilities. -/
  | getCapabilities
  /-- `NEGOTIATE_ALGORITHMS` (R372): SPDM request settling SM2 and SM3. -/
  | negotiateAlgorithms
  /-- `GET_DIGESTS` (R372): SPDM request returning certificate digests. -/
  | getDigests
  /-- `POWER_DOWN` (R375): The device is powered down and loses all its state. -/
  | powerDown
  deriving DecidableEq, Repr

end Sys2Proof
end

