-- ==== Sys2Proof/WellFormed.lean ====
section
/-! DEFINITION. Well-formedness: what an instruction must meet beyond the shape of its fields (spec 02 R28 to R45,
06 R123, 07 R160 to R169, 11 R233, 13 R268, 16 R305). A word that breaks one of these is an illegal instruction. -/

namespace Sys2Proof

/-- Bits [hi:lo] of the ext field. -/
def LaneWord.x (f : LaneWord) (hi lo : Nat) : Nat := f.ext.toNat / 2 ^ lo % 2 ^ (hi + 1 - lo)

/-- `opx[34]`. -/
def LaneWord.opx34 (f : LaneWord) : Bool := decide (4 ≤ f.opx.val)
/-- `opx[33:32]`, the flag attachment of a long-latency operation (R40). -/
def LaneWord.attach (f : LaneWord) : Nat := f.opx.val % 4

/-- R36, R37: a field that the instruction does not use must be zero; with guard enable 0, negate and pn are
reserved. `vd va vc pd` say which fields are used; `bs` lists the accepted b-sources, and `vb` says that b-source 00
names a register (R38). -/
structure LaneRow where
  typs : List Nat
  vd   : Bool
  va   : Bool
  vc   : Bool
  pd   : Bool
  bs   : List Nat
  vb   : Bool
  mode : List Nat
  opx  : List Nat

/-- The part of item 4 of Table 2-18 that every row shares. -/
def LaneRow.ok (r : LaneRow) (f : LaneWord) : Bool :=
  (f.ge || (!f.gn && f.pn.val == 0)) && r.typs.contains f.typ.val
  && (r.vd || f.vd.val == 0) && (r.va || f.va.val == 0) && (r.vc || f.vc.val == 0) && (r.pd || f.pd.val == 0)
  && r.bs.contains f.bsrc.val
  && (match f.bsrc.val with
      | 0 => r.vb || f.vb.val == 0
      | 1 => decide (f.vb.val < 128)
      | _ => f.vb.val == 0)
  && r.mode.contains f.mode.val && r.opx.contains f.opx.val

/-- The type sets of 06: I, S and F of Tables 6-1 and 6-2. -/
def typI : List Nat := [1, 2, 9, 10, 11, 12]
def typS : List Nat := [1, 9, 11]
def typF : List Nat := [3, 4, 5]
def typAll : List Nat := List.range 14

/-- A row over vd, va and b. -/
def rowB (typs mode : List Nat) : LaneRow := ⟨typs, true, true, false, false, [0, 1, 2], true, mode, [0]⟩
/-- A row over vd and va. -/
def rowU (typs mode : List Nat) : LaneRow := ⟨typs, true, true, false, false, [0], false, mode, [0]⟩
/-- A row over vd, va, b and vc. -/
def rowC (typs mode : List Nat) : LaneRow := ⟨typs, true, true, true, false, [0, 1, 2], true, mode, [0]⟩
/-- A row of predicates (R142). -/
def rowP (vd va pd vb : Bool) : LaneRow := ⟨[0], vd, va, false, pd, [0], vb, [0], [0]⟩

/-- ext is free as the immediate only under b-source 10 (R38). -/
def extImm (f : LaneWord) : Bool := f.bsrc.val == 2 || f.ext.toNat == 0

/-- The register counts of a conversion (R138): sources and destinations. -/
def cvtRegs (dst src : Ty) : Nat × Nat :=
  (if src.elems < dst.elems then dst.elems / src.elems else 1,
   if dst.elems < src.elems then src.elems / dst.elems else 1)

/-- Table 7-2: the address fields of a lane memory instruction; `pair`: b-source 00 names an address pair and
b-source 01 an even pair. -/
def memAddrOk (pair : Bool) (f : LaneWord) : Bool :=
  f.x 31 24 == 0
  && (!pair || (if f.bsrc.val == 0 then decide (f.va.val < 255) else f.vb.val % 2 == 0))

/-- Table 7-2: the register count of a load or store, from its count code. -/
def LaneWord.count (f : LaneWord) : Nat := 2 ^ (f.x 3 0)

def memCountOk (load : Bool) (f : LaneWord) : Bool :=
  decide (f.x 3 0 ≤ 2) && f.x 4 4 == 0 && (!load || f.x 7 5 == 0)
  && decide ((if load then f.vd.val else f.vc.val) + f.count ≤ 256)

/-- R166, R169: the atomic fields of a lane word. -/
def laneAtomOk (f : LaneWord) : Bool :=
  decide (f.x 3 0 ≤ 10) && !(f.x 3 0 == 9 && f.x 4 4 == 1) && !(f.x 3 0 == 10 && f.x 4 4 == 0)
  && (f.x 4 4 == 0 || decide (f.vc.val < 255))
  && (if f.opx34 then f.x 4 4 == 0 || decide (f.vd.val < 255) else f.vd.val == 0 && f.opx.val == 0)

/-- Table 11-4: elements per word of an operand type. -/
def hElems (typ : Nat) : Nat := if typ = 4 ∨ typ = 5 then 2 else if typ = 8 then 8 else 4
/-- Table 11-2: the K-step in elements and the number S of steps. -/
def LaneWord.kstep (f : LaneWord) : Nat := 8 * 2 ^ (f.x 31 30)
def LaneWord.steps (f : LaneWord) : Nat := f.x 29 24 + 1
/-- R236: words per line. -/
def LaneWord.lineWords (f : LaneWord) : Nat := f.steps * f.kstep / hElems f.typ.val
/-- Table 11-2: the deferred tag, where `.defer` is given. -/
def LaneWord.deferTag (f : LaneWord) : Option Nat := if f.x 13 13 = 1 then some (f.x 12 11) else none

/-- R233: tag is reserved when defer is 0; mode[35] only with integer types; an aligned operand block. -/
def matOk (f : LaneWord) : Bool :=
  f.x 10 0 == 0 && (f.x 13 13 == 1 || f.x 12 11 == 0)
  && (f.mode.val == 0 || f.typ.val == 9 || f.typ.val == 10)

/-- Table 10-2: row count and row length of a shape. -/
def shapeRows (sh : Nat) : Nat := 64 / 2 ^ sh
def shapeLen (sh : Nat) : Nat := 8 * 2 ^ sh

/-- Table 6-6: the types of an operation of `vred` and `vscan`. -/
def redTypes (op : Nat) : List Nat :=
  if op = 0 ∨ op = 5 ∨ op = 6 ∨ op = 7 then [1, 2]
  else if op = 1 ∨ op = 2 then [1]
  else if op = 3 ∨ op = 4 then [2]
  else if op ≤ 11 then [3] else []

/-- Item 4 of Table 2-18 for a lane word with op `op`, by the row of its instruction. -/
def laneLegal (op : Nat) (f : LaneWord) : Bool :=
  match op with
  | 0x00 | 0x01 | 0x02 => (rowB typI [0, 1]).ok f && extImm f
  | 0x03 => (rowB [1, 2, 11, 12] [0]).ok f && extImm f
  | 0x04 => (rowC typI [0, 1]).ok f && extImm f
  | 0x05 | 0x06 | 0x07 | 0x08 => (rowB [0] [0]).ok f && extImm f
  | 0x09 | 0x0A | 0x0B => (rowB (0 :: typI) [0]).ok f && extImm f
  | 0x0C | 0x0D => (rowB typI [0]).ok f && extImm f
  | 0x0E => (rowU typS [0, 1]).ok f && extImm f
  | 0x0F => (rowU typI [0, 1]).ok f && extImm f
  | 0x10 | 0x11 | 0x12 => (rowU (0 :: typI) [0]).ok f && extImm f
  | 0x13 => (rowB [1, 2] [0]).ok f && extImm f
  | 0x14 => (rowC [0, 1, 2] [0]).ok f && extImm f
  | 0x15 => (LaneRow.mk typAll true false false false [0, 1, 2] true [0] [0]).ok f && extImm f
  | 0x16 => (LaneRow.mk [0, 1, 2] true false true false [2] false [0] [0]).ok f
  | 0x17 => (LaneRow.mk typAll true true false true [0, 1, 2] true [0] [0]).ok f && extImm f
  | 0x18 => (LaneRow.mk [1, 2] false true false true [0, 1, 2] true [0] [0, 1, 2, 3, 4, 5]).ok f && extImm f
  | 0x19 => (rowC [9, 10] [0, 1]).ok f && extImm f
  | 0x1A => (LaneRow.mk [2] true true true true [0, 1, 2] true [0] [0]).ok f && extImm f && decide (f.vc.val < 16)
  | 0x20 | 0x21 | 0x22 => (rowB typF (List.range 8)).ok f && extImm f
  | 0x23 => (rowC typF (List.range 8)).ok f && extImm f
  | 0x24 | 0x25 => (rowB typF [0]).ok f && extImm f
  | 0x26 | 0x27 | 0x28 | 0x29 | 0x2A | 0x2D => (rowU typF (List.range 8)).ok f && extImm f
  | 0x2B => (LaneRow.mk [3] false true false true [0, 1, 2] true [0] (List.range 8)).ok f && extImm f
  | 0x2C => (LaneRow.mk [3] false true false true [0] false [0] [0]).ok f && f.x 31 10 == 0
  | 0x2E => (rowC [4, 5] [0, 1]).ok f && extImm f
  | 0x40 =>
    (LaneRow.mk ((List.range 14).drop 1) true true false false [0] false (List.range 8) [0, 4]).ok f
    && f.x 31 6 == 0 && (f.opx.val == 0 || decide (f.mode.val < 2))
    && (match Ty.ofCode f.typ.val, Ty.ofCode (f.x 5 0) with
        | some d, some s => s != .raw32 && decide (f.va.val + (cvtRegs d s).1 ≤ 256)
            && decide (f.vd.val + (cvtRegs d s).2 ≤ 256)
        | _, _ => false)
  | 0x41 => (LaneRow.mk [8] true true true false [0] false [0, 2, 4, 6] [0]).ok f && f.x 31 2 == 0
      && decide (f.va.val ≤ 248)
  | 0x42 => (LaneRow.mk [8] true true true false [0] false [0] [0]).ok f && f.x 31 2 == 0 && decide (f.vd.val ≤ 248)
  | 0x43 => (rowU typAll [0]).ok f && extImm f
  | 0x44 => (rowU [0] [0]).ok f && extImm f
  | 0x50 | 0x51 | 0x52 => (rowP false true true true).ok f && extImm f && decide (f.va.val < 16) && decide (f.vb.val < 16)
  | 0x53 | 0x54 => (rowP false true true false).ok f && extImm f && decide (f.va.val < 16)
  | 0x55 => (rowP false false true false).ok f
  | 0x56 | 0x57 => (rowP true true false false).ok f && extImm f && decide (f.va.val < 16) && decide (f.vd.val < 128)
  | 0x60 => (LaneRow.mk [0] true true false false [0, 1, 2] true [0] [0, 1, 2, 3]).ok f && extImm f
  | 0x61 | 0x65 => (LaneRow.mk [0] true true false false [1, 2] false [0] [0]).ok f && extImm f
  | 0x62 =>
    (LaneRow.mk (redTypes (f.x 3 0)) true true (f.x 3 0 == 11) false [0] false
      (if f.x 3 0 = 8 then [0, 2, 4, 6] else [0]) (if f.x 3 0 = 11 then [4] else [0, 4])).ok f
    && f.x 31 4 == 0 && (!f.opx34 || (decide (f.vd.val < 128) && (f.x 3 0 != 11 || f.vd.val % 2 == 0)))
  | 0x63 =>
    (LaneRow.mk (redTypes (f.x 3 0)) true true false false [0] false
      (if f.x 3 0 = 8 then [0, 2, 4, 6] else [0]) [0, 4]).ok f
    && f.x 31 4 == 0 && f.x 3 0 != 11
  | 0x64 => (LaneRow.mk [2] true true false true [0] true [0] [0]).ok f && !f.ge && f.x 31 7 == 0 && f.x 6 0 % 2 == 0
  | 0x70 => (LaneRow.mk typAll true true false false [0, 1] false (List.range 6) [0, 1, 2]).ok f
      && memAddrOk true f && memCountOk true f
  | 0x71 => (LaneRow.mk typAll false true true false [0, 1] false (List.range 6) [0]).ok f
      && memAddrOk true f && memCountOk false f
  | 0x72 => (LaneRow.mk typAll true true false false [0, 1] false [0, 1] [0, 1, 2]).ok f
      && memAddrOk false f && memCountOk true f
  | 0x73 => (LaneRow.mk typAll false true true false [0, 1] false [0, 1] [0]).ok f
      && memAddrOk false f && memCountOk false f
  | 0x74 => (LaneRow.mk [0] true true true false [0, 1] false (List.range 6) [0, 4, 5, 6]).ok f
      && memAddrOk true f && laneAtomOk f
  | 0x75 => (LaneRow.mk [0] true true true false [0, 1] false [0, 1] [0, 4, 5, 6]).ok f
      && memAddrOk false f && laneAtomOk f
  | 0x76 =>
    (LaneRow.mk typAll (f.x 7 7 == 0) false f.opx34 false [1] false [0] [0, 1, 2, 4, 5, 6]).ok f
    && !f.ge && f.x 31 8 == 0 && f.vb.val % 2 == 0
    && (if f.x 7 7 = 0 then f.x 6 0 == 0 && decide (f.vd.val ≤ 252) else f.x 6 0 % 2 == 0)
  | 0x77 => (LaneRow.mk [0] false true false false [1] false (List.range 6) [0, 1, 2, 4, 5, 6]).ok f
      && f.x 31 13 == 0 && f.vb.val % 2 == 0 && decide (f.vb.val ≤ 122) && (f.x 12 12 == 1 || f.x 11 10 == 0)
  | 0x78 => (LaneRow.mk [0] false true false false [0, 1] false [0] [0, 4]).ok f && memAddrOk true f && f.x 7 0 == 0
  | 0x90 => (rowB [2] [0]).ok f && extImm f
  | 0x91 => (LaneRow.mk [2] true false false false [0] false [0] [0, 1, 2]).ok f && extImm f
  | 0x92 => (LaneRow.mk [0] false false false false [0] false [0] [0]).ok f && extImm f
  | 0xA0 =>
    (LaneRow.mk [4, 5, 6, 7, 8, 9, 10] false true false false [1] false [0, 1] [0, 1, 2, 4, 5, 6]).ok f
    && matOk f && f.x 20 14 == 0 && f.vb.val % 8 == 0
    && decide (f.va.val + (if f.opx34 then 1 else 2) * f.lineWords ≤ 256)
  | 0xA1 =>
    (LaneRow.mk [4, 5, 6, 7, 8, 9, 10] false true false false [1] false [0, 1] [0, 1, 2, 4, 5, 6]).ok f
    && matOk f && f.x 22 21 == 0 && f.x 20 14 % 2 == 0 && f.vb.val % 8 == 0
    && decide (f.va.val + (if f.opx34 then 1 else 2) * f.lineWords ≤ 256)
  | 0xA2 =>
    (LaneRow.mk [4, 5, 6, 7, 9, 10] false true false false [1] false [0, 1] [0, 1, 2]).ok f
    && matOk f && f.x 17 14 == 0 && decide (f.va.val + f.lineWords ≤ 256)
  | 0xA3 => (LaneRow.mk [0] false false false false [0, 1] false [0] [0, 1, 2]).ok f && f.ext.toNat == 0
      && f.vb.val % 2 == 0
  | 0xA4 => (LaneRow.mk [1, 3] false false false false [1] false [0] [0, 1, 2]).ok f && f.x 31 24 == 0 && f.x 20 0 == 0
      && f.vb.val % 8 == 0
  | 0xA5 =>
    (LaneRow.mk [1, 3, 4, 5, 6, 7, 9, 11] false false false false [1] false (List.range 8) [0, 1, 2, 4, 5, 6]).ok f
    && f.x 31 24 == 0 && f.x 20 0 == 0 && f.vb.val % 8 == 0
  | 0xA6 => (LaneRow.mk [1, 3] false false false false [0] false [0] [0, 1, 2]).ok f && f.x 31 24 == 0 && f.x 20 0 == 0
  | 0xA7 =>
    (LaneRow.mk [1, 3] f.opx34 (!f.opx34) false false [0] false [0] [0, 1, 2, 4, 5, 6]).ok f
    && f.x 31 24 == 0 && f.x 8 0 == 0 && decide (f.x 20 15 + (f.x 14 9 + 1) ≤ 64)
    && decide ((if f.opx34 then f.vd.val else f.va.val) + 2 * (f.x 14 9 + 1) ≤ 256)
  | 0xC0 => (LaneRow.mk [0] false false false false [0] false [0] [0, 1, 2]).ok f && f.x 31 24 == 0 && f.x 22 0 == 0
  | 0xC1 => (LaneRow.mk [0] true false false false [0] false [0] [0, 1, 2]).ok f && f.x 31 24 == 0 && f.x 14 0 == 0
      && decide (f.vd.val + 3 ≤ 256)
  | 0xC2 => (LaneRow.mk [1, 3] false true true false [0] true [0] [0, 1, 2]).ok f && f.x 31 24 == 0 && f.x 22 0 == 0
  | 0xC3 | 0xC5 | 0xC6 => (LaneRow.mk [0] false false false false [1] false [0] [0, 1, 2]).ok f && f.x 31 24 == 0
      && f.x 22 0 == 0
  | 0xC4 => (LaneRow.mk [0] true false false false [0] false [0] [0, 1, 2]).ok f && f.x 31 24 == 0 && f.x 22 16 == 0
      && f.x 14 0 == 0 && decide (f.vd.val + 2 ≤ 256)
  | 0xC7 => (LaneRow.mk [1, 3] false false false false [1] false [0] [0, 1, 2]).ok f && f.x 31 24 == 0 && f.x 14 0 == 0
      && decide (f.x 20 15 + 1 ≤ shapeLen (f.x 22 21))
  | _ => false

/-- Table 5-5 and Table 9-2: the width in bits of a special register, none where the number is not listed. Number 0x035 lies in
the row 0x030 to 0x03F of Table 5-5, and Table 9-2 does not list it: DESIGN CHOICE: it is no register (log 36). -/
def sregWidth (n : Nat) : Option Nat :=
  if n ≤ 0x00C then some 32
  else if n = 0x010 ∨ n = 0x012 ∨ n = 0x028 ∨ n = 0x034 then some 64
  else if n = 0x014 ∨ n = 0x015 ∨ n = 0x016 ∨ n = 0x020 ∨ n = 0x021 then some 32
  else if 0x030 ≤ n ∧ n ≤ 0x03F ∧ n ≠ 0x035 then some 32
  else none

/-- Table 5-5: the registers marked RW. -/
def sregWritable (n : Nat) : Bool := n == 0x00B

/-- The op and fields of a lane instruction. -/
def Instr.laneParts : Instr → Option (Nat × LaneWord)
  | .vadd f => some (0x00, f)
  | .vsub f => some (0x01, f)
  | .vmul f => some (0x02, f)
  | .vmulh f => some (0x03, f)
  | .vmad f => some (0x04, f)
  | .vand f => some (0x05, f)
  | .vor f => some (0x06, f)
  | .vxor f => some (0x07, f)
  | .vandn f => some (0x08, f)
  | .vshl f => some (0x09, f)
  | .vshr f => some (0x0A, f)
  | .vsra f => some (0x0B, f)
  | .vmin f => some (0x0C, f)
  | .vmax f => some (0x0D, f)
  | .vabs f => some (0x0E, f)
  | .vneg f => some (0x0F, f)
  | .vclz f => some (0x10, f)
  | .vpopc f => some (0x11, f)
  | .vbrev f => some (0x12, f)
  | .vbfx f => some (0x13, f)
  | .vbfi f => some (0x14, f)
  | .vmov f => some (0x15, f)
  | .vli f => some (0x16, f)
  | .vsel f => some (0x17, f)
  | .vcmp f => some (0x18, f)
  | .vdp4 f => some (0x19, f)
  | .vaddc f => some (0x1A, f)
  | .vfadd f => some (0x20, f)
  | .vfsub f => some (0x21, f)
  | .vfmul f => some (0x22, f)
  | .vfma f => some (0x23, f)
  | .vfmin f => some (0x24, f)
  | .vfmax f => some (0x25, f)
  | .vfrcp f => some (0x26, f)
  | .vfsqrt f => some (0x27, f)
  | .vfrsqrt f => some (0x28, f)
  | .vflog2 f => some (0x29, f)
  | .vfexp2 f => some (0x2A, f)
  | .vfcmp f => some (0x2B, f)
  | .vfcls f => some (0x2C, f)
  | .vfrnd f => some (0x2D, f)
  | .vfdp2 f => some (0x2E, f)
  | .vcvt f => some (0x40, f)
  | .vpackb f => some (0x41, f)
  | .vunpkb f => some (0x42, f)
  | .vtag f => some (0x43, f)
  | .vtagq f => some (0x44, f)
  | .pand f => some (0x50, f)
  | .por f => some (0x51, f)
  | .pxor f => some (0x52, f)
  | .pnot f => some (0x53, f)
  | .pmov f => some (0x54, f)
  | .pset f => some (0x55, f)
  | .pget f => some (0x56, f)
  | .pcnt f => some (0x57, f)
  | .vshfl f => some (0x60, f)
  | .vbcast f => some (0x61, f)
  | .vred f => some (0x62, f)
  | .vscan f => some (0x63, f)
  | .visect f => some (0x64, f)
  | .vrot f => some (0x65, f)
  | .vld f => some (0x70, f)
  | .vst f => some (0x71, f)
  | .vlds f => some (0x72, f)
  | .vsts f => some (0x73, f)
  | .vatom f => some (0x74, f)
  | .vatoms f => some (0x75, f)
  | .vprf f => some (0x78, f)
  | .vredeem f => some (0x76, f)
  | .vredeemRemote f => some (0x76, f)
  | .vcpidx f => some (0x77, f)
  | .vrng f => some (0x90, f)
  | .vlane f => some (0x91, f)
  | .vnop f => some (0x92, f)
  | .mxmac f => some (0xA0, f)
  | .mxtopk f => some (0xA1, f)
  | .mxv f => some (0xA2, f)
  | .mxrdy f => some (0xA3, f)
  | .mxld f => some (0xA4, f)
  | .mxst f => some (0xA5, f)
  | .mxclr f => some (0xA6, f)
  | .mxmovToTile f => some (0xA7, f)
  | .mxmovToVector f => some (0xA7, f)
  | .wlclr f => some (0xC0, f)
  | .wlget f => some (0xC1, f)
  | .wlins f => some (0xC2, f)
  | .wlmrg f => some (0xC3, f)
  | .wlthr f => some (0xC4, f)
  | .wlst f => some (0xC5, f)
  | .wlld f => some (0xC6, f)
  | .wlcfg f => some (0xC7, f)
  | _ => none

/-- The rows of the table that are events of the device and not words of a program. -/
def Instr.isEvent : Instr → Bool
  | .clauseCheck _ => true
  | .clauseStart _ => true
  | .clauseRetire _ => true
  | .laneOpComplete _ => true
  | .scalarResultReturn _ => true
  | .storeQueueEntryLeave _ => true
  | .storeAck _ => true
  | .sliceAccess _ _ _ => true
  | .windowAccess _ _ => true
  | .hostAccessCompletion _ _ _ => true
  | .mwaitRecheck _ => true
  | .mwaitPollTimeout _ => true
  | .deferredTrapTake _ => true
  | .crewStop _ => true
  | .faultRingPost _ => true
  | .faultReport _ => true
  | .crewSwitchOut _ => true
  | .crewRestore _ => true
  | .replayInPlace _ => true
  | .graceTimerExpire _ _ => true
  | .killTimerExpire _ _ => true
  | .pageCommit _ => true
  | .pageDecommit _ => true
  | .pageQuery _ => true
  | .copyOnWrite _ => true
  | .frameScrubDone _ _ => true
  | .berthAccept _ => true
  | .fetchLand _ => true
  | .fetchFault _ => true
  | .redeemAtSlice _ => true
  | .redeemDelivery _ => true
  | .berthDrop _ => true
  | .berthStatus _ => true
  | .levelReclaim _ _ _ => true
  | .entryRead _ => true
  | .copy _ _ _ => true
  | .indexListCopy _ _ _ => true
  | .fill _ _ _ => true
  | .putsig _ _ _ => true
  | .streamToHearth _ _ => true
  | .stamp _ _ => true
  | .commandComplete _ _ => true
  | .heldElementPerform _ _ => true
  | .hearthStart _ => true
  | .vacqGrant _ => true
  | .blockReturn _ => true
  | .gangSlotFree _ => true
  | .crewEnd _ => true
  | .prefixWalk _ => true
  | .prefixInsert _ => true
  | .prefixRelease _ => true
  | .prefixEvict _ => true
  | .slipwayPost _ => true
  | .launchEligible _ => true
  | .crewPlace _ => true
  | .levelComplete _ _ _ => true
  | .levelCancel _ => true
  | .sqemit _ _ _ => true
  | .submissionConsume _ _ => true
  | .completionEntryWrite _ _ => true
  | .cqseen _ _ _ => true
  | .causeseen _ => true
  | .qcfg _ _ _ => true
  | .contextRecord _ _ => true
  | .coresplit _ _ => true
  | .quadmap _ _ => true
  | .splitApply _ => true
  | .route _ _ => true
  | .startLadder _ => true
  | .resume _ => true
  | .kill _ => true
  | .setRoot => true
  | .writePhysical => true
  | .readPhysical => true
  | .copyIn _ => true
  | .shootdown => true
  | .poolPush => true
  | .poolTake => true
  | .frameReference => true
  | .mgcmdReserved _ => true
  | .fwgo _ => true
  | .firmwareCheck _ => true
  | .bar2Read _ _ _ => true
  | .bar2Write _ _ _ => true
  | .registerWrite _ _ _ => true
  | .recordAppend => true
  | .deviceReset => true
  | .powerWake => true
  | .portStateChange _ _ => true
  | .thermalLimit _ _ => true
  | .memoryError _ => true
  | .getVersion => true
  | .getCapabilities => true
  | .negotiateAlgorithms => true
  | .getDigests => true
  | .getCertificate _ => true
  | .challenge _ _ => true
  | .getMeasurements _ => true
  | .powerDown => true
  | .functionLevelReset _ => true
  | _ => false

/-- The rows whose word a second row shares: which of the two a lane word is (R305, Table 11-1). -/
def Instr.variantOk : Instr → Bool
  | .vredeem f => f.x 7 7 == 0
  | .vredeemRemote f => f.x 7 7 == 1
  | .mxmovToTile f => !f.opx34
  | .mxmovToVector f => f.opx34
  | _ => true

/-- An instruction that its word can hold: R28, R45, R166, R112, R233 and the row checks of the lane words. -/
def Instr.wf (i : Instr) : Bool :=
  match i.laneParts with
  | some (op, f) => laneLegal op f && i.variantOk
  | none =>
    match i with
    | .satom op wide _ _ _ sd _ sb =>
      (!wide || (sd.val % 2 == 0 && sb.val % 2 == 0)) && !(op == .addf && wide) && !(op == .maxvi && !wide)
    | .scas wide _ _ _ sd _ sb => !wide || (sd.val % 2 == 0 && sb.val % 2 == 0)
    | .sldAcq wide _ sd _ => !wide || sd.val % 2 == 0
    | .sstRel wide _ _ _ sd _ => !wide || sd.val % 2 == 0
    | .sredeem tr _ sd _ _ _ => tr || sd.val == 0
    | .pfxwalk _ _ blk _ | .pfxins _ _ blk _ | .pfxrel _ _ blk _ | .pfxevict _ _ blk _ => blk.val != 0
    | .srd sd num => match sregWidth num.val with
        | some 64 => sd.val % 2 == 0
        | some _ => true
        | none => false
    | .swr _ num => sregWritable num.val
    | .vacq tr sd n => n.val != 0 && (tr || sd.val == 0)
    | .vrel n => n.val != 3
    | _ => true

end Sys2Proof
end

