-- ==== Sys2Proof/Decode.lean ====
section
/-! DEFINITION. The decoder, total on any bytes and rejecting by name, and after it the encoder (spec 02, Tables 2-1 to
2-17, and the field tables of the long operations). Words are naturals; bit l up to bit h of a word w is
w / 2^l % 2^(h+1-l). A reserved field must be zero and a pair field even (R26, R28, R36): the decoder reads the fields
that the row uses and accepts the word only where the encoder gives back that word. -/

namespace Sys2Proof

/-- Why bits are no instruction. -/
inductive DecodeError where
  | truncated
  | reservedCode
  | notEncoding
  | notWellFormed
  | clauseHeader
  deriving DecidableEq, Repr

/-- Bits [hi:lo] of a word. -/
def fld (w hi lo : Nat) : Nat := w / 2 ^ lo % 2 ^ (hi + 1 - lo)

/-- The Boolean value of a one-bit field. -/
def bit (w i : Nat) : Bool := w / 2 ^ i % 2 == 1

/-- A field as a bounded number. -/
def fin (n : Nat) [NeZero n] (v : Nat) : Fin n := Fin.ofNat n v

/-- R26 to R32: the instruction that the fields of a short word name (Tables 2-6, 2-7, 2-8). -/
def readShort (w : Nat) : Option Instr :=
  let d := fin 128 (fld w 25 19)
  let a := fin 128 (fld w 18 12)
  let b := fin 128 (fld w 11 5)
  let dp := fin 64 (fld w 25 20)
  let ap := fin 64 (fld w 18 13)
  let bp := fin 64 (fld w 11 6)
  let i12 := fin 4096 (fld w 11 0)
  let i19 := fin 524288 (fld w 18 0)
  let n5 := fin 32 (fld w 4 0)
  let col := fin 8 (fld w 11 9)
  let wo := fin 512 (fld w 8 0)
  match w / 2 ^ 26 with
  | 0x00 => match fld w 4 0 with
    | 0x00 => some (.sadd d a b) | 0x01 => some (.ssub d a b) | 0x02 => some (.sand d a b) | 0x03 => some (.sor d a b)
    | 0x04 => some (.sxor d a b) | 0x05 => some (.sshl d a b) | 0x06 => some (.sshr d a b) | 0x07 => some (.ssra d a b)
    | 0x08 => some (.smin d a b) | 0x09 => some (.smax d a b) | 0x0A => some (.sminn d a b) | 0x0B => some (.smaxn d a b)
    | 0x0C => some (.smul d a b) | 0x0D => some (.smulh d a b) | 0x0E => some (.smulhn d a b) | 0x0F => some (.sclz d a)
    | 0x10 => some (.spopc d a) | 0x11 => some (.smov d a) | 0x12 => some (.scmp a b) | 0x13 => some (.sandn d a b)
    | _ => none
  | 0x01 => match fld w 4 0 with
    | 0x00 => some (.saddD dp ap bp) | 0x01 => some (.ssubD dp ap bp) | 0x02 => some (.sshlD dp ap b)
    | 0x03 => some (.sshrD dp ap b) | 0x04 => some (.smovD dp ap) | 0x05 => some (.scmpD ap bp)
    | 0x06 => some (.smulw dp a b) | 0x07 => some (.smulwn dp a b)
    | _ => none
  | 0x02 => some (.saddi d a i12)
  | 0x03 => some (.sandi d a i12)
  | 0x04 => some (.sori d a i12)
  | 0x05 => some (.sxori d a i12)
  | 0x06 => match fld w 11 10 with
    | 0 => some (.sshli d a n5) | 1 => some (.sshri d a n5) | 2 => some (.ssrai d a n5) | _ => none
  | 0x07 => some (.scmpi a i12)
  | 0x08 => some (.sli d i19)
  | 0x09 => some (.slui d i19)
  | 0x0A => some (.sbr (fin 32 (fld w 25 21)) (bit w 20) (fin 1048576 (fld w 19 0)))
  | 0x0B => some (.scall d i19)
  | 0x0C => some (.sjr d a i12)
  | 0x0D => some (.lrun i19)
  | 0x0E => some (.lrunr a)
  | 0x0F => some .lsync
  | 0x10 => some (.swaitf i12)
  | 0x11 => match Scope.ofCode (fld w 4 2), WaitCmp.ofCode (fld w 1 0) with
    | some sc, some c => some (.mwait d ap bp sc c)
    | _, _ => none
  | 0x12 => some (.sld d ap i12)
  | 0x13 => some (.sldD dp ap i12)
  | 0x14 => some (.sst d ap col wo)
  | 0x15 => some (.sstD dp ap col wo)
  | _ => none

/-- R33 to R35: the instruction that the fields of a long form name (Table 2-10 and the chapters it names). -/
def readLong (w0 w1 : Nat) : Option Instr :=
  let d := fin 128 (fld w0 19 13)
  let a := fin 128 (fld w0 12 6)
  let b := fin 128 (fld w1 31 25)
  let dp := fin 64 (fld w0 19 14)
  let ap := fin 64 (fld w0 12 7)
  let bp := fin 64 (fld w1 31 26)
  let sc := Scope.ofCode (fld w1 24 22)
  let msk := fin 256 (fld w1 19 12)
  let col := fin 8 (fld w1 2 0)
  let tr := bit w1 11
  match fld w0 25 20 with
  | 0x00 => match AtomOp.ofCode (fld w1 10 7), sc, Order.ofCode (fld w1 21 20) with
    | some op, some s, some o => some (.satom op (bit w1 6) s o col d ap b)
    | _, _, _ => none
  | 0x01 => match sc, Order.ofCode (fld w1 21 20) with
    | some s, some o => some (.scas (bit w1 6) s o col d ap b)
    | _, _ => none
  | 0x02 => match sc with | some s => some (.sldAcq (bit w1 10) s d ap) | none => none
  | 0x03 => match sc with | some s => some (.sstRel (bit w1 10) s msk col d ap) | none => none
  | 0x04 => match sc, FenceKind.ofCode (fld w1 21 20) with
    | some s, some k => some (.sfence s k msk)
    | _, _ => none
  | 0x05 => match Level.ofCode (fld w1 6 5) with
    | some l => some (.fetchk tr (fin 16 (fld w1 10 7)) l dp ap)
    | none => none
  | 0x06 => some (.kdrop ap)
  | 0x07 => some (.kstat d ap)
  | 0x08 => match sc with | some s => some (.sredeem tr s d (fin 128 (fld w1 6 0)) ap bp) | none => none
  | 0x09 => some (.pcommit tr d ap)
  | 0x0A => some (.pdecommit d ap)
  | 0x0B => some (.pquery (bit w1 10) dp ap)
  | 0x0C => match sc with | some s => some (.pfxwalk s dp (fin 16 (fld w0 12 9)) bp) | none => none
  | 0x0D => match sc with | some s => some (.pfxins s dp (fin 16 (fld w0 12 9)) bp) | none => none
  | 0x0E => match sc with | some s => some (.pfxrel s dp (fin 16 (fld w0 12 9)) bp) | none => none
  | 0x0F => match sc with | some s => some (.pfxevict s dp (fin 16 (fld w0 12 9)) bp) | none => none
  | 0x10 => some (.slaunch tr col d ap)
  | 0x11 => match Level.ofCode (fld w1 1 0), sc with
    | some l, some s => some (.jcount l s dp a)
    | _, _ => none
  | 0x12 => match Level.ofCode (fld w1 1 0) with | some l => some (.jcancel l d a) | none => none
  | 0x13 => some (.srd d (fin 1024 (fld w1 9 0)))
  | 0x14 => some (.swr a (fin 1024 (fld w1 9 0)))
  | 0x15 => some (.sgetf d)
  | 0x16 => some (.sclrf (fin 64 (fld w1 5 0)))
  | 0x17 => some (.vacq tr d (fin 4 (fld w1 1 0)))
  | 0x18 => some (.vrel (fin 4 (fld w1 1 0)))
  | 0x19 => some (.sbar (fin 16 (fld w1 3 0)) a)
  | 0x1A => some (.sbarw (bit w1 10) d a)
  | 0x1B => some (.strap (fin 4096 (fld w1 11 0)))
  | 0x1C => some (.sbrk (fin 4096 (fld w1 11 0)))
  | 0x1D => some .syield
  | 0x1E => some .sexit
  | 0x1F => match sc with
    | some s => some (.ssendsig s msk (fin 256 (fld w1 10 3)) col dp ap bp)
    | none => none
  | _ => none

/-- R36, Table 2-12: the fields of a lane word. -/
def readLane (w : Nat) : LaneWord :=
  { ge := bit w 87, gn := bit w 86, pn := fin 16 (fld w 85 82), vd := fin 256 (fld w 81 74),
    va := fin 256 (fld w 73 66), vb := fin 256 (fld w 65 58), vc := fin 256 (fld w 57 50), pd := fin 16 (fld w 49 46),
    typ := fin 64 (fld w 45 40), bsrc := fin 4 (fld w 39 38), mode := fin 8 (fld w 37 35), opx := fin 8 (fld w 34 32),
    ext := BitVec.ofNat 32 (fld w 31 0) }

/-- R43, Table 2-15: the instruction of an op; `vredeem` and `mxmov` are two rows each (R305, Table 11-1). -/
def laneInstr (op : Nat) (f : LaneWord) : Option Instr :=
  match op with
  | 0x00 => some (.vadd f)
  | 0x01 => some (.vsub f)
  | 0x02 => some (.vmul f)
  | 0x03 => some (.vmulh f)
  | 0x04 => some (.vmad f)
  | 0x05 => some (.vand f)
  | 0x06 => some (.vor f)
  | 0x07 => some (.vxor f)
  | 0x08 => some (.vandn f)
  | 0x09 => some (.vshl f)
  | 0x0A => some (.vshr f)
  | 0x0B => some (.vsra f)
  | 0x0C => some (.vmin f)
  | 0x0D => some (.vmax f)
  | 0x0E => some (.vabs f)
  | 0x0F => some (.vneg f)
  | 0x10 => some (.vclz f)
  | 0x11 => some (.vpopc f)
  | 0x12 => some (.vbrev f)
  | 0x13 => some (.vbfx f)
  | 0x14 => some (.vbfi f)
  | 0x15 => some (.vmov f)
  | 0x16 => some (.vli f)
  | 0x17 => some (.vsel f)
  | 0x18 => some (.vcmp f)
  | 0x19 => some (.vdp4 f)
  | 0x1A => some (.vaddc f)
  | 0x20 => some (.vfadd f)
  | 0x21 => some (.vfsub f)
  | 0x22 => some (.vfmul f)
  | 0x23 => some (.vfma f)
  | 0x24 => some (.vfmin f)
  | 0x25 => some (.vfmax f)
  | 0x26 => some (.vfrcp f)
  | 0x27 => some (.vfsqrt f)
  | 0x28 => some (.vfrsqrt f)
  | 0x29 => some (.vflog2 f)
  | 0x2A => some (.vfexp2 f)
  | 0x2B => some (.vfcmp f)
  | 0x2C => some (.vfcls f)
  | 0x2D => some (.vfrnd f)
  | 0x2E => some (.vfdp2 f)
  | 0x40 => some (.vcvt f)
  | 0x41 => some (.vpackb f)
  | 0x42 => some (.vunpkb f)
  | 0x43 => some (.vtag f)
  | 0x44 => some (.vtagq f)
  | 0x50 => some (.pand f)
  | 0x51 => some (.por f)
  | 0x52 => some (.pxor f)
  | 0x53 => some (.pnot f)
  | 0x54 => some (.pmov f)
  | 0x55 => some (.pset f)
  | 0x56 => some (.pget f)
  | 0x57 => some (.pcnt f)
  | 0x60 => some (.vshfl f)
  | 0x61 => some (.vbcast f)
  | 0x62 => some (.vred f)
  | 0x63 => some (.vscan f)
  | 0x64 => some (.visect f)
  | 0x65 => some (.vrot f)
  | 0x70 => some (.vld f)
  | 0x71 => some (.vst f)
  | 0x72 => some (.vlds f)
  | 0x73 => some (.vsts f)
  | 0x74 => some (.vatom f)
  | 0x75 => some (.vatoms f)
  | 0x78 => some (.vprf f)
  | 0x77 => some (.vcpidx f)
  | 0x90 => some (.vrng f)
  | 0x91 => some (.vlane f)
  | 0x92 => some (.vnop f)
  | 0xA0 => some (.mxmac f)
  | 0xA1 => some (.mxtopk f)
  | 0xA2 => some (.mxv f)
  | 0xA3 => some (.mxrdy f)
  | 0xA4 => some (.mxld f)
  | 0xA5 => some (.mxst f)
  | 0xA6 => some (.mxclr f)
  | 0xC0 => some (.wlclr f)
  | 0xC1 => some (.wlget f)
  | 0xC2 => some (.wlins f)
  | 0xC3 => some (.wlmrg f)
  | 0xC4 => some (.wlthr f)
  | 0xC5 => some (.wlst f)
  | 0xC6 => some (.wlld f)
  | 0xC7 => some (.wlcfg f)
  | 0x76 => if f.x 7 7 = 0 then some (.vredeem f) else some (.vredeemRemote f)
  | 0xA7 => if f.opx34 then some (.mxmovToVector f) else some (.mxmovToTile f)
  | _ => none

/-- The value of a bit. -/
def b1 (b : Bool) : Nat := if b then 1 else 0

/-- A word of format SR (Table 2-1). -/
def encSR (op d a b fn : Nat) : Nat := op * 2 ^ 26 + d * 2 ^ 19 + a * 2 ^ 12 + b * 2 ^ 5 + fn
/-- A word of format SI (Table 2-2). -/
def encSI (op d a i : Nat) : Nat := op * 2 ^ 26 + d * 2 ^ 19 + a * 2 ^ 12 + i
/-- A word of format SU (Table 2-3). -/
def encSU (op d i : Nat) : Nat := op * 2 ^ 26 + d * 2 ^ 19 + i
/-- A word of format SB (Table 2-4). -/
def encSB (c n o : Nat) : Nat := 0x0A * 2 ^ 26 + c * 2 ^ 21 + n * 2 ^ 20 + o
/-- A word of format SM (Table 2-5). -/
def encSM (op d a c w : Nat) : Nat := op * 2 ^ 26 + d * 2 ^ 19 + a * 2 ^ 12 + c * 2 ^ 9 + w
/-- The two words of format SL (Table 2-11). -/
def encSL (lop d a b ext : Nat) : List Nat :=
  [0x3F * 2 ^ 26 + lop * 2 ^ 20 + d * 2 ^ 13 + a * 2 ^ 6, b * 2 ^ 25 + ext]
/-- A lane word (Table 2-12). -/
def encLane (op : Nat) (f : LaneWord) : Nat :=
  op * 2 ^ 88 + b1 f.ge * 2 ^ 87 + b1 f.gn * 2 ^ 86 + f.pn.val * 2 ^ 82 + f.vd.val * 2 ^ 74 + f.va.val * 2 ^ 66
    + f.vb.val * 2 ^ 58 + f.vc.val * 2 ^ 50 + f.pd.val * 2 ^ 46 + f.typ.val * 2 ^ 40 + f.bsrc.val * 2 ^ 38
    + f.mode.val * 2 ^ 35 + f.opx.val * 2 ^ 32 + f.ext.toNat

/-- The words of a scalar instruction: one 32-bit word of a short form, two of a long form; none for a lane
instruction (its 96-bit word is `encLane`) and for an event. -/
def encodeScalar : Instr → List Nat
  | .sadd d a b => [encSR 0 d a b 0]
  | .ssub d a b => [encSR 0 d a b 1]
  | .sand d a b => [encSR 0 d a b 2]
  | .sor d a b => [encSR 0 d a b 3]
  | .sxor d a b => [encSR 0 d a b 4]
  | .sshl d a b => [encSR 0 d a b 5]
  | .sshr d a b => [encSR 0 d a b 6]
  | .ssra d a b => [encSR 0 d a b 7]
  | .smin d a b => [encSR 0 d a b 8]
  | .smax d a b => [encSR 0 d a b 9]
  | .sminn d a b => [encSR 0 d a b 10]
  | .smaxn d a b => [encSR 0 d a b 11]
  | .smul d a b => [encSR 0 d a b 12]
  | .smulh d a b => [encSR 0 d a b 13]
  | .smulhn d a b => [encSR 0 d a b 14]
  | .sclz d a => [encSR 0 d a 0 15]
  | .spopc d a => [encSR 0 d a 0 16]
  | .smov d a => [encSR 0 d a 0 17]
  | .scmp a b => [encSR 0 0 a b 18]
  | .sandn d a b => [encSR 0 d a b 19]
  | .saddD d a b => [encSR 1 (2 * d.val) (2 * a.val) (2 * b.val) 0]
  | .ssubD d a b => [encSR 1 (2 * d.val) (2 * a.val) (2 * b.val) 1]
  | .sshlD d a b => [encSR 1 (2 * d.val) (2 * a.val) b 2]
  | .sshrD d a b => [encSR 1 (2 * d.val) (2 * a.val) b 3]
  | .smovD d a => [encSR 1 (2 * d.val) (2 * a.val) 0 4]
  | .scmpD a b => [encSR 1 0 (2 * a.val) (2 * b.val) 5]
  | .smulw d a b => [encSR 1 (2 * d.val) a b 6]
  | .smulwn d a b => [encSR 1 (2 * d.val) a b 7]
  | .saddi d a i => [encSI 0x02 d a i]
  | .sandi d a i => [encSI 0x03 d a i]
  | .sori d a i => [encSI 0x04 d a i]
  | .sxori d a i => [encSI 0x05 d a i]
  | .sshli d a n => [encSI 0x06 d a n]
  | .sshri d a n => [encSI 0x06 d a (1024 + n.val)]
  | .ssrai d a n => [encSI 0x06 d a (2048 + n.val)]
  | .scmpi a i => [encSI 0x07 0 a i]
  | .sli d i => [encSU 0x08 d i]
  | .slui d i => [encSU 0x09 d i]
  | .sbr c n o => [encSB c (b1 n) o]
  | .scall d i => [encSU 0x0B d i]
  | .sjr d a i => [encSI 0x0C d a i]
  | .lrun i => [encSU 0x0D 0 i]
  | .lrunr a => [encSI 0x0E 0 a 0]
  | .lsync => [encSU 0x0F 0 0]
  | .swaitf m => [encSU 0x10 0 m]
  | .mwait d a b sc c => [encSR 0x11 d (2 * a.val) (2 * b.val) (sc.code * 4 + c.code)]
  | .sld d a i => [encSI 0x12 d (2 * a.val) i]
  | .sldD d a i => [encSI 0x13 (2 * d.val) (2 * a.val) i]
  | .sst d a c w => [encSM 0x14 d (2 * a.val) c w]
  | .sstD d a c w => [encSM 0x15 (2 * d.val) (2 * a.val) c w]
  | .satom op wide sc ord col d a b =>
    encSL 0x00 d (2 * a.val) b (sc.code * 2 ^ 22 + ord.code * 2 ^ 20 + op.code * 2 ^ 7 + b1 wide * 2 ^ 6 + col.val)
  | .scas wide sc ord col d a b =>
    encSL 0x01 d (2 * a.val) b (sc.code * 2 ^ 22 + ord.code * 2 ^ 20 + b1 wide * 2 ^ 6 + col.val)
  | .sldAcq wide sc d a => encSL 0x02 d (2 * a.val) 0 (sc.code * 2 ^ 22 + b1 wide * 2 ^ 10)
  | .sstRel wide sc m col d a =>
    encSL 0x03 d (2 * a.val) 0 (sc.code * 2 ^ 22 + m.val * 2 ^ 12 + b1 wide * 2 ^ 10 + col.val)
  | .sfence sc k m => encSL 0x04 0 0 0 (sc.code * 2 ^ 22 + k.code * 2 ^ 20 + m.val * 2 ^ 12)
  | .fetchk tr n l d a => encSL 0x05 (2 * d.val) (2 * a.val) 0 (b1 tr * 2 ^ 11 + n.val * 2 ^ 7 + l.code * 2 ^ 5)
  | .kdrop a => encSL 0x06 0 (2 * a.val) 0 0
  | .kstat d a => encSL 0x07 d (2 * a.val) 0 0
  | .sredeem tr sc d o a b => encSL 0x08 d (2 * a.val) (2 * b.val) (sc.code * 2 ^ 22 + b1 tr * 2 ^ 11 + o.val)
  | .pcommit tr d a => encSL 0x09 d (2 * a.val) 0 (b1 tr * 2 ^ 11)
  | .pdecommit d a => encSL 0x0A d (2 * a.val) 0 0
  | .pquery p d a => encSL 0x0B (2 * d.val) (2 * a.val) 0 (b1 p * 2 ^ 10)
  | .pfxwalk sc d n b => encSL 0x0C (2 * d.val) (8 * n.val) (2 * b.val) (sc.code * 2 ^ 22)
  | .pfxins sc d n b => encSL 0x0D (2 * d.val) (8 * n.val) (2 * b.val) (sc.code * 2 ^ 22)
  | .pfxrel sc d n b => encSL 0x0E (2 * d.val) (8 * n.val) (2 * b.val) (sc.code * 2 ^ 22)
  | .pfxevict sc d n b => encSL 0x0F (2 * d.val) (8 * n.val) (2 * b.val) (sc.code * 2 ^ 22)
  | .slaunch tr q d a => encSL 0x10 d (2 * a.val) 0 (b1 tr * 2 ^ 11 + q.val)
  | .jcount l sc d a => encSL 0x11 (2 * d.val) a 0 (sc.code * 2 ^ 22 + l.code)
  | .jcancel l d a => encSL 0x12 d a 0 l.code
  | .srd d n => encSL 0x13 d 0 0 n
  | .swr a n => encSL 0x14 0 a 0 n
  | .sgetf d => encSL 0x15 d 0 0 0
  | .sclrf m => encSL 0x16 0 0 0 m
  | .vacq tr d n => encSL 0x17 d 0 0 (b1 tr * 2 ^ 11 + n.val)
  | .vrel n => encSL 0x18 0 0 0 n
  | .sbar id a => encSL 0x19 0 a 0 id
  | .sbarw arr d a => encSL 0x1A d a 0 (b1 arr * 2 ^ 10)
  | .strap c => encSL 0x1B 0 0 0 c
  | .sbrk c => encSL 0x1C 0 0 0 c
  | .syield => encSL 0x1D 0 0 0 0
  | .sexit => encSL 0x1E 0 0 0 0
  | .ssendsig sc m n col d a b =>
    encSL 0x1F (2 * d.val) (2 * a.val) (2 * b.val) (sc.code * 2 ^ 22 + m.val * 2 ^ 12 + n.val * 2 ^ 3 + col.val)
  | _ => []

/-- R24: the value 0x3F of bits [31:26] marks a long form. -/
def isLong (w : Nat) : Bool := w / 2 ^ 26 == 0x3F

/-- R45: a scalar word, and for a long form the second word, as an instruction or a named error. -/
def decodeScalar (w0 w1 : Nat) : Except DecodeError Instr :=
  match (if isLong w0 then readLong w0 w1 else readShort w0) with
  | none => .error .reservedCode
  | some i =>
    if encodeScalar i = (if isLong w0 then [w0, w1] else [w0]) then
      (if i.wf then .ok i else .error .notWellFormed)
    else .error .notEncoding

/-- Items 3 and 4 of Table 2-18 but for the flag attachments: a lane word of a clause body. -/
def decodeLane (w : Nat) : Except DecodeError Instr :=
  if w / 2 ^ 88 = 0xFF then .error .clauseHeader
  else match laneInstr (w / 2 ^ 88) (readLane w) with
    | none => .error .reservedCode
    | some i => if laneLegal (w / 2 ^ 88) (readLane w) then .ok i else .error .notWellFormed

/-- The number that little-endian bytes hold (R3). -/
def leNat : List Byte → Nat
  | [] => 0
  | b :: bs => b.toNat + 256 * leNat bs

/-- The n bytes of a number, lowest first (R3). -/
def natLE : Nat → Nat → List Byte
  | 0, _ => []
  | n + 1, v => BitVec.ofNat 8 v :: natLE n (v / 256)

/-- R24, R33: the scalar instruction at the front of a byte list, and the bytes after it. -/
def decodeBytes (bs : List Byte) : Except DecodeError (Instr × List Byte) :=
  if bs.length < 4 then .error .truncated
  else
    let w0 := leNat (bs.take 4)
    if isLong w0 then
      if bs.length < 8 then .error .truncated
      else match decodeScalar w0 (leNat ((bs.drop 4).take 4)) with
        | .ok i => .ok (i, bs.drop 8)
        | .error e => .error e
    else match decodeScalar w0 0 with
      | .ok i => .ok (i, bs.drop 4)
      | .error e => .error e

/-- R25: the lane instruction at the front of a byte list, and the bytes after it. -/
def decodeLaneBytes (bs : List Byte) : Except DecodeError (Instr × List Byte) :=
  if bs.length < 12 then .error .truncated
  else match decodeLane (leNat (bs.take 12)) with
    | .ok i => .ok (i, bs.drop 12)
    | .error e => .error e

/-- The encoded bytes of an instruction: none for an event. -/
def encode (i : Instr) : List Byte :=
  match i.laneParts with
  | some (op, f) => natLE 12 (encLane op f)
  | none => (encodeScalar i).flatMap (natLE 4)

/-- The instruction that the decoder reads from an instruction whose bits are w, numbered as the opcode table numbers
them: 96 bits are a lane word, anything shorter a scalar word with a second word after it. -/
def decodeTableWord (nbits w : Nat) : Option Instr :=
  if nbits = 96 then
    match decodeLaneBytes (natLE 12 w) with | .ok r => some r.1 | .error _ => none
  else
    match decodeBytes (natLE 8 (w % 2 ^ nbits)) with | .ok r => some r.1 | .error _ => none

/-- The header of a clause (R42, Table 2-16): wait mask, set-flags and the number of its instructions. -/
structure ClauseHeader where
  wait : BitVec 12
  setA : Nat
  setB : Nat
  len  : Nat
  deriving DecidableEq, Repr

/-- The fields of a header word (R42). -/
def headerOf (w : Nat) : ClauseHeader := ⟨BitVec.ofNat 12 (fld w 87 76), fld w 75 72, fld w 71 68, fld w 67 62 + 1⟩

/-- R42 and item 2 of Table 2-18. -/
def decodeHeader (w : Nat) : Option ClauseHeader :=
  let h := headerOf w
  let okFlag (x : Nat) : Bool := decide (x < 12) || x == 15
  if w / 2 ^ 88 = 0xFF ∧ fld w 61 0 = 0 ∧ okFlag h.setA ∧ okFlag h.setB ∧ (h.setA ≠ h.setB ∨ h.setA = 15)
  then some h else none

end Sys2Proof
end

