-- ==== Sys2Proof/Config.lean ====
section
/-! DEFINITION. What an implementation fixes and the manual does not state: free values with no body.
Nothing can be proved about their values, so a claim that holds, holds whatever they are. -/

namespace Sys2Proof

/-- An undefined value (R5): the n-th one that the run meets. DESIGN CHOICE, log 3. -/
opaque Config.freeWord : Nat → Word

/-- The check byte that a slice computes from bits [63:8] of a ticket and the secret it chose at a reset
(R299): arguments reset number, die, slice, bits [63:8]. Log 5. -/
opaque Config.checkByte : Nat → Nat → Nat → BitVec 56 → Byte

/-- The verdict of the firmware check (R371) on an image: whether its SM2 signature over the SM3 digest of
its body passes against the fused key. The image's layout is not given. Log 18. -/
opaque Config.firmwareSignatureOk : List Byte → Bool

/-- The security version that a firmware image carries (R371). Log 18. -/
opaque Config.firmwareVersion : List Byte → Nat

/-- The least security version that a firmware image has fused when it runs (R371: firmware can raise the fused minimum).
Log 18. -/
opaque Config.firmwareMinimum : List Byte → Nat

/-- The SM3 digest of a byte string (R372; SM3 itself is defined outside the manual). Log 18. -/
opaque Config.sm3 : List Byte → BitVec 256

/-- The device's SM2 signature over a byte string with the identity key (R372). Log 18. -/
opaque Config.sm2Sign : List Byte → BitVec 512

/-- The certificate chain of slot 0 (R372). Log 18. -/
opaque Config.certificateChain : List Byte

/-- The boot ROM version, measurement 1 (R372). Log 18. -/
opaque Config.bootRomVersion : BitVec 256

/-- The header words of a record of the record ring (R373 names its contents, not their places): arguments
function, pair, sseq, launch id, region lengths. Log 19. -/
opaque Config.recordHeader : Nat → Nat → Nat → Nat → List Nat → BitVec 512

end Sys2Proof
end

