-- ==== Sys2Proof/Machine/Map.lean ====
section
/-! DEFINITION. The one canonical finite map of the model: keys strictly rising, no entry equal to what an
unlisted key reads as. Memory, registers and every table of the device are such maps. -/

namespace Sys2Proof.Machine

/-- Key and value pairs; read and written only through `Map.get` and `Map.put`. -/
abbrev Map (α : Type) := List (Nat × α)

/-- The value at a key, `d` where the key is not listed. -/
def Map.get {α : Type} (d : α) : Map α → Nat → α
  | [], _ => d
  | e :: m, k => if k = e.1 then e.2 else Map.get d m k

/-- Insert before the first larger key. -/
def Map.insertAt {α : Type} : Map α → Nat → α → Map α
  | [], k, v => [(k, v)]
  | e :: m, k, v => if k < e.1 then (k, v) :: e :: m else e :: Map.insertAt m k v

/-- Drop a key. -/
def Map.drop {α : Type} (m : Map α) (k : Nat) : Map α := m.filter (fun e => e.1 != k)

/-- Write a key; writing the default removes the entry. -/
def Map.put {α : Type} [DecidableEq α] (d : α) (m : Map α) (k : Nat) (v : α) : Map α :=
  if v = d then Map.drop m k else Map.insertAt (Map.drop m k) k v

/-- Keys strictly above `lo`, rising, and no entry equal to the default. -/
def Map.wfFrom {α : Type} [DecidableEq α] (d : α) : Option Nat → Map α → Bool
  | _, [] => true
  | lo, e :: m =>
    (match lo with | none => true | some b => decide (b < e.1)) && (decide (e.2 ≠ d))
      && Map.wfFrom d (some e.1) m

/-- The canonical form. -/
def Map.wf {α : Type} [DecidableEq α] (d : α) (m : Map α) : Bool := Map.wfFrom d none m

/-- Write consecutive keys from `k` on. -/
def Map.putList {α : Type} [DecidableEq α] (d : α) : Map α → Nat → List α → Map α
  | m, _, [] => m
  | m, k, v :: vs => Map.putList d (Map.put d m k v) (k + 1) vs

/-- Read `n` consecutive keys from `k` on. -/
def Map.getList {α : Type} (d : α) (m : Map α) : Nat → Nat → List α
  | _, 0 => []
  | k, n + 1 => Map.get d m k :: Map.getList d m (k + 1) n

end Sys2Proof.Machine
end

