-- ==== Sys2Proof/Machine/State.lean ====
section
/-! DEFINITION. The state of the whole device as plain data, the reasons a step can stop, and the state after
reset. A slot key is the 14-bit number of `where` (05 Table 5-5): die, core, quadrant, slot; a quadrant key is a
slot key without its slot; a core key is die * 64 + core. -/

namespace Sys2Proof.Machine

/-- Why the machine stops where the manual gives no effect. -/
inductive Fault where
  /-- The scalar fetch or the clause check meets a code page that does not translate: the manual gives no effect for
  it (log 8). Raised by the scalar fetch of `State.take` and by CLAUSE_CHECK; safe: it ends a run that the hardware may
  continue. -/
  | codeNotTranslated
  deriving DecidableEq, Repr

/-- Why an instruction has no meaning. -/
inductive Refusal where
  /-- The instruction is not modelled; raised by a refused arm of `exec` only; safe. -/
  | notModelled (mnemonic : String)
  deriving DecidableEq, Repr

/-- The condition codes (R99). -/
structure CC where
  z : Bool
  n : Bool
  c : Bool
  v : Bool
  deriving DecidableEq, Repr

/-- One winner list (R211): shape code, k, score type s32 or f32, index base and the valid entries by position. -/
structure WList where
  shape : Nat
  k     : Nat
  isInt : Bool
  base  : Word
  ent   : Map (Option (Word × Word))
  deriving DecidableEq, Repr

/-- R211: the settings at admission. -/
def WList.init : WList := ⟨0, 8, false, 0, []⟩

/-- A completion flag (R86): started clauses that name it and have not retired, and attached operations that have
not completed. It is busy while either count is above zero. -/
structure FlagSt where
  clauses : Nat
  ops     : Nat
  deriving DecidableEq, Repr

/-- What a trap records (R196), and the source field that a stop record of it carries (R201): 8 more where the access
writes (Table 9-3). -/
structure TrapInfo where
  cause    : Nat
  deferred : Bool
  lane     : Bool
  pc       : Word
  info     : Word
  lanes    : Word
  addr     : Dword
  source   : Nat
  /-- The operation whose instruction the report names, in issue order; 0 for a report that names none (R196). -/
  issue    : Nat
  /-- Clauses that the trap has discarded when it is taken (Table 9-2, tcause [12:10]). -/
  drops    : Nat
  deriving DecidableEq, Repr

/-- The trap state of Table 9-2. -/
structure TrapState where
  tcause  : Word
  tpc     : Word
  tinfo   : Word
  tlanes  : Word
  taddr   : Dword
  tcount  : Word
  handler : Bool
  deriving DecidableEq, Repr

/-- An entry of the clause queue (R84, R85): the head may be checked and started. `blocks` is the count that R79
uses for the clause (R115); `seq` is the place in issue order at which it was enqueued (R180). -/
structure Clause where
  off     : Nat
  blocks  : Nat
  checked : Bool
  started : Bool
  wait    : BitVec 12
  setA    : Nat
  setB    : Nat
  body    : List Instr
  next    : Nat
  seq     : Nat
  deriving DecidableEq, Repr

/-- What the scalar stream waits in after the instruction has issued (R92). -/
inductive Wait where
  | none
  | mwait (op : Nat)
  | bar (id : Nat) (pc : Word)
  | barw (off gen : Nat) (pc : Word)
  | vacq (n : Nat)
  deriving DecidableEq, Repr

/-- The life of a gang slot (R73, R119). -/
inductive GangPhase where
  | absent | running | exited | stopped
  deriving DecidableEq, Repr

/-- An `sfence` that still holds later accesses (R165): accesses older than `id` are the ones it covers, and the stores of
other gangs that left their core before `num` (R183). -/
structure Fence where
  id    : Nat
  acq   : Bool
  rel   : Bool
  scope : Scope
  mask  : BitVec 8
  num   : Nat
  deriving DecidableEq, Repr

/-- The state of one gang (R77, Table 4-1). `rels` are the counts of the `vrel`s that have not returned their blocks (R115);
`sWait` says that the next scalar instruction waits for every clause (R90); `joints` counts the joint instructions that the
gang has issued (R223); `landing` are the fetches that have been accepted for the gang: place in issue order, berth and
generation (R311); `replay` are the log entries still to be replayed, the first of them in its turn (R203); `reports` are the deferred traps reported to it, each with the cycle of its die in which
its report reached it (R196); `topkAt` is the place in issue order of the `mxtopk` whose counts stand (R220). -/
structure Gang where
  phase    : GangPhase
  crew     : Nat
  num      : Nat
  live     : BitVec 32
  pc       : Word
  sreg     : Map Word
  cc       : CC
  clauses  : List Clause
  vreg     : Map Word
  vtag     : Map Ty
  blocks   : Nat
  nextBlk  : Nat
  rels     : List Nat
  preg     : Map (BitVec 32)
  mz       : BitVec 16
  flags    : Map FlagSt
  sticky   : BitVec 6
  nlists   : Nat
  wl       : Map WList
  ntiles   : Nat
  tile     : Map Word
  tileTag  : Map Ty
  spend    : List Nat
  sfault   : List Nat
  vpend    : List Nat
  vfault   : List Nat
  trap     : TrapState
  trapWait : Option TrapInfo
  reports  : List (Nat × TrapInfo)
  abandoned : Word
  skipped  : Word
  wait     : Wait
  fences   : List Fence
  landing  : List (Nat × Nat × Nat)
  log      : List Nat
  replay   : List Nat
  parked   : Bool
  sWait    : Bool
  joints   : Nat
  lastS    : Nat
  lastL    : Nat
  waitS    : Nat
  waitL    : Nat
  topkAt   : Nat
  deriving DecidableEq, Repr

/-- An unoccupied slot; also every field's value at admission where Table 4-1 states a constant. -/
def Gang.empty : Gang :=
  { phase := .absent, crew := 0, num := 0, live := 0, pc := 0, sreg := [], cc := ⟨false, false, false, false⟩,
    clauses := [], vreg := [], vtag := [], blocks := 0, nextBlk := 0, rels := [], preg := [], mz := 0xFFFF, flags := [],
    sticky := 0, nlists := 0, wl := [], ntiles := 0, tile := [], tileTag := [], spend := [],
    sfault := [], vpend := [], vfault := [], trap := ⟨0, 0, 0, 0, 0, 0, false⟩, trapWait := none, reports := [],
    abandoned := 0, skipped := 0, wait := .none, fences := [], landing := [], log := [], replay := [], parked := false, sWait := false, joints := 0, lastS := 0, lastL := 0,
    waitS := 0, waitL := 0, topkAt := 0 }

/-- A hardware barrier (R172): the count that the generation's first arrival named (0: whole crew) and the gang
numbers that have arrived. -/
structure Barrier where
  n       : Nat
  arrived : List Nat
  deriving DecidableEq, Repr

/-- A deferred tag (R225): parked holds the identity of the parked operation. -/
inductive TagSt where
  | empty
  | parked (op : Nat)
  | landed (count : Nat)
  deriving DecidableEq, Repr

/-- A command in flight of a crane ring (R257-R270): its position, the entry (Table 13-2), the record and index list as
read at its start, its elements: every element below `next` and those of `ahead` have moved or are held, `total` is their
number (kind 4: bytes; kind 5: the position behind the ring's previous kind-5 entry), the elements held by a fault,
whether its counter add or stamp has been sent, whether its counter add or stamp waits for a page, and the number at which the entry
was read, which tells the stores that had left the core by then (R183). -/
structure CraneCmd where
  pos     : Nat
  ent     : BitVec 256
  layout  : List Byte
  list    : List Word
  next    : Nat
  ahead   : List Nat
  total   : Nat
  held    : List Nat
  counted : Bool
  stamped : Bool
  rel     : Nat
  deriving DecidableEq, Repr

/-- The crane's view of a crew's ring (R255-R257): the notify value it has acquired, the consumed count, the
commands in flight, the positions dropped, and the position behind the last kind-5 entry read (R260). -/
structure Ring where
  notify   : Nat
  consumed : Nat
  cmds     : List CraneCmd
  drops    : List Nat
  stamps   : Nat
  deriving DecidableEq, Repr

/-- Why a crew is stopping (R193, R195). -/
structure StopInfo where
  gang   : Nat
  trap   : TrapInfo
  record : Bool
  error  : Bool
  deriving DecidableEq, Repr

/-- The life of a crew (R202, R203, R193, R119). -/
inductive CrewPhase where
  | resident | stopping | halting | out | ended
  deriving DecidableEq, Repr

/-- The state of one crew. `launch` is asid * 65536 + id; `desc` is its launch descriptor (Table 20-2); `slots` are
the slot keys of its gangs in gang order; while it is switched out (R205) they are keys above every slot, under which
its gangs are saved, and the key of a gang whose slot has been freed (R119) is such a key too. -/
structure Crew where
  phase       : CrewPhase
  launch      : Nat
  num         : Nat
  desc        : BitVec 512
  ncrews      : Nat
  core        : Nat
  slots       : List Nat
  scratchBase : Nat
  scratch     : Map Byte
  bars        : Map Barrier
  tags        : Map TagSt
  ring        : Ring
  stop        : Option StopInfo
  deriving DecidableEq, Repr

def Crew.empty : Crew :=
  { phase := .ended, launch := 0, num := 0, desc := 0, ncrews := 0, core := 0, slots := [], scratchBase := 0,
    scratch := [], bars := [], tags := [], ring := ⟨0, 0, [], [], 0⟩, stop := none }

/-- What an operation of a gang does where it is performed. -/
inductive OpKind where
  | load
  | store
  | atom (op : AtomOp) (wide : Bool)
  | cas (wide : Bool)
  | sendsig (inc : Nat)
  | mwait (cmp : WaitCmp)
  | fetchk (tr : Bool) (sectors : Nat) (life : Level)
  | pcommit (tr : Bool)
  | pdecommit
  | pquery (pool : Bool)
  | pfx (kind : Nat)
  | slaunch (tr : Bool) (q : Nat)
  | kdrop
  | kstat
  | sredeem (tr : Bool)
  | vredeem (tr remote : Bool)
  | jcount (lvl : Level)
  | jcancel (lvl : Level)
  | orphans
  | gather (zf : Bool) (words : Nat) (defer : Option Nat)
  | prf
  deriving DecidableEq, Repr

/-- The progress of one element (lane) of an operation. -/
inductive ElSt where
  | todo | done | faulted | parked | trapped | dropped
  deriving DecidableEq, Repr

/-- One element of an operation: its lane, its address (a virtual address, or a scratchpad offset), the bytes it
stores or its operand, its state and the bytes it has returned. -/
structure El where
  lane  : Nat
  addr  : Dword
  data  : List Byte
  st    : ElSt
  res   : List Byte
  deriving DecidableEq, Repr

/-- Where an operation delivers: nothing, a scalar register, a pair, or `n` vector registers with a tag. -/
inductive Dst where
  | none
  | sreg (r : Nat)
  | pair (r : Nat)
  | vreg (r n : Nat) (tag : Ty)
  deriving DecidableEq, Repr

/-- The progress of an operation: in the store queue, out of the core, asleep in `mwait`, or with its result known. -/
inductive Stage where
  | queued | sent | asleep | ready | over
  deriving DecidableEq, Repr

/-- An operation in flight. `id` is its place in issue order (R180); `scr` says that its addresses are offsets in the
crew's own scratchpad; `ord` its order and `mask` the colours that its release half covers (R181); `width` is the
width of an element in bytes; `arg` holds the scalar operands read at issue; `head` and `left` are the issue-order
numbers at which a queue entry reached the head of its queue and left the core (0: not yet), `seen` the number at which it first
left it, also where it has faulted and waits for its replay, and `leftCores` the cores that it has left, the last one first; a load's `head` is the number at
which the last acquire before it was performed, and it leaves the core then, and its `status` is 1 where the L1 serves it no more and 2
where a younger entry of its gang has left the core (R179); `frames` are the 512-byte blocks, by their addresses, that a slice has
translated for an atomic which has more lanes to perform there, each with the block of memory that it lies in (R290). -/
structure Op where
  id     : Nat
  gang   : Nat
  crew   : Nat
  asid   : Nat
  kind   : OpKind
  scr    : Bool
  scope  : Scope
  ord    : Order
  mask   : BitVec 8
  colour : Nat
  inQ    : Bool
  stage  : Stage
  width  : Nat
  els    : List El
  dst    : Dst
  flag   : Option Nat
  lane   : Bool
  pc     : Word
  info   : Word
  arg    : List Word
  status : Nat
  head   : Nat
  left   : Nat
  seen   : Nat
  leftCores : List Nat
  frames : List (Nat × Nat)
  deriving DecidableEq, Repr

/-- The progress of a matrix or winner-list instruction (R221-R229). -/
inductive HStage where
  | joint | parked | queued | over
  deriving DecidableEq, Repr

/-- The part of one gang in a matrix or winner-list instruction: its slot, its place in the gang's issue order, the
place of the instruction, its attached flag and the lanes in which it acts. -/
structure HPart where
  gang : Nat
  seq  : Nat
  pc   : Word
  info : Word
  flag : Option Nat
  act  : BitVec 32
  deriving DecidableEq, Repr

/-- A matrix or winner-list instruction in flight: the gangs that issued it (one, or the four of a watch in issue
order), the scalar operands read at issue (R235), the quadrants of its hearths and those that have performed it, the
gangs and registers that it reads asynchronously and that were overwritten (R88), whether the words of a joint operation
differed (R223), the vector registers that it makes pending (R87), the place of a joint instruction among those of each
gang (R223), the abandoned and skipped counts of each gang (R220), and the gangs whose destination a deferred trap has left
undefined (R231). -/
structure HOp where
  id      : Nat
  crew    : Nat
  parts   : List HPart
  instr   : Instr
  blk     : List Word
  stage   : HStage
  quads   : List Nat
  started : List Nat
  taint   : List (Nat × Nat)
  bad     : Bool
  dsts    : List Nat
  n       : Nat
  counts  : List (Nat × Word × Word)
  lost    : List Nat
  deriving DecidableEq, Repr

/-- A matrix or winner-list instruction that has completed in the gang of `part`, whose attached flag is still busy, so that its
interval of R88 goes on there. `renewed` are the cells of its results that have been overwritten since: a gang, the rows from one number to
below another, and the columns, which repeat every 32; a list that has been replaced stands there with all its rows. -/
structure Tail where
  hop  : HOp
  part : HPart
  renewed : List (Nat × Nat × Nat × BitVec 32)
  deriving DecidableEq, Repr

/-- A line of a core's L1 (R153). -/
structure L1Line where
  core : Nat
  asid : Nat
  line : Nat
  data : List Byte
  deriving DecidableEq, Repr

/-- A TLB entry of a slice (R281): the leaf of the page at `base` (in the walked offset) and its level. -/
structure TlbEntry where
  die   : Nat
  slice : Nat
  asid  : Nat
  level : Nat
  base  : Nat
  pte   : Dword
  deriving DecidableEq, Repr

/-- A frame descriptor (Table 15-1). -/
structure Frame where
  state : Nat
  asid  : Nat
  next  : Nat
  count : Nat
  deriving DecidableEq, Repr

/-- R361: after bring-up every frame that is not retired is host-held. -/
def Frame.hostHeld : Frame := ⟨2, 0, 0, 0⟩

/-- A frame pool (R284): the free list from its head, and the frames being scrubbed. -/
structure Pool where
  free  : List Nat
  scrub : List Nat
  deriving DecidableEq, Repr

/-- A write parked on a busy page (R291): its operation and element, or, with `op` 0, an engine's or the host's bytes, where
`el` names the position behind its crane command and `elem` the element, or the place behind the last element for its stamp
or counter. `crew` is 0 for a write without a writer's crew, and `at_` is its place in the order of arrival as it parked (R291). -/
structure ParkedWrite where
  crew : Nat
  op   : Nat
  el   : Nat
  va   : Nat
  data : List Byte
  add  : Bool
  host : Bool
  elem : Nat
  at_  : Nat
  deriving DecidableEq, Repr

/-- A busy page (R292): `key` is (asid * 4 + die) * 2^34 + page number; `waiting` says that its sequence met an empty
pool and waits for a frame (R293). -/
structure Busy where
  key     : Nat
  waiting : Bool
  writes  : List ParkedWrite
  deriving DecidableEq, Repr

/-- What a crew is registered on (R200, R285, R307). -/
inductive RegOn where
  | page (asid die base size : Nat)
  | pool (asid die : Nat)
  | berth (key : Nat)
  deriving DecidableEq, Repr

/-- A registration; the crew's missing-page count is the number of its registrations. -/
structure Reg where
  crew : Nat
  on   : RegOn
  deriving DecidableEq, Repr

/-- Table 16-2. -/
inductive BerthSt where
  | free | pending | landed | faulted
  deriving DecidableEq, Repr

/-- R300: none, a redeem that waits at the slice, or a redeem that has become a faulted access. -/
inductive Claim where
  | none
  | waiting (op : Nat)
  | faulted (op : Nat)
  deriving DecidableEq, Repr

/-- A berth (R300): ticket data, the level and id at whose completion it is reclaimed (R310, R346), claim and moored bytes
(R302); `page` is the base and size of the page that a faulted fetch waits for (R200); `dropped` marks a PENDING berth that frees when its fetch ends, and `retry` a fetch that
is tried again; `seen` is the place at which the fetch arrived (R291). -/
structure Berth where
  st      : BerthSt
  claim   : Claim
  gen     : Nat
  asid    : Nat
  life    : Nat
  levelId : Nat
  addr    : Nat
  len     : Nat
  cause   : Nat
  data    : List Byte
  dropped : Bool
  retry   : Bool
  page    : Nat × Nat
  seen    : Nat
  deriving DecidableEq, Repr

/-- A FREE berth at generation 1 (R299). -/
def Berth.init : Berth := ⟨.free, .none, 1, 0, 0, 0, 0, 0, 0, [], false, false, (0, 0), 0⟩

/-- A token bucket (R295) in 1/256 tokens, and the cycle up to which it has gained its rate. -/
structure Bucket where
  credit : Nat
  upTo   : Nat
  deriving DecidableEq, Repr

/-- The fault ring of a context (R199, R315): the number of the last record posted, the records still to post, and whether the
first of them has been written and its stamp has not (R11). -/
structure FaultRing where
  seq     : Nat
  pending : List (BitVec 256)
  wrote   : Bool
  deriving DecidableEq, Repr

/-- A request that has reached its slice (R295, R296): its slice and context, and its name: an element of an operation
(`cmd` 0), an address of a crane command of a crew (its position plus one), or a berth whose fetch is tried again; its tokens, and
its place in the order of arrival. -/
structure Waiter where
  slice : Nat
  asid  : Nat
  who   : Nat
  cmd   : Nat
  at_   : Nat
  units : Nat
  seen  : Nat
  deriving DecidableEq, Repr

/-- A request that the prefix engine of a die has accepted and has not performed (R328): its tree's header as read, its number q,
and the operation, whose gang takes its trap. -/
structure PfxJob where
  die  : Nat
  head : Nat
  q    : Nat
  op   : Op
  deriving DecidableEq, Repr

/-- The quay and the memory behind it. `since` is, by asid * 4 + die, the cycle from which a context holds a crew on a die;
`waits` are the requests that wait for tokens in order of arrival, `paid` those that the slice has admitted and that wait there for
something else, `arrivals` numbers them, and `rr` is the context that a slice admitted last (R296). -/
structure Quay where
  mem     : Map Byte
  roots   : Map (Option Nat)
  tlb     : List TlbEntry
  frames  : Map Frame
  pools   : Map Pool
  busy    : List Busy
  regs    : List Reg
  berths  : Map Berth
  fetches : List Nat
  buckets : Map Bucket
  spare   : Map Nat
  since   : Map (Option Nat)
  waits   : List Waiter
  paid    : List Waiter
  arrivals : Nat
  rr      : Map Nat
  pfx     : List PfxJob
  deriving DecidableEq, Repr

/-- The life of a launch (R345, R346). -/
inductive LaunchSt where
  | queued | eligible | complete
  deriving DecidableEq, Repr

/-- An accepted launch: its descriptor, the crew count once fixed, crews placed and ended, the marks of Table 20-4,
its places in the orders of acceptance and of eligibility, whether its record is written or not wanted (R373), and the host
queue pair (function * 8 + pair) and submission that it answers (R363). -/
structure Launch where
  desc      : BitVec 512
  part      : Nat
  st        : LaunchSt
  fixed     : Bool
  ncrews    : Nat
  placed    : Nat
  ended     : Nat
  cancelled : Bool
  error     : Bool
  opened    : Nat
  order     : Nat
  recorded  : Bool
  pair      : Option (Nat × Nat)
  deriving DecidableEq, Repr

/-- A graph, phase or job instance (R346, R347); `opened` is its place in the order of first naming; `phase` and
`job` are the levels above it. -/
structure LevelInst where
  closed    : Bool
  complete  : Bool
  cancelled : Bool
  error     : Bool
  out       : Nat
  opened    : Nat
  phase     : Nat
  job       : Nat
  deriving DecidableEq, Repr

/-- The pre-emption ladder of a context (R206, R353): the step reached (0: none), the cycle of each die at which it started,
the dies whose grace timer has expired, and the cycle of each of them at which it did. -/
structure Ladder where
  step   : Nat
  starts : Map Nat
  dies   : List Nat
  grace  : Map Nat
  deriving DecidableEq, Repr

/-- The harbour master. Tables are keyed by ASID, by asid * 65536 + id (launches), by (asid * 4 + level) * 65536 + id
(levels), by partition * 8 + queue (slipway), by partition (`robin`, a core key), by partition * 256 + core key (`passed`)
and by core key. -/
structure Harbour where
  ctx      : Map (BitVec 512)
  launches : Map (Option Launch)
  levels   : Map (Option LevelInst)
  nextId   : Map Nat
  slip     : Map (List Nat)
  orders   : Nat
  robin    : Map Nat
  passed   : Map Nat
  ladder   : Map Ladder
  split    : Map Nat
  splitP   : Map (Option Nat)
  qmap     : Map Nat
  qmapP    : Map (Option Nat)
  deriving DecidableEq, Repr

/-- A completion entry still to be written (R363). -/
structure CEntry where
  kind   : Nat
  status : Nat
  launch : Nat
  sseq   : Nat
  deriving DecidableEq, Repr

/-- A queue pair (Table 22-1). -/
structure QPair where
  qbase   : Dword
  cbase   : Dword
  qcfg    : Word
  sqemit  : Dword
  sqtaken : Dword
  cqemit  : Dword
  cqseen  : Dword
  recregs : Dword
  pend    : List CEntry
  deriving DecidableEq, Repr

def QPair.init : QPair := ⟨0, 0, 0, 0, 0, 0, 0, 0, []⟩

/-- An SPDM response (R372). -/
inductive Spdm where
  | version (v : Nat)
  | capabilities
  | algorithms
  | digests (d : BitVec 256)
  | certificate (slot : Nat) (chain : List Byte)
  | challenge (slot : Nat) (sig : BitVec 512)
  | measurements (index : Nat) (vals : List (BitVec 256)) (sig : BitVec 512)
  deriving DecidableEq, Repr

/-- A record still to be appended (R373): function * 8 + pair, submission, launch key (0 for a refused one), descriptor, and
the region list as read with the submission (R374). -/
structure RecReq where
  pair    : Nat
  sseq    : Nat
  launch  : Nat
  desc    : BitVec 512
  regions : List (Nat × Nat)
  deriving DecidableEq, Repr

/-- The host interface (22). `bar` holds the plain registers by function * 2^23 + offset; queue pairs are keyed by
function * 8 + pair; `late` names the rings that advanced while cause entries were dropped (R366) with kind,
source, ASID, partition and last sequence number; `routeOld` holds, for a peer whose route was written, the routes before,
oldest first, each with the elements (operation * 64 + element) that were on their way under it (R370). What the device meets and
does not decide: `refuses` are the spans of a context (ASID, virtual address, length) that the host or a peer refuses to an engine
of this device (R367, R369), `absents` are pages that are absent at a peer when an engine comes to them (ASID, number of the peer's
die, base, size; R280), `fails` is the step of Table 22-7 at which its bring-up fails (0: none), and `badRows` are the frames
that the memory test of step 2 retires. -/
structure HostIf where
  step      : Nat
  ready     : Bool
  recovery  : Bool
  stepping  : Nat
  bar       : Map Dword
  pairs     : Map QPair
  fwstat    : Nat
  fwimage   : List Byte
  flash     : List Byte
  running   : List Byte
  fusedVer  : Nat
  causeemit : Nat
  causeseen : Nat
  causeover : Bool
  late      : Map (Option (Nat × Nat × Nat))
  mgcmd     : Dword
  mgstat    : Dword
  recpos    : Nat
  recs      : List RecReq
  ports     : Map PortState
  routeOld  : Map (List (Nat × List Nat))
  clock     : Map Nat
  spdm      : List Spdm
  reads     : List (Option (List Byte))
  interrupts : Nat
  refuses   : List (Nat × Nat × Nat)
  absents   : List (Nat × Nat × Nat × Nat)
  fails     : Nat
  badRows   : List Nat
  deriving DecidableEq, Repr

/-- Whose turn it is: a stream of the gang in a slot, an event of the opcode table, or the end of a cycle of a die, whose clock is
its own (R1, R23). -/
inductive Turn where
  | scalar (g : Nat)
  | lane (g : Nat)
  | act (i : Instr)
  | cycle (die : Nat)
  deriving DecidableEq, Repr

/-- The device. `issued` names the ports that have issued in this cycle, by 2 * slot key of the gang + 1 for a lane port
(R92); `tails` are the matrix and winner-list instructions that have completed in a gang and whose interval of R88 goes on there;
`images` are the save images of the crews that are out, by crew (R205); `puts` names the stores to peers that
outlive their crews, with the key of their job (R346, R352). -/
structure State where
  agenda    : List Turn
  cur       : Nat
  fresh     : Nat
  nextOp    : Nat
  nextCrew  : Nat
  cycles    : Map Nat
  issued    : List Nat
  resets    : Nat
  powered   : Bool
  gangs     : Map Gang
  crews     : Map Crew
  ops       : List Op
  hops      : List HOp
  tails     : List Tail
  puts      : List (Nat × Nat)
  images    : Map (Map Byte)
  fifo      : Map (List Byte)
  vacqQ     : Map (List (Nat × Nat))
  l1        : List L1Line
  quay      : Quay
  rings     : Map FaultRing
  harb      : Harbour
  host      : HostIf
  hostMem   : Map Byte
  peerMem   : Map Byte
  deriving DecidableEq, Repr

/-- The quay after bring-up step 4 (Table 22-7). -/
def Quay.reset : Quay := ⟨[], [], [], [], [], [], [], [], [], [], [], [], [], [], 0, [], []⟩

/-- The harbour master after reset: `coresplit` and `quadmap` read 0 (R360). -/
def Harbour.reset : Harbour := ⟨[], [], [], [], [], 0, [], [], [], [], [], [], []⟩

/-- The host interface at the end of bring-up, ready (R375, log 4). -/
def HostIf.reset : HostIf :=
  { step := 6, ready := true, recovery := false, stepping := 0, bar := [], pairs := [], fwstat := 0, fwimage := [],
    flash := [], running := [], fusedVer := 0, causeemit := 0, causeseen := 0, causeover := false, late := [],
    mgcmd := 0, mgstat := 0, recpos := 0, recs := [], ports := [], routeOld := [], clock := [], spdm := [], reads := [], interrupts := 0,
    refuses := [], absents := [], fails := 0, badRows := [] }

/-- The device after reset, its bring-up complete (R375, log 4): no context, no launch, no crew. -/
def State.reset : State :=
  { agenda := [], cur := 0, fresh := 0, nextOp := 1, nextCrew := 1, cycles := [], issued := [], resets := 0, powered := true,
    gangs := [], crews := [], ops := [], hops := [], tails := [], puts := [], images := [], fifo := [], vacqQ := [], l1 := [], quay := Quay.reset,
    rings := [], harb := Harbour.reset, host := HostIf.reset, hostMem := [], peerMem := [] }

end Sys2Proof.Machine
end

