-- ==== Sys2Proof/Machine/Ops.lean ====
section
/-! DEFINITION. The named operations over the state: registers and records, physical memory, operations in flight,
taking a trap and leaving its handler (spec 01, 04, 05 R112, 09 R191-R196, 20 Tables 20-1 and 20-2). -/

namespace Sys2Proof.Machine

/-- What `exec` and `step` answer. -/
abbrev Res := Host.Outcome State Fault Refusal

/-- Bits [hi:lo] of a number. -/
def bits (n hi lo : Nat) : Nat := n / 2 ^ lo % 2 ^ (hi + 1 - lo)

/-! ### Records -/

def State.gang (s : State) (k : Nat) : Gang := Map.get Gang.empty s.gangs k
def State.setGang (s : State) (k : Nat) (g : Gang) : State := { s with gangs := Map.put Gang.empty s.gangs k g }
def State.crew (s : State) (c : Nat) : Crew := Map.get Crew.empty s.crews c
def State.setCrew (s : State) (c : Nat) (w : Crew) : State := { s with crews := Map.put Crew.empty s.crews c w }

/-- The gang whose turn it is, and its crew. -/
def State.me (s : State) : Gang := s.gang s.cur
def State.setMe (s : State) (g : Gang) : State := s.setGang s.cur g
def State.myCrew (s : State) : Crew := s.crew s.me.crew

/-- A field of a launch descriptor (Table 20-2). -/
def Crew.d (w : Crew) (hi lo : Nat) : Nat := bits w.desc.toNat hi lo
def Crew.asid (w : Crew) : Nat := w.launch / 65536
def Crew.launchId (w : Crew) : Nat := w.launch % 65536
def Crew.codeBase (w : Crew) : Nat := w.d 63 0
def Crew.scalarSize (w : Crew) : Nat := 256 * w.d 271 256
def Crew.laneBase (w : Crew) : Nat := w.codeBase + w.scalarSize
def Crew.laneSize (w : Crew) : Nat := 256 * w.d 287 272
def Crew.ngangs (w : Crew) : Nat := w.d 324 320 + 1
def Crew.hasWatches (w : Crew) : Bool := w.d 338 338 == 1
def Crew.scrSize (w : Crew) : Nat := 256 * w.d 352 340
def Crew.ringOff (w : Crew) : Nat := 64 * w.d 366 353
/-- R343: 2^ringlen entries, 0 without a ring. -/
def Crew.ringLen (w : Crew) : Nat := if w.d 370 367 = 0 then 0 else 2 ^ w.d 370 367
/-- R193: none where the descriptor names no handler. -/
def Crew.handler (w : Crew) : Option Nat := if w.d 255 224 = 0xFFFFFFFF then none else some (w.d 255 224)
def Crew.prio (w : Crew) : Nat := w.d 375 374

/-- The crane of a crew works (R193, R202, R206). -/
def Crew.craneRuns (w : Crew) : Bool := w.phase == .resident || w.phase == .halting || w.phase == .stopping

/-- The place of a slot key (05 Table 5-5, `where`). -/
def slotDie (k : Nat) : Nat := bits k 13 12
def slotCore (k : Nat) : Nat := k / 64
def slotQuad (k : Nat) : Nat := k / 16

/-- The context record that the host has not written: kill 24 and grace 20 (Table 20-1), every other field 0 (log 1). -/
def ctxReset : BitVec 512 := BitVec.ofNat 512 (24 * 2 ^ 100 + 20 * 2 ^ 94)
/-- A field of the context record of an ASID (Table 20-1). -/
def State.ctxField (s : State) (asid hi lo : Nat) : Nat := bits (Map.get ctxReset s.harb.ctx asid).toNat hi lo

/-! ### Scalar registers (R28, R3) -/

/-- `s0` reads as zero. -/
def Gang.rs (g : Gang) (r : Nat) : Word := if r = 0 then 0 else Map.get 0 g.sreg r
/-- A write to `s0` is discarded. -/
def Gang.ws (g : Gang) (r : Nat) (v : Word) : Gang := if r = 0 then g else { g with sreg := Map.put 0 g.sreg r v }
/-- The 64-bit value of the pair whose even register is `r`. -/
def Gang.rp (g : Gang) (r : Nat) : Dword := g.rs (r + 1) ++ g.rs r
def Gang.wp (g : Gang) (r : Nat) (v : Dword) : Gang :=
  (g.ws r (v.extractLsb' 0 32)).ws (r + 1) (v.extractLsb' 32 32)
/-- The even register of a pair. -/
abbrev ev (p : Pair) : Nat := 2 * p.val
/-- R24: the program counter moves past `n` bytes. -/
def Gang.adv (g : Gang) (n : Word) : Gang := { g with pc := g.pc + n }

/-! ### Vector registers, tags and predicates -/

def Gang.rv (g : Gang) (r l : Nat) : Word := Map.get 0 g.vreg (r * 32 + l)
def Gang.wv (g : Gang) (r l : Nat) (v : Word) : Gang := { g with vreg := Map.put 0 g.vreg (r * 32 + l) v }
/-- Write a register in the lanes of a mask, from lane 31 down. -/
def wvLanes (r : Nat) (act : BitVec 32) (val : Nat → Word) : Nat → Map Word → Map Word
  | 0, m => m
  | l + 1, m =>
    let m' := wvLanes r act val l m
    if act.getLsbD l then Map.put 0 m' (r * 32 + l) (val l) else m'
def Gang.wvs (g : Gang) (r : Nat) (act : BitVec 32) (val : Nat → Word) : Gang :=
  { g with vreg := wvLanes r act val 32 g.vreg }
def Gang.tag (g : Gang) (r : Nat) : Ty := Map.get Ty.raw32 g.vtag r
def Gang.setTag (g : Gang) (r : Nat) (t : Ty) : Gang := { g with vtag := Map.put Ty.raw32 g.vtag r t }
def Gang.pred (g : Gang) (p : Nat) : BitVec 32 := Map.get 0 g.preg p
/-- R82: the mask-is-zero flag of a predicate follows each write. The bits of lanes that are not live stay false. -/
def Gang.setPred (g : Gang) (p : Nat) (v : BitVec 32) : Gang :=
  { g with preg := Map.put 0 g.preg p (v &&& g.live)
           mz := if v &&& g.live = 0 then g.mz ||| BitVec.twoPow 16 p else g.mz &&& ~~~(BitVec.twoPow 16 p) }

/-- The tag of a tile register is f32 at admission (Table 4-1); tiles are named within the gang's window. -/
def Gang.ttag (g : Gang) (t : Nat) : Ty := Map.get Ty.f32 g.tileTag t
def Gang.setTtag (g : Gang) (t : Nat) (y : Ty) : Gang := { g with tileTag := Map.put Ty.f32 g.tileTag t y }
def tileKey (t i j : Nat) : Nat := t * 4096 + i * 64 + j
def Gang.rt (g : Gang) (t i j : Nat) : Word := Map.get 0 g.tile (tileKey t i j)
def Gang.wt (g : Gang) (t i j : Nat) (v : Word) : Gang := { g with tile := Map.put 0 g.tile (tileKey t i j) v }

def Gang.list (g : Gang) (w : Nat) : WList := Map.get WList.init g.wl w
def Gang.setList (g : Gang) (w : Nat) (l : WList) : Gang := { g with wl := Map.put WList.init g.wl w l }

/-! ### Completion flags (R86) -/

def Gang.flag (g : Gang) (i : Nat) : FlagSt := Map.get ⟨0, 0⟩ g.flags i
def Gang.setFlag (g : Gang) (i : Nat) (f : FlagSt) : Gang := { g with flags := Map.put ⟨0, 0⟩ g.flags i f }
def FlagSt.busy (f : FlagSt) : Bool := f.clauses != 0 || f.ops != 0
/-- A clause that names a set-flag starts (`up`) or ends; 15 names none. -/
def Gang.flagClause (g : Gang) (i : Nat) (up : Bool) : Gang :=
  if 12 ≤ i then g
  else
    let f := g.flag i
    g.setFlag i { f with clauses := if up then f.clauses + 1 else f.clauses - 1 }
/-- An attached operation issues (`up`) or completes. -/
def Gang.flagOp (g : Gang) (i : Option Nat) (up : Bool) : Gang :=
  match i with
  | none => g
  | some i =>
    let f := g.flag i
    g.setFlag i { f with ops := if up then f.ops + 1 else f.ops - 1 }
/-- A clause leaves the queue, whether it retires or a trap drops it: a started one releases its set-flags. -/
def Gang.endClause (g : Gang) (c : Clause) : Gang :=
  if c.started then (g.flagClause c.setA false).flagClause c.setB false else g
def Gang.endClauses (g : Gang) : List Clause → Gang
  | [] => { g with clauses := [], sWait := false }
  | c :: cs => (g.endClause c).endClauses cs

/-! ### Undefined values (R5) -/

/-- The n-th value from here that the manual leaves undefined (log 3). -/
def State.free (s : State) (n : Nat) : Word := Config.freeWord (s.fresh + n)
def State.useFree (s : State) (n : Nat) : State := { s with fresh := s.fresh + n }

/-! ### Physical memory, host memory, peer memory, scratchpad -/

/-- The canonical form of a memory (log 7: an unlisted byte reads as 0). -/
def Memory.wf (m : List Host.Cell) : Bool := Map.wf (0 : Byte) m

def State.readPhys (s : State) (pa n : Nat) : List Byte := Map.getList 0 s.quay.mem pa n
def State.writePhys (s : State) (pa : Nat) (bs : List Byte) : State :=
  { s with quay := { s.quay with mem := Map.putList 0 s.quay.mem pa bs } }
def State.readHost (s : State) (a n : Nat) : List Byte := Map.getList 0 s.hostMem a n
def State.writeHost (s : State) (a : Nat) (bs : List Byte) : State :=
  { s with hostMem := Map.putList 0 s.hostMem a bs }
def State.readPeer (s : State) (a n : Nat) : List Byte := Map.getList 0 s.peerMem a n
def State.writePeer (s : State) (a : Nat) (bs : List Byte) : State :=
  { s with peerMem := Map.putList 0 s.peerMem a bs }
def Crew.readScr (w : Crew) (o n : Nat) : List Byte := Map.getList 0 w.scratch o n
def Crew.writeScr (w : Crew) (o : Nat) (bs : List Byte) : Crew := { w with scratch := Map.putList 0 w.scratch o bs }

/-! ### Operations in flight -/

/-- The operation with an identity. -/
def findOp : List Op → Nat → Option Op
  | [], _ => none
  | o :: os, id => if o.id = id then some o else findOp os id
def State.op (s : State) (id : Nat) : Option Op := findOp s.ops id
def State.setOp (s : State) (o : Op) : State :=
  { s with ops := s.ops.map (fun p => if p.id = o.id then o else p) }
def State.dropOp (s : State) (id : Nat) : State := { s with ops := s.ops.filter (fun p => p.id != id) }
def findHop : List HOp → Nat → Option HOp
  | [], _ => none
  | o :: os, id => if o.id = id then some o else findHop os id
def State.hop (s : State) (id : Nat) : Option HOp := findHop s.hops id
def State.setHop (s : State) (o : HOp) : State :=
  { s with hops := s.hops.map (fun p => if p.id = o.id then o else p) }

/-- The store queue of a gang, oldest first (R156). -/
def State.queue (s : State) (k : Nat) : List Op :=
  s.ops.filter (fun o => o.gang == k && o.inQ && o.stage == .queued)

/-- An operation takes its place in issue order; an entry of an empty store queue is at its head. -/
def State.issue (s : State) (o : Op) : State :=
  { s with ops := s.ops ++ [{ o with id := s.nextOp, head := if (s.queue o.gang).isEmpty then s.nextOp else 0 }]
           nextOp := s.nextOp + 1 }

/-- A fresh operation of the gang whose turn it is: a relaxed load at core scope without elements. -/
def State.baseOp (s : State) : Op :=
  { id := 0, gang := s.cur, crew := s.me.crew, asid := s.myCrew.asid, kind := .load, scr := false, scope := .core,
    ord := .rlx, mask := 0, colour := 0, inQ := false, stage := .sent, width := 4, els := [], dst := .none,
    flag := none, lane := false, pc := s.me.pc, info := 0, arg := [], status := 0, head := 0, left := 0, seen := 0,
    leftCores := [], frames := [] }

/-- R198: 32 entries behind a faulted head. -/
def State.queueFull (s : State) (k : Nat) : Bool :=
  match s.queue k with
  | [] => false
  | o :: os => o.els.any (fun e => e.st == .faulted) && decide (32 ≤ os.length)

/-! ### Traps (R191-R196) -/

/-- A deferred trap is reported to a gang (R191), with the cycle in which the report reaches it (R196). A gang that has ended
takes none. -/
def State.report (s : State) (k : Nat) (t : TrapInfo) : State :=
  let g := s.gang k
  if g.phase = .running then s.setGang k { g with reports := g.reports ++ [(Map.get 0 s.cycles (slotDie k), t)] } else s

/-- R223: the watch mismatch of one gang's part of a joint operation; the operation no longer holds its flag. -/
def State.mismatch (s : State) (h : HOp) : List HPart → State
  | [] => s
  | p :: ps =>
    let s' := s.report p.gang ⟨0x0D, true, true, p.pc, p.info, p.act, 0, 1, p.seq, 0⟩
    State.mismatch (s'.setGang p.gang ((s'.gang p.gang).flagOp p.flag false)) h ps

/-- Joint instructions of other gangs of a watch that a gang has not matched (R223). -/
def State.unmatched (s : State) (k : Nat) : List HOp :=
  let g := s.gang k
  s.hops.filter (fun h => h.stage == .joint && h.crew == g.crew
    && h.parts.any (fun p => (s.gang p.gang).num / 4 == g.num / 4) && !h.parts.any (fun p => p.gang == k))

/-- The gangs of a watch: the slot keys of the four gangs of gang `k`. -/
def State.watchOf (s : State) (k : Nat) : List Nat :=
  let g := s.gang k
  (((s.crew g.crew).slots).drop (g.num / 4 * 4)).take 4

/-- R223: a gang that exits or traps breaks them. -/
def State.jointBreak (s : State) (k : Nat) : State :=
  let hs := s.unmatched k
  hs.foldl (fun s h => s.mismatch h h.parts) { s with hops := s.hops.filter (fun h => !hs.contains h) }

/-- R193, R195: the crew begins to stop; CREW_STOP ends it. A crew that is stopping already keeps its reason. -/
def State.stopCrew (s : State) (c : Nat) (i : StopInfo) : State :=
  let w := s.crew c
  if w.phase = .resident ∨ w.phase = .halting then s.setCrew c { w with phase := .stopping, stop := some i } else s

/-- Table 9-2: the traps that record an address or a ticket word; R265 adds the offset of a bad layout record. -/
def hasAddr (i : TrapInfo) : Bool := [5, 6, 7, 9, 0x14, 0x0A, 0x0B, 0x0C].contains i.cause || (i.cause == 1 && i.source % 8 == 3)

/-- A matrix or winner-list instruction has begun in some hearth: it has performed there, or taken bytes of its stream. -/
def HOp.begun (h : HOp) : Bool :=
  !h.started.isEmpty || (match h.instr with | .mxv _ => decide (10 < h.blk.length) | _ => false)

/-- R231: a deferred trap leaves the destinations of the trapping gang's instructions that have begun undefined. -/
def State.loseBegun (s : State) (k : Nat) : State :=
  { s with hops := s.hops.map (fun (h : HOp) =>
      if h.begun && h.parts.any (fun p => p.gang == k) then { h with lost := h.lost ++ [k] } else h) }

/-- Table 9-2. -/
def TrapState.record (t : TrapState) (i : TrapInfo) : TrapState :=
  { tcause := BitVec.ofNat 32 (i.cause + (if i.deferred then 256 else 0) + (if i.lane then 512 else 0) + 1024 * i.drops)
    tpc := i.pc, tinfo := i.info, tlanes := i.lanes, taddr := if hasAddr i then i.addr else 0, tcount := t.tcount + 1, handler := true }

/-- TAKING AN EXCEPTION (R192, R193): the trap state is written and the gang enters handler mode at the launch's
handler; without a handler, or in handler mode, the crew stops. -/
def State.takeTrap (s : State) (k : Nat) (t : TrapInfo) : State :=
  let g := s.gang k
  let w := s.crew g.crew
  match w.handler, g.trap.handler with
  | some h, false =>
    let s1 := (s.setGang k { g with trap := g.trap.record t, pc := BitVec.ofNat 32 h, trapWait := none, parked := false,
                                    sWait := false }).jointBreak k
    if t.deferred then s1.loseBegun k else s1
  | _, _ =>
    (s.setGang k { g with trap := g.trap.record t, trapWait := none }).stopCrew g.crew ⟨k, t, true, true⟩

/-- Leaving handler mode (R194). -/
def Gang.leaveHandler (g : Gang) : Gang := { g with trap := { g.trap with handler := false } }

/-- A trap that waits is taken once the clauses before it have retired (R192). -/
def State.settleTrap (s : State) (k : Nat) : State :=
  let g := s.gang k
  match g.trapWait with
  | some t => if g.clauses = [] ∧ g.wait = .none then s.takeTrap k t else s
  | none => s

/-- A trap of a gang whose clauses are discarded: a lane trap (R48) or a deferred one (R192). It replaces a scalar
trap that waits. While the scalar stream is inside an instruction, it is taken when that instruction ends. -/
def State.dropTrap (s : State) (k : Nat) (t : TrapInfo) : State :=
  let g := s.gang k
  let t' := { t with drops := g.clauses.length }
  let g' := g.endClauses g.clauses
  if g.wait = .none then (s.setGang k g').takeTrap k t' else s.setGang k { g' with trapWait := some t' }

/-- R201: the source of a lane instruction's traps, 8 more for a store or atomic. -/
def laneSource (i : Instr) : Nat :=
  match i with
  | .vredeem _ | .vredeemRemote _ => 2
  | .vcpidx _ => 3
  | .vst _ | .vsts _ | .vatom _ | .vatoms _ => 9
  | _ => 1

/-- The next instruction of the head clause of the gang whose turn it is. -/
def State.laneInstr (s : State) : Option Instr :=
  match s.me.clauses with
  | [] => none
  | c :: _ => c.body[c.next]?

/-- A precise scalar trap at the instruction of the gang whose turn it is; `source` is 8 more for a store or atomic. -/
def State.scalarTrap (s : State) (cause : Nat) (info : Word) (addr : Dword) (source : Nat := 0) : State :=
  let g := s.me
  let t : TrapInfo := ⟨cause, false, false, g.pc, info, 0, addr, source, 0, 0⟩
  if g.clauses = [] then s.takeTrap s.cur t else s.setMe { g with trapWait := some t }

/-- A precise lane trap at the next instruction of the head clause. -/
def State.laneTrap (s : State) (cause : Nat) (lanes : BitVec 32) (addr : Dword) : State :=
  let source := (s.laneInstr.map laneSource).getD 1
  match s.me.clauses with
  | [] => s
  | c :: _ => s.dropTrap s.cur ⟨cause, false, true, BitVec.ofNat 32 c.off, BitVec.ofNat 32 (c.next + 1), lanes, addr, source, 0, 0⟩

end Sys2Proof.Machine
end

