-- ==== Sys2Proof/Machine/Translate.lean ====
section
/-! DEFINITION. Homes, page walks and the TLB (spec 01 R13-R15, 15 R275-R281): what an address names and where it
lies. -/

namespace Sys2Proof.Machine

/-- The homes of Table 1-4. -/
inductive Home where
  | die (d : Nat)
  | host
  | window
  | peer (dev : Nat)
  deriving DecidableEq, Repr

/-- R13: bits [63:57] zero and a listed home; none is cause 0x06. -/
def homeOf (va : Nat) : Option Home :=
  let h := va / 2 ^ 50
  if h ≤ 3 then some (.die h)
  else if h = 16 then some .host
  else if h = 24 then some .window
  else if 64 ≤ h ∧ h ≤ 127 then some (.peer (h - 64))
  else none

/-- R15. -/
def sliceOf (va : Nat) : Nat := bits va 14 9

/-- R275: a die holds 192 GB. -/
def paOk (pa : Nat) : Bool := decide (pa < 2 ^ 40) && decide (bits pa 37 0 < 192 * 2 ^ 30)

/-- Table 15-2. -/
def lvlIndex (l off : Nat) : Nat :=
  match l with
  | 0 => bits off 49 39 | 1 => bits off 38 30 | 2 => bits off 29 21 | _ => bits off 20 16
def tblSize (l : Nat) : Nat :=
  match l with
  | 0 => 16384 | 1 => 4096 | 2 => 4096 | _ => 256
/-- The region of one entry of a level (R200); Table 15-2 for leaves. -/
def lvlSize (l : Nat) : Nat :=
  match l with
  | 0 => 2 ^ 39 | 1 => 2 ^ 30 | 2 => 2 ^ 21 | _ => 2 ^ 16

/-- The fields of a PTE (Table 15-3). -/
def pteV (e : Nat) : Bool := e.testBit 63
def pteL (e : Nat) : Bool := e.testBit 62
def pteKind (e : Nat) : Nat := bits e 61 60
def pteR (e : Nat) : Bool := e.testBit 59
def pteW (e : Nat) : Bool := e.testBit 58
def pteFrame (e : Nat) : Nat := bits e 39 16
def ptePa (e : Nat) : Nat := bits e 39 8 * 256
/-- The kinds of leaf. -/
abbrev kNormal : Nat := 0
abbrev kSparse : Nat := 1
abbrev kPooled : Nat := 2
abbrev kCow : Nat := 3
/-- A leaf PTE. -/
def mkLeaf (kind : Nat) (r w : Bool) (frame : Nat) : Nat :=
  2 ^ 63 + 2 ^ 62 + kind * 2 ^ 60 + (if r then 2 ^ 59 else 0) + (if w then 2 ^ 58 else 0) + frame * 2 ^ 16

/-- How a walk ends: V = 0 at a level, a malformed entry, or a leaf at a level with the place of its PTE. -/
inductive Walk where
  | absent (level : Nat)
  | bad
  | leaf (level pte : Nat) (at_ : Nat)
  deriving DecidableEq, Repr

/-- The second row of Table 15-4. -/
def pteBad (l e : Nat) : Bool :=
  bits e 57 40 != 0
  || (if pteL e then
        l == 0 || (pteKind e != 0 && l != 3)
        || (pteKind e != kSparse && (bits e 15 8 != 0 || !paOk (pteFrame e * 65536)))
      else
        l == 3 || pteKind e != 0 || !paOk (ptePa e) || ptePa e % tblSize (l + 1) != 0)

/-- R278: from a table at a level, with `n` levels left. -/
def walkGo (s : State) (off : Nat) : Nat → Nat → Nat → Walk
  | 0, _, _ => .bad
  | n + 1, l, t =>
    let pa := t + 8 * lvlIndex l off
    let e := leNat (s.readPhys pa 8)
    if !pteV e then .absent l
    else if pteBad l e then .bad
    else if pteL e then .leaf l e pa
    else walkGo s off n (l + 1) (ptePa e)

/-- R278: the walk of a 50-bit walked offset in the tables of (ASID, die). -/
def State.walk (s : State) (asid die off : Nat) : Walk :=
  match Map.get none s.quay.roots (asid * 4 + die) with
  | none => .absent 0
  | some t => walkGo s off 4 0 t

/-- The outcome of a translation (Table 15-4): a physical address with the kind of leaf and its PTE, an absent page
(its base and size, and whether it is sparse-reserved), or cause 0x07. -/
inductive Tr where
  | ok (pa : Nat) (kind : Nat)
  | absent (base size : Nat)
  | perm
  deriving DecidableEq, Repr

/-- The access check on a leaf (Table 15-4). The walk checks the frame number that the leaf holds, the page's first; a frame of a
larger page that the access reaches beyond the memory of its die names nothing (R275), and has cause 0x07 (log 26). -/
def leafTr (off l e : Nat) (write : Bool) : Tr :=
  if pteKind e = kSparse then .absent (off / lvlSize l * lvlSize l) (lvlSize l)
  else if (!write && !pteR e) || (write && !pteW e && pteKind e != kCow) || !paOk (pteFrame e * 65536 + off % lvlSize l) then .perm
  else .ok (pteFrame e * 65536 + off % lvlSize l) (pteKind e)

def Walk.tr (w : Walk) (off : Nat) (write : Bool) : Tr :=
  match w with
  | .absent l => .absent (off / lvlSize l * lvlSize l) (lvlSize l)
  | .bad => .perm
  | .leaf l e _ => leafTr off l e write

/-- Translation by a walk. -/
def State.translate (s : State) (asid die off : Nat) (write : Bool) : Tr := (s.walk asid die off).tr off write

/-- The TLB entry of a slice that covers an offset (R281). -/
def tlbFind (l : List TlbEntry) (die slice asid off : Nat) : Option TlbEntry :=
  l.find? (fun e => e.die == die && e.slice == slice && e.asid == asid && e.base == off / lvlSize e.level * lvlSize e.level)

/-- R281: a slice's TLB has 4,096 entries; a new one takes the place of those of its page, and of the oldest where the
TLB is full. -/
def tlbAdd (l : List TlbEntry) (e : TlbEntry) (off : Nat) : List TlbEntry :=
  let keep := l.filter (fun x => !(x.die == e.die && x.slice == e.slice && x.asid == e.asid
    && x.base == off / lvlSize x.level * lvlSize x.level))
  let own := keep.filter (fun x => x.die == e.die && x.slice == e.slice)
  (match own with
   | x :: _ => if 4096 ≤ own.length then keep.erase x else keep
   | [] => keep) ++ [e]

/-- Translation at a slice: from its TLB where an entry is there and still held, otherwise by a walk, whose leaf the
TLB may keep (R281: never one whose outcome is cause 0x08 or 0x07). -/
def State.slicePte (s : State) (die slice asid off : Nat) (write hit fill : Bool) : Walk × State :=
  match (if hit then tlbFind s.quay.tlb die slice asid off else none) with
  | some e => (.leaf e.level e.pte.toNat 0, s)
  | none =>
    let w := s.walk asid die off
    match w with
    | .leaf l e _ =>
      (match leafTr off l e write with
       | .ok _ _ =>
         if fill then
           let ent : TlbEntry := ⟨die, slice, asid, l, off / lvlSize l * lvlSize l, BitVec.ofNat 64 e⟩
           (w, { s with quay := { s.quay with tlb := tlbAdd s.quay.tlb ent off } })
         else (w, s)
       | _ => (w, s))
    | _ => (w, s)

/-- Translation of an engine's access or a fetch (R16): from the TLB of the home slice where it holds an entry, otherwise by a
walk (log 26). -/
def State.look (s : State) (asid die va : Nat) (write : Bool) : Tr :=
  let off := va % 2 ^ 50
  match tlbFind s.quay.tlb die (sliceOf va) asid off with
  | some e => leafTr off e.level e.pte.toNat write
  | none => s.translate asid die off write

/-- R282: a shootdown drops every TLB entry of the die that overlaps the page. -/
def State.shoot (s : State) (asid die base size : Nat) : State :=
  { s with quay := { s.quay with tlb := s.quay.tlb.filter (fun e =>
      !(e.die == die && e.asid == asid && decide (e.base < base + size) && decide (base < e.base + lvlSize e.level))) } }

/-- Read bytes of a context's memory at homes 0-3, block by block: each 512-byte block is translated at its slice. -/
def readVGo (s : State) (asid : Nat) : Nat → Nat → Nat → Option (List Byte)
  | 0, _, n => if n = 0 then some [] else none
  | fuel + 1, va, n =>
    if n = 0 then some []
    else
      let m := min n (512 - va % 512)
      match homeOf va with
      | some (.die d) =>
        match s.look asid d va false with
        | .ok pa _ => (readVGo s asid fuel (va + m) (n - m)).map (s.readPhys pa m ++ ·)
        | _ => none
      | _ => none

/-- Read `n` bytes of a context's memory; none where a page does not translate. -/
def State.readV (s : State) (asid va n : Nat) : Option (List Byte) := readVGo s asid (n / 512 + 2) va n

end Sys2Proof.Machine
end

