-- ==== Sys2Proof/Machine/Operands.lean ====
section
/-! DEFINITION. Operand forms: which registers an instruction reads and writes, the waits of both streams, the lanes
that act, the second source, elements of packed words and addresses (spec 04 R79-R90, 06 R120-R125, 07 R158-R161). -/

namespace Sys2Proof.Machine

/-! ### The scalar stream -/

/-- The scalar registers that a lane instruction reads (R38, Table 7-2, R235, R268, R305). -/
def laneSReads (i : Instr) : List Nat :=
  match i.laneParts with
  | none => []
  | some (op, f) =>
    let n := f.vb.val
    let base : List Nat :=
      if f.bsrc.val ≠ 1 then []
      else if op = 0x70 ∨ op = 0x71 ∨ op = 0x74 ∨ op = 0x78 ∨ op = 0x76 ∨ op = 0xA3 then [n, n + 1]
      else if op = 0x77 then [n, n + 1, n + 2, n + 3, n + 4]
      else if op = 0xA0 then [n, n + 1, n + 2] ++ (if f.typ.val = 8 then [n + 3, n + 4] else [])
      else if op = 0xA1 then [n, n + 1, n + 2, n + 5, n + 6, n + 7] ++ (if f.typ.val = 8 then [n + 3, n + 4] else [])
      else if op = 0xA4 then [n, n + 1, n + 2]
      else if op = 0xA5 then [n, n + 1, n + 2] ++ (if f.opx34 then [n + 3] else [])
      else [n]
    base ++ (if op = 0x76 ∧ f.x 7 7 = 1 then [f.x 6 0, f.x 6 0 + 1] else [])
      ++ (if op = 0xA1 ∧ f.x 20 14 ≠ 0 then [f.x 20 14, f.x 20 14 + 1] else [])

/-- The scalar registers that a lane instruction writes (R90). -/
def laneSWrites (i : Instr) : List Nat :=
  match i.laneParts with
  | none => []
  | some (op, f) =>
    if op = 0x56 ∨ op = 0x57 then [f.vd.val]
    else if op = 0x62 ∧ f.opx34 then (if f.x 3 0 = 11 then [f.vd.val, f.vd.val + 1] else [f.vd.val])
    else if op = 0x64 then [f.x 6 0, f.x 6 0 + 1]
    else []

/-- A register other than `s0` of one list stands in another. -/
def meets (a b : List Nat) : Bool := a.any (fun r => r != 0 && b.contains r)

/-- R90: an unretired clause holds a lane instruction that writes a scalar register of the instruction, or reads one that it
writes. -/
def Gang.clauseBlocked (g : Gang) (rd wr : List Nat) : Bool :=
  g.clauses.any (fun c => c.body.any (fun i =>
    meets rd (laneSWrites i) || meets wr (laneSWrites i) || meets wr (laneSReads i)))

/-- R83, R90: the scalar stream waits before an instruction that reads `rd` and writes `wr`. -/
def Gang.sBlocked (g : Gang) (rd wr : List Nat) : Bool :=
  meets rd g.spend || meets wr g.spend || g.clauseBlocked rd wr || (g.sWait && !g.clauses.isEmpty)

/-- R198: a gang parks at an instruction that reads or writes a register marked faulted. R90: one that waits for a clause
waits for every clause. -/
def Gang.sPark (g : Gang) (rd wr : List Nat) : Gang :=
  { g with parked := g.parked || meets rd g.sfault || meets wr g.sfault, sWait := g.sWait || g.clauseBlocked rd wr }

/-- A scalar instruction that reads `rd` and writes `wr`: it waits, or acts. -/
def scalarGo (s : State) (rd wr : List Nat) (k : State → Res) : Res :=
  if s.me.sBlocked rd wr then .next (s.setMe (s.me.sPark rd wr)) else k s

/-- A scalar instruction whose whole effect is on its own gang. -/
def scalarDo (s : State) (rd wr : List Nat) (f : Gang → Gang) : Res :=
  scalarGo s rd wr (fun s => .next (s.setMe (f s.me)))

/-- The two registers of a pair. -/
def pr (p : Pair) : List Nat := [2 * p.val, 2 * p.val + 1]

/-! ### Lanes -/

/-- R37: the lanes in which an instruction acts. -/
def Gang.act (g : Gang) (f : LaneWord) : BitVec 32 :=
  if f.ge then g.live &&& (if f.gn then ~~~(g.pred f.pn.val) else g.pred f.pn.val) else g.live

/-- The second source of Table 2-13 in a lane. -/
def Gang.b (g : Gang) (f : LaneWord) (l : Nat) : Word :=
  match f.bsrc.val with
  | 0 => g.rv f.vb.val l
  | 1 => g.rs f.vb.val
  | _ => f.ext

/-- What a lane instruction names: vector registers read and written, scalar registers read and written, and the
registers with the tag that each must carry (R81, R121). -/
structure LaneUse where
  rd   : List Nat
  wr   : List Nat
  srd  : List Nat
  swr  : List Nat
  tags : List (Nat × Ty)

/-- `n` registers from `r`. -/
def regs (r n : Nat) : List Nat := (List.range n).map (r + ·)
/-- `n` registers from `r` that must carry a tag; raw32 checks nothing. -/
def tagged (r n : Nat) (t : Ty) : List (Nat × Ty) := if t = .raw32 then [] else (regs r n).map (·, t)

/-- R87, R89: the lane stream waits. -/
def Gang.lBlocked (g : Gang) (u : LaneUse) : Bool :=
  (u.rd ++ u.wr).any (g.vpend.contains ·) || meets u.srd g.spend || meets u.swr g.spend

/-- R87, R198. -/
def Gang.lPark (g : Gang) (u : LaneUse) : Gang :=
  { g with parked := g.parked || (u.rd ++ u.wr).any (g.vfault.contains ·) || meets u.srd g.sfault
             || meets u.swr g.sfault }

/-- R79: the number of vector registers that the head clause may name. -/
def Gang.vlimit (g : Gang) : Nat :=
  match g.clauses with
  | [] => 64
  | c :: _ => 64 + 64 * c.blocks

/-- An element that has not been performed yet. -/
def El.open_ (e : El) : Bool := e.st == .todo || e.st == .faulted || e.st == .parked
/-- An operation marked faulted (R197). -/
def Op.faulted (o : Op) : Bool := o.els.any (fun e => e.st == .faulted)

/-- An acquire of a gang older than place `id` that has not been performed (R181). -/
def Op.acqOpen (p : Op) (k id : Nat) : Bool :=
  p.gang == k && decide (p.id < id) && p.ord.acquires && p.stage != .ready && p.stage != .over

/-- R181, R182: every older acquire of a gang has been performed. -/
def State.acqDone (s : State) (k id : Nat) : Bool :=
  !s.ops.any (fun p => p.acqOpen k id) && (s.gang k).fences.all (fun f => !(f.acq && decide (f.id < id)))

/-- The place in issue order at which the head clause was enqueued. -/
def Gang.laneSeq (g : Gang) : Nat := match g.clauses with | [] => 0 | c :: _ => c.seq

/-- R187: the lane stream waits for the acquires that issued before its clause was enqueued, so that it reads what a window
store that they see has written. -/
def State.laneHeld (s : State) : Bool := !s.acqDone s.cur s.me.laneSeq

/-- A lane instruction that waits; the gang parks where faulted work holds it back (R198). -/
def State.laneWait (s : State) (u : LaneUse) : State :=
  let g := s.me.lPark u
  s.setMe { g with parked := g.parked || s.ops.any (fun p => p.acqOpen s.cur s.me.laneSeq && p.faulted) }

/-- A lane instruction at the head clause, held back by its registers (R87, R89) or by `held`: it waits, traps with cause 0x04 (R79)
or 0x03 (R81) with the lanes of `lanes`, or acts. Where both causes apply, 0x04 is the one (log 13). -/
def laneGoIf (s : State) (held : Bool) (lanes : BitVec 32) (u : LaneUse) (k : State → Res) : Res :=
  let g := s.me
  if g.lBlocked u || held then .next (s.laneWait u)
  else if (u.rd ++ u.wr).any (fun r => decide (g.vlimit ≤ r)) then .next (s.laneTrap 4 lanes 0)
  else if u.tags.any (fun p => g.tag p.1 != p.2) then .next (s.laneTrap 3 lanes 0)
  else k s

/-- A lane instruction that the acquires before its clause hold back too (R187). -/
def laneGo (s : State) (lanes : BitVec 32) (u : LaneUse) (k : State → Res) : Res := laneGoIf s s.laneHeld lanes u k

/-- The head clause moves to its next instruction. -/
def Gang.laneNext (g : Gang) : Gang :=
  match g.clauses with
  | [] => g
  | c :: cs => { g with clauses := { c with next := c.next + 1 } :: cs }

/-- Table 4-2: the vector registers that an operation reads asynchronously. -/
def asyncReads (i : Instr) : List Nat :=
  match i with
  | .mxmac f | .mxtopk f => regs f.va.val ((if f.opx34 then 1 else 2) * f.lineWords)
  | .mxv f => regs f.va.val f.lineWords
  | .mxmovToTile f => regs f.va.val (2 * (f.x 14 9 + 1))
  | _ => []

/-- The registers of a gang that an instruction reads asynchronously and that are overwritten. -/
def HOp.taints (k : Nat) (wr : List Nat) (h : HOp) : HOp :=
  if h.parts.any (fun p => p.gang == k)
  then { h with taint := h.taint ++ ((asyncReads h.instr).filter (wr.contains ·)).map (fun r => (k, r)) } else h

/-- The same of an operation that has completed in a gang whose attached flag is still busy: it reads the registers of that gang. -/
def Tail.taints (k : Nat) (wr : List Nat) (t : Tail) : Tail := if t.part.gang == k then { t with hop := t.hop.taints k wr } else t

/-- R88: a lane instruction that writes a register while an operation reads it asynchronously leaves undefined values in the results
derived from it: the operation keeps the gang and the registers, and its results become undefined as it completes, or, where it has
completed and its attached flag is still busy, as the turn ends (`State.settleTails`). -/
def State.taint (s : State) (k : Nat) (wr : List Nat) : State :=
  { s with hops := s.hops.map (HOp.taints k wr), tails := s.tails.map (Tail.taints k wr) }

/-- A lane instruction whose whole effect is on its own gang. -/
def laneDo (s : State) (f : LaneWord) (u : LaneUse) (h : Gang → Gang) : Res :=
  laneGo s (s.me.act f) u (fun s => .next ((s.taint s.cur u.wr).setMe (h s.me).laneNext))

/-- The second source as a register that is read, with or without its tag, and as a scalar register (R38, R89). -/
def bRegs (f : LaneWord) : List Nat := if f.bsrc.val = 0 then [f.vb.val] else []
def bScalar (f : LaneWord) : List Nat := if f.bsrc.val = 1 then [f.vb.val] else []
def bTag (f : LaneWord) (t : Ty) : List (Nat × Ty) := if f.bsrc.val = 0 then tagged f.vb.val 1 t else []

/-! ### Elements (R120) -/

/-- Element i of width w. -/
def elt (w : Nat) (x : Word) (i : Nat) : Nat := x.toNat / 2 ^ (w * i) % 2 ^ w
/-- Pack elements of width w, the first in the low bits. -/
def pack (w : Nat) : List Nat → Nat
  | [] => 0
  | x :: xs => x % 2 ^ w + 2 ^ w * pack w xs

/-- Elements with flags, packed. -/
def packF (w : Nat) (xs : List (Nat × Flags)) : Word × Flags :=
  (BitVec.ofNat 32 (pack w (xs.map (·.1))), xs.foldr (fun x fl => x.2 ||| fl) 0)

/-- Apply an element function of three sources to the elements of a word. -/
def perElem (e w : Nat) (fn : Nat → Nat → Nat → Nat × Flags) (a b c : Word) : Word × Flags :=
  packF w ((List.range e).map (fun i => fn (elt w a i) (elt w b i) (elt w c i)))

/-- R122: the flags that the lanes of a mask raise. -/
def flagsOf (act : BitVec 32) (val : Nat → Word × Flags) : Flags :=
  (List.range 32).foldr (fun l fl => if act.getLsbD l then (val l).2 ||| fl else fl) 0

def Gang.raise (g : Gang) (fl : Flags) : Gang := { g with sticky := g.sticky ||| fl }

/-- Write a register with its flags and its tag (R81, R120, R122). -/
def Gang.result (g : Gang) (r : Nat) (act : BitVec 32) (t : Ty) (val : Nat → Word × Flags) : Gang :=
  ((g.wvs r act (fun l => (val l).1)).setTag r t).raise (flagsOf act val)

/-- The type of a lane word; the check has refused reserved codes (R41). -/
def laneTy (f : LaneWord) : Ty := (Ty.ofCode f.typ.val).getD .raw32

/-- A bit per lane. -/
def laneMask (p : Nat → Bool) : Nat → BitVec 32
  | 0 => 0
  | l + 1 => laneMask p l ||| (if p l then BitVec.twoPow 32 l else 0)

/-- Write a predicate in the lanes of a mask (R127, R142). -/
def Gang.predResult (g : Gang) (p : Nat) (act v : BitVec 32) : Gang :=
  g.setPred p ((v &&& act) ||| (g.pred p &&& ~~~act))

/-! ### Addresses -/

/-- Sign extension to 64 bits of an n-bit number. -/
def sx (n v : Nat) : Dword := if 2 ^ (n - 1) ≤ v then BitVec.ofNat 64 v - BitVec.ofNat 64 (2 ^ n) else BitVec.ofNat 64 v

/-- R27: the signed and the zero-extended 12-bit immediate, and the signed 19-bit one. -/
def imm12s (i : Fin 4096) : Word := (sx 12 i.val).setWidth 32
def imm12z (i : Fin 4096) : Word := BitVec.ofNat 32 i.val
def imm19s (i : Fin 524288) : Word := (sx 19 i.val).setWidth 32

/-- R161, Table 7-2: the address of a lane access to memory. -/
def Gang.laneAddr (g : Gang) (f : LaneWord) (l : Nat) : Dword :=
  (if f.bsrc.val = 0 then g.rv (f.va.val + 1) l ++ g.rv f.va.val l
   else g.rp f.vb.val + (g.rv f.va.val l).setWidth 64) + sx 16 (f.x 23 8)

/-- R161: the offset of a lane access to scratchpad, modulo 2^32. -/
def Gang.laneOff (g : Gang) (f : LaneWord) (l : Nat) : Dword :=
  ((g.rv f.va.val l + (if f.bsrc.val = 1 then g.rs f.vb.val else 0)) + (sx 16 (f.x 23 8)).setWidth 32).setWidth 64

/-- The registers of a lane address. -/
def laneAddrRegs (f : LaneWord) : List Nat := if f.bsrc.val = 0 then [f.va.val, f.va.val + 1] else [f.va.val]

/-- R14: the must-be-zero bits and the core field of a window address. -/
def windowBad (va : Nat) : Bool :=
  decide (48 ≤ bits va 47 42) || (if va.testBit 35 then bits va 34 21 != 0 else bits va 34 18 != 0)

/-- Items 1 and 2 of R158 for an access of `align` bytes: the cause of a precise trap. -/
def addrCause (align : Nat) (va : Dword) : Option Nat :=
  if va.toNat % align ≠ 0 then some 5
  else match homeOf va.toNat with
    | none => some 6
    | some .window => if windowBad va.toNat then some 6 else none
    | some _ => none

/-- R170: an atomic to a kind-0 window. -/
def atomCause (align : Nat) (va : Dword) : Option Nat :=
  match addrCause align va with
  | some c => some c
  | none => if homeOf va.toNat = some .window ∧ !va.toNat.testBit 35 then some 6 else none

/-- R154, R158: an access of `n` bytes to the crew's own scratchpad. -/
def scrCause (w : Crew) (n : Nat) (off : Dword) : Option Nat :=
  if off.toNat % n ≠ 0 then some 5 else if w.scrSize < off.toNat + n then some 6 else none

/-- The first cause in the order of R158 that any acting lane meets: cause 0x05 before 0x06, with the lanes that meet
it and the address of the lowest (Table 9-2). -/
def lanesCause (act : BitVec 32) (cause : Nat → Option Nat) (addr : Nat → Dword) : Option (Nat × BitVec 32 × Dword) :=
  let at_ (c : Nat) : BitVec 32 := act &&& laneMask (fun l => cause l == some c) 32
  let low (m : BitVec 32) : Dword := ((List.range 32).find? (fun l => m.getLsbD l)).elim 0 addr
  if at_ 5 ≠ 0 then some (5, at_ 5, low (at_ 5))
  else if at_ 6 ≠ 0 then some (6, at_ 6, low (at_ 6))
  else none

end Sys2Proof.Machine
end

