-- ==== Sys2Proof/Machine/Flags.lean ====
section
/-! DEFINITION. The condition codes and the tests on them (spec 02 Table 2-9, 05 R99), and how the codes and the sticky
flags read and are written as words (05 R112, R113). -/

namespace Sys2Proof.Machine

/-- R99: a compare of width w of a with b. -/
def ccOf (w : Nat) (a b : Nat) : CC :=
  let diff := (a + (2 ^ w - b)) % 2 ^ w
  let sd := intVal true w a - intVal true w b
  { z := diff == 0
    n := decide (2 ^ (w - 1) ≤ diff)
    c := decide (b ≤ a)
    v := decide (sd < intLo true w) || decide (intHi true w < sd) }

/-- Table 5-5, `cc`: [3] Z, [2] N, [1] C, [0] V. -/
def CC.word (c : CC) : Word :=
  BitVec.ofNat 32 ((if c.z then 8 else 0) + (if c.n then 4 else 0) + (if c.c then 2 else 0) + (if c.v then 1 else 0))
/-- Reserved bits of a write are ignored (R4). -/
def CC.ofWord (v : Word) : CC := ⟨v.getLsbD 3, v.getLsbD 2, v.getLsbD 1, v.getLsbD 0⟩

/-- Table 2-9: whether the test of a condition code holds. -/
def Gang.test (g : Gang) (cnd : Nat) : Bool :=
  let c := g.cc
  match cnd with
  | 0 => true
  | 1 => c.z
  | 2 => !c.z
  | 3 => c.n != c.v
  | 4 => c.n == c.v
  | 5 => !c.z && (c.n == c.v)
  | 6 => c.z || (c.n != c.v)
  | 7 => !c.c
  | 8 => c.c
  | 9 => c.c && !c.z
  | 10 => !c.c || c.z
  | 11 => c.v
  | 12 => !c.v
  | 13 => c.n
  | 14 => !c.n
  | 15 => false
  | n => g.mz.getLsbD (n - 16)

end Sys2Proof.Machine
end

