-- ==== Sys2Proof/Machine/ScalarAlu.lean ====
section
/-! DEFINITION. The register and immediate groups of the scalar stream (spec 05 R99-R103). -/

namespace Sys2Proof.Machine

/-- R101: sd receives a function of sa and sb. -/
def aluRR (op : Word → Word → Word) (sd sa sb : SReg) (s : State) : Res :=
  scalarDo s [sa.val, sb.val] [sd.val] (fun g => (g.ws sd.val (op (g.rs sa.val) (g.rs sb.val))).adv 4)

/-- R101: sd receives a function of sa. -/
def aluR (op : Word → Word) (sd sa : SReg) (s : State) : Res :=
  scalarDo s [sa.val] [sd.val] (fun g => (g.ws sd.val (op (g.rs sa.val))).adv 4)

/-- R102: a pair receives a function of two pairs. -/
def aluPP (op : Dword → Dword → Dword) (sd sa sb : Pair) (s : State) : Res :=
  scalarDo s (pr sa ++ pr sb) (pr sd) (fun g => (g.wp (ev sd) (op (g.rp (ev sa)) (g.rp (ev sb)))).adv 4)

/-- R102: a pair receives a function of a pair and a single-register count. -/
def aluPS (op : Dword → Word → Dword) (sd sa : Pair) (sb : SReg) (s : State) : Res :=
  scalarDo s (pr sa ++ [sb.val]) (pr sd) (fun g => (g.wp (ev sd) (op (g.rp (ev sa)) (g.rs sb.val))).adv 4)

/-- R102: a pair receives the exact product of two registers. -/
def aluW (op : Word → Word → Dword) (sd : Pair) (sa sb : SReg) (s : State) : Res :=
  scalarDo s [sa.val, sb.val] (pr sd) (fun g => (g.wp (ev sd) (op (g.rs sa.val) (g.rs sb.val))).adv 4)

/-- R103: sd receives a function of sa and an immediate. -/
def aluRI (op : Word → Word) (sd sa : SReg) (s : State) : Res := aluR op sd sa s

/-- R103: sd receives a constant. -/
def aluI (v : Word) (sd : SReg) (s : State) : Res :=
  scalarDo s [] [sd.val] (fun g => (g.ws sd.val v).adv 4)

/-- Table 5-1. -/
def opShl (a b : Word) : Word := if b.toNat < 32 then a <<< b.toNat else 0
def opShr (a b : Word) : Word := if b.toNat < 32 then a >>> b.toNat else 0
def opSra (a b : Word) : Word := a.sshiftRight (min b.toNat 31)
def opMin (a b : Word) : Word := if a.toInt < b.toInt then a else b
def opMax (a b : Word) : Word := if b.toInt < a.toInt then a else b
def opMinN (a b : Word) : Word := if a.toNat < b.toNat then a else b
def opMaxN (a b : Word) : Word := if b.toNat < a.toNat then a else b
def opMulH (a b : Word) : Word := BitVec.ofInt 32 (a.toInt * b.toInt / 2 ^ 32)
def opMulHN (a b : Word) : Word := BitVec.ofNat 32 (a.toNat * b.toNat / 2 ^ 32)
/-- Leading zero bits of an element of width w. -/
def lzc (w v : Nat) : Nat := if v = 0 then w else w - 1 - Nat.log2 v
/-- One bits among the low n bits. -/
def ones : Nat → Nat → Nat
  | 0, _ => 0
  | n + 1, v => v % 2 + ones n (v / 2)
def opClz (a : Word) : Word := BitVec.ofNat 32 (lzc 32 a.toNat)
def opPopc (a : Word) : Word := BitVec.ofNat 32 (ones 32 a.toNat)
/-- Table 5-2. -/
def opShlD (a : Dword) (b : Word) : Dword := if b.toNat < 64 then a <<< b.toNat else 0
def opShrD (a : Dword) (b : Word) : Dword := if b.toNat < 64 then a >>> b.toNat else 0
def opMulW (a b : Word) : Dword := BitVec.ofInt 64 (a.toInt * b.toInt)
def opMulWN (a b : Word) : Dword := BitVec.ofNat 64 (a.toNat * b.toNat)

/-- `sadd`, R101. -/
def execSadd (sd sa sb : SReg) (s : State) : Res := aluRR (· + ·) sd sa sb s
/-- `ssub`, R101. -/
def execSsub (sd sa sb : SReg) (s : State) : Res := aluRR (· - ·) sd sa sb s
/-- `sand`, R101. -/
def execSand (sd sa sb : SReg) (s : State) : Res := aluRR (· &&& ·) sd sa sb s
/-- `sor`, R101. -/
def execSor (sd sa sb : SReg) (s : State) : Res := aluRR (· ||| ·) sd sa sb s
/-- `sxor`, R101. -/
def execSxor (sd sa sb : SReg) (s : State) : Res := aluRR (· ^^^ ·) sd sa sb s
/-- `sshl`, R101. -/
def execSshl (sd sa sb : SReg) (s : State) : Res := aluRR opShl sd sa sb s
/-- `sshr`, R101. -/
def execSshr (sd sa sb : SReg) (s : State) : Res := aluRR opShr sd sa sb s
/-- `ssra`, R101. -/
def execSsra (sd sa sb : SReg) (s : State) : Res := aluRR opSra sd sa sb s
/-- `smin`, R101. -/
def execSmin (sd sa sb : SReg) (s : State) : Res := aluRR opMin sd sa sb s
/-- `smax`, R101. -/
def execSmax (sd sa sb : SReg) (s : State) : Res := aluRR opMax sd sa sb s
/-- `sminn`, R101. -/
def execSminn (sd sa sb : SReg) (s : State) : Res := aluRR opMinN sd sa sb s
/-- `smaxn`, R101. -/
def execSmaxn (sd sa sb : SReg) (s : State) : Res := aluRR opMaxN sd sa sb s
/-- `smul`, R101. -/
def execSmul (sd sa sb : SReg) (s : State) : Res := aluRR (· * ·) sd sa sb s
/-- `smulh`, R101. -/
def execSmulh (sd sa sb : SReg) (s : State) : Res := aluRR opMulH sd sa sb s
/-- `smulhn`, R101. -/
def execSmulhn (sd sa sb : SReg) (s : State) : Res := aluRR opMulHN sd sa sb s
/-- `sclz`, R101. -/
def execSclz (sd sa : SReg) (s : State) : Res := aluR opClz sd sa s
/-- `spopc`, R101. -/
def execSpopc (sd sa : SReg) (s : State) : Res := aluR opPopc sd sa s
/-- `smov`, R101. -/
def execSmov (sd sa : SReg) (s : State) : Res := aluR id sd sa s
/-- `sandn`, R101. -/
def execSandn (sd sa sb : SReg) (s : State) : Res := aluRR (fun a b => a &&& ~~~b) sd sa sb s
/-- `scmp`, R99, R101. -/
def execScmp (sa sb : SReg) (s : State) : Res :=
  scalarDo s [sa.val, sb.val] []
    (fun g => { g with cc := ccOf 32 (g.rs sa.val).toNat (g.rs sb.val).toNat, pc := g.pc + 4 })

/-- `sadd.d`, R102. -/
def execSaddD (sd sa sb : Pair) (s : State) : Res := aluPP (· + ·) sd sa sb s
/-- `ssub.d`, R102. -/
def execSsubD (sd sa sb : Pair) (s : State) : Res := aluPP (· - ·) sd sa sb s
/-- `sshl.d`, R102. -/
def execSshlD (sd sa : Pair) (sb : SReg) (s : State) : Res := aluPS opShlD sd sa sb s
/-- `sshr.d`, R102. -/
def execSshrD (sd sa : Pair) (sb : SReg) (s : State) : Res := aluPS opShrD sd sa sb s
/-- `smov.d`, R102. -/
def execSmovD (sd sa : Pair) (s : State) : Res :=
  scalarDo s (pr sa) (pr sd) (fun g => (g.wp (ev sd) (g.rp (ev sa))).adv 4)
/-- `scmp.d`, R99, R102. -/
def execScmpD (sa sb : Pair) (s : State) : Res :=
  scalarDo s (pr sa ++ pr sb) []
    (fun g => { g with cc := ccOf 64 (g.rp (ev sa)).toNat (g.rp (ev sb)).toNat, pc := g.pc + 4 })
/-- `smulw`, R102. -/
def execSmulw (sd : Pair) (sa sb : SReg) (s : State) : Res := aluW opMulW sd sa sb s
/-- `smulwn`, R102. -/
def execSmulwn (sd : Pair) (sa sb : SReg) (s : State) : Res := aluW opMulWN sd sa sb s

/-- `saddi`, R103. -/
def execSaddi (sd sa : SReg) (imm : Fin 4096) (s : State) : Res := aluRI (· + imm12s imm) sd sa s
/-- `sandi`, R103. -/
def execSandi (sd sa : SReg) (imm : Fin 4096) (s : State) : Res := aluRI (· &&& imm12z imm) sd sa s
/-- `sori`, R103. -/
def execSori (sd sa : SReg) (imm : Fin 4096) (s : State) : Res := aluRI (· ||| imm12z imm) sd sa s
/-- `sxori`, R103. -/
def execSxori (sd sa : SReg) (imm : Fin 4096) (s : State) : Res := aluRI (· ^^^ imm12z imm) sd sa s
/-- `sshli`, R103. -/
def execSshli (sd sa : SReg) (n : Fin 32) (s : State) : Res := aluRI (· <<< n.val) sd sa s
/-- `sshri`, R103. -/
def execSshri (sd sa : SReg) (n : Fin 32) (s : State) : Res := aluRI (· >>> n.val) sd sa s
/-- `ssrai`, R103. -/
def execSsrai (sd sa : SReg) (n : Fin 32) (s : State) : Res := aluRI (·.sshiftRight n.val) sd sa s
/-- `scmpi`, R99, R103. -/
def execScmpi (sa : SReg) (imm : Fin 4096) (s : State) : Res :=
  scalarDo s [sa.val] []
    (fun g => { g with cc := ccOf 32 (g.rs sa.val).toNat (imm12s imm).toNat, pc := g.pc + 4 })
/-- `sli`, R103. -/
def execSli (sd : SReg) (imm : Fin 524288) (s : State) : Res := aluI (imm19s imm) sd s
/-- `slui`, R103. -/
def execSlui (sd : SReg) (imm : Fin 524288) (s : State) : Res := aluI (BitVec.ofNat 32 (imm.val * 8192)) sd s

end Sys2Proof.Machine
end

