-- ==== Sys2Proof/Machine/LaneInt.lean ====
section
/-! DEFINITION. The integer instructions of the lane stream (spec 06 R126-R132). -/

namespace Sys2Proof.Machine

/-- R39: mode[35] is `.sat`; mode[37:36] selects the rounding. -/
def laneSat (f : LaneWord) : Bool := f.mode.val % 2 == 1
def laneRnd (f : LaneWord) : Rnd :=
  match f.mode.val / 2 with
  | 0 => .rn | 1 => .rz | 2 => .ru | _ => .rd

/-- R126: an element instruction on va and b, and vc where `useC`; every source is checked and the result has the
type. -/
def laneElem (useC : Bool) (fn : Bool → Nat → Nat → Nat → Nat → Nat × Flags) (f : LaneWord) (s : State) : Res :=
  let t := laneTy f
  let c := if useC then [f.vc.val] else []
  laneDo s f
    ⟨f.va.val :: bRegs f ++ c, [f.vd.val], bScalar f, [],
      tagged f.va.val 1 t ++ bTag f t ++ (if useC then tagged f.vc.val 1 t else [])⟩
    (fun g => g.result f.vd.val (g.act f) t
      (fun l => perElem t.elems t.width (fn t.isSigned t.width) (g.rv f.va.val l) (g.b f l)
        (if useC then g.rv f.vc.val l else 0)))

/-- An element instruction on va alone. -/
def laneUn (fn : Bool → Nat → Nat → Nat × Flags) (f : LaneWord) (s : State) : Res :=
  let t := laneTy f
  laneDo s f ⟨[f.va.val], [f.vd.val], [], [], tagged f.va.val 1 t⟩
    (fun g => g.result f.vd.val (g.act f) t
      (fun l => perElem t.elems t.width (fun a _ _ => fn t.isSigned t.width a) (g.rv f.va.val l) 0 0))

/-- The raw32 bitwise rows of Table 6-1: any tag, the result takes vb's tag, or va's where b is no register. -/
def laneBit (fn : Word → Word → Word) (f : LaneWord) (s : State) : Res :=
  laneDo s f ⟨f.va.val :: bRegs f, [f.vd.val], bScalar f, [], []⟩
    (fun g => g.result f.vd.val (g.act f) (g.tag (if f.bsrc.val = 0 then f.vb.val else f.va.val))
      (fun l => (fn (g.rv f.va.val l) (g.b f l), 0)))

/-- The shifts of Table 6-1: with raw32 one element of any tag, and the result takes va's tag. -/
def laneShift (fn : Nat → Nat → Nat → Nat) (f : LaneWord) (s : State) : Res :=
  let t := laneTy f
  laneDo s f ⟨f.va.val :: bRegs f, [f.vd.val], bScalar f, [], tagged f.va.val 1 t ++ bTag f t⟩
    (fun g => g.result f.vd.val (g.act f) (if t = .raw32 then g.tag f.va.val else t)
      (fun l => perElem t.elems t.width (fun a b _ => (fn t.width a b, 0)) (g.rv f.va.val l) (g.b f l) 0))

/-- Table 6-1: shift results on w bits. -/
def eltShl (w a b : Nat) : Nat := if b < w then a * 2 ^ b % 2 ^ w else 0
def eltShr (w a b : Nat) : Nat := if b < w then a / 2 ^ b else 0
def eltSra (w a b : Nat) : Nat := intBits w (intVal true w a / 2 ^ (min b w))
/-- The bits of an element reversed. -/
def eltRev : Nat → Nat → Nat
  | 0, _ => 0
  | n + 1, v => v % 2 * 2 ^ n + eltRev n (v / 2)

/-- `vadd`, R126. -/
def execVadd (f : LaneWord) (s : State) : Res :=
  laneElem false (fun sg w a b _ => cvtII sg w (laneSat f) (intVal sg w a + intVal sg w b)) f s
/-- `vsub`, R126. -/
def execVsub (f : LaneWord) (s : State) : Res :=
  laneElem false (fun sg w a b _ => cvtII sg w (laneSat f) (intVal sg w a - intVal sg w b)) f s
/-- `vmul`, R126. -/
def execVmul (f : LaneWord) (s : State) : Res :=
  laneElem false (fun sg w a b _ => cvtII sg w (laneSat f) (intVal sg w a * intVal sg w b)) f s
/-- `vmulh`, R126. -/
def execVmulh (f : LaneWord) (s : State) : Res :=
  laneElem false (fun sg w a b _ => (intBits w (intVal sg w a * intVal sg w b / 2 ^ w), 0)) f s
/-- `vmad`, R126. -/
def execVmad (f : LaneWord) (s : State) : Res :=
  laneElem true (fun sg w a b c => cvtII sg w (laneSat f) (intVal sg w a * intVal sg w b + intVal sg w c)) f s
/-- `vand`, R126. -/
def execVand (f : LaneWord) (s : State) : Res := laneBit (· &&& ·) f s
/-- `vor`, R126. -/
def execVor (f : LaneWord) (s : State) : Res := laneBit (· ||| ·) f s
/-- `vxor`, R126. -/
def execVxor (f : LaneWord) (s : State) : Res := laneBit (· ^^^ ·) f s
/-- `vandn`, R126. -/
def execVandn (f : LaneWord) (s : State) : Res := laneBit (fun a b => a &&& ~~~b) f s
/-- `vshl`, R126. -/
def execVshl (f : LaneWord) (s : State) : Res := laneShift eltShl f s
/-- `vshr`, R126. -/
def execVshr (f : LaneWord) (s : State) : Res := laneShift eltShr f s
/-- `vsra`, R126. -/
def execVsra (f : LaneWord) (s : State) : Res := laneShift eltSra f s
/-- `vmin`, R126. -/
def execVmin (f : LaneWord) (s : State) : Res :=
  laneElem false (fun sg w a b _ => (if intVal sg w b < intVal sg w a then b else a, 0)) f s
/-- `vmax`, R126. -/
def execVmax (f : LaneWord) (s : State) : Res :=
  laneElem false (fun sg w a b _ => (if intVal sg w a < intVal sg w b then b else a, 0)) f s
/-- `vabs`, R126. -/
def execVabs (f : LaneWord) (s : State) : Res :=
  laneUn (fun sg w a => cvtII sg w (laneSat f) (intVal sg w a).natAbs) f s
/-- `vneg`, R126. -/
def execVneg (f : LaneWord) (s : State) : Res := laneUn (fun sg w a => cvtII sg w (laneSat f) (0 - intVal sg w a)) f s
/-- `vclz`, R126. -/
def execVclz (f : LaneWord) (s : State) : Res := laneUn (fun _ w a => (lzc w a, 0)) f s
/-- `vpopc`, R126. -/
def execVpopc (f : LaneWord) (s : State) : Res := laneUn (fun _ w a => (ones w a, 0)) f s
/-- `vbrev`, R126. -/
def execVbrev (f : LaneWord) (s : State) : Res := laneUn (fun _ w a => (eltRev w a, 0)) f s

/-- R129: the field of a that `vbfx` extracts. -/
def bfx (sg : Bool) (a b : Nat) : Nat :=
  let pos := b % 32
  let len := min (b / 256 % 64) 32
  if len = 0 then 0
  else intBits 32 (intVal sg len (intBits len (intVal sg 32 a / 2 ^ pos)))

/-- R129: c with a field replaced by the low bits of a. -/
def bfi (a b c : Nat) : Nat :=
  let pos := b % 32
  let len := min (b / 256 % 64) 32
  let m := (2 ^ len - 1) * 2 ^ pos % 2 ^ 32
  (c &&& (2 ^ 32 - 1 - m)) ||| (a * 2 ^ pos % 2 ^ 32 &&& m)

/-- `vbfx`, R129. -/
def execVbfx (f : LaneWord) (s : State) : Res := laneElem false (fun sg _ a b _ => (bfx sg a b, 0)) f s

/-- `vbfi`, R129; with raw32 vd takes vc's tag. -/
def execVbfi (f : LaneWord) (s : State) : Res :=
  let t := laneTy f
  laneDo s f ⟨f.va.val :: f.vc.val :: bRegs f, [f.vd.val], bScalar f, [],
      tagged f.va.val 1 t ++ tagged f.vc.val 1 t ++ bTag f t⟩
    (fun g => g.result f.vd.val (g.act f) (if t = .raw32 then g.tag f.vc.val else t)
      (fun l => (BitVec.ofNat 32 (bfi (g.rv f.va.val l).toNat (g.b f l).toNat (g.rv f.vc.val l).toNat), 0)))

/-- `vmov`, R132. -/
def execVmov (f : LaneWord) (s : State) : Res :=
  let t := laneTy f
  laneDo s f ⟨bRegs f, [f.vd.val], bScalar f, [], bTag f t⟩
    (fun g => g.result f.vd.val (g.act f) (if t = .raw32 ∧ f.bsrc.val = 0 then g.tag f.vb.val else t)
      (fun l => (g.b f l, 0)))

/-- `vli`, R132. -/
def execVli (f : LaneWord) (s : State) : Res :=
  laneDo s f ⟨[], [f.vd.val], [], [], []⟩
    (fun g => g.result f.vd.val (g.act f) (laneTy f)
      (fun l => (f.ext + BitVec.ofNat 32 l * (sx 8 f.vc.val).setWidth 32, 0)))

/-- `vsel`, R128. -/
def execVsel (f : LaneWord) (s : State) : Res :=
  let t := laneTy f
  laneDo s f ⟨f.va.val :: bRegs f, [f.vd.val], bScalar f, [], tagged f.va.val 1 t ++ bTag f t⟩
    (fun g => g.result f.vd.val (g.act f) (if t = .raw32 then g.tag f.va.val else t)
      (fun l => (if (g.pred f.pd.val).getLsbD l then g.rv f.va.val l else g.b f l, 0)))

/-- R127: the six compares by code. -/
def cmpCode (cc : Nat) (o : Ordering) : Bool :=
  match cc with
  | 0 => o == .eq
  | 1 => o != .eq
  | 2 => o == .lt
  | 3 => o != .gt
  | 4 => o == .gt
  | _ => o != .lt

/-- `vcmp`, R127. -/
def execVcmp (f : LaneWord) (s : State) : Res :=
  let t := laneTy f
  laneDo s f ⟨f.va.val :: bRegs f, [], bScalar f, [], tagged f.va.val 1 t ++ bTag f t⟩
    (fun g => g.predResult f.pd.val (g.act f)
      (laneMask (fun l => cmpCode f.opx.val
        (compare (intVal t.isSigned 32 (g.rv f.va.val l).toNat) (intVal t.isSigned 32 (g.b f l).toNat))) 32))

/-- `vdp4`, R131. -/
def execVdp4 (f : LaneWord) (s : State) : Res :=
  let t := laneTy f
  let es (x : Word) : List Nat := (List.range 4).map (elt 8 x)
  laneDo s f ⟨f.va.val :: f.vc.val :: bRegs f, [f.vd.val], bScalar f, [],
      tagged f.va.val 1 t ++ bTag f t ++ tagged f.vc.val 1 .s32⟩
    (fun g => g.result f.vd.val (g.act f) .s32
      (fun l =>
        let r := stepInt (laneSat f) t.isSigned (g.rv f.vc.val l).toNat (es (g.rv f.va.val l)) (es (g.b f l))
        (BitVec.ofNat 32 r.1, r.2)))

/-- `vaddc`, R130. -/
def execVaddc (f : LaneWord) (s : State) : Res :=
  laneDo s f ⟨f.va.val :: bRegs f, [f.vd.val], bScalar f, [], tagged f.va.val 1 .n32 ++ bTag f .n32⟩
    (fun g =>
      let cin := g.pred f.vc.val
      let sum (l : Nat) : Nat := (g.rv f.va.val l).toNat + (g.b f l).toNat + (if cin.getLsbD l then 1 else 0)
      (g.result f.vd.val (g.act f) .n32 (fun l => (BitVec.ofNat 32 (sum l), 0))).predResult f.pd.val (g.act f)
        (laneMask (fun l => decide (2 ^ 32 ≤ sum l)) 32))

end Sys2Proof.Machine
end

