-- ==== Sys2Proof/Machine/Place.lean ====
section
/-! DEFINITION. Where the elements of operations lie, which of them go out as one request, what the store queue holds for a load,
and the core of a request (spec 07 R154-R157, R162, R169, 15 R290). -/

namespace Sys2Proof.Machine

/-! ### Places -/

/-- The slot key that a window address names (Table 1-5). -/
def winSlot (va : Nat) : Nat := bits va 49 36

/-- Where an element lies: memory or a register window by its address, the scratchpad of a crew by its offset. -/
def State.place (s : State) (o : Op) (e : El) : Nat × Nat :=
  let va := e.addr.toNat
  if o.scr then (o.crew + 1, va)
  else if homeOf va = some .window ∧ va.testBit 35 then ((s.gang (winSlot va)).crew + 1, bits va 20 0)
  else (0, va)

/-- The core that an operation belongs to: that of its gang's slot, or of its crew where that slot has been freed (R119); an
operation of a crew that is out belongs to none. -/
def State.coreOf (s : State) (o : Op) : Nat :=
  if o.gang < 16384 || (s.crew o.crew).phase == .out then slotCore o.gang else (s.crew o.crew).core

/-- The core of a gang, in the same way. -/
def State.coreOfGang (s : State) (k : Nat) : Nat :=
  if k < 16384 || (s.crew (s.gang k).crew).phase == .out then slotCore k else (s.crew (s.gang k).crew).core

/-- The core whose gangs an operation's stores are visible to and whose requests its own count among: the one that a queue entry has
left, wherever its crew has gone since, and otherwise the one that it belongs to. -/
def State.homeCore (s : State) (o : Op) : Nat := if o.inQ && o.left != 0 then o.leftCores.headD (s.coreOf o) else s.coreOf o

/-- Two spans of bytes meet. -/
def spansMeet (a n b m : Nat) : Bool := decide (a < b + m) && decide (b < a + n)

/-- The elements of two operations of one context name a common byte. -/
def State.overlap (s : State) (o : Op) (e : El) (p : Op) (f : El) : Bool :=
  let x := s.place o e
  let y := s.place p f
  x.1 == y.1 && o.asid == p.asid && spansMeet x.2 o.width y.2 p.width

/-- Accesses to memory: the operations whose elements read or write the bytes at their addresses. -/
def OpKind.memory : OpKind → Bool
  | .load | .store | .atom _ _ | .cas _ | .sendsig _ | .mwait _ => true
  | _ => false
/-- Kinds that return what they read. -/
def OpKind.reads : OpKind → Bool
  | .load | .atom _ _ | .cas _ | .mwait _ => true
  | _ => false
/-- Kinds that are atomics. -/
def OpKind.atomic : OpKind → Bool
  | .atom _ _ | .cas _ => true
  | _ => false
def OpKind.isLoad : OpKind → Bool
  | .load => true | .mwait _ => true | _ => false

/-- An element that is performed or given up. -/
def El.final (e : El) : Bool := e.st == .done || e.st == .dropped

/-- The bytes that an element of a plain store writes: the payload of `ssendsig` is element 0 (R157). -/
def Op.plain (o : Op) (e : El) : Bool :=
  match o.kind with
  | .store => true
  | .sendsig _ => e.lane == 0
  | _ => false

/-! ### Forwarding from the store queue (R157) -/

/-- What the store queue holds for a byte: nothing, a byte, or a value that an atomic will make. -/
inductive Fwd where
  | none | byte (b : Byte) | atomic
  deriving DecidableEq, Repr

/-- The youngest lane of an entry that covers the byte at a place. -/
def State.fwdOp (s : State) (asid : Nat) (pl : Nat × Nat) (p : Op) : Fwd :=
  match p.els.reverse.find? (fun f => f.open_ && p.asid == asid && (s.place p f).1 == pl.1
      && decide ((s.place p f).2 ≤ pl.2) && decide (pl.2 < (s.place p f).2 + p.width)) with
  | Option.none => .none
  | some f => if p.plain f then .byte (f.data.getD (pl.2 - (s.place p f).2) 0) else .atomic

/-- The youngest older queue entry of a gang that covers a byte; `ps` is the queue, youngest first. -/
def State.fwdByte (s : State) (asid : Nat) (pl : Nat × Nat) : List Op → Fwd
  | [] => .none
  | p :: ps => match s.fwdOp asid pl p with
    | .none => s.fwdByte asid pl ps
    | x => x

/-- The queue's answer for each byte of a load. -/
def State.forward (s : State) (o : Op) (e : El) : List Fwd :=
  let q := ((s.queue o.gang).filter (fun p => decide (p.id < o.id) && p.kind.memory)).reverse
  let pl := s.place o e
  (List.range o.width).map (fun i => s.fwdByte o.asid (pl.1, pl.2 + i) q)

/-- What the store queue gave a load as it went to its slice, kept with its element in two bytes each. -/
def keepFwd (fs : List Fwd) : List Byte := fs.flatMap (fun f => match f with | .byte b => [1, b] | _ => [0, 0])
def keptFwd : List Byte → List Fwd
  | x :: b :: bs => (if x = 1 then .byte b else .none) :: keptFwd bs
  | _ => []
/-- What the queue gives a load: at its slice what it gave it on its way out, since its own store may have left after it (R157,
R177). -/
def State.fwdOf (s : State) (o : Op) (e : El) : List Fwd := if e.data.isEmpty then s.forward o e else keptFwd e.data

/-- Bytes of a level with the queue's bytes over them. -/
def mergeFwd (fs : List Fwd) (bs : List Byte) : List Byte :=
  List.zipWith (fun f b => match f with | .byte x => x | _ => b) fs bs

/-! ### Requests (R162, R290) -/

/-- The block that an element's request goes to: its 512-byte block of memory or of a register window, or the block of the crew's
scratchpad that a window of any of its slots names. -/
def State.blockOf (s : State) (o : Op) (e : El) : Nat × Nat :=
  let p := s.place o e
  (p.1, p.2 / 512)

/-- The elements of an operation that are still to go to the block of element `i`. -/
def State.blockEls (s : State) (o : Op) (i : Nat) : List (El × Nat) :=
  match o.els[i]? with
  | none => []
  | some e => o.els.zipIdx.filter (fun x => x.1.st == .todo && s.blockOf o x.1 == s.blockOf o e)

/-- R290, R162: the elements of an operation that go to their slice as one request with element `i`: those of its block, and of an
atomic no more than its lane order allows (R169). -/
def State.group (s : State) (o : Op) (i : Nat) : List (El × Nat) :=
  match o.els[i]? with
  | none => []
  | some e =>
    match o.kind with
    | .load | .store => s.blockEls o i
    | .atom _ _ | .cas _ =>
      ((o.els.zipIdx.filter (fun x => x.1.st == .todo)).dropWhile (fun x => decide (x.2 < i))).takeWhile
        (fun x => s.blockOf o x.1 == s.blockOf o e)
    | _ => [(e, i)]

end Sys2Proof.Machine
end

