-- ==== Sys2Proof/Machine/Sync.lean ====
section
/-! DEFINITION. What the gangs of a crew share on their core: stores to scratchpad with the notify word and barrier
objects, hardware barriers, waits on completion flags, and the extended pool of a quadrant
(spec 04 R78, 05 R110, R114, R119, 07 R154, R172, R173, 13 R256). -/

namespace Sys2Proof.Machine

/-! ### Stores to scratchpad -/

/-- R173: the generation of the barrier object at an offset. -/
def Crew.objGen (w : Crew) (off : Nat) : Nat := bits (leNat (w.readScr off 8)) 63 48

/-- R173: a gang that waits at a barrier object leaves when the object's generation is no longer its own. -/
def Gang.wakeObj (w : Crew) (g : Gang) : Gang :=
  match g.wait with
  | .barw off gen _ => if w.objGen off = gen then g else { g with wait := .none }
  | _ => g

/-- Every waiter of a crew looks at its object again. -/
def State.wakeObjs (s : State) (w : Crew) : List Nat → State
  | [] => s
  | k :: ks => (s.setGang k ((s.gang k).wakeObj w)).wakeObjs w ks

/-- R256: the crane reads the notify word after a store of a gang to it; entries that an earlier value has posted stay
posted. -/
def Crew.notified (w : Crew) (off n : Nat) : Crew :=
  if w.ringLen ≠ 0 ∧ off < w.ringOff + 8 ∧ w.ringOff < off + n
  then { w with ring := { w.ring with notify := max w.ring.notify (leNat (w.readScr w.ringOff 8)) } } else w

/-- A write to the scratchpad of a crew; `gang` says that a gang makes it. -/
def State.scrStore (s : State) (c off : Nat) (bs : List Byte) (gang : Bool) : State :=
  let w := (s.crew c).writeScr off bs
  let w' := if gang then w.notified off bs.length else w
  (s.setCrew c w').wakeObjs w' w'.slots

/-! ### Hardware barriers (R172) -/

def Crew.bar (w : Crew) (i : Nat) : Barrier := Map.get ⟨0, []⟩ w.bars i
def Crew.setBar (w : Crew) (i : Nat) (b : Barrier) : Crew := { w with bars := Map.put ⟨0, []⟩ w.bars i b }

/-- The gangs of a crew that have exited. -/
def State.exited (s : State) (w : Crew) : Nat := (w.slots.filter (fun k => (s.gang k).phase != .running)).length

/-- End the wait of every gang at barrier `i`. -/
def State.barRelease (s : State) (i : Nat) : List Nat → State
  | [] => s
  | k :: ks =>
    let g := s.gang k
    let g' := match g.wait with
      | .bar j _ => if j = i then { g with wait := Wait.none } else g
      | _ => g
    (s.setGang k g').barRelease i ks

/-- R172: every gang that waits at barrier `i` traps with cause 0x10 at its `sbar`. -/
def State.barTrap (s : State) (i : Nat) : List Nat → State
  | [] => s
  | k :: ks =>
    let g := s.gang k
    match g.wait with
    | .bar j pc =>
      if j = i then
        ((s.setGang k { g with wait := .none }).takeTrap k ⟨0x10, false, false, pc, 0, 0, 0, 0, 0, 0⟩).barTrap i ks
      else s.barTrap i ks
    | _ => s.barTrap i ks

/-- Whether the generation of a barrier ends now, or can no longer end (BARRIER_GENERATION_END). -/
def State.barCheck (s : State) (c i : Nat) : State :=
  let w := s.crew c
  let b := w.bar i
  let out := s.exited w
  if b.arrived = [] then s
  else if b.n = 0 then
    if w.ngangs - out ≤ b.arrived.length then (s.setCrew c (w.setBar i ⟨0, []⟩)).barRelease i w.slots else s
  else if b.n ≤ b.arrived.length then (s.setCrew c (w.setBar i ⟨0, []⟩)).barRelease i w.slots
  else
    let more := (w.slots.filter (fun k => (s.gang k).phase == .running && !b.arrived.contains (s.gang k).num)).length
    if b.arrived.length + more < b.n then (s.setCrew c (w.setBar i ⟨0, []⟩)).barTrap i w.slots else s

/-- The barriers from `n - 1` down to 0 after an exit. -/
def State.barChecks (s : State) (c : Nat) : Nat → State
  | 0 => s
  | n + 1 => (s.barCheck c n).barChecks c n

/-! ### Releases of a gang at its own scope -/

/-- Table 8-1: a store element is acknowledged at a scope once its entry has left the core. -/
def El.leftIs (e : El) (sc : Scope) : Bool :=
  e.st == .done ||
  (match homeOf e.addr.toNat with
   | some (.die _) | some (.peer _) => decide (sc.code ≤ 2)
   | some .host => decide (sc.code ≤ 4)
   | _ => false)

/-- A `fetchk` (R311: a load of the issuing gang). -/
def OpKind.fetches : OpKind → Bool | .fetchk _ _ _ => true | _ => false

/-- R311: a fetch of the gang that issued before place `id` has been accepted and has neither landed nor faulted. A berth that
is FAULTED holds back nothing: the producer of chapter 17 releases its tickets while one is (log 23). -/
def State.fetchOpen (s : State) (k id : Nat) : Bool :=
  (s.gang k).landing.any (fun x => decide (x.1 < id)
    && (let b := Map.get Berth.init s.quay.berths x.2.1; b.gen == x.2.2 && b.st == .pending))

/-- Whether an access counts as done for a release at a scope (R156, R176, R181): a load that is performed, or an entry
that is acknowledged, at the scope of the release and not that of the store (log 36); entries whose acknowledgement or value
has returned are no longer listed. -/
def Op.doneAt (o : Op) (sc : Scope) : Bool :=
  match o.stage with
  | .over => true
  | .ready => !o.inQ && o.kind == .load
  | .sent => o.inQ && o.kind == .store && !o.scr && o.els.all (fun e => e.leftIs sc)
  | _ => false

/-- What a release orders: loads, queue entries and every `kdrop`; redeems, `jcount` and the like are no accesses of the
gang (R312). -/
def Op.ordered (o : Op) : Bool := o.inQ || (match o.kind with | .load | .mwait _ | .kdrop => true | _ => false)

/-- A release with a mask of colours orders an access: a load or fetch, a queue entry of one of those colours, or a
`kdrop`. -/
def Op.covered (o : Op) (mask : BitVec 8) : Bool := o.ordered && (!o.inQ || o.kind.fetches || mask.getLsbD o.colour)

/-- A request to a prefix engine. -/
def OpKind.isPfx : OpKind → Bool | .pfx _ => true | _ => false

/-- R181, R165, R12, R311: the older accesses of a gang that a release with a mask of colours orders are done. A request to a
prefix engine does not wait for one that has left the core (R328: requests to engines of different dies have no order). -/
def State.olderDone (s : State) (k id : Nat) (sc : Scope) (mask : BitVec 8) (pfx : Bool := false) : Bool :=
  s.ops.all (fun o => !(o.gang == k && decide (o.id < id) && o.covered mask) || o.doneAt sc
    || (pfx && o.kind.isPfx && o.stage != .queued)) && !s.fetchOpen k id

/-- A store or atomic that left a core before number `h`, wherever its crew has gone since. -/
def Op.leftBefore (o : Op) (core h : Nat) : Bool :=
  o.inQ && o.kind.memory && o.leftCores.contains core && o.seen != 0 && decide (o.seen < h)
/-- R183: every store that left a core before number `h` is acknowledged at a scope of 3 or wider; one that has faulted since is
not. -/
def State.cumulative (s : State) (core h : Nat) (sc : Scope) : Bool :=
  decide (sc.code < 3) || s.ops.all (fun o => !o.leftBefore core h || o.doneAt sc)

/-! ### Waits on completion flags (R110, R119, R198) -/

/-- R293: the write of one element waits at its slice for a frame. -/
def State.elAwaits (s : State) (o : Op) (i : Nat) : Bool :=
  s.quay.busy.any (fun b => b.waiting && b.writes.any (fun w => w.op == o.id && w.el == i))
/-- R201, R293: a write of the operation waits at its slice for a frame. -/
def State.awaitsFrame (s : State) (o : Op) : Bool :=
  s.quay.busy.any (fun b => b.waiting && b.writes.any (fun w => w.op == o.id))
/-- Faulted work: an operation that is marked faulted, or whose write waits for a frame. -/
def State.faultedOp (s : State) (o : Op) : Bool := o.faulted || s.awaitsFrame o
/-- An older operation of the gang is faulted work. -/
def State.hasFaulted (s : State) (k id : Nat) : Bool :=
  s.ops.any (fun p => p.gang == k && decide (p.id < id) && s.faultedOp p)

/-- R198: a gang is at a release of every colour at crew scope that must order a faulted access: one that is not done there. -/
def State.parkOnOrder (s : State) (k : Nat) : State :=
  let g := s.gang k
  s.setGang k { g with parked := g.parked || s.ops.any (fun o => o.gang == k && s.faultedOp o && o.ordered && !o.doneAt .crew) }

/-- R165: an older load or atomic, which returns a value. -/
def OpKind.returns : OpKind → Bool
  | .load | .atom _ _ | .cas _ | .mwait _ | .fetchk _ _ _ => true
  | _ => false

/-- R198: a release or acquire that the gang has issued must order a faulted access, or 32 entries stand behind a faulted
head of its store queue. -/
def State.mustPark (s : State) (k : Nat) : Bool :=
  let own := s.ops.filter (fun o => o.gang == k)
  let bad := own.filter s.faultedOp
  !bad.isEmpty &&
  (own.any (fun p => p.inQ && p.stage == .queued && p.ord.releases && bad.any (fun o => decide (o.id < p.id) && o.covered p.mask && !o.doneAt p.scope))
   || (s.gang k).fences.any (fun f => bad.any (fun o => decide (o.id < f.id)
        && ((f.rel && o.covered f.mask && !o.doneAt f.scope) || (f.acq && o.kind.returns))))
   || bad.any (fun p => p.ord.acquires && own.any (fun o => decide (p.id < o.id)))
   || s.queueFull k)

/-- R198: the gang parks where an issued release or acquire, or its full store queue, makes it. -/
def State.parkNow (s : State) (k : Nat) : State :=
  if s.mustPark k then s.setGang k { s.gang k with parked := true } else s

/-- R92: a parked gang tries again, unless something else parks it (R198): the `mwait` that it is in has faulted. -/
def State.unpark (s : State) (k : Nat) : State :=
  let g := s.gang k
  let stays : Bool := match g.wait with
    | .mwait id => (s.op id).any Op.faulted
    | _ => false
  (s.setGang k { g with parked := g.parked && stays }).parkNow k

/-- R110: a busy flag is held by faulted work. -/
def State.heldByFault (s : State) (k i : Nat) : Bool :=
  let g := s.gang k
  (g.flag i).clauses == 0
  && !g.clauses.any (fun c => c.setA == i || c.setB == i)
  && s.ops.all (fun o => !(o.gang == k && o.flag == some i) || s.faultedOp o)
  && !s.hops.any (fun h => h.parts.any (fun p => p.gang == k && p.flag == some i))

/-- R110: flag `i` still holds back a `swaitf`. -/
def Gang.flagWaits (g : Gang) (i : Nat) : Bool :=
  (g.flag i).busy || g.clauses.any (fun c => c.setA == i || c.setB == i)

/-- R110, R198: a wait on flags parks the gang when some flag of the wait is busy and faulted work holds every busy one. -/
def State.parkOnFlags (s : State) (k : Nat) (fs : List Nat) : State :=
  let g := s.gang k
  let busy := fs.filter (fun i => (g.flag i).busy)
  s.setGang k { g with parked := g.parked || (!busy.isEmpty && busy.all (s.heldByFault k)) }

/-! ### Extended pool (R78, R114) -/

/-- Free blocks of a quadrant's pool. -/
def State.freeBlocks (s : State) (quad : Nat) : Nat :=
  32 - ((List.range 16).map (fun i => (s.gang (quad * 16 + i)).blocks)).foldl (· + ·) 0

/-- R78: granted blocks read as zero with tag raw32. -/
def Gang.grant (g : Gang) (n : Nat) : Gang :=
  let lo := 64 + 64 * g.blocks
  { g with vreg := g.vreg.filter (fun e => decide (e.1 < lo * 32))
           vtag := g.vtag.filter (fun e => decide (e.1 < lo))
           blocks := n, nextBlk := n, rels := [] }

end Sys2Proof.Machine
end

