-- ==== Sys2Proof/Machine/Clause.lean ====
section
/-! DEFINITION. Clauses (spec 02 R47, R48, 04 R84-R86): how a clause is read and checked, and the events
CLAUSE_CHECK, CLAUSE_START and CLAUSE_RETIRE. -/

namespace Sys2Proof.Machine

/-- The outcome of the check of Table 2-18: the clause, a cause with the index of the failing word, or a code page
that does not translate (log 8). -/
inductive Checked where
  | ok (h : ClauseHeader) (body : List Instr)
  | trap (cause idx : Nat)
  | noCode
  deriving DecidableEq, Repr

/-- R40: the instruction attaches to a completion flag by opx[33:32]. -/
def attaches (op : Nat) (f : LaneWord) : Bool :=
  if op = 0x74 ∨ op = 0x75 then f.opx34
  else decide (op = 0x70 ∨ op = 0x72 ∨ op = 0x76 ∨ op = 0x77 ∨ (0xA0 ≤ op ∧ op ≤ 0xA7) ∨ (0xC0 ≤ op ∧ op ≤ 0xC7))

/-- Item 3 of Table 2-18 for one body word. -/
def item3 (h : ClauseHeader) (w : Nat) : Bool :=
  let op := w / 2 ^ 88
  let f := readLane w
  op == 0xFF || (attaches op f && ((f.attach == 1 && h.setA == 15) || (f.attach == 2 && h.setB == 15)))

/-- Items 3 and 4 of Table 2-18 on the body words. -/
def checkBody (h : ClauseHeader) (ws : List Nat) : Checked :=
  match ws.findIdx? (item3 h) with
  | some i => .trap 2 (i + 1)
  | none =>
    let ds := ws.map decodeLane
    match ds.findIdx? (fun d => match d with | .ok _ => false | .error _ => true) with
    | some i => .trap 1 (i + 1)
    | none => .ok h (ds.filterMap (fun d => match d with | .ok i => some i | .error _ => none))

/-- The 96-bit words of a byte string. -/
def laneWords : Nat → List Byte → List Nat
  | 0, _ => []
  | n + 1, bs => leNat (bs.take 12) :: laneWords n (bs.drop 12)

/-- R47: read and check the clause at an offset of the lane section of a crew. -/
def State.readClause (s : State) (w : Crew) (off : Nat) : Checked :=
  if w.laneSize < off + 12 then .trap 6 0
  else match s.readV w.asid (w.laneBase + off) 12 with
    | none => .noCode
    | some hb =>
      let hw := leNat hb
      if hw / 2 ^ 88 ≠ 0xFF then .trap 2 0
      else
        let n := fld hw 67 62 + 1
        let fit := (w.laneSize - off) / 12
        if fit < n + 1 then .trap 6 fit
        else match decodeHeader hw with
          | none => .trap 2 0
          | some h =>
            match s.readV w.asid (w.laneBase + off + 12) (12 * n) with
            | none => .noCode
            | some bb => checkBody h (laneWords n bb)

/-- The header and body words that stand at an offset of the lane section, whether or not the check accepts them: none
where no word with the op of a header stands there. -/
def State.clauseWords (s : State) (w : Crew) (off : Nat) : Option (ClauseHeader × List Nat) :=
  if w.laneSize < off + 12 then none
  else match s.readV w.asid (w.laneBase + off) 12 with
    | none => none
    | some hb =>
      let hw := leNat hb
      if hw / 2 ^ 88 ≠ 0xFF then none
      else
        let n := min (headerOf hw).len ((w.laneSize - off) / 12 - 1)
        (s.readV w.asid (w.laneBase + off + 12) (12 * n)).map (fun bb => (headerOf hw, laneWords n bb))

/-- The clause queue entry for an offset (R84): what its words hold is looked up at once, so that R90 and R110 know
the registers and flags that it names until it retires or is dropped, also where its check will fail; the check reads the
words again. -/
def State.newClause (s : State) (w : Crew) (off blocks : Nat) : Clause :=
  match s.clauseWords w off with
  | some (h, ws) => ⟨off, blocks, false, false, h.wait, h.setA, h.setB,
      (ws.map decodeLane).filterMap (fun d => match d with | .ok i => some i | .error _ => none), 0, s.nextOp⟩
  | none => ⟨off, blocks, false, false, 0, 15, 15, [], 0, s.nextOp⟩

/-- A gang whose streams may move: it runs and its crew is resident (R193, R202, R206). -/
def State.live (s : State) (k : Nat) : Bool :=
  (s.gang k).phase == .running && (s.crew (s.gang k).crew).phase == .resident

/-- CLAUSE_CHECK, R47, R48. No lane traps here, so `tlanes` and `taddr` read zero, also for cause 0x06, for which Table 9-2
names no address (log 36). -/
def execClauseCheck (k : Nat) (s : State) : Res :=
  let g := s.gang k
  match g.clauses with
  | [] => .next s
  | c :: cs =>
    if !s.live k || c.checked then .next s
    else match s.readClause (s.crew g.crew) c.off with
      | .noCode => .fault .codeNotTranslated
      | .trap cause i =>
        .next (s.dropTrap k ⟨cause, false, true, BitVec.ofNat 32 c.off, BitVec.ofNat 32 i, 0, 0, 1, 0, 0⟩)
      | .ok h body =>
        .next (s.setGang k { g with clauses :=
          { c with checked := true, wait := h.wait, setA := h.setA, setB := h.setB, body := body } :: cs })

/-- R85: every flag of a wait mask is clear. -/
def Gang.clear (g : Gang) (m : BitVec 12) : Bool :=
  (List.range 12).all (fun i => !(m.getLsbD i) || !(g.flag i).busy)

/-- CLAUSE_START, R85, R86. The flags that it makes busy may keep a wait of the gang from being one for faulted work alone, so a
parked gang tries again (R110). -/
def execClauseStart (k : Nat) (s : State) : Res :=
  let g := s.gang k
  match g.clauses with
  | [] => .next s
  | c :: cs =>
    if s.live k && c.checked && !c.started && g.clear c.wait then
      .next ((s.setGang k
        ((({ g with clauses := { c with started := true } :: cs }).flagClause c.setA true).flagClause c.setB true)).unpark k)
    else .next s

/-- CLAUSE_RETIRE, R84, R86: the last instruction has issued; a trap that waited for the clauses is taken. -/
def execClauseRetire (k : Nat) (s : State) : Res :=
  let g := s.gang k
  match g.clauses with
  | [] => .next s
  | c :: cs =>
    if s.live k && c.started && decide (c.body.length ≤ c.next) then
      .next ((s.setGang k { (g.endClause c) with clauses := cs, sWait := g.sWait && !cs.isEmpty }).settleTrap k)
    else .next s

end Sys2Proof.Machine
end

