-- ==== Sys2Proof/Machine/ScalarCtl.lean ====
section
/-! DEFINITION. Branches, clauses, special registers, blocks and the end of a gang (spec 05 R104-R119) and the barriers
(07 R172, R173). -/

namespace Sys2Proof.Machine

/-- `sbr`, R104; a pz test waits for the clauses (R90). -/
def execSbr (cnd : Fin 32) (inv : Bool) (off : Fin 1048576) (s : State) : Res :=
  if 16 ≤ cnd.val ∧ s.me.clauses ≠ [] then .next s
  else
    let g := s.me
    if g.test cnd.val != inv then .next (s.setMe (g.adv (4 * (sx 20 off.val).setWidth 32)))
    else .next (s.setMe (g.adv 4))

/-- `scall`, R105. -/
def execScall (sd : SReg) (imm : Fin 524288) (s : State) : Res :=
  scalarDo s [] [sd.val] (fun g => (g.ws sd.val (g.pc + 4)).adv (4 * imm19s imm))

/-- `sjr`, R106; with sd = `s0` the gang leaves handler mode (R194). -/
def execSjr (sd sa : SReg) (imm : Fin 4096) (s : State) : Res :=
  scalarGo s [sa.val] [sd.val] (fun s =>
    let g := s.me
    let target := g.rs sa.val + 4 * imm12s imm
    if target.toNat % 4 ≠ 0 then .next (s.scalarTrap 5 0 (target.setWidth 64))
    else
      let g' := if sd.val = 0 then g.leaveHandler else g
      .next (s.setMe { (g'.ws sd.val (g.pc + 4)) with pc := target }))

/-- R84: enqueue a clause, or wait while all four entries are held. -/
def enqueue (s : State) (off : Nat) : Res :=
  let g := s.me
  if 4 ≤ g.clauses.length then .next s
  else .next (s.setMe (({ g with clauses := g.clauses ++ [s.newClause s.myCrew off g.nextBlk] } : Gang).adv 4))

/-- `lrun`, R107. -/
def execLrun (imm : Fin 524288) (s : State) : Res := enqueue s (imm.val * 16)

/-- `lrunr`, R108. -/
def execLrunr (sa : SReg) (s : State) : Res :=
  scalarGo s [sa.val] [] (fun s =>
    let off := s.me.rs sa.val
    if off.toNat % 16 ≠ 0 then .next (s.scalarTrap 5 0 (off.setWidth 64)) else enqueue s off.toNat)

/-- `lsync`, R109, R91. -/
def execLsync (s : State) : Res :=
  if s.me.clauses ≠ [] then .next s else .next (s.setMe (s.me.adv 4))

/-- `swaitf`, R110, R198. -/
def execSwaitf (mask : Fin 4096) (s : State) : Res :=
  let fs := (List.range 12).filter (fun i => mask.val.testBit i)
  if fs.any s.me.flagWaits then .next (s.parkOnFlags s.cur fs) else .next (s.setMe (s.me.adv 4))

/-- Table 5-5 and Table 9-2: the value of a special register; `orphans` is remote. -/
def State.special (s : State) (k n : Nat) : Nat :=
  let g := s.gang k
  let w := s.crew g.crew
  match n with
  | 0x000 => g.num
  | 0x001 => w.ngangs
  | 0x002 => w.num
  | 0x003 => w.ncrews
  | 0x004 => if w.hasWatches then g.num / 4 else 0xFFFFFFFF
  | 0x005 => g.live.toNat
  | 0x006 => k
  | 0x007 => w.asid
  | 0x008 => w.launchId
  | 0x009 => g.nextBlk
  | 0x00A => s.freeBlocks (slotQuad k)
  | 0x00B => g.cc.word.toNat
  | 0x00C => g.clauses.length
  | 0x010 => Map.get 0 s.cycles (slotDie k)
  | 0x012 => w.d 127 64
  | 0x014 => w.scrSize
  | 0x015 => w.ringOff
  | 0x016 => w.ringLen
  | 0x020 => g.abandoned.toNat
  | 0x021 => g.skipped.toNat
  | 0x030 => g.trap.tcause.toNat
  | 0x031 => g.trap.tpc.toNat
  | 0x032 => g.trap.tinfo.toNat
  | 0x033 => g.trap.tlanes.toNat
  | 0x034 => g.trap.taddr.toNat
  | 0x036 => g.trap.tcount.toNat
  | 0x037 => if g.trap.handler then 1 else 0
  | _ => 0

/-- A pending scalar register or pair (R83); `s0` is never pending. -/
def Gang.pend (g : Gang) (rs : List Nat) : Gang := { g with spend := g.spend ++ rs.filter (· != 0) }

/-- The scalar registers that an operation leaves pending. -/
def Dst.sregs : Dst → List Nat
  | .sreg r => [r]
  | .pair r => [r, r + 1]
  | _ => []

/-- A scalar instruction of `len` bytes issues an operation: its destination is pending (R83), and R198 decides whether the
gang parks. A full store queue holds it back, and so does a core with no room for its request. -/
def State.enter (s : State) (o : Op) (len : Word) : State :=
  if o.inQ && s.queueFull s.cur then s.setMe { s.me with parked := true }
  else
    let s' := s.issue o
    (s'.setMe ((s'.me.pend o.dst.sregs).adv len)).parkNow s.cur

/-- `srd`, R112: `orphans` is remote and leaves its pair pending; every other register is written at once. -/
def execSrd (sd : SReg) (num : Fin 1024) (s : State) : Res :=
  let n := num.val
  let wide := sregWidth n == some 64
  let rs := if wide then [sd.val, sd.val + 1] else [sd.val]
  scalarGo s [] rs (fun s =>
    if n = 0x028 then
      .next (s.enter { s.baseOp with kind := .orphans, dst := .pair sd.val } 8)
    else
      let v := s.special s.cur n
      let g := s.me
      .next (s.setMe ((if wide then g.wp sd.val (BitVec.ofNat 64 v) else g.ws sd.val (BitVec.ofNat 32 v)).adv 8)))

/-- `swr`, R112: `cc` is the one register marked RW. -/
def execSwr (sa : SReg) (_num : Fin 1024) (s : State) : Res :=
  scalarDo s [sa.val] [] (fun g => { g with cc := CC.ofWord (g.rs sa.val), pc := g.pc + 8 })

/-- `sgetf`, R113. -/
def execSgetf (sd : SReg) (s : State) : Res :=
  scalarDo s [] [sd.val] (fun g => (g.ws sd.val (g.sticky.setWidth 32)).adv 8)

/-- `sclrf`, R113, R72. -/
def execSclrf (mask : Fin 64) (s : State) : Res :=
  scalarDo s [] [] (fun g => { g with sticky := g.sticky &&& ~~~(BitVec.ofNat 6 mask.val), pc := g.pc + 8 })

/-- `vacq`, R114; it waits until the gang's earlier releases have returned their blocks (R115). -/
def execVacq (tr : Bool) (sd : SReg) (n : Fin 4) (s : State) : Res :=
  let wr := if tr then [sd.val] else []
  if s.me.clauses ≠ [] ∨ s.me.rels ≠ [] then .next s
  else scalarGo s [] wr (fun s =>
    let g := s.me
    let q := slotQuad s.cur
    let need := n.val - g.blocks
    if n.val ≤ g.blocks then .next (s.setMe ((if tr then g.ws sd.val 1 else g).adv 8))
    else if tr then
      if Map.get [] s.vacqQ q = [] ∧ need ≤ s.freeBlocks q
      then .next (s.setMe (((g.grant n.val).ws sd.val 1).adv 8))
      else .next (s.setMe ((g.ws sd.val 0).adv 8))
    else
      .next ({ s with vacqQ := Map.put [] s.vacqQ q (Map.get [] s.vacqQ q ++ [(s.cur, n.val)]) }.setMe
        { g with wait := .vacq n.val, pc := g.pc + 8 }))

/-- VACQ_GRANT, R114: the head of a quadrant's request queue is granted its blocks. -/
def execVacqGrant (q : Nat) (s : State) : Res :=
  match Map.get [] s.vacqQ q with
  | [] => .next s
  | (k, n) :: rest =>
    let g := s.gang k
    if s.live k && decide (n - g.blocks ≤ s.freeBlocks q) then
      .next ({ s with vacqQ := Map.put [] s.vacqQ q rest }.setGang k { (g.grant n) with wait := .none })
    else .next s

/-- `vrel`, R115. -/
def execVrel (n : Fin 4) (s : State) : Res :=
  scalarDo s [] [] (fun g => { g with
    rels := if n.val < g.nextBlk then g.rels ++ [n.val] else g.rels, nextBlk := min g.nextBlk n.val, pc := g.pc + 8 })

/-- R80: the release of a gang to `n` blocks may take effect: the clauses enqueued before it, whose count is above `n`, have
retired, and no operation writes or reads a register of the released blocks. -/
def State.relReady (s : State) (k n : Nat) : Bool :=
  let g := s.gang k
  let lo := 64 + 64 * n
  g.clauses.all (fun c => decide (c.blocks ≤ n)) && !g.vpend.any (fun r => decide (lo ≤ r))
  && !s.hops.any (fun h => h.parts.any (fun p => p.gang == k) && (asyncReads h.instr).any (fun r => decide (lo ≤ r)))

/-- BLOCK_RETURN, R80, R115: of the releases of a gang, the blocks of those that may take effect return. -/
def execBlockReturn (k : Nat) (s : State) : Res :=
  let g := s.gang k
  match g.rels.reverse.find? (s.relReady k) with
  | none => .next s
  | some n => .next (s.setGang k { (g.grant n) with nextBlk := g.nextBlk, rels := g.rels.filter (fun m => decide (m < n)) })

/-- `strap`, R117. -/
def execStrap (code : Fin 4096) (s : State) : Res := .next (s.scalarTrap 0x11 (BitVec.ofNat 32 code.val) 0)
/-- `sbrk`, R117. -/
def execSbrk (code : Fin 4096) (s : State) : Res := .next (s.scalarTrap 0x12 (BitVec.ofNat 32 code.val) 0)

/-- `syield`, R118: the gang is the most recently issued one on both ports, also beside one that issues in the same cycle. -/
def execSyield (s : State) : Res :=
  let now := 2 * Map.get 0 s.cycles (slotDie s.cur) + 3
  .next (s.setMe { s.me with lastS := now, lastL := now, pc := s.me.pc + 8 })

/-- `sexit`, R119: the gang ends; its exit may end a barrier generation (R172) and breaks joint operations that it has
not matched (R223). It has its tiles and lists no longer; instructions that it has issued to its hearth still find what stands there
(log 25). -/
def execSexit (s : State) : Res :=
  let g := s.me
  let fs := List.range 12
  if g.clauses ≠ [] ∨ fs.any (fun i => (g.flag i).busy) then
    .next (if g.clauses = [] then s.parkOnFlags s.cur fs else s)
  else
    let g' := { g with phase := .exited, blocks := 0, nextBlk := 0, rels := [], ntiles := 0, nlists := 0, pc := g.pc + 8 }
    .next (((s.setMe g').jointBreak s.cur).barChecks g.crew 16)

/-- `sbar`, R172: the arrival is a release at crew scope of all colours. -/
def execSbar (id : Fin 16) (sa : SReg) (s : State) : Res :=
  if s.me.clauses ≠ [] then .next s
  else if !s.olderDone s.cur s.nextOp .crew (BitVec.allOnes 8) then .next (s.parkOnOrder s.cur)
  else scalarGo s [sa.val] [] (fun s =>
    let g := s.me
    let w := s.myCrew
    let n := if sa.val = 0 then 0 else (g.rs sa.val).toNat
    let b := w.bar id.val
    if sa.val ≠ 0 ∧ (n = 0 ∨ w.ngangs < n) then .next (s.scalarTrap 0x10 0 0)
    else if b.arrived ≠ [] ∧ b.n ≠ n then .next (s.scalarTrap 0x10 0 0)
    else
      let s' := (s.setMe { g with wait := .bar id.val g.pc, pc := g.pc + 8 }).setCrew g.crew
        (w.setBar id.val ⟨n, b.arrived ++ [g.num]⟩)
      .next (s'.barCheck g.crew id.val))

/-- `sbarw`, R173. -/
def execSbarw (arrive : Bool) (sd sa : SReg) (s : State) : Res :=
  if s.me.clauses ≠ [] then .next s
  else if !s.olderDone s.cur s.nextOp .crew (BitVec.allOnes 8) then .next (s.parkOnOrder s.cur)
  else scalarGo s [sa.val] [sd.val] (fun s =>
    let g := s.me
    let w := s.myCrew
    let off := g.rs sa.val
    match scrCause w 8 (off.setWidth 64) with
    | some c => .next (s.scalarTrap c 0 (off.setWidth 64))
    | none =>
      let word := leNat (w.readScr off.toNat 8)
      let gen := bits word 63 48
      let ex := bits word 47 32
      let arr := bits word 31 0 + 1
      if ex = 0 ∨ ex < arr then .next (s.scalarTrap 0x10 0 0)
      else
        let obj := if arr = ex then (gen + 1) % 65536 * 2 ^ 48 + ex * 2 ^ 32 else gen * 2 ^ 48 + ex * 2 ^ 32 + arr
        let g' := { (g.ws sd.val (BitVec.ofNat 32 gen)) with
                    pc := g.pc + 8, wait := if arrive then .none else .barw off.toNat gen g.pc }
        .next ((s.setMe g').scrStore g.crew off.toNat (natLE 8 obj) true))

end Sys2Proof.Machine
end

