-- ==== Sys2Proof/Machine/MemIssue.lean ====
section
/-! DEFINITION. The memory instructions as they issue (spec 07 R156-R175): what they check, the operation that they
put in flight and the registers that they leave pending. -/

namespace Sys2Proof.Machine

/-- The access writes (Table 9-3); a frame request counts as a write (R287). -/
def OpKind.writes : OpKind → Bool
  | .store | .atom _ _ | .cas _ | .sendsig _ | .pcommit _ => true
  | _ => false

/-- The source field of a record of an operation (R201). -/
def Op.source (o : Op) : Nat :=
  match o.kind with
  | .vredeem _ _ | .sredeem _ | .kstat | .kdrop => 2
  | .gather _ _ _ => 3
  | _ => if o.lane then 1 else 0
/-- The source of its traps, 8 more where it writes. -/
def Op.trapSource (o : Op) : Nat := o.source + (if o.kind.writes then 8 else 0)

/-- A scalar memory instruction: it waits, takes a precise trap (R158), or puts its operation in flight. -/
def scalarMem (s : State) (rd wr : List Nat) (len : Word) (chk : Gang → List (Option Nat × Dword))
    (mk : Gang → Op) : Res :=
  scalarGo s rd wr (fun s =>
    match (chk s.me).find? (fun c => c.1.isSome) with
    | some (some c, a) => .next (s.scalarTrap c 0 a (mk s.me).trapSource)
    | _ => .next (s.enter (mk s.me) len))

/-- One element of a scalar access. -/
def el1 (a : Dword) (data : List Byte) : El := ⟨0, a, data, .todo, []⟩

/-- The destination that a width selects. -/
def wdst (wide : Bool) (r : Nat) : Dst := if wide then .pair r else .sreg r
def wregs (wide : Bool) (r : Nat) : List Nat := if wide then [r, r + 1] else [r]
def wbytes (wide : Bool) : Nat := if wide then 8 else 4
/-- The bytes of a register or pair. -/
def Gang.wdata (g : Gang) (wide : Bool) (r : Nat) : List Byte :=
  if wide then natLE 8 (g.rp r).toNat else natLE 4 (g.rs r).toNat

/-- A plain scalar load (Table 7-1). -/
def sload (wide : Bool) (r : Nat) (sa : Pair) (imm : Fin 4096) (s : State) : Res :=
  let addr (g : Gang) : Dword := g.rp (ev sa) + sx 12 imm.val
  scalarMem s (pr sa) (wregs wide r) 4 (fun g => [(addrCause (wbytes wide) (addr g), addr g)])
    (fun g => { s.baseOp with width := wbytes wide, els := [el1 (addr g) []], dst := wdst wide r })

/-- A plain scalar store (Table 7-1). -/
def sstore (wide : Bool) (r : Nat) (sa : Pair) (col : Fin 8) (woff : Fin 512) (s : State) : Res :=
  let addr (g : Gang) : Dword := g.rp (ev sa) + BitVec.ofNat 64 (4 * woff.val)
  scalarMem s (pr sa ++ wregs wide r) [] 4 (fun g => [(addrCause (wbytes wide) (addr g), addr g)])
    (fun g => { s.baseOp with kind := .store, inQ := true, stage := .queued, colour := col.val, width := wbytes wide,
                              els := [el1 (addr g) (g.wdata wide r)] })

/-- `sld`, R159. -/
def execSld (sd : SReg) (sa : Pair) (imm : Fin 4096) (s : State) : Res := sload false sd.val sa imm s
/-- `sld.d`, R159. -/
def execSldD (sd sa : Pair) (imm : Fin 4096) (s : State) : Res := sload true (ev sd) sa imm s
/-- `sst`, R159. -/
def execSst (sd : SReg) (sa : Pair) (col : Fin 8) (woff : Fin 512) (s : State) : Res :=
  sstore false sd.val sa col woff s
/-- `sst.d`, R159. -/
def execSstD (sd sa : Pair) (col : Fin 8) (woff : Fin 512) (s : State) : Res := sstore true (ev sd) sa col woff s

/-- `sld.acq`, R164. -/
def execSldAcq (wide : Bool) (sc : Scope) (sd : SReg) (sa : Pair) (s : State) : Res :=
  let addr (g : Gang) : Dword := g.rp (ev sa)
  scalarMem s (pr sa) (wregs wide sd.val) 8 (fun g => [(addrCause (wbytes wide) (addr g), addr g)])
    (fun g => { s.baseOp with scope := sc, ord := .acq, width := wbytes wide, els := [el1 (addr g) []],
                              dst := wdst wide sd.val })

/-- `sst.rel`, R164: a mask of 0 makes it relaxed. -/
def execSstRel (wide : Bool) (sc : Scope) (mask : Fin 256) (col : Fin 8) (sd : SReg) (sa : Pair) (s : State) : Res :=
  let addr (g : Gang) : Dword := g.rp (ev sa)
  scalarMem s (pr sa ++ wregs wide sd.val) [] 8 (fun g => [(addrCause (wbytes wide) (addr g), addr g)])
    (fun g => { s.baseOp with kind := .store, inQ := true, stage := .queued, scope := sc,
                              ord := if mask.val = 0 then .rlx else .rel, mask := BitVec.ofNat 8 mask.val,
                              colour := col.val, width := wbytes wide, els := [el1 (addr g) (g.wdata wide sd.val)] })

/-- The mask that an order of an atomic releases (Table 8-2: all colours). -/
def ordMask (o : Order) : BitVec 8 := if o.releases then BitVec.allOnes 8 else 0

/-- `satom`, R166, R168. -/
def execSatom (op : AtomOp) (wide : Bool) (sc : Scope) (ord : Order) (col : Fin 8) (sd : SReg) (sa : Pair)
    (sb : SReg) (s : State) : Res :=
  let addr (g : Gang) : Dword := g.rp (ev sa)
  scalarMem s (pr sa ++ wregs wide sb.val) (wregs wide sd.val) 8
    (fun g => [(atomCause (wbytes wide) (addr g), addr g)])
    (fun g => { s.baseOp with kind := .atom op wide, inQ := true, stage := .queued, scope := sc, ord := ord,
                              mask := ordMask ord, colour := col.val, width := wbytes wide,
                              els := [el1 (addr g) (g.wdata wide sb.val)], dst := wdst wide sd.val })

/-- `scas`, R168: the element carries the value compared and the new value. -/
def execScas (wide : Bool) (sc : Scope) (ord : Order) (col : Fin 8) (sd : SReg) (sa : Pair) (sb : SReg)
    (s : State) : Res :=
  let addr (g : Gang) : Dword := g.rp (ev sa)
  scalarMem s (pr sa ++ wregs wide sb.val ++ wregs wide sd.val) (wregs wide sd.val) 8
    (fun g => [(atomCause (wbytes wide) (addr g), addr g)])
    (fun g => { s.baseOp with kind := .cas wide, inQ := true, stage := .queued, scope := sc, ord := ord,
                              mask := ordMask ord, colour := col.val, width := wbytes wide,
                              els := [el1 (addr g) (g.wdata wide sb.val ++ g.wdata wide sd.val)],
                              dst := wdst wide sd.val })

/-- `mwait`, R171: the gang waits until the read meets the comparison. -/
def execMwait (sd : SReg) (sa sb : Pair) (sc : Scope) (cmp : WaitCmp) (s : State) : Res :=
  scalarGo s (pr sa ++ pr sb) [sd.val] (fun s =>
    let g := s.me
    let a := g.rp (ev sa)
    match addrCause 8 a with
    | some c => .next (s.scalarTrap c 0 a)
    | none =>
      let o := { s.baseOp with kind := .mwait cmp, scope := sc, ord := .acq, width := 8, els := [el1 a []],
                               dst := .sreg sd.val, arg := [g.rs (ev sb), g.rs (ev sb + 1)] }
      .next ((s.issue o).setMe { g with wait := .mwait s.nextOp, pc := g.pc + 4 }))

/-- `ssendsig`, R175: one entry of a payload store and a counter add. Where both addresses fail at issue the payload names the
cause (log 36). -/
def execSsendsig (sc : Scope) (mask inc : Fin 256) (col : Fin 8) (sd sa sb : Pair) (s : State) : Res :=
  let pay (g : Gang) : Dword := g.rp (ev sa)
  let cnt (g : Gang) : Dword := g.rp (ev sb)
  scalarMem s (pr sd ++ pr sa ++ pr sb) [] 8
    (fun g => [(addrCause 8 (pay g), pay g), (atomCause 8 (cnt g), cnt g)])
    (fun g => { s.baseOp with kind := .sendsig inc.val, inQ := true, stage := .queued, scope := sc, ord := .rel,
                              mask := BitVec.ofNat 8 mask.val, colour := col.val, width := 8,
                              els := [el1 (pay g) (natLE 8 (g.rp (ev sd)).toNat),
                                      ⟨1, cnt g, natLE 8 inc.val, .todo, []⟩] })

/-! ### Fences (R165) -/

/-- R165, R311: an older load or atomic that has not returned its value, or an older fetch that has not landed. -/
def State.unreturned (s : State) (k id : Nat) : Bool :=
  s.ops.any (fun o => o.gang == k && decide (o.id < id) && o.kind.returns) || s.fetchOpen k id

/-- R153: an acquire at scope 3 or wider empties the L1 of a core. -/
def State.emptyL1 (s : State) (core : Nat) : State := { s with l1 := s.l1.filter (fun e => e.core != core) }

/-- R183: an acquire of a gang at place `id` is performed: stores that its later releases cover may have left the core until
now, and the loads behind it leave the core from now on. -/
def State.acquired (s : State) (k id : Nat) : State :=
  let g := s.gang k
  let hd := ((s.queue k).head?.map Op.id).getD 0
  let moved (o : Op) : Bool := decide (id < o.id) && (o.id == hd || (o.gang == k && o.kind.isLoad))
  let s1 : State := { s with ops := s.ops.map (fun (o : Op) => if moved o then { o with head := s.nextOp } else o)
                             nextOp := s.nextOp + 1 }
  s1.setGang k { g with fences := g.fences.map (fun f => if id < f.id then { f with num := s.nextOp } else f) }

/-- A fence loses its acquire half once it is satisfied. -/
def State.acqHalf (s : State) (k : Nat) (f : Fence) : Fence := { f with acq := f.acq && s.unreturned k f.id }
/-- A fence loses its release half once it is satisfied: the acquires before it are performed, and what it covers is done. -/
def State.relHalf (s : State) (k : Nat) (f : Fence) : Fence :=
  { f with rel := f.rel && !(s.acqDone k f.id && s.olderDone k f.id f.scope f.mask && s.cumulative (s.coreOfGang k) f.num f.scope) }

/-- The acquire halves of a gang's fences that are satisfied end: each is an acquire, and one at scope 3 or wider invalidates the
L1 (R153). -/
def State.settleAcq (s : State) (k : Nat) : State :=
  let g := s.gang k
  let met := g.fences.filter (fun f => f.acq && !(s.acqHalf k f).acq)
  let s1 := met.foldl (fun t f => t.acquired k f.id) (s.setGang k { g with fences := g.fences.map (s.acqHalf k) })
  if met.any (fun (f : Fence) => decide (3 ≤ f.scope.code)) then s1.emptyL1 (s.coreOfGang k) else s1

/-- The fences of a gang that still hold later accesses: the acquire halves end first, since the release halves wait for them. -/
def State.settleFence (s : State) (k : Nat) : State :=
  let s1 := s.settleAcq k
  let g := s1.gang k
  s1.setGang k { g with fences := (g.fences.map (s1.relHalf k)).filter (fun f => f.acq || f.rel) }

/-- The fences of the gangs of a core, whose release halves may wait for the stores of each other (R183). -/
def State.settleCore (s : State) (core : Nat) : State :=
  ((s.gangs.filter (fun e => s.coreOfGang e.1 == core && !e.2.fences.isEmpty)).map (·.1)).foldl State.settleFence s
/-- What an operation does may settle fences of the core that it belongs to, and of those that it has left. -/
def State.settleOf (s : State) (o : Op) : State :=
  (o.leftCores.filter (· != s.coreOf o)).foldl State.settleCore (s.settleCore (s.coreOf o))
/-- The fences of a gang, and those of the other gangs of its core. -/
def State.settleFences (s : State) (k : Nat) : State := s.settleCore (s.coreOfGang k)

/-- `sfence`, R165. -/
def execSfence (sc : Scope) (kind : FenceKind) (mask : Fin 256) (s : State) : Res :=
  let g := s.me
  let f : Fence := ⟨s.nextOp, kind != .rel, kind != .acq, sc, BitVec.ofNat 8 mask.val, s.nextOp⟩
  let s' := { s with nextOp := s.nextOp + 1 }.setMe { g with fences := g.fences ++ [f], pc := g.pc + 8 }
  .next ((s'.settleFences s.cur).parkNow s.cur)

/-! ### Lane accesses -/

/-- R40: the completion flag that a lane operation attaches to. -/
def Gang.attached (g : Gang) (f : LaneWord) : Option Nat :=
  match g.clauses with
  | [] => none
  | c :: _ => if f.attach = 1 then some c.setA else if f.attach = 2 then some c.setB else none

/-- The place of the next instruction of the head clause. -/
def Gang.lanePc (g : Gang) : Word := match g.clauses with | [] => 0 | c :: _ => BitVec.ofNat 32 c.off
def Gang.laneInfo (g : Gang) : Word := match g.clauses with | [] => 0 | c :: _ => BitVec.ofNat 32 (c.next + 1)

/-- A fresh operation of the lane stream. -/
def State.laneOp (s : State) : Op := { s.baseOp with lane := true, pc := s.me.lanePc, info := s.me.laneInfo }

/-- A load without an acting lane has nothing to perform. -/
def Op.idle (o : Op) : Op := if o.kind == .load && o.els.isEmpty then { o with stage := .ready } else o

/-- R87, R86: a lane operation issues: its registers are pending, its flag is busy, and the clause moves on. -/
def State.laneEnter (s : State) (o : Op) (wr : List Nat) : State :=
  let s' := (s.taint s.cur wr).issue o.idle
  let g := s'.me
  (s'.setMe ({ (g.flagOp o.flag true) with vpend := g.vpend ++ wr } : Gang).laneNext).parkNow s.cur

/-- One element per acting lane. -/
def laneEls (act : BitVec 32) (addr : Nat → Dword) (data : Nat → List Byte) : List El :=
  (List.range 32).filterMap (fun l => if act.getLsbD l then some ⟨l, addr l, data l, .todo, []⟩ else none)

/-- The scope in a lane word's mode (R39). -/
def laneScope (f : LaneWord) : Scope := (Scope.ofCode f.mode.val).getD .gang

/-- A lane memory instruction: it waits, traps, or puts its operation in flight. -/
def laneMem (s : State) (f : LaneWord) (u : LaneUse) (cause : Gang → Nat → Option Nat) (addr : Gang → Nat → Dword)
    (mk : Gang → Op) : Res :=
  laneGo s (s.me.act f) u (fun s =>
    let g := s.me
    match lanesCause (g.act f) (cause g) (addr g) with
    | some (c, lanes, a) => .next (s.laneTrap c lanes a)
    | none =>
      let o := mk g
      if o.inQ && s.queueFull s.cur then .next (s.setMe { g with parked := true })
      else .next (s.laneEnter o u.wr))

/-- The words of `n` registers of a lane as bytes. -/
def Gang.laneData (g : Gang) (r n l : Nat) : List Byte := (List.range n).flatMap (fun i => natLE 4 (g.rv (r + i) l).toNat)

/-- A lane load (Table 7-3). -/
def laneLoad (scr : Bool) (f : LaneWord) (s : State) : Res :=
  let n := f.count
  let w := s.myCrew
  let addr (g : Gang) (l : Nat) : Dword := if scr then g.laneOff f l else g.laneAddr f l
  laneMem s f ⟨if scr then [f.va.val] else laneAddrRegs f, regs f.vd.val n, laneSReads (if scr then .vlds f else .vld f), [], []⟩
    (fun g l => if scr then scrCause w (4 * n) (addr g l) else addrCause (4 * n) (addr g l)) addr
    (fun g => { s.laneOp with scr := scr, scope := laneScope f, width := 4 * n,
                              els := laneEls (g.act f) (addr g) (fun _ => []),
                              dst := .vreg f.vd.val n (laneTy f), flag := g.attached f })

/-- A lane store (Table 7-3). -/
def laneStore (scr : Bool) (f : LaneWord) (s : State) : Res :=
  let n := f.count
  let w := s.myCrew
  let addr (g : Gang) (l : Nat) : Dword := if scr then g.laneOff f l else g.laneAddr f l
  laneMem s f ⟨(if scr then [f.va.val] else laneAddrRegs f) ++ regs f.vc.val n, [],
      laneSReads (if scr then .vsts f else .vst f), [], tagged f.vc.val n (laneTy f)⟩
    (fun g l => if scr then scrCause w (4 * n) (addr g l) else addrCause (4 * n) (addr g l)) addr
    (fun g => { s.laneOp with kind := .store, inQ := true, stage := .queued, scr := scr, scope := laneScope f,
                              colour := f.x 7 5, width := 4 * n, arg := [BitVec.ofNat 32 f.typ.val],
                              els := laneEls (g.act f) (addr g) (g.laneData f.vc.val n) })

/-- R169: the tag that an atomic's operand must carry, and the tag of its result given vc's. -/
def atomTags (op : AtomOp) (vc : Nat) (wide : Bool) : List (Nat × Ty) :=
  let two (t : Ty) : List (Nat × Ty) := if wide then [(vc, t), (vc + 1, t)] else [(vc, t)]
  match op with
  | .min | .max => two .s32
  | .minn | .maxn => two .n32
  | .addf => [(vc, .f32)]
  | .maxvi => [(vc, .f32), (vc + 1, .n32)]
  | _ => []
def atomTag (op : AtomOp) (vc : Ty) : Ty :=
  match op with
  | .min | .max => .s32
  | .minn | .maxn => .n32
  | .addf => .f32
  | .maxvi => .n32
  | _ => vc

/-- A lane atomic (R169). -/
def laneAtom (scr : Bool) (f : LaneWord) (s : State) : Res :=
  let op := (AtomOp.ofCode (f.x 3 0)).getD .add
  let wide := f.x 4 4 == 1
  let n := if wide then 2 else 1
  let w := s.myCrew
  let addr (g : Gang) (l : Nat) : Dword := if scr then g.laneOff f l else g.laneAddr f l
  let data (g : Gang) (l : Nat) : List Byte :=
    if op = .maxvi then natLE 8 (maxviWord (g.rv f.vc.val l) (g.rv (f.vc.val + 1) l)) else g.laneData f.vc.val n l
  laneMem s f ⟨(if scr then [f.va.val] else laneAddrRegs f) ++ regs f.vc.val n,
      if f.opx34 then regs f.vd.val n else [], laneSReads (if scr then .vatoms f else .vatom f), [],
      atomTags op f.vc.val wide⟩
    (fun g l => if scr then scrCause w (4 * n) (addr g l) else atomCause (4 * n) (addr g l)) addr
    (fun g => { s.laneOp with kind := .atom op wide, inQ := true, stage := .queued, scr := scr, scope := laneScope f,
                              colour := f.x 7 5, width := 4 * n, els := laneEls (g.act f) (addr g) (data g),
                              dst := if f.opx34 then .vreg f.vd.val n (atomTag op (g.tag f.vc.val)) else .none,
                              flag := if f.opx34 then g.attached f else none })
where
  /-- R167: the packed word of a value and an index. -/
  maxviWord (v i : Word) : Nat := (maxviKey v).toNat * 2 ^ 32 + (~~~i).toNat

/-- `vld`, R161. -/
def execVld (f : LaneWord) (s : State) : Res := laneLoad false f s
/-- `vst`, R161. -/
def execVst (f : LaneWord) (s : State) : Res := laneStore false f s
/-- `vlds`, R161. -/
def execVlds (f : LaneWord) (s : State) : Res := laneLoad true f s
/-- `vsts`, R161. -/
def execVsts (f : LaneWord) (s : State) : Res := laneStore true f s
/-- `vatom`, R169. -/
def execVatom (f : LaneWord) (s : State) : Res := laneAtom false f s
/-- `vatoms`, R169. -/
def execVatoms (f : LaneWord) (s : State) : Res := laneAtom true f s

end Sys2Proof.Machine
end

