-- ==== Sys2Proof/Machine/Request.lean ====
section
/-! DEFINITION. Requests on their way: where an element lies, the conditions under which it may be performed, admission
at a slice, faults as they are registered, and how an operation ends (spec 07 R156, R157, R162, 08 R176-R179, 09 R191,
R200, 15 R291-R296). -/

namespace Sys2Proof.Machine

/-! ### Order -/

/-- R177, R182: an older load of the gang of the same bytes is still to be performed. -/
def State.olderLoad (s : State) (o : Op) (e : El) : Bool :=
  s.ops.any (fun p => p.gang == o.gang && decide (p.id < o.id) && (p.kind.isLoad || p.kind.fetches)
    && p.els.any (fun f => f.open_ && s.overlap o e p f))

/-- R157, R176, R179: a store or atomic of the same core to the same bytes has left the core and is still to be
performed. -/
def State.leftStore (s : State) (o : Op) (e : El) : Bool :=
  s.ops.any (fun p => p.id != o.id && s.homeCore p == s.homeCore o && p.inQ && p.kind.memory && p.stage == .sent
    && p.els.any (fun f => f.open_ && s.overlap o e p f))

/-- Queue entries that go to the slice of their address. -/
def OpKind.toSlice : OpKind → Bool
  | .fetchk _ _ _ => true
  | k => k.memory
/-- Two addresses lie at one die of homes 0-3 or 64-127: a peer's die is VA[49:48]. A window names its core, and no die (R14). -/
def sameDie (a b : Nat) : Bool :=
  homeOf a != some .window && (if a / 2 ^ 50 < 64 then a / 2 ^ 50 == b / 2 ^ 50 else a / 2 ^ 48 == b / 2 ^ 48)
/-- Two addresses go to one slice (R15). -/
def sameSlice (a b : Nat) : Bool := sameDie a b && sliceOf a == sliceOf b
/-- The frame instructions, which go to the control slice of their page (R283). -/
def OpKind.pages : OpKind → Bool
  | .pcommit _ | .pdecommit | .pquery _ => true
  | _ => false

/-- R169, R175: an element that stays behind a write of its operation which waits for a frame: a lane of an atomic, the counter of an
`ssendsig`, or a lane that stores to the bytes of a lower one. -/
def State.behindFrame (s : State) (o : Op) (i : Nat) (e : El) : Bool :=
  (o.els.zipIdx.take i).any (fun f => f.1.st == .parked && s.elAwaits o f.2
    && (o.kind.atomic || s.overlap o e o f.1 || (match o.kind with | .sendsig _ => true | .sredeem _ => true | _ => false)))

/-- R177: requests of one core reach a slice in the order in which they leave the core (a fetch that waits there for a
berth has reached it, and an element behind a write that waits for a frame has not left); `key` is the number at which this one left.
R190: writes to the host arrive in the order in which they leave the device. -/
def State.fifoBlocked (s : State) (o : Op) (e : El) (key : Nat) : Bool :=
  let va := e.addr.toNat
  s.ops.any (fun p => p.inQ && p.stage == .sent && p.kind.toSlice && !s.quay.fetches.contains p.id && decide (p.left < key) && p.left != 0
    && (s.homeCore p == s.homeCore o || homeOf va == some .host)
    && p.els.zipIdx.any (fun f => f.1.st == .todo && !s.behindFrame p f.2 f.1
        && (if homeOf va == some .host then homeOf f.1.addr.toNat == some .host else sameSlice va f.1.addr.toNat)))

/-- R176, R177: an entry of the core that left it before, to the same bytes of a window, is still to be performed. -/
def State.winBehind (s : State) (o : Op) (e : El) : Bool :=
  homeOf e.addr.toNat == some .window
  && s.ops.any (fun p => p.id != o.id && s.homeCore p == s.homeCore o && p.inQ && p.kind.memory && p.stage == .sent
    && decide (p.left < o.left) && p.els.any (fun f => f.open_ && s.overlap o e p f))

/-- R162, R169: a lower lane of the same store or atomic goes first; one that has faulted is replayed later (R197). -/
def State.lowerLane (s : State) (o : Op) (i : Nat) (e : El) (with_ : List Nat) : Bool :=
  (o.els.zipIdx.take i).any (fun f => (f.1.st == .todo || f.1.st == .parked) && !with_.contains f.2
    && (o.kind.atomic || s.overlap o e o f.1))

/-- R156, R197: an older queue entry of the gang to the same bytes is marked faulted. -/
def State.olderHeld (s : State) (o : Op) (e : El) : Bool :=
  s.ops.any (fun p => p.gang == o.gang && decide (p.id < o.id) && p.inQ && p.kind.memory
    && p.els.any (fun f => f.st == .faulted && s.overlap o e p f))

/-- An access may be performed as far as the order of its own core goes, together with the elements `with_`. -/
def State.inOrder (s : State) (o : Op) (i : Nat) (e : El) (with_ : List Nat := []) : Bool :=
  s.acqDone o.gang o.id && !s.olderLoad o e
  && (if o.inQ then !s.fifoBlocked o e o.left && !s.winBehind o e && !s.lowerLane o i e with_ && !s.olderHeld o e
      else !s.leftStore o e && !s.fifoBlocked o e (max o.id o.head))
  && (match o.kind with | .sendsig _ => i == 0 || (o.els.take i).all El.final | _ => true)

/-! ### Admission (R295, R296) -/

/-- The key of a bucket: slice of the device and ASID. -/
def bucketKey (sl asid : Nat) : Nat := sl * 16384 + asid

/-- R295: a context has buckets on a die from the cycle in which it first holds a crew there. One that
holds none there, and whose crew on another die brings a request, gets them with its first request: its request costs tokens too, and
the manual names no other bucket (log 20). -/
def State.holdDie (s : State) (asid die : Nat) : State :=
  match Map.get none s.quay.since (asid * 4 + die) with
  | some _ => s
  | none => { s with quay := { s.quay with since := Map.put none s.quay.since (asid * 4 + die) (some (Map.get 0 s.cycles die)) } }

/-- One bucket gains its rate up to now; tokens beyond the depth go to the spare pool. A context has a bucket from the cycle
in which it first holds a crew on the die, empty then (log 20). -/
def State.refreshOne (s : State) (now key : Nat) : State :=
  let b := Map.get ⟨0, 0⟩ s.quay.buckets key
  let sl := key / 16384
  let asid := key % 16384
  match Map.get none s.quay.since (asid * 4 + sl / 64) with
  | none => { s with quay := { s.quay with buckets := Map.put ⟨0, 0⟩ s.quay.buckets key ⟨0, 0⟩ } }
  | some t =>
    let c := (if b.upTo < t then 0 else b.credit) + s.ctxField asid 143 128 * (now - max b.upTo t)
    let d := 256 * s.ctxField asid 159 144
    let sp := min 65536 (Map.get 0 s.quay.spare sl + (c - d))
    { s with quay := { s.quay with buckets := Map.put ⟨0, 0⟩ s.quay.buckets key ⟨min c d, now⟩,
                                   spare := Map.put 0 s.quay.spare sl sp } }

/-- The contexts that have buckets on a die. -/
def State.holders (s : State) (die : Nat) : List Nat :=
  (s.quay.since.filter (fun e => e.1 % 4 == die && e.2.isSome)).map (fun e => e.1 / 4)

/-- The buckets of a slice gain their rates up to now: those of every context that holds a crew on its die, and of
those that have brought a request. -/
def State.refresh (s : State) (asid sl : Nat) : State :=
  let now := Map.get 0 s.cycles (sl / 64)
  let t := s.holdDie asid (sl / 64)
  (t.holders (sl / 64)).foldl (fun s a => s.refreshOne now (bucketKey sl a)) t

/-- A bucket, or else the spare pool, holds the tokens of `n` units. -/
def State.canPay (s : State) (asid sl n : Nat) : Bool :=
  decide (256 * n ≤ (Map.get ⟨0, 0⟩ s.quay.buckets (bucketKey sl asid)).credit) || decide (256 * n ≤ Map.get 0 s.quay.spare sl)
/-- The tokens of `n` units are paid. -/
def State.pay (s : State) (asid sl n : Nat) : State :=
  let key := bucketKey sl asid
  let b := Map.get ⟨0, 0⟩ s.quay.buckets key
  if 256 * n ≤ b.credit then
    { s with quay := { s.quay with buckets := Map.put ⟨0, 0⟩ s.quay.buckets key { b with credit := b.credit - 256 * n } } }
  else { s with quay := { s.quay with spare := Map.put 0 s.quay.spare sl (Map.get 0 s.quay.spare sl - 256 * n) } }

/-- The `cmd` of the retry of a berth's fetch, which names the berth. -/
abbrev retryCmd : Nat := 2 ^ 64
/-- A request that waits for tokens is still there. -/
def State.waiterLive (s : State) (w : Waiter) : Bool :=
  if w.cmd = retryCmd then
    let b := Map.get Berth.init s.quay.berths w.who
    b.st == .pending && b.retry
  else if w.cmd = 0 then
    match s.op w.who with
    | some o => o.stage == .sent && (s.crew o.crew).phase != .out && (match o.els[w.at_]? with | some e => e.st == .todo | none => false)
    | none => false
  else (s.crew w.who).craneRuns && (s.crew w.who).ring.cmds.any (fun x => x.pos + 1 == w.cmd)
/-- The requests that wait at a slice, in order of arrival. -/
def State.waiters (s : State) (sl : Nat) : List Waiter := s.quay.waits.filter (fun w => w.slice == sl && s.waiterLive w)

/-- Two waiters are one request. -/
def Waiter.same (x w : Waiter) : Bool := x.slice == w.slice && x.who == w.who && x.cmd == w.cmd && x.at_ == w.at_

/-- R296: how far a context stands behind the one that a slice admitted last. -/
def State.rrDist (s : State) (sl asid : Nat) : Nat := (asid + 16384 - Map.get 0 s.quay.rr sl - 1) % 16384

/-- R296: another request goes first: an earlier one of the same context, or the first one of a context that can pay and whose
turn comes before. -/
def State.overtaken (s : State) (w : Waiter) : Bool :=
  let ws := s.waiters w.slice
  (ws.takeWhile (fun x => !x.same w)).any (fun x => x.asid == w.asid)
  || ws.any (fun x => x.asid != w.asid && (ws.find? (fun y => y.asid == x.asid)) == some x
      && s.canPay x.asid w.slice x.units && decide (s.rrDist w.slice x.asid < s.rrDist w.slice w.asid))

/-- The next place in the order of arrival at the slices (R291). -/
def State.arrival (s : State) : Nat := s.quay.arrivals + 1
def State.nextArrival (s : State) : State := { s with quay := { s.quay with arrivals := s.arrival } }

/-- A request that waits for tokens stands at its slice, in its place in the order of arrival. -/
def State.queued (s : State) (w : Waiter) : Waiter × State :=
  match s.quay.waits.find? (·.same w) with
  | some x => (x, s)
  | none =>
    let x : Waiter := { w with seen := s.arrival }
    (x, { s.nextArrival with quay := { s.nextArrival.quay with waits := s.quay.waits ++ [x] } })

/-- R295, R296: a request at its slice: it has been admitted before, is admitted now, or waits for tokens. One that is admitted
keeps its place in the order of arrival until it goes on (`pass`), and bars no other request from admission meanwhile. -/
def State.admit1 (s : State) (w : Waiter) : Option Nat × State :=
  match s.quay.paid.find? (·.same w) with
  | some x => (some x.seen, s)
  | none =>
    let q := (s.refresh w.asid w.slice).queued w
    if q.2.canPay w.asid w.slice w.units && !q.2.overtaken w then
      let s2 := q.2.pay w.asid w.slice w.units
      (some q.1.seen, { s2 with quay := { s2.quay with
        waits := s2.quay.waits.filter (fun x => !x.same w && s2.waiterLive x), paid := s2.quay.paid.filter s2.waiterLive ++ [q.1],
        rr := Map.put 0 s2.quay.rr w.slice w.asid } })
    else (none, q.2)

/-- An admitted request goes on. -/
def State.pass (s : State) (w : Waiter) : State :=
  { s with quay := { s.quay with paid := s.quay.paid.filter (fun x => !x.same w) } }

/-- A request that has nothing to wait for but its tokens: it is admitted and goes on, or waits. -/
def State.admitted (s : State) (w : Waiter) : Bool × State :=
  match s.admit1 w with
  | (some _, t) => (true, t.pass w)
  | (none, t) => (false, t)

/-- A request of an operation has reached its slice. -/
def State.arrived (s : State) (id : Nat) (els : List Nat) : Bool :=
  (s.quay.waits ++ s.quay.paid).any (fun w => w.who == id && w.cmd == 0 && els.contains w.at_)

/-! ### Requests that are out (R6) -/

/-- The requests that elements of an operation make: the elements of one block of a load or store are one request, and every
other element is one of its own. The manual does not say what one request is: the model's choice (R6, log 36). -/
def State.requests (s : State) (o : Op) (els : List El) : Nat :=
  match o.kind with
  | .load | .store => ((els.map (s.blockOf o)).eraseDups).length
  | _ => els.length

/-- The requests of an operation that are out: of a queue entry that has left, those of the elements still to be performed; of any other
operation, those that stand at their slices, writes that are parked there, and a claim that waits on a berth. What is still in the core
(a load behind an acquire or an atomic, faulted work) is not out. -/
def State.outOf (s : State) (o : Op) : Nat :=
  if o.inQ then
    if o.stage == .sent then s.requests o (o.els.filter (fun e => e.st == .todo || e.st == .parked)) else 0
  else ((s.quay.waits ++ s.quay.paid).filter (fun w => w.who == o.id && w.cmd == 0 && s.waiterLive w)).length
    + (o.els.filter (fun e => e.st == .parked)).length
    + (if s.quay.berths.any (fun b => b.2.claim == .waiting o.id) then 1 else 0)

/-- R6, Table 1-1: the memory requests of a core that are out. Table 1-1 counts per core and does not say whose: the model counts those
of its gangs, and none of the commands of crane rings and none of the answers of engines (log 36). -/
def State.outstanding (s : State) (core : Nat) : Nat :=
  ((s.ops.filter (fun o => s.homeCore o == core)).map s.outOf).foldl (· + ·) 0

/-- R6, Table 1-1: a core has at most 4,096 requests out; `n` more do not fit, and wait in the core. -/
def State.noRoom (s : State) (core n : Nat) : Bool := decide (4096 < s.outstanding core + n)

/-- A request of an operation that is no queue entry may go on: it stands at its slice already, or its core has room for it (R6). -/
def State.goesOut (s : State) (o : Op) (els : List Nat) : Bool := s.arrived o.id els || !s.noRoom (s.coreOf o) 1

/-- The 64-byte units that a span touches. -/
def units (va n : Nat) : Nat := (va % 64 + n + 63) / 64

/-! ### Registrations (R200) -/

/-- The missing-page count of a crew. -/
def State.missing (s : State) (c : Nat) : Nat := (s.quay.regs.filter (fun r => r.crew == c)).length

/-- Register a crew: whether it is new, and the state. -/
def State.register (s : State) (c : Nat) (on : RegOn) : Bool × State :=
  if s.quay.regs.any (fun r => r.crew == c && r.on == on) then (false, s)
  else (true, { s with quay := { s.quay with regs := s.quay.regs ++ [⟨c, on⟩] } })

/-- End the registrations that a test names. -/
def State.unregister (s : State) (p : Reg → Bool) : State :=
  { s with quay := { s.quay with regs := s.quay.regs.filter (fun r => !p r) } }

/-- The size code of Table 9-3. -/
def sizeCode (n : Nat) : Nat := if n = 2 ^ 16 then 0 else if n = 2 ^ 21 then 1 else if n = 2 ^ 30 then 2 else 3

/-- What a faulted element keeps: cause and page size, and a third byte until the record that it is to post is posted. -/
def faultNote (cause size : Nat) (new : Bool) : List Byte :=
  [BitVec.ofNat 8 cause, BitVec.ofNat 8 size] ++ (if new then [1] else [])
/-- The element is to post a record. -/
def El.unposted (e : El) : Bool := e.st == .faulted && e.res.length == 3

/-! ### Ends of elements and operations -/

/-- An element of an operation in its new state. -/
def State.setEl (s : State) (id i : Nat) (e : El) : State :=
  match s.op id with
  | none => s
  | some o => s.setOp { o with els := o.els.set i e }

/-- The order in which R158 decides among causes. -/
def causeOrder : List Nat := [5, 9, 4, 3, 6, 7, 0x14, 0x0A, 0x0C, 0x0B, 0x15]

/-- A `vredeem`, which acts in every live lane (R305): they are word 3 of its `arg`. -/
def OpKind.vredeems : OpKind → Bool | .vredeem _ _ => true | _ => false
/-- A deferred trap of an operation (R191): the lanes that met the first cause of R158 and the lowest one's address. -/
def Op.trapOf (o : Op) : Option TrapInfo :=
  let ts := o.els.filter (fun e => e.st == .trapped)
  match causeOrder.find? (fun c => ts.any (fun e => (e.res.headD 0).toNat == c)) with
  | none => none
  | some c =>
    let hit := ts.filter (fun e => (e.res.headD 0).toNat == c)
    some ⟨c, true, o.lane, o.pc, o.info,
          if o.kind.vredeems then o.arg.getD 3 0
          else if o.lane then laneMask (fun l => hit.any (fun e => e.lane == l)) 32 else 0,
          (hit.head?.map El.addr).getD 0, o.trapSource, o.id, 0⟩

/-! ### Fault records (R199-R201) -/

/-- Table 9-3. -/
structure FaultRec where
  pc     : Nat
  count  : Nat
  gang   : Nat
  crew   : Nat
  launch : Nat
  asid   : Nat
  place  : Nat
  lane   : Nat
  cause  : Nat
  kind   : Nat
  write  : Bool
  source : Nat
  size   : Nat
  va     : Nat
  deriving DecidableEq, Repr

def FaultRec.word (r : FaultRec) : BitVec 256 :=
  BitVec.ofNat 256 (r.pc % 2 ^ 32 * 2 ^ 224 + r.count % 65536 * 2 ^ 208 + r.gang * 2 ^ 192 + r.crew * 2 ^ 160
    + r.launch * 2 ^ 128 + r.asid * 2 ^ 114 + r.place * 2 ^ 100 + r.lane * 2 ^ 95 + r.cause * 2 ^ 87 + r.kind * 2 ^ 85
    + b1 r.write * 2 ^ 84 + r.source * 2 ^ 81 + r.size * 2 ^ 79 + r.va % 2 ^ 64)

/-- A record that names a gang of a crew; the rest is zero, and so is the place of a gang whose slot has been freed (log 25). -/
def State.recordOf (s : State) (c k : Nat) : FaultRec :=
  let w := s.crew c
  ⟨0, 0, (s.gang k).num, w.num, w.launchId, w.asid, if k < 16384 then k else 0, 0, 0, 0, false, 0, 0, 0⟩

def State.ring (s : State) (asid : Nat) : FaultRing := Map.get ⟨0, [], false⟩ s.rings asid
def State.setRing (s : State) (asid : Nat) (r : FaultRing) : State := { s with rings := Map.put ⟨0, [], false⟩ s.rings asid r }
/-- A record waits to be posted to the fault ring of its context. -/
def State.post (s : State) (asid : Nat) (r : FaultRec) : State :=
  let q := s.ring asid
  s.setRing asid { q with pending := q.pending ++ [r.word] }

/-- A redeem into scratchpad, whose element 1 is its stamp store (R306). -/
def OpKind.redeems : OpKind → Bool | .sredeem _ => true | _ => false
/-- The pc field of a record of an operation (R201, R269): the scalar offset, the word's offset in the lane section, or
the clause of a `vcpidx`. -/
def Op.recPc (o : Op) : Nat :=
  match o.kind with
  | .gather _ _ _ => o.pc.toNat
  | _ => if o.lane then o.pc.toNat + 12 * o.info.toNat else o.pc.toNat

/-- The record of a faulted element. -/
def State.elRecord (s : State) (o : Op) (e : El) : FaultRec :=
  { s.recordOf o.crew o.gang with
    pc := o.recPc, lane := if o.lane then e.lane else 0, cause := (e.res.getD 0 0).toNat,
    write := o.kind.writes || (o.kind.redeems && e.lane == 1), source := o.source, size := (e.res.getD 1 0).toNat, va := e.addr.toNat }

/-- R200: the records of one instruction are posted together, in ascending lane order; `n` of them are still to post, and each
carries the crew's missing-page count after it (R201). -/
def State.postEls (s : State) (o : Op) : Nat → List El → State
  | _, [] => s
  | n, e :: es =>
    if e.unposted then
      (s.post o.asid { s.elRecord o e with count := s.missing o.crew - (n - 1) }).postEls o (n - 1) es
    else s.postEls o n es
/-- The records of an operation are posted. -/
def State.postOp (s : State) (o : Op) : State := s.postEls o (o.els.filter El.unposted).length o.els
/-- A faulted element whose record has been posted. -/
def El.posted (e : El) : El := if e.st == .faulted then { e with res := e.res.take 2 } else e

/-- An element is still to be tried: the second element of an `ssendsig` or `sredeem` only once the first is performed
(R175, R306). -/
def Op.unsettled (o : Op) : Bool :=
  match o.kind, o.els with
  | .sendsig _, [e, f] => e.st == .todo || (e.final && f.st == .todo)
  | .sredeem _, [e, f] => e.st == .todo || (e.final && f.st == .todo)
  | _, es => es.any (fun e => e.st == .todo)

/-- An operation whose last open element has gone: its fault records are posted, a trap is reported once, and the
operation is ready when every element is performed or given up. -/
def State.settleOp (s : State) (id : Nat) : State :=
  match s.op id with
  | none => s
  | some o =>
    if o.unsettled then s
    else
      let s0 := s.postOp o
      let s1 := match o.trapOf with | some t => s0.report o.gang t | none => s0
      let o1 : Op := { o with els := o.els.map (fun (e : El) =>
        if e.st == .trapped then { e with st := .dropped } else e.posted) }
      let s2 := s1.setOp (if o1.els.all El.final then { o1 with stage := .ready } else o1)
      s2.settleOf o

/-- An element that traps with a cause; the counter of an `ssendsig` whose payload traps is given up (R175). -/
def State.trapEl (s : State) (id i cause : Nat) : State :=
  match s.op id with
  | none => s
  | some o =>
    match o.els[i]? with
    | none => s
    | some e =>
      let els := o.els.set i { e with st := .trapped, res := [BitVec.ofNat 8 cause] }
      let els' := match o.kind with
        | .sendsig _ => els.map (fun f => if f.st == .todo then { f with st := .dropped } else f)
        | _ => els
      match o.kind with
      | .mwait _ =>
        let s1 := s.report o.gang ⟨cause, true, false, o.pc, o.info, 0, e.addr, 0, o.id, 0⟩
        let g := s1.gang o.gang
        (((s1.setGang o.gang { g with wait := .none }).dropOp id).settleFences o.gang).settleTrap o.gang
      | _ => (s.setOp { o with els := els' }).settleOp id

/-- An element that is performed and returns bytes. -/
def State.elDone (s : State) (id i : Nat) (res : List Byte) : State :=
  match s.op id with
  | none => s
  | some o =>
    match o.els[i]? with
    | none => s
    | some e => (s.setOp { o with els := o.els.set i { e with st := .done, res := res } }).settleOp id

/-- R156, R197: a queue entry that comes back to its queue, at its place there, with what of it has not been performed. -/
def Op.requeued (o : Op) : Op := { o with stage := .queued, left := 0, frames := [] }

/-- R156, R197: entries of a gang behind one that has faulted wait behind it: those that have left, and are still to write a byte that it
has not written, come back to their queue. -/
def State.recall (s : State) (o : Op) (e : El) : State :=
  let back (p : Op) : Bool := p.gang == o.gang && decide (o.id < p.id) && o.inQ && p.inQ && p.kind.memory && p.stage == .sent
    && p.els.any (fun f => f.st == .todo && s.overlap o e p f)
  let ids := (s.ops.filter back).map Op.id
  let keep (w : Waiter) : Bool := !(w.cmd == 0 && ids.contains w.who)
  if ids.isEmpty then s
  else { s with ops := s.ops.map (fun p => if back p then p.requeued else p)
                quay := { s.quay with waits := s.quay.waits.filter keep, paid := s.quay.paid.filter keep } }

/-- An element that faults (R197, R200): its crew is registered. One of a crew that has ended is given up (log 25). -/
def State.faultEl (s : State) (id i cause : Nat) (on : RegOn) (size : Nat) : State :=
  match s.op id with
  | none => s
  | some o =>
    match o.els[i]? with
    | none => s
    | some e =>
      if (s.crew o.crew).phase = .ended then (s.setOp { o with els := o.els.set i { e with st := .dropped } }).settleOp id
      else
        let r := s.register o.crew on
        let s1 := r.2
        let e' : El := { e with st := .faulted, res := faultNote cause (sizeCode size) r.1 }
        ((s1.setOp { o with els := o.els.set i e' }).recall o e).settleOp id

/-! ### What an element does where it is performed -/

/-- The new bytes of a store or atomic from the old ones, what it returns, and the flags that it raises (R166-R168,
R175). -/
def Op.newBytes (o : Op) (e : El) (old : List Byte) : List Byte × List Byte × Flags :=
  let m := leNat old
  match o.kind with
  | .store => (e.data, [], 0)
  | .atom op wide =>
    let r := atomNew op (8 * wbytes wide) m (leNat e.data)
    (natLE o.width r.1, old, r.2)
  | .cas wide =>
    let n := wbytes wide
    (if leNat (e.data.take n) = m then e.data.drop n else old, old, 0)
  | .sredeem _ => (e.data, [], 0)
  | .sendsig inc => if e.lane = 0 then (e.data, [], 0) else (natLE 8 ((m + inc) % 2 ^ 64), [], 0)
  | _ => (old, old, 0)

/-- R153: an L1 line that a core holds takes the bytes of a store of the core. -/
def L1Line.patch (l : L1Line) (va : Nat) (bs : List Byte) : L1Line :=
  { l with data := (List.range 128).map (fun i =>
      let a := l.line + i
      if va ≤ a ∧ a < va + bs.length then bs.getD (a - va) 0 else l.data.getD i 0) }

def State.l1Store (s : State) (core asid va : Nat) (bs : List Byte) : State :=
  { s with l1 := s.l1.map (fun l => if l.core == core && l.asid == asid && spansMeet l.line 128 va bs.length then l.patch va bs else l) }

/-- The line of a core that holds an address. -/
def State.l1Find (s : State) (core asid va : Nat) : Option L1Line :=
  s.l1.find? (fun l => l.core == core && l.asid == asid && l.line == va / 128 * 128)

/-- R71: sticky flags of a gang that is still there. -/
def State.raise (s : State) (k : Nat) (fl : Flags) : State :=
  if fl = 0 ∨ (s.gang k).phase = .absent then s else s.setGang k ((s.gang k).raise fl)

/-- R171: the comparison of `mwait`. -/
def waitMet (c : WaitCmp) (v w : Nat) : Bool :=
  match c with | .gen => decide (w ≤ v) | .eq => v == w | .ne => v != w

/-- The read of an `mwait`: the wait ends and acquires, or the gang sleeps on (R171). -/
def State.mwaitRead (s : State) (o : Op) (cmp : WaitCmp) (bs : List Byte) : State :=
  let v := leNat bs
  let w := (o.arg.getD 0 0).toNat + 2 ^ 32 * (o.arg.getD 1 0).toNat
  if waitMet cmp v w then
    let g := s.gang o.gang
    let r := match o.dst with | .sreg r => r | _ => 0
    let s1 := ((s.dropOp o.id).setGang o.gang { (g.ws r (BitVec.ofNat 32 v)) with wait := .none, parked := false }).acquired o.gang o.id
    let s2 := if 3 ≤ o.scope.code then s1.emptyL1 (s.coreOf o) else s1
    (s2.settleFences o.gang).settleTrap o.gang
  else
    s.setOp { o with stage := .asleep, els := o.els.map (fun (e : El) => { e with st := .done, res := bs }) }

/-- A load, store or atomic whose bytes are known: what it reads goes to its element or its `mwait`. An acquire at scope
3 or wider invalidates the L1 of its core (R153); what its later releases cover is settled only after it (R183). -/
def State.readDone (s : State) (o : Op) (i : Nat) (bs : List Byte) : State :=
  match o.kind with
  | .mwait c => s.mwaitRead o c bs
  | _ =>
    let s1 := if o.ord.acquires then s.acquired o.gang o.id else s
    let s2 := s1.elDone o.id i bs
    if o.ord.acquires && decide (3 ≤ o.scope.code) then s2.emptyL1 (s.coreOf o) else s2

end Sys2Proof.Machine
end

