-- ==== Sys2Proof/Machine/Levels.lean ====
section
/-! DEFINITION. The counter words of launches and levels (spec 20 R346-R348) and landings on deferred tags
(10 R225, R227, 13 R267). -/

namespace Sys2Proof.Machine

/-! ### Counter words -/

def launchKey (asid id : Nat) : Nat := asid * 65536 + id
def levelKey (asid lvl id : Nat) : Nat := (asid * 4 + lvl) * 65536 + id

def State.launch (s : State) (key : Nat) : Option Launch := Map.get none s.harb.launches key
def State.setLaunch (s : State) (key : Nat) (l : Launch) : State :=
  { s with harb := { s.harb with launches := Map.put none s.harb.launches key (some l) } }
def State.level (s : State) (key : Nat) : Option LevelInst := Map.get none s.harb.levels key
def State.setLevel (s : State) (key : Nat) (l : LevelInst) : State :=
  { s with harb := { s.harb with levels := Map.put none s.harb.levels key (some l) } }

/-- Table 20-4. -/
def counterWord (error cancelled complete closed : Bool) (out : Nat) : Nat :=
  b1 error * 2 ^ 35 + b1 cancelled * 2 ^ 34 + b1 complete * 2 ^ 33 + b1 closed * 2 ^ 32 + out % 2 ^ 32

/-- R347: the counter word of a level; an id that has never been used, and id 0 of a level above launch, read zero. -/
def State.counter (s : State) (asid lvl id : Nat) : Nat :=
  if id = 0 then 0
  else if lvl = 0 then
    match s.launch (launchKey asid id) with
    | none => 0
    | some l => counterWord l.error l.cancelled (l.st == .complete) l.fixed (l.ncrews - l.ended)
  else
    match s.level (levelKey asid lvl id) with
    | none => 0
    | some l => counterWord l.error l.cancelled l.complete l.closed l.out

/-! ### The levels above a level (R346) -/

/-- A field of a launch descriptor (Table 20-2). -/
def descF (d : BitVec 512) (hi lo : Nat) : Nat := bits d.toNat hi lo
/-- The id that a descriptor gives a level above launch. -/
def descLevel (d : BitVec 512) (lvl : Nat) : Nat :=
  match lvl with
  | 1 => descF d 463 448 | 2 => descF d 479 464 | _ => descF d 495 480

/-- The first level of a list of levels and ids that is named: id 0 names none. -/
def firstNamed (l : List (Nat × Nat)) : Option (Nat × Nat) := l.find? (fun p => p.2 != 0)

/-- The level of which a level is a direct member. -/
def State.parent (s : State) (asid lvl id : Nat) : Option (Nat × Nat) :=
  match lvl with
  | 0 => (s.launch (launchKey asid id)).bind (fun l =>
      firstNamed ([1, 2, 3].map (fun k => (k, descLevel l.desc k))))
  | 1 => (s.level (levelKey asid 1 id)).bind (fun l => firstNamed [(2, l.phase), (3, l.job)])
  | 2 => (s.level (levelKey asid 2 id)).bind (fun l => firstNamed [(3, l.job)])
  | _ => none

/-- The error bit of a level. -/
def State.markError (s : State) (asid lvl id : Nat) : State :=
  if lvl = 0 then
    match s.launch (launchKey asid id) with
    | some l => s.setLaunch (launchKey asid id) { l with error := true }
    | none => s
  else match s.level (levelKey asid lvl id) with
    | some l => s.setLevel (levelKey asid lvl id) { l with error := true }
    | none => s

/-- Table 20-4: an error is set on a level and on every level above it. -/
def State.errorUp (s : State) (asid : Nat) : Nat → Nat → Nat → State
  | 0, _, _ => s
  | n + 1, lvl, id =>
    let s1 := s.markError asid lvl id
    match s1.parent asid lvl id with
    | some p => s1.errorUp asid n p.1 p.2
    | none => s1
def State.launchError (s : State) (asid id : Nat) : State := s.errorUp asid 4 0 id

/-- R349: a completion stamp that could not be written after all. -/
def State.stampLost (s : State) (asid va : Nat) (bs : List Byte) : State :=
  let id := leNat (bs.take 2)
  match s.launch (launchKey asid id) with
  | some l => if l.st = .complete ∧ descF l.desc 191 128 = va then s.launchError asid id else s
  | none => s

/-! ### Deferred tags (R225) -/

/-- The key of a tag in its crew: the watch, or the gang in a crew without watches, and the tag. -/
def tagKey (target tag : Nat) : Nat := target * 4 + tag

def Crew.tag (w : Crew) (key : Nat) : TagSt := Map.get TagSt.empty w.tags key
def Crew.setTag (w : Crew) (key : Nat) (t : TagSt) : Crew := { w with tags := Map.put TagSt.empty w.tags key t }

/-- R227: a parked instruction enters its hearths' queues at the tail. -/
def State.release (s : State) (id : Nat) : State :=
  match s.hop id with
  | none => s
  | some h => { s with hops := s.hops.filter (fun x => x.id != id) ++ [{ h with stage := .queued }] }

/-- LANDING (R225, R267): a landing on a tag of a crew. -/
def State.land (s : State) (c target tag : Nat) : State :=
  let w := s.crew c
  let key := tagKey target tag
  match w.tag key with
  | .empty => s.setCrew c (w.setTag key (.landed 1))
  | .parked id => (s.setCrew c (w.setTag key .empty)).release id
  | .landed n =>
    if n < 3 then s.setCrew c (w.setTag key (.landed (n + 1)))
    else
      let num := if w.hasWatches then 4 * target else target
      match w.slots[num]? with
      | some k => s.report k ⟨0x0E, true, false, 0, 0, 0, 0, 3, 0, 0⟩
      | none => s

end Sys2Proof.Machine
end

