-- ==== Sys2Proof/Machine/Access.lean ====
section
/-! DEFINITION. Where the accesses of gangs are performed (spec 07 R153-R158, R166-R171, 08 R176-R179, 15 R280, R291-R296,
22 R367-R370): the events STORE_QUEUE_ENTRY_LEAVE, WINDOW_ACCESS, HOST_ACCESS_COMPLETION, STORE_ACK,
SCALAR_RESULT_RETURN, MWAIT_RECHECK and MWAIT_POLL_TIMEOUT. -/

namespace Sys2Proof.Machine

/-! ### Entries leave the core (R156) -/

/-- The elements of a scratchpad store or atomic, performed at the bank in lane order. -/
def State.scrEls (s : State) (o : Op) : List El → State × List El
  | [] => (s, [])
  | e :: es =>
    if !e.open_ then let r := s.scrEls o es; (r.1, e :: r.2)
    else
      let off := e.addr.toNat
      let r := o.newBytes e ((s.crew o.crew).readScr off o.width)
      let s1 := (s.scrStore o.crew off r.1 true).raise o.gang r.2.2
      let t := s1.scrEls o es
      (t.1, { e with st := .done, res := r.2.1 } :: t.2)

/-- R153, R176: a plain store that leaves its core is visible to every gang of the core: the L1 lines that the core holds
take its bytes. -/
def State.l1Els (s : State) (o : Op) : List El → State
  | [] => s
  | e :: es =>
    (if e.open_ && o.plain e then s.l1Store (s.coreOf o) o.asid e.addr.toNat e.data else s).l1Els o es

/-- The next entry of a store queue reaches its head (R183). -/
def State.nextHead (s : State) (k : Nat) : State :=
  match s.queue k with
  | [] => s
  | p :: _ => if p.head = 0 then { (s.setOp { p with head := s.nextOp }) with nextOp := s.nextOp + 1 } else s

/-- R14, R176: an element that a window of its own core performs there: a kind-1 window at the bank, and a load through a kind-0 window
at the named register (R154). -/
def ownWin (o : Op) (e : El) : Bool :=
  homeOf e.addr.toNat == some .window && (o.kind.isLoad || e.addr.toNat.testBit 35) && winSlot e.addr.toNat / 64 == slotCore o.gang
/-- R176: an element that is performed at its core. -/
def coreEl (o : Op) (e : El) : Bool := o.scr || (o.kind.memory && ownWin o e)

/-- R178, R179: an older load of the gang is still to be performed at the core: at its bank, or from a line that the L1 holds. -/
def State.coreLoadOpen (s : State) (k id : Nat) : Bool :=
  s.ops.any (fun p => p.gang == k && decide (p.id < id) && p.kind.isLoad && p.stage == .sent
    && p.els.any (fun e => e.open_ && (coreEl p e
      || (p.kind == .load && decide (p.scope.code ≤ 2) && p.status == 0 && (s.l1Find (s.coreOf p) p.asid e.addr.toNat).isSome))))

/-! ### Total store order among the gangs of a core (R179)

R178 lets the loads of a stream that are performed at slices go in any order, and R179 and the ladder of its chapter promise total store
order to the loads of a core at its own scope. Both hold here (log 12): a younger load that has been performed keeps its result until the
older ones of its stream have been performed, and is performed again where a store of another gang to its bytes becomes visible before
that; and a store to the bytes of a load whose younger entries are visible already waits for that load. -/

/-- An element of a load that the stores of its core order: at its core, or in memory. -/
def atCore (o : Op) (e : El) : Bool :=
  coreEl o e || (match homeOf e.addr.toNat with | some (.die _) => true | some (.peer _) => true | _ => false)
/-- A load at core scope or narrower, some element of which is still to be performed. -/
def Op.loadOpen (p : Op) : Bool :=
  p.kind == .load && decide (p.scope.code ≤ 2) && p.stage == .sent && !p.faulted && p.els.any (fun e => e.open_ && atCore p e)
/-- An older load of the stream of a load, both at core scope or narrower, is still to be performed. Loads that faulted work holds are
performed as they are replayed (R203), and hold nothing back. -/
def State.loadBehind (s : State) (o : Op) : Bool :=
  decide (o.scope.code ≤ 2)
  && s.ops.any (fun p => p.gang == o.gang && p.lane == o.lane && decide (p.id < o.id) && p.loadOpen && !s.hasFaulted p.gang p.id)
/-- A load whose result stays in the core until older loads of its stream have been performed. -/
def State.resultWaits (s : State) (o : Op) : Bool := o.kind == .load && s.loadBehind o

/-- The gangs' loads of another gang at core scope or narrower that name a byte which an entry of gang `k` writes. -/
def State.meetsLoad (s : State) (k : Nat) (o : Op) (p : Op) : Bool :=
  o.kind.memory && p.gang != k && p.kind == .load && decide (p.scope.code ≤ 2) && s.coreOf p == slotCore k

/-- A store of gang `k` waits for a load of another gang of its core to its bytes, younger entries of which are visible to the core: one
that is still to be performed, or whose result waits. -/
def State.loadWaits (s : State) (k : Nat) (o : Op) : Bool :=
  s.ops.any (fun p => s.meetsLoad k o p && p.status == 2 && !s.hasFaulted p.gang p.id
    && p.els.any (fun f => (f.st == .todo || (f.st == .done && s.loadBehind p)) && o.els.any (fun e => e.open_ && s.overlap o e p f)))

/-- As an entry of gang `k` becomes visible to its core, the loads of the other gangs whose results wait are performed again where it
writes their bytes. -/
def State.reload (s : State) (k : Nat) (o : Op) : State :=
  { s with ops := s.ops.map (fun (p : Op) =>
      let hit (f : El) : Bool := f.st == .done && o.els.any (fun e => e.open_ && s.overlap o e p f)
      if s.meetsLoad k o p && p.status != 2 && !p.ord.acquires && (p.stage == .sent || p.stage == .ready) && p.els.any hit && s.loadBehind p
      then { p with stage := .sent, els := p.els.map (fun f => if hit f then { f with st := .todo, data := [], res := [] } else f) }
      else p) }

/-- R179: the loads of a gang that are older than an entry which leaves, and so becomes visible to its core, are not served from the
L1 any more. -/
def State.sendLoads (s : State) (k id : Nat) : State :=
  { s with ops := s.ops.map (fun (p : Op) =>
      if p.gang == k && decide (p.id < id) && p.kind == .load && (p.stage == .sent || p.stage == .ready) then { p with status := 2 } else p) }

/-- The elements of an entry that are still to go out, as requests to a slice or to another core. -/
def Op.outgoing (o : Op) : List El := o.els.filter (fun e => e.open_ && !coreEl o e)

/-- R156, R164, R165, R175, R179, R181-R183: the head entry of a gang's store queue may leave: nothing before it holds it, none of the
entries before it has faulted (R197), the core has room for its requests (R6), and no entry that has left is still to be performed at a
bank byte that it writes (R177). -/
def State.mayLeave (s : State) (k : Nat) (o : Op) : Bool :=
  !s.ops.any (fun p => p.gang == k && decide (p.id ≤ o.id) && p.inQ && p.faulted)
  && s.acqDone k o.id && !s.noRoom (slotCore k) (s.requests o o.outgoing) && !s.coreLoadOpen k o.id && !s.loadWaits k o
  && o.els.all (fun e => !(coreEl o e && s.leftStore o e))
  && (s.gang k).fences.all (fun f => !(f.rel && decide (f.id < o.id)))
  && o.els.all (fun e => !(o.kind.memory && s.olderLoad o e))
  && (!o.ord.releases || (s.olderDone k o.id o.scope o.mask o.kind.isPfx && s.cumulative (slotCore k) o.head o.scope))

/-! ### The L1 of a core (R153) -/

/-- Insert by rising number of leaving. -/
def insertLeft (o : Op) : List Op → List Op
  | [] => [o]
  | p :: ps => if o.left < p.left then o :: p :: ps else p :: insertLeft o ps

/-- The line of memory that a load brings: the bytes of the slice, with the stores of the core that have left and are
still to be performed over them. -/
def State.freshLine (s : State) (core asid line : Nat) (bs : List Byte) : L1Line :=
  let ps := (s.ops.filter (fun p => s.homeCore p == core && p.asid == asid && p.inQ && p.stage == .sent)).foldr insertLeft []
  ps.foldl (fun l p => p.els.foldl (fun (l : L1Line) e =>
    if e.open_ && p.plain e then l.patch e.addr.toNat e.data else l) l) ⟨core, asid, line, bs⟩

/-- R152: the lines that the L1 of a core holds: what the split leaves of 1.5 MB. -/
def State.l1Cap (s : State) (core : Nat) : Nat := (5 - Map.get 0 s.harb.split core) * 2048
/-- The lines of every L1, with room for one more in a core's: a full L1 gives up its oldest line. -/
def State.l1Room (s : State) (core : Nat) : List L1Line :=
  let own := s.l1.filter (fun x => x.core == core)
  match own with
  | x :: _ => if s.l1Cap core ≤ own.length then s.l1.erase x else s.l1
  | [] => s.l1

/-- R177: a load at the slice refreshes the line where the core holds it. -/
def State.l1Fresh (s : State) (core asid line : Nat) (bs : List Byte) : State :=
  let l := s.freshLine core asid line bs
  { s with l1 := s.l1.map (fun x => if x.core == core && x.asid == asid && x.line == line then l else x) }
/-- R177, R153: a load at the slice refreshes the line where it is held, and may fill it. -/
def State.l1Load (s : State) (o : Op) (fill : Bool) (line : Nat) (bs : List Byte) : State :=
  let core := s.coreOf o
  if s.l1.any (fun x => x.core == core && x.asid == o.asid && x.line == line) then s.l1Fresh core o.asid line bs
  else if fill && decide (o.scope.code ≤ 2) then { s with l1 := s.l1Room core ++ [s.freshLine core o.asid line bs] }
  else s

/-- R178: an older load of the same stream is still to be performed at the core's bank. -/
def State.olderCore (s : State) (o : Op) : Bool :=
  s.ops.any (fun p => p.gang == o.gang && p.lane == o.lane && p.kind == .load && decide (p.id < o.id)
    && p.stage == .sent && p.els.any (fun f => f.open_ && coreEl p f))

/-- R178: loads of one stream are served at the core in issue order: an older one that the L1 has not served goes to its
slice. -/
def State.bypass (s : State) (o : Op) : State :=
  { s with ops := s.ops.map (fun p =>
      if p.gang == o.gang && p.lane == o.lane && p.kind == .load && decide (p.id < o.id) && p.stage == .sent
      then { p with status := max 1 p.status } else p) }

/-- The line that serves a load, where the choice says that the core still holds it. -/
def State.l1Serve (s : State) (o : Op) (e : El) (hit : Bool) : Option L1Line :=
  if hit && o.kind == .load && decide (o.scope.code ≤ 2) && o.status == 0 && !s.olderCore o
  then s.l1Find (s.coreOf o) o.asid e.addr.toNat else none

/-! ### At the home slice -/

def busyKey (asid die off : Nat) : Nat := (asid * 4 + die) * 2 ^ 34 + off / 65536
def State.busyPage (s : State) (key : Nat) : Option Busy := s.quay.busy.find? (fun b => b.key == key)

/-- R291: a write that parked before place `seen` of the order of arrival covers a byte of a span. -/
def State.parkedOver (s : State) (key va n seen : Nat) : Bool :=
  match s.busyPage key with
  | none => false
  | some b => b.writes.any (fun w => decide (w.at_ < seen) && spansMeet va n w.va (if w.add then 8 else w.data.length))

/-- R291, R292: a write parks at its slice, at the next place in the order of arrival; the page is busy from its first one on. -/
def State.parkWrite (s : State) (key : Nat) (w : ParkedWrite) : State :=
  let x : ParkedWrite := { w with at_ := s.arrival }
  let b := match s.busyPage key with
    | some b => s.quay.busy.map (fun y => if y.key == key then { b with writes := b.writes ++ [x] } else y)
    | none => s.quay.busy ++ [⟨key, false, [x]⟩]
  { s.nextArrival with quay := { s.nextArrival.quay with busy := b } }

/-- Where a byte of a context lies in device memory. -/
def State.paOf (s : State) (asid va : Nat) : Option Nat :=
  match homeOf va with
  | some (.die d) =>
    (match s.look asid d va false, s.look asid d va true with
    | .ok pa _, _ => some pa
    | _, .ok pa _ => some pa
    | _, _ => none)
  | _ => none
/-- The parts of a span in its 512-byte blocks. -/
def blocksOf (va n : Nat) : List (Nat × Nat) :=
  (List.range ((va % 512 + n + 511) / 512)).map (fun i =>
    let a := max va ((va / 512 + i) * 512)
    (a, min (va + n) ((va / 512 + i + 1) * 512) - a))

/-- The fetch of a berth reads some of `n` bytes of device memory. -/
def State.fetchMeets (s : State) (b : Berth) (pa n : Nat) : Bool :=
  (blocksOf b.addr b.len).any (fun x => match s.paOf b.asid x.1 with | some q => spansMeet pa n q x.2 | none => false)
/-- R311: a fetch of bytes of device memory is pending at its slice. -/
def State.physFetching (s : State) (pa n : Nat) : Bool := s.quay.berths.any (fun b => b.2.st == .pending && s.fetchMeets b.2 pa n)
/-- R311: a fetch of these bytes is pending at its slice, by this address or by another of the same frame. -/
def State.fetching (s : State) (asid va n : Nat) : Bool :=
  s.quay.berths.any (fun b => b.2.st == .pending && b.2.asid == asid && spansMeet va n b.2.addr b.2.len)
  || (match s.paOf asid va with | none => false | some p => s.physFetching p n)

/-- A store or atomic whose old bytes are known writes its new ones through `put` (R166, R153). -/
def State.doWrite (s : State) (o : Op) (i : Nat) (e : El) (old : List Byte) (put : List Byte → State → State) : State :=
  let r := o.newBytes e old
  let s1 := (put r.1 s).raise o.gang r.2.2
  let s2 := if o.plain e then s1 else s1.l1Store (s.homeCore o) o.asid e.addr.toNat r.1
  s2.readDone o i r.2.1

/-- A write performed in memory. -/
def State.writeAt (s : State) (o : Op) (i : Nat) (e : El) (pa : Nat) : State :=
  s.doWrite o i e (s.readPhys pa o.width) (fun bs t => t.writePhys pa bs)

/-- An element's write parks at its slice (R291). -/
def State.parkEl (s : State) (o : Op) (i : Nat) (e : El) (key : Nat) : State :=
  (s.setEl o.id i { e with st := .parked }).parkWrite key ⟨o.crew, o.id, i, e.addr.toNat, natLE o.width 0, false, false, 0, 0⟩

/-- Translation of an element's write at its slice: on a busy page it parks whatever the PTE is (R292); otherwise it is performed, parks,
faults or traps (R280, R291). -/
def State.writeTr (s : State) (o : Op) (i : Nat) (e : El) (d : Nat) (tr : Tr) : State :=
  let key := busyKey o.asid d (e.addr.toNat % 2 ^ 50)
  if (s.busyPage key).isSome then s.parkEl o i e key
  else match tr with
  | .absent b z => s.faultEl o.id i 8 (.page o.asid d b z) z
  | .perm => s.trapEl o.id i 7
  | .ok pa kind => if kind = kCow then s.parkEl o i e key else s.writeAt o i e pa

/-! ### At a peer (R368-R370) -/

/-- The route register of a peer (Table 22-1). -/
def State.routeReg (s : State) (dev : Nat) : Nat := (Map.get 0 s.host.bar (0x2800 + 8 * dev)).toNat
/-- The slice of its die that a request goes to: that of its address, or the control slice of the page of a frame instruction (R15,
R283). -/
def reqSlice (pages : Bool) (va : Nat) : Nat := if pages then bits va 21 16 else sliceOf va
/-- R370: elements that were on their way to the slice of an address are still to be performed; `pages` says that the request is one of
a frame instruction. -/
def State.onWay (s : State) (ids : List Nat) (va : Nat) (pages : Bool) : Bool :=
  ids.any (fun x => match s.op (x / 64) with
    | some p => p.stage == .sent && (match p.els[x % 64]? with
      | some e => e.st == .todo && sameDie va e.addr.toNat && reqSlice pages va == reqSlice p.kind.pages e.addr.toNat
      | none => false)
    | none => false)
/-- R370: the route that a request to an address takes: an earlier one, while requests to its slice that were on their way when
the register was written are still to be performed. -/
def State.routeOf (s : State) (dev va : Nat) (pages : Bool := false) : Nat :=
  match (Map.get [] s.host.routeOld dev).find? (fun r => s.onWay r.2 va pages) with
  | some r => r.1
  | none => s.routeReg dev
/-- A request that is sent anew takes the route of a new one (R370). -/
def State.rerouted (s : State) (id : Nat) : State :=
  { s with host := { s.host with routeOld := s.host.routeOld.map (fun e =>
      (e.1, e.2.map (fun r => (r.1, r.2.filter (fun x => x / 64 != id))))) } }
def State.port (s : State) (p : Nat) : PortState := Map.get PortState.down s.host.ports p
/-- R370: the port set of a peer. -/
def State.portSet (s : State) (dev va : Nat) (pages : Bool := false) : List Nat :=
  let r := s.routeOf dev va pages
  if r.testBit 16 then (List.range 12).filter (fun p => r.testBit p && s.port p == .up) else []

/-- The number under which a die of a peer is registered: those of this device are 0 to 3 (log 25). -/
def peerDie (dev va : Nat) : Nat := 4 + dev * 4 + bits va 49 48
/-- The page of a peer that an address lies in, at the level at which the peer's walk ended (R200): base and size. -/
def peerSpan (va level : Nat) : Nat × Nat := (va % 2 ^ 48 / lvlSize level * lvlSize level, lvlSize level)
/-- R368, R369: what an access at a peer finds: no way there and no context or no permission have cause 0x07, an absent page there has
cause 0x08 (R280). -/
def State.peerTr (s : State) (dev va : Nat) (a : PeerAnswer) : Tr :=
  if (s.portSet dev va).isEmpty then .perm
  else match a with
    | .ok => .ok va 0
    | .absent l => .absent (peerSpan va l.val).1 (peerSpan va l.val).2
    | .permission => .perm

/-! ### Through a window (R14, R154, R155) -/

/-- The type that a lane access checks against the tag of a register window. -/
def Op.ty (o : Op) : Ty :=
  match o.kind, o.dst with
  | .load, .vreg _ _ t => t
  | .store, _ => if o.lane then (Ty.ofCode (o.arg.headD 0).toNat).getD .raw32 else .raw32
  | _, _ => .raw32

/-- Item 3 of R158: the cause that the named core finds for an access of `n` bytes with a type. -/
def State.winCause (s : State) (asid va n : Nat) (ty : Ty) : Option Nat :=
  let g := s.gang (winSlot va)
  let w := s.crew g.crew
  if g.phase = .absent ∨ w.asid ≠ asid then some 9
  else if va.testBit 35 then (if w.scrSize < bits va 20 0 + n then some 6 else none)
  else
    let r := bits va 17 10
    if 64 + 64 * g.blocks ≤ r then some 4
    else if ty ≠ .raw32 ∧ ty ≠ g.tag r then some 3
    else none
def State.windowCause (s : State) (o : Op) (e : El) : Option Nat := s.winCause o.asid e.addr.toNat o.width o.ty

/-- The 32 bytes that a register window shows for one lane (Table 1-5). -/
def Gang.cell (g : Gang) (r l : Nat) : List Byte := natLE 4 (g.rv r l).toNat ++ List.replicate 28 0

/-- Bytes written over a list from a place on. -/
def overlay (old : List Byte) (at_ : Nat) (bs : List Byte) : List Byte :=
  old.take at_ ++ bs ++ old.drop (at_ + bs.length)

/-- The bytes that a window shows and how they are replaced. -/
def State.winRead (s : State) (va n : Nat) : List Byte :=
  let g := s.gang (winSlot va)
  if va.testBit 35 then (s.crew g.crew).readScr (bits va 20 0) n
  else ((g.cell (bits va 17 10) (bits va 9 5)).drop (bits va 4 0)).take n
def State.winWrite (s : State) (crew va : Nat) (bs : List Byte) : State :=
  let k := winSlot va
  let g := s.gang k
  if va.testBit 35 then s.scrStore g.crew (bits va 20 0) bs (g.crew == crew)
  else
    let r := bits va 17 10
    let l := bits va 9 5
    (s.taint k [r]).setGang k (g.wv r l (BitVec.ofNat 32 (leNat ((overlay (g.cell r l) (bits va 4 0) bs).take 4))))

/-! ### What an element does where its place is known -/

/-- R175, R158: the cause with which the counter of an `ssendsig` fails its check before the payload is written. -/
def State.counterCause (s : State) (o : Op) (i : Nat) : Option Nat :=
  match o.kind, o.els[1]? with
  | .sendsig _, some c =>
    let va := c.addr.toNat
    if i ≠ 0 then none
    else match homeOf va with
      | some (.die d) => if s.look o.asid d va true = .perm then some 7 else none
      | some (.peer p) => if s.portSet p va = [] then some 7 else none
      | some .window => s.windowCause o c
      | _ => none
  | _, _ => none

/-- A load that may not go before the older loads of its stream at core scope (R179): an acquire, whose later accesses would go before
them too, and one behind a load that waits in the core for an atomic of its queue, which may wait for what others read here. -/
def State.pastLoads (s : State) (o : Op) : Bool :=
  s.loadBehind o && (o.ord.acquires || s.ops.any (fun p => p.gang == o.gang && p.lane == o.lane && decide (p.id < o.id) && p.loadOpen
    && p.els.any (fun e => e.open_ && (s.forward p e).any (· == .atomic))))

/-- An element of an operation that stands ready to be performed with those of its request (R290): what comes before it in its
core has been performed, or it has reached its slice. -/
def State.elAt (s : State) (id i : Nat) : Option (Op × El) :=
  match s.op id with
  | none => none
  | some o =>
    match o.els[i]? with
    | none => none
    | some e =>
      let g := s.group o i
      let is := g.map (·.2)
      if o.stage == .sent && e.st == .todo && !o.scr && o.kind.memory && (s.crew o.crew).phase != .out
        && (s.arrived id is || (!(o.kind.isLoad && s.pastLoads o) && g.all (fun x => s.inOrder o x.2 x.1 is)))
      then some (o, e) else none

/-- Elements of one request, each through a function. -/
def State.each (s : State) (g : List (El × Nat)) (f : State → El → Nat → State) : State :=
  g.foldl (fun t x => f t x.1 x.2) s

/-- A load whose bytes the core has: from the queue, with bytes of a level under them. -/
def State.coreLoad (s : State) (o : Op) (g : List (El × Nat)) (bytes : El → List Byte) : State :=
  let fw := g.map (fun x => (x, mergeFwd (s.forward o x.1) (bytes x.1)))
  fw.foldl (fun t x => t.readDone o x.1.2 x.2) (s.bypass o)

/-- The bytes of an element in the L1, and otherwise zeros. -/
def State.l1Bytes (s : State) (o : Op) (e : El) (hit : Bool) : List Byte :=
  match s.l1Serve o e hit with
  | some l => (l.data.drop (e.addr.toNat % 128)).take o.width
  | none => natLE o.width 0

/-- What the queue gives the elements of a request on its way to the slice is kept with them (R157, R177). -/
def State.keep (s : State) (o : Op) (g : List (El × Nat)) : List (El × Nat) × State :=
  let g' := g.map (fun x => ({ x.1 with data := keepFwd (s.forward o x.1) }, x.2))
  (g', g'.foldl (fun t x => t.setEl o.id x.2 x.1) s)

/-- What the core can do for a load that may be forwarded or served from the L1 (R153, R157): it waits for an atomic of its
queue, it is served in the order of R178, or the elements that are not forwarded whole go on to the slice, where they stay once
they have arrived; they go out as the core has room for their request (R6). -/
def State.loadGo (s : State) (o : Op) (g : List (El × Nat)) (hit : Bool) (far : State → List (El × Nat) → State) : State :=
  if s.arrived o.id (g.map (·.2)) then far s g
  else if g.any (fun x => (s.forward o x.1).any (· == .atomic)) then s
  else
    let whole (x : El × Nat) : Bool := (s.forward o x.1).all (· != .none)
    let rest := g.filter (fun x => !whole x)
    if rest.isEmpty then (if s.olderCore o then s else s.coreLoad o g (fun _ => natLE o.width 0))
    else if rest.all (fun x => (s.l1Serve o x.1 hit).isSome) then s.coreLoad o g (fun e => s.l1Bytes o e hit)
    else if s.noRoom (s.coreOf o) 1 then s
    else far (s.keep o g).2 (s.keep o g).1

/-- The 64-byte units that the elements of a request touch (R295). -/
def Op.units (o : Op) (g : List (El × Nat)) : Nat :=
  (g.flatMap (fun x => let a := x.1.addr.toNat / 64
    (List.range ((x.1.addr.toNat + o.width - 1) / 64 - a + 1)).map (a + ·))).eraseDups.length

/-- The name under which a request waits at its slice. -/
def waiterOf (o : Op) (g : List (El × Nat)) (sl : Nat) : Waiter :=
  ⟨sl, o.asid, o.id, 0, (g.head?.map (·.2)).getD 0, o.units g, 0⟩

/-- The translation of an element of a request, from that of the request's block. -/
def trAt (tr : Tr) (e : El) : Tr :=
  match tr with
  | .ok pa k => .ok (pa / 512 * 512 + e.addr.toNat % 512) k
  | t => t

/-- A load that its slice has admitted at place `seen`: its block is translated once (R290), unless writes that parked before it
hold it back (R291), or, at core scope, a store of its core to its bytes that has become visible since it went out (R179). -/
def State.loadAt (s : State) (o : Op) (g : List (El × Nat)) (e : El) (d seen : Nat) (ch : Choice) : State :=
  let va := e.addr.toNat
  let off := va % 2 ^ 50
  if g.any (fun x => s.parkedOver (busyKey o.asid d off) x.1.addr.toNat o.width seen
      || (decide (o.scope.code ≤ 2) && s.leftStore o x.1)) then s
  else
    let w := (s.pass (waiterOf o g (d * 64 + sliceOf va))).slicePte d (sliceOf va) o.asid off false ch.tlbHit ch.tlbFill
    w.2.each g (fun t f j => match trAt (w.1.tr off false) f with
      | .absent b z => t.faultEl o.id j 8 (.page o.asid d b z) z
      | .perm => t.trapEl o.id j 7
      | .ok pa _ => (t.l1Load o ch.l1Fill (f.addr.toNat / 128 * 128) (t.readPhys (pa / 128 * 128) 128)).readDone o j
          (mergeFwd (s.fwdOf o f) (t.readPhys pa o.width)))

/-- The translation of the block of an atomic which it has been given for an earlier lane there (R290). -/
def Op.frameAt (o : Op) (va : Nat) : Option Tr :=
  (o.frames.find? (fun x => x.1 == va / 512)).map (fun x => .ok (x.2 * 512 + va % 512) kNormal)
/-- An atomic with lanes that go to a block later keeps the translation of the block; a page that is to be copied first parks them
all. -/
def State.keepFrame (s : State) (o : Op) (more : Bool) (va : Nat) (tr : Tr) : State :=
  match tr with
  | .ok pa kind => if more && kind != kCow then s.setOp { o with frames := o.frames ++ [(va / 512, pa / 512)] } else s
  | _ => s

/-- A write that its slice has admitted: a pending fetch of its bytes holds it back (R311). Its block is translated once (R290), and one
that does not translate fails every element that is to go to it, also those that lane order keeps for later (R169). -/
def State.storeAt (s : State) (o : Op) (i : Nat) (g : List (El × Nat)) (e : El) (d : Nat) (ch : Choice) : State :=
  let va := e.addr.toNat
  let off := va % 2 ^ 50
  if g.any (fun x => s.fetching o.asid x.1.addr.toNat o.width) then s
  else
    let s1 := s.pass (waiterOf o g (d * 64 + sliceOf va))
    let w : Tr × State := match o.frameAt va with
      | some tr => (tr, s1)
      | none =>
        let x := s1.slicePte d (sliceOf va) o.asid off true ch.tlbHit ch.tlbFill
        (x.1.tr off true, x.2)
    match w.1, s.counterCause o i with
    | .ok _ _, some c => w.2.trapEl o.id 1 c
    | tr, _ =>
      let all := if o.kind.atomic then s.blockEls o i else g
      let goes := match tr with | .ok _ _ => g | _ => all
      let more := (o.frameAt va).isNone && decide (g.length < all.length)
      (w.2.keepFrame o more va tr).each goes (fun t f j => t.writeTr o j f d (trAt tr f))

/-- A request at a slice of a die of this device: it is admitted (R295), its block is translated once (R290), and its elements
are performed there in lane order, each whole (R185, log 36). -/
def State.dieAccess (s : State) (o : Op) (i : Nat) (e : El) (d : Nat) (ch : Choice) : State :=
  let sl := d * 64 + sliceOf e.addr.toNat
  let g := s.group o i
  if o.kind.isLoad then
    s.loadGo o g ch.l1Hit (fun s g =>
      match s.admit1 (waiterOf o g sl) with
      | (some n, t) => t.loadAt o g e d n ch
      | (none, t) => t)
  else match s.admit1 (waiterOf o g sl) with
    | (some _, t) => t.storeAt o i g e d ch
    | (none, t) => t

/-- R282, R290: an atomic of several lanes has been performed in a lane of a block of some page, and is still to be performed in another
one of it, through the translation that it has: the page does not change between. -/
def State.midAtomicIn (s : State) (page : Nat → Bool) : Bool :=
  s.ops.any (fun o => o.kind.atomic && o.stage == .sent && o.els.any (fun e => e.st == .todo
    && (match homeOf e.addr.toNat with | some (.die d) => page (busyKey o.asid d (e.addr.toNat % 2 ^ 50)) | _ => false)
    && o.els.any (fun f => f.st == .done && s.blockOf o f == s.blockOf o e)))
def State.midAtomic (s : State) (key : Nat) : Bool := s.midAtomicIn (· == key)

/-- An element that the translation of a peer fails faults or traps (R280, R369). -/
def State.peerFail (s : State) (o : Op) (i : Nat) (e : El) (dev : Nat) (tr : Tr) : State :=
  match tr with
  | .absent b z => s.faultEl o.id i 8 (.page o.asid (peerDie dev e.addr.toNat) b z) z
  | _ => s.trapEl o.id i 7

/-- A request at a slice of a peer device. -/
def State.peerAccess (s : State) (o : Op) (i : Nat) (e : El) (dev : Nat) (ch : Choice) : State :=
  let g := s.group o i
  let tr := s.peerTr dev e.addr.toNat ch.peer
  let all := if o.kind.atomic then s.blockEls o i else g
  if o.kind.isLoad then
    s.loadGo o g ch.l1Hit (fun s g => s.each g (fun t f j =>
      let va := f.addr.toNat
      match tr with
      | .ok _ _ => (t.l1Load o ch.l1Fill (va / 128 * 128) (t.readPeer (va / 128 * 128) 128)).readDone o j
          (mergeFwd (s.fwdOf o f) (t.readPeer va o.width))
      | x => t.peerFail o j f dev x))
  else match tr, s.counterCause o i with
    | .ok _ _, some c => s.trapEl o.id 1 c
    | .ok _ _, none => s.each g (fun t f j =>
      t.doWrite o j f (t.readPeer f.addr.toNat o.width) (fun bs u => u.writePeer f.addr.toNat bs))
    | x, _ => s.each all (fun t f j => t.peerFail o j f dev x)

/-- One element through its window: it is checked and performed at the named core (R14). -/
def State.winEl (s : State) (o : Op) (e : El) (i : Nat) : State :=
  let va := e.addr.toNat
  match s.windowCause o e with
  | some c => s.trapEl o.id i c
  | none =>
    if o.kind.isLoad then s.readDone o i (mergeFwd (s.forward o e) (s.winRead va o.width))
    else match s.counterCause o i with
      | some c => s.trapEl o.id 1 c
      | none => s.doWrite o i e (s.winRead va o.width) (fun bs t => t.winWrite o.crew va bs)

/-- WINDOW_ACCESS, R14: a request through a window is performed at the named core; a load at its own core keeps the order of R178.
R178 and Table 8-1 give the loads of one stream that are performed at other cores no order: here they go in any (log 36). -/
def execWindowAccess (op el : Nat) (s : State) : Res :=
  match s.elAt op el with
  | none => .next s
  | some (o, e) =>
    let g := s.group o el
    if homeOf e.addr.toNat ≠ some .window then .next s
    else if o.kind.isLoad && g.any (fun x => (s.forward o x.1).any (· == .atomic)) then .next s
    else if o.kind.isLoad && ownWin o e then
      if s.olderCore o then .next s else .next ((s.bypass o).each g (fun t f j => t.winEl o f j))
    else if o.kind.isLoad && s.noRoom (s.coreOf o) 1 then .next s
    else .next (s.each g (fun t f j => t.winEl o f j))

/-! ### At the host (R170, R367) -/

/-- R170: the accesses that a PCI Express request can carry. -/
def Op.hostOk (o : Op) : Bool :=
  match o.kind with
  | .atom .add _ => true
  | .atom .xchg _ => true
  | .atom _ _ => false
  | _ => true

/-- HOST_ACCESS_COMPLETION, R367. -/
def execHostAccessCompletion (op el : Nat) (refused : Bool) (s : State) : Res :=
  match s.elAt op el with
  | none => .next s
  | some (o, e) =>
    let g := s.group o el
    if homeOf e.addr.toNat ≠ some .host then .next s
    else if o.kind.isLoad && s.noRoom (s.coreOf o) 1 then .next s
    else if refused || !o.hostOk then .next (s.each g (fun t _ j => t.trapEl o.id j 7))
    else if o.kind.isLoad then
      if g.any (fun x => (s.forward o x.1).any (· == .atomic)) then .next s
      else .next (s.each g (fun t f j =>
        t.readDone o j (mergeFwd (s.forward o f) (t.readHost (f.addr.toNat % 2 ^ 50) o.width))))
    else match s.counterCause o el with
      | some c => .next (s.trapEl o.id 1 c)
      | none => .next (s.each g (fun t f j =>
        t.doWrite o j f (t.readHost (f.addr.toNat % 2 ^ 50) o.width) (fun bs u => u.writeHost (f.addr.toNat % 2 ^ 50) bs)))

/-! ### Entries leave the core (R156) -/

/-- An element of an entry may be performed at the bank as the entry leaves: the counter of an `ssendsig` behind its payload, and
a lane of an atomic behind every lower one (R169, R175). -/
def Op.bankTurn (o : Op) (i : Nat) : Bool :=
  match o.kind with
  | .sendsig _ => i == 0 || (o.els.take i).all El.final
  | k => !k.atomic || !(o.els.take i).any (fun f => f.st == .todo || f.st == .parked)

/-- R176: the elements of an entry that are performed at the bank of its own core as it leaves, in lane order. -/
def State.ownEls (s : State) (id : Nat) : List Nat → State
  | [] => s
  | i :: is =>
    (match s.op id with
    | some o => (match o.els[i]? with
      | some e => if e.st == ElSt.todo && ownWin o e && o.bankTurn i then s.winEl o e i else s
      | none => s)
    | none => s).ownEls id is

/-- R157: loads that wait for an atomic of the queue that now leaves read at its point of coherence, not from the L1. -/
def State.waitAtomic (s : State) (k : Nat) : State :=
  { s with ops := s.ops.map (fun (p : Op) =>
      if p.gang == k && p.kind == .load && p.stage == .sent && p.els.any (fun e => e.open_ && (s.forward p e).any (· == .atomic))
      then { p with status := max 1 p.status, head := s.nextOp } else p) }

/-- STORE_QUEUE_ENTRY_LEAVE, R156. -/
def execStoreQueueEntryLeave (k : Nat) (s : State) : Res :=
  match s.queue k with
  | [] => .next s
  | o :: _ =>
    if !s.mayLeave k o then .next s
    else
      let sA := if o.kind == .store then s else s.waitAtomic k
      let s0 := if o.kind.memory then (sA.reload k o).sendLoads k o.id else sA
      let out : Op := { o with left := s.nextOp, seen := if o.seen = 0 then s.nextOp else o.seen,
                               leftCores := slotCore k :: o.leftCores.filter (· != slotCore k) }
      if o.scr then
        let r := s0.scrEls o o.els
        .next (((r.1.setOp { out with els := r.2, stage := .ready }).nextHead k).settleFences k)
      else
        let st : Stage := if o.lane && o.els.isEmpty then .ready else .sent
        let s1 := { (s0.setOp { out with stage := st }) with nextOp := s.nextOp + 1 }
        let s2 := (s1.l1Els o o.els).nextHead k
        .next ((if o.kind.memory then s2.ownEls o.id (List.range o.els.length) else s2).settleFences k)

/-! ### Results return -/

/-- An operation leaves the device's account; the gang tries again where nothing else parks it (R198). -/
def State.retire (s : State) (o : Op) : State := ((s.dropOp o.id).settleOf o).unpark o.gang

/-- STORE_ACK, R156: the acknowledgement of an entry that returns no value. -/
def execStoreAck (op : Nat) (s : State) : Res :=
  match s.op op with
  | none => .next s
  | some o => if (o.inQ || o.kind == .kdrop || o.kind.redeems) && o.stage == .ready && o.dst == .none then .next (s.retire o) else .next s

/-- The scalar registers of an operation are written and are pending no longer (R83). -/
def Gang.sReturn (g : Gang) (d : Dst) (v : Option (List Byte)) : Gang :=
  let rs := d.sregs
  let g' := match d, v with
    | .sreg r, some bs => g.ws r (BitVec.ofNat 32 (leNat bs))
    | .pair r, some bs => g.wp r (BitVec.ofNat 64 (leNat bs))
    | _, _ => g
  { g' with spend := g'.spend.filter (fun r => !rs.contains r), sfault := g'.sfault.filter (fun r => !rs.contains r) }

/-- What an operation returns: the bytes of its first element, where it was performed. -/
def Op.value (o : Op) : Option (List Byte) :=
  match o.els with
  | e :: _ => if e.st = .done then some e.res else none
  | [] => none

/-- The answer of the harbour master that an operation reads (R310, R347, R348). -/
def State.answer (s : State) (o : Op) : Option Nat :=
  match o.kind with
  | .jcount l =>
    let id := (o.arg.getD 0 0).toNat
    some (if 65536 ≤ id then 0 else s.counter o.asid l.code id)
  | .orphans => some (s.ctxField o.asid 447 384)
  | _ => none

/-- SCALAR_RESULT_RETURN, R83: a returned value is written; a `jcount` that reads complete acquires (R348). The result of a load at core
scope waits for the older loads of its stream (R179). -/
def execScalarResultReturn (op : Nat) (s : State) : Res :=
  match s.op op with
  | none => .next s
  | some o =>
    if o.lane || o.dst == .none then .next s
    else match o.kind with
    | .mwait _ => .next s
    | _ =>
    match s.answer o with
    | some v =>
      if !s.acqDone o.gang o.id then .next s
      else
        let s1 := s.setGang o.gang ((s.gang o.gang).sReturn o.dst (some (natLE 8 v)))
        let s2 := if o.ord.acquires && v.testBit 33 then s1.acquired o.gang o.id else s1
        let s3 := if o.ord.acquires && v.testBit 33 && decide (3 ≤ o.scope.code) then s2.emptyL1 (s.coreOf o) else s2
        .next (s3.retire o)
    | none =>
      if o.stage ≠ .ready ∨ s.resultWaits o then .next s
      else .next ((s.setGang o.gang ((s.gang o.gang).sReturn o.dst o.value)).retire o)

/-- The vector registers that an operation leaves pending in its own gang (R87, R305). -/
def Op.vregs (o : Op) : List Nat :=
  (match o.dst with | .vreg r n _ => regs r n | _ => [])
  ++ (match o.kind with | .vredeem true _ => [(o.arg.getD 2 0).toNat] | _ => [])

/-- The word `i` of the bytes of an element. -/
def El.word (e : El) (i : Nat) : Word := BitVec.ofNat 32 (leNat ((e.res.drop (4 * i)).take 4))

/-- Write `n` registers in the lanes whose elements were performed. -/
def Gang.vReturn (g : Gang) (r : Nat) (els : List El) : Nat → Gang
  | 0 => g
  | n + 1 =>
    let g' := g.vReturn r els n
    let done := els.filter (fun e => e.st == .done)
    g'.wvs (r + n) (laneMask (fun l => done.any (fun e => e.lane == l)) 32)
      (fun l => match done.find? (fun e => e.lane == l) with | some e => e.word n | none => 0)

/-- The vector results of an operation are written, with their tags (R81, R161, R169). -/
def Gang.vResult (g : Gang) (o : Op) : Gang :=
  match o.kind, o.dst with
  | .vredeem _ _, _ => g
  | _, .vreg r n t =>
    if !o.els.isEmpty && o.els.all (fun e => e.st == .dropped) then g
    else (regs r n).foldl (fun (g : Gang) x => g.setTag x t) (g.vReturn r o.els n)
  | _, _ => g

/-- A lane operation completes: its registers are pending no longer and its flag may clear (R86, R87). -/
def Gang.opDone (g : Gang) (vs : List Nat) (flag : Option Nat) : Gang :=
  let g' := g.flagOp flag false
  { g' with vpend := g'.vpend.filter (fun r => !vs.contains r), vfault := g'.vfault.filter (fun r => !vs.contains r) }

/-- The elements of a load from the crew's scratchpad, read at the bank with the queue's bytes over them. -/
def State.scrRead (s : State) (o : Op) (e : El) : El :=
  { e with st := .done, res := mergeFwd (s.forward o e) ((s.crew o.crew).readScr e.addr.toNat o.width) }

/-- A load from scratchpad may be performed (R157, R177, R178). -/
def State.scrReady (s : State) (o : Op) : Bool :=
  o.stage == .sent && s.acqDone o.gang o.id && !s.olderCore o
  && o.els.all (fun e => (s.forward o e).all (· != .atomic) && !s.leftStore o e && !s.olderLoad o e)

/-- The landing that a `vcpidx` makes when every acting lane is written and none has trapped (R268). -/
def State.gatherLand (s : State) (o : Op) : State :=
  match o.kind with
  | .gather _ _ (some tag) =>
    if o.els.all (fun e => e.st == .done) then
      let w := s.crew o.crew
      let num := (s.gang o.gang).num
      s.land o.crew (if w.hasWatches then num / 4 else num) tag
    else s
  | _ => s

/-! ### `mwait` again (R171) -/

/-- What a span reads now, where its page translates. -/
def State.peek (s : State) (asid va n : Nat) : Option (List Byte) :=
  match homeOf va with
  | some (.die d) => match s.look asid d va false with | .ok pa _ => some (s.readPhys pa n) | _ => none
  | some (.peer _) => some (s.readPeer va n)
  | some .host => some (s.readHost (va % 2 ^ 50) n)
  | some .window => some (s.winRead va n)
  | none => none

/-- The sleeping `mwait` of a gang; while its crew is out it reads nothing. -/
def State.asleep (s : State) (k : Nat) : Option (Op × El) :=
  match (s.gang k).wait with
  | .mwait id =>
    match s.op id with
    | some o => match o.els with
      | e :: _ => if o.stage = .asleep ∧ (s.crew o.crew).phase ≠ .out then some (o, e) else none
      | [] => none
    | none => none
  | _ => none

/-- The `mwait` reads its word again, with a new request. -/
def State.reread (s : State) (o : Op) : State :=
  (s.setOp { o with stage := .sent, head := s.nextOp, els := o.els.map (fun e => { e with st := ElSt.todo, data := [] }) }).rerouted o.id

/-- MWAIT_RECHECK, R171: the word has been written. The manual names only a write: that an `mwait` also reads again, and so faults or
traps, where its page has stopped translating or its window has another owner, is the model's choice (log 36). -/
def execMwaitRecheck (k : Nat) (s : State) : Res :=
  match s.asleep k with
  | none => .next s
  | some (o, e) => if s.peek o.asid e.addr.toNat 8 = some e.res then .next s else .next (s.reread o)

/-- MWAIT_POLL_TIMEOUT, R171: a wait on host memory reads again. -/
def execMwaitPollTimeout (k : Nat) (s : State) : Res :=
  match s.asleep k with
  | none => .next s
  | some (o, e) => if homeOf e.addr.toNat = some .host then .next (s.reread o) else .next s

/-! ### `vprf` (R174) -/

/-- R174: the line of an address comes to its slice, where it costs tokens (R295), and, with word 0 of `arg` clear, into the L1 of
the gang's core. An address that does not translate is dropped. -/
def State.prefetch (s : State) (o : Op) (i : Nat) (e : El) : State :=
  let va := e.addr.toNat
  let line := va / 128 * 128
  let bring (t : State) (bs : List Byte) : State := (if o.arg.headD 0 = 0 then t.l1Load o true line bs else t).elDone o.id i []
  match homeOf va with
  | some (.die d) =>
    if !s.goesOut o [i] then s
    else (match s.admitted ⟨d * 64 + sliceOf va, o.asid, o.id, 0, i, 2, 0⟩ with
    | (true, t) =>
      (match t.look o.asid d va false with
      | .ok pa _ => bring t (t.readPhys (pa / 128 * 128) 128)
      | _ => t.elDone o.id i [])
    | (false, t) => t)
  | some (.peer p) =>
    if (s.portSet p va).isEmpty then s.elDone o.id i [] else if s.noRoom (s.coreOf o) 1 then s else bring s (s.readPeer line 128)
  | _ => s.elDone o.id i []

/-- `vprf`, R174: each acting lane's address is requested; one that its home cannot hold is dropped, and nothing waits for the
request. -/
def execVprf (f : LaneWord) (s : State) : Res :=
  laneGo s (s.me.act f) ⟨laneAddrRegs f, [], laneSReads (.vprf f), [], []⟩ (fun s =>
    let g := s.me
    let els := (laneEls (g.act f) (g.laneAddr f) (fun _ => [])).filter (fun e =>
      match homeOf e.addr.toNat with | some (.die _) => true | some (.peer _) => true | _ => false)
    let o := { s.laneOp with kind := .prf, els := els, arg := [if f.opx34 then 1 else 0] }
    if els.isEmpty then .next (s.setMe g.laneNext)
    else .next (s.laneEnter o []))

end Sys2Proof.Machine
end

