-- ==== Sys2Proof/Machine/LaneFloat.lean ====
section
/-! DEFINITION. The floating-point instructions of the lane stream (spec 06 R133-R137). -/

namespace Sys2Proof.Machine

/-- The float format of a lane word's type. -/
def laneFmt (f : LaneWord) : Fmt := (tyFmt (laneTy f)).getD .f32

/-- R133: an element instruction on va and b, and vc where `useC`. -/
def laneFlt (useC : Bool) (fn : Fmt → Nat → Nat → Nat → Nat × Flags) (f : LaneWord) (s : State) : Res :=
  laneElem useC (fun _ _ a b c => fn (laneFmt f) a b c) f s

/-- A function of va alone. -/
def laneFun (fn : Fmt → Rnd → Bool → FVal → Nat × Flags) (f : LaneWord) (s : State) : Res :=
  laneUn (fun _ _ a => let m := laneFmt f; fn m (laneRnd f) (laneSat f) (m.decode a)) f s

/-- `vfadd`, R133. -/
def execVfadd (f : LaneWord) (s : State) : Res :=
  laneFlt false (fun m a b _ => m.add (laneRnd f) (laneSat f) (m.decode a) (m.decode b)) f s
/-- `vfsub`, R133. -/
def execVfsub (f : LaneWord) (s : State) : Res :=
  laneFlt false (fun m a b _ => m.add (laneRnd f) (laneSat f) (m.decode a) (m.decode b).neg) f s
/-- `vfmul`, R133. -/
def execVfmul (f : LaneWord) (s : State) : Res :=
  laneFlt false (fun m a b _ => m.mul (laneRnd f) (laneSat f) (m.decode a) (m.decode b)) f s
/-- `vfma`, R133. -/
def execVfma (f : LaneWord) (s : State) : Res :=
  laneFlt true (fun m a b c => m.fma (laneRnd f) (laneSat f) (m.decode a) (m.decode b) (m.decode c)) f s
/-- `vfmin`, R134. -/
def execVfmin (f : LaneWord) (s : State) : Res := laneFlt false (fun m a b _ => m.minmax false a b) f s
/-- `vfmax`, R134. -/
def execVfmax (f : LaneWord) (s : State) : Res := laneFlt false (fun m a b _ => m.minmax true a b) f s
/-- `vfrcp`, R135. -/
def execVfrcp (f : LaneWord) (s : State) : Res := laneFun (fun m r => m.rcp r) f s
/-- `vfsqrt`, R135. -/
def execVfsqrt (f : LaneWord) (s : State) : Res := laneFun (fun m r => m.sqrt r) f s
/-- `vfrsqrt`, R135. -/
def execVfrsqrt (f : LaneWord) (s : State) : Res := laneFun (fun m r => m.rsqrt r) f s
/-- `vflog2`, R135. -/
def execVflog2 (f : LaneWord) (s : State) : Res := laneFun (fun m r => m.log2 r) f s
/-- `vfexp2`, R135. -/
def execVfexp2 (f : LaneWord) (s : State) : Res := laneFun (fun m r => m.exp2 r) f s
/-- `vfrnd`, R133. -/
def execVfrnd (f : LaneWord) (s : State) : Res := laneFun (fun m r => m.rint r) f s

/-- R136: the eight tests. -/
def fcmpCode (cc : Nat) (o : Option Ordering) : Bool :=
  match cc, o with
  | 6, o => o.isNone
  | 7, o => o.isSome
  | 1, none => true
  | _, none => false
  | cc, some o => cmpCode cc o

/-- `vfcmp`, R136. -/
def execVfcmp (f : LaneWord) (s : State) : Res :=
  laneDo s f ⟨f.va.val :: bRegs f, [], bScalar f, [], tagged f.va.val 1 .f32 ++ bTag f .f32⟩
    (fun g =>
      let a (l : Nat) : FVal := Fmt.f32.decode (g.rv f.va.val l).toNat
      let b (l : Nat) : FVal := Fmt.f32.decode (g.b f l).toNat
      (g.predResult f.pd.val (g.act f) (laneMask (fun l => fcmpCode f.opx.val (FVal.cmp (a l) (b l))) 32)).raise
        (flagsOf (g.act f) (fun l => (0, snanFlag (a l) ||| snanFlag (b l)))))

/-- `vfcls`, R136. -/
def execVfcls (f : LaneWord) (s : State) : Res :=
  laneDo s f ⟨[f.va.val], [], [], [], tagged f.va.val 1 .f32⟩
    (fun g => g.predResult f.pd.val (g.act f)
      (laneMask (fun l => (f.x 9 0).testBit (f32Class (g.rv f.va.val l).toNat)) 32))

/-- `vfdp2`, R137. -/
def execVfdp2 (f : LaneWord) (s : State) : Res :=
  let t := laneTy f
  let es (x : Word) : List Nat := (List.range 2).map (elt 16 x)
  laneDo s f ⟨f.va.val :: f.vc.val :: bRegs f, [f.vd.val], bScalar f, [],
      tagged f.va.val 1 t ++ bTag f t ++ tagged f.vc.val 1 .f32⟩
    (fun g => g.result f.vd.val (g.act f) .f32
      (fun l =>
        let r := stepFloat (laneSat f) (laneFmt f) (g.rv f.vc.val l).toNat (es (g.rv f.va.val l)) (es (g.b f l))
        (BitVec.ofNat 32 r.1, r.2)))

end Sys2Proof.Machine
end

