-- ==== Sys2Proof/Machine/LaneFormat.lean ====
section
/-! DEFINITION. The format instructions of the lane stream (spec 06 R138-R141). -/

namespace Sys2Proof.Machine

/-- R138: destination register `r` of a conversion in one lane. -/
def cvtReg (dst src : Ty) (m : Rnd) (sat : Bool) (x : Nat → Word) (r : Nat) : Word × Flags :=
  packF dst.width ((List.range dst.elems).map (fun i =>
    let j := r * dst.elems + i
    cvtElem dst src m sat (elt src.width (x (j / src.elems)) (j % src.elems))))

/-- Write `n` consecutive registers, the values from the state before. -/
def Gang.results (g : Gang) (r : Nat) (act : BitVec 32) (t : Ty) (val : Nat → Nat → Word × Flags) : Nat → Gang
  | 0 => g
  | n + 1 => (g.results r act t val n).result (r + n) act t (val n)

/-- `vcvt`, R138. -/
def execVcvt (f : LaneWord) (s : State) : Res :=
  let d := laneTy f
  let c := (Ty.ofCode (f.x 5 0)).getD .s32
  let n := cvtRegs d c
  let m := if f.opx34 then Rnd.rna else laneRnd f
  laneDo s f ⟨regs f.va.val n.1, regs f.vd.val n.2, [], [], tagged f.va.val n.1 c⟩
    (fun g => g.results f.vd.val (g.act f) d
      (fun r l => cvtReg d c m (laneSat f) (fun i => g.rv (f.va.val + i) l) r) n.2)

/-- R139: the block scale of eight f32 patterns and its flags. -/
def packScale (xs : List Nat) : Nat × Flags :=
  let mags := (xs.filter (fun x => !(Fmt.f32.decode x).isNan)).map (· % 2 ^ 31)
  match Fmt.f32.decode (mags.foldl max 0) with
  | .inf _ => (Fmt.e3m5.maxCode, fSA)
  | .fin _ q => Fmt.e3m5.round .ru true false q (6 * 2 ^ Fmt.f32.k)
  | .nan _ _ => (0, 0)

/-- R139: one element of the packed block. -/
def packElem (m : Rnd) (scale x : Nat) : Nat × Flags :=
  match Fmt.f32.decode x with
  | .nan _ _ => (0, fIV)
  | .inf n => (Fmt.e2m1.withSign n Fmt.e2m1.maxCode, fSA)
  | .fin n q =>
    if scale = 0 then (Fmt.e2m1.withSign n 0, 0)
    else Fmt.e2m1.round m true n (q * 2 ^ Fmt.e3m5.k) (2 ^ Fmt.f32.k * Fmt.e3m5.quanta scale)

/-- R139: the block word, the scale and the flags of one lane. -/
def packBlock (m : Rnd) (xs : List Nat) : Word × Nat × Flags :=
  let sc := packScale xs
  let w := packF 4 (xs.map (packElem m sc.1))
  (w.1, sc.1, sc.2 ||| w.2)

/-- Replace byte k of a word. -/
def setByte (x : Word) (k v : Nat) : Word :=
  BitVec.ofNat 32 (x.toNat - x.toNat / 2 ^ (8 * k) % 256 * 2 ^ (8 * k) + v * 2 ^ (8 * k))

/-- `vpackb`, R139. Where vd and vc are one register of va to va + 7, the manual allows no such use: a free value is
written (log 3). -/
def execVpackb (f : LaneWord) (s : State) : Res :=
  let k := f.x 1 0
  let vd := f.vd.val
  let vc := f.vc.val
  laneGo s (s.me.act f) ⟨vc :: regs f.va.val 8, [vd, vc], [], [], tagged f.va.val 8 .f32⟩ (fun s =>
    let g := s.me
    let act := g.act f
    let blk (l : Nat) := packBlock (laneRnd f) ((List.range 8).map (fun i => (g.rv (f.va.val + i) l).toNat))
    let g1 := (g.result vd act .e2m1x8 (fun l => ((blk l).1, (blk l).2.2)))
    let old (l : Nat) : Word := if vd = vc then (blk l).1 else g.rv vc l
    let g2 := g1.result vc act .e3m5x4 (fun l => (setByte (old l) k (blk l).2.1, 0))
    let s' := s.taint s.cur [vd, vc]
    if vd = vc ∧ f.va.val ≤ vd ∧ vd < f.va.val + 8 then
      .next ((s'.useFree 32).setMe (g1.result vc act .e3m5x4 (fun l => (s.free l, 0))).laneNext)
    else .next (s'.setMe g2.laneNext))

/-- `vunpkb`, R140. -/
def execVunpkb (f : LaneWord) (s : State) : Res :=
  laneDo s f ⟨[f.va.val, f.vc.val], regs f.vd.val 8, [], [], tagged f.va.val 1 .e2m1x8 ++ tagged f.vc.val 1 .e3m5x4⟩
    (fun g => g.results f.vd.val (g.act f) .f32
      (fun r l =>
        let sc := Fmt.e3m5.quanta (elt 8 (g.rv f.vc.val l) (f.x 1 0))
        match Fmt.e2m1.decode (elt 4 (g.rv f.va.val l) r) with
        | .fin n q => (BitVec.ofNat 32 (Fmt.f32.round .rn false n (q * sc) (2 ^ (Fmt.e2m1.k + Fmt.e3m5.k))).1, 0)
        | _ => (0, 0)) 8)

/-- `vtag`, R141. -/
def execVtag (f : LaneWord) (s : State) : Res :=
  laneDo s f ⟨[f.va.val], [f.vd.val], [], [], []⟩
    (fun g => g.result f.vd.val (g.act f) (laneTy f) (fun l => (g.rv f.va.val l, 0)))

/-- `vtagq`, R141. -/
def execVtagq (f : LaneWord) (s : State) : Res :=
  laneDo s f ⟨[f.va.val], [f.vd.val], [], [], []⟩
    (fun g => g.result f.vd.val (g.act f) .n32 (fun _ => (BitVec.ofNat 32 (g.tag f.va.val).code, 0)))

end Sys2Proof.Machine
end

