-- ==== Sys2Proof/Machine/Winner.lean ====
section
/-! DEFINITION. Winner lists as values, list images and the exact scoring with abandonment (spec 10 R211-R220, 11 R241,
R242, R247-R252, 03 R64-R67). -/

namespace Sys2Proof.Machine

/-! ### Lists (R211-R214) -/

abbrev Entry := Word × Word

def WList.rows (l : WList) : Nat := shapeRows l.shape
def WList.len (l : WList) : Nat := shapeLen l.shape
/-- Entry e of the 512. -/
def WList.entry (l : WList) (e : Nat) : Option Entry := Map.get none l.ent e
/-- The valid entries of a row, from position 0. -/
def WList.row (l : WList) (r : Nat) : List Entry := (List.range l.len).filterMap (fun p => l.entry (r * l.len + p))
/-- Write a row from position 0. -/
def WList.setRow (l : WList) (r : Nat) (es : List Entry) : WList :=
  { l with ent := (List.range l.len).foldl (fun m p => Map.put none m (r * l.len + p) es[p]?) l.ent }
/-- An empty list with the same settings. -/
def WList.clear (l : WList) : WList := { l with ent := [] }

/-- R212: the order of two scores, and the global index. -/
def scoreCmp (isInt : Bool) (a b : Word) : Option Ordering :=
  if isInt then some (compare a.toInt b.toInt) else FVal.cmp (Fmt.f32.decode a.toNat) (Fmt.f32.decode b.toNat)
def WList.global (l : WList) (i : Word) : Word := l.base + i
/-- R212: x ranks ahead of y. -/
def WList.ahead (l : WList) (x y : Entry) : Bool :=
  match scoreCmp l.isInt x.1 y.1 with
  | some .gt => true
  | some .eq => decide ((l.global x.2).toNat < (l.global y.2).toNat)
  | _ => false

/-- Before the first entry that the candidate ranks ahead of. -/
def WList.insert (l : WList) (x : Entry) : List Entry → List Entry
  | [] => [x]
  | y :: ys => if l.ahead x y then x :: y :: ys else y :: l.insert x ys

/-- R213, R214: offer a candidate to a row. -/
def WList.offer (l : WList) (r : Nat) (x : Entry) : WList × Flags :=
  if l.rows ≤ r then (l, 0)
  else if !l.isInt && (Fmt.f32.decode x.1.toNat).isNan then (l, fIV)
  else (l.setRow r ((l.insert x (l.row r)).take l.k), 0)

/-- The threshold of a row: none is −∞. -/
def WList.threshold (l : WList) (r : Nat) : Option Word := (l.row r)[l.k - 1]?.map (·.1)

/-! ### List images (R247) -/

/-- Table 11-9. -/
def WList.header (l : WList) : Nat := b1 l.isInt * 2 ^ 8 + (l.k - 1) * 4 + l.shape

/-- The settings that a header names: none where a reserved bit is nonzero or k is above the row length. -/
def readHeader (h : Nat) : Option WList :=
  let k := bits h 7 2 + 1
  if h / 2 ^ 9 = 0 ∧ k ≤ shapeLen (bits h 1 0) then some ⟨bits h 1 0, k, h.testBit 8, 0, []⟩ else none

/-- Table 11-8. -/
def WList.image (l : WList) : List Byte :=
  natLE 4 l.header ++ natLE 4 l.base.toNat ++ List.replicate 8 (0 : Byte)
  ++ ((List.range 64).map (fun b => BitVec.ofNat 8 (((List.range 8).map (fun i =>
      if (l.entry (8 * b + i)).isSome then 2 ^ i else 0)).foldl (· + ·) 0)) : List Byte)
  ++ (List.range 512).flatMap (fun e => match l.entry e with
      | some x => natLE 4 x.1.toNat ++ natLE 4 x.2.toNat
      | none => List.replicate 8 (0 : Byte))

/-- The entries of an image, position by position. -/
def imageEntries (bs : List Byte) : List (Option Entry) :=
  let valid := bs.drop 16
  let rec go : Nat → Nat → List Byte → List (Option Entry)
    | 0, _, _ => []
    | n + 1, e, xs =>
      (if (valid.getD (e / 8) 0).getLsbD (e % 8) then
        some (BitVec.ofNat 32 (leNat (xs.take 4)), BitVec.ofNat 32 (leNat ((xs.drop 4).take 4))) else none)
      :: go n (e + 1) (xs.drop 8)
  go 512 0 (bs.drop 80)

/-- The map of numbered entries. -/
def entriesMap (es : List (Option Entry)) : Map (Option Entry) :=
  es.zipIdx.foldl (fun m x => Map.put none m x.2 x.1) []

/-- R212: no later entry of a row ranks ahead of an earlier one. A NaN score compares with nothing, so it ranks ahead of no
entry and none ranks ahead of it (log 21). -/
def WList.sorted (l : WList) : List Entry → Bool
  | [] => true
  | x :: xs => xs.all (fun y => !l.ahead y x) && l.sorted xs

/-- R250: in each row the valid entries form a prefix of at most k entries in rank order. -/
def WList.ordered (l : WList) (r : Nat) : Bool :=
  let es := l.row r
  decide (es.length ≤ l.k) && (List.range es.length).all (fun p => (l.entry (r * l.len + p)).isSome) && l.sorted es
def WList.orderly (l : WList) : Bool := (List.range l.rows).all l.ordered

/-- A list whose rows that a test names are undefined, from a counter on (R5): its settings stand. -/
def WList.undefRows (l : WList) (p : Nat → Bool) (n : Nat) : WList :=
  { l with ent := ((List.range 512).filter (fun e => p (e / l.len))).foldl (fun m e =>
      Map.put none m e (if (Config.freeWord (n + 3 * e)).getLsbD 0
        then some (Config.freeWord (n + 3 * e + 1), Config.freeWord (n + 3 * e + 2)) else none)) l.ent }
/-- A list of undefined values: every one of its rows. -/
def WList.undefined (l : WList) (n : Nat) : WList := l.undefRows (fun _ => true) n
/-- How many undefined values such a list takes. -/
abbrev listFree : Nat := 1536

/-- R250: the entries of an image are offered, row by row and in entry order, to the same rows. -/
def WList.merge (l : WList) (base : Word) (es : List (Option Entry)) : WList × Flags :=
  es.zipIdx.foldl (fun (p : WList × Flags) x =>
    match x.1 with
    | some e =>
      let r := p.1.offer (x.2 / l.len) (e.1, base + e.2 - l.base)
      (r.1, p.2 ||| r.2)
    | none => p) (l, 0)

/-! ### Steps of a cell (R64, R67) -/

/-- A line or row as elements, with the block scales of type 8. -/
structure HLine where
  elems  : List Nat
  scales : List Nat
  deriving DecidableEq, Repr

/-- Part i of a list cut into parts of n. -/
def part {α : Type} (n i : Nat) (xs : List α) : List α := (xs.drop (n * i)).take n

/-- One K-step of an accumulator. -/
def hStep (f : LaneWord) (acc : Nat) (a b : HLine) (i : Nat) : Nat × Flags :=
  let k := f.kstep
  let x := part k i a.elems
  let y := part k i b.elems
  match f.typ.val with
  | 8 => stepBlock acc x y (part (k / 8) i a.scales) (part (k / 8) i b.scales)
  | 9 => stepInt (f.mode.val % 2 == 1) true acc x y
  | 10 => stepInt (f.mode.val % 2 == 1) false acc x y
  | _ => stepFloat false ((tyFmt (laneTy f)).getD .f32) acc x y

/-- Every step of an accumulator, from step i. -/
def hRun (f : LaneWord) (a b : HLine) : Nat → Nat → Nat → Nat × Flags
  | 0, _, acc => (acc, 0)
  | n + 1, i, acc =>
    let r := hStep f acc a b i
    let t := hRun f a b n (i + 1) r.1
    (t.1, r.2 ||| t.2)

/-! ### Bounds and abandonment (R215-R218) -/

/-- ulp in quanta of 2^-149 (R217). -/
def ulpQ (q : Nat) : Nat := if q < 2 ^ 24 then 1 else 2 ^ (Nat.log2 q - 23)

def hIsInt (f : LaneWord) : Bool := f.typ.val == 9 || f.typ.val == 10

/-- R217: the bound of a cell whose partial is `p` with `n` steps remaining. Where `mag` is infinite R217 gives no ulp, and
the bound is +∞ (log 36). Its roundings raise no sticky flag: R217 names none, and the bound is no result of the program (log 36). -/
def hBound (f : LaneWord) (p na nb n : Nat) : FVal :=
  let F := Fmt.f32
  let t := F.decode (F.mul .ru false (F.decode na) (F.decode nb)).1
  if hIsInt f then
    match t with
    | .fin s q => F.decode (F.roundInt .ru false false (intVal true 32 p * 2 ^ F.k + signed s q) F.k).1
    | x => x
  else
    let b0 := F.decode (F.add .ru false (F.decode p) t).1
    let mag := F.decode (F.add .ru false (F.decode (p % 2 ^ 31)) t).1
    match b0, mag with
    | .fin s q, .fin _ m => F.decode (F.roundInt .ru false s (signed s q + n * ulpQ m) F.k).1
    | .nan x y, _ => .nan x y
    | _, .nan x y => .nan x y
    | _, _ => .inf false

/-- R217, R218: a bound lies strictly below a snapshot. -/
def belowSnap (f : LaneWord) (b : FVal) (snap : Option Word) : Bool :=
  match snap with
  | none => false
  | some w =>
    if hIsInt f then
      match b with
      | .fin s q => decide (signed s q < w.toInt * 2 ^ Fmt.f32.k)
      | .inf n => n
      | .nan _ _ => false
    else FVal.cmp b (Fmt.f32.decode w.toNat) == some .lt

/-- What became of a cell: its final score, or the number of steps that it ran before it was abandoned. -/
inductive CellEnd where
  | kept (score : Nat)
  | gone (steps : Nat)
  deriving DecidableEq, Repr

/-- The steps of a scored cell from step i on, with its bound-table entries (R242). -/
def cellRun (f : LaneWord) (a b : HLine) (ta tb : List Nat) (snap : Option Word) : Nat → Nat → Nat → CellEnd × Flags
  | 0, _, acc => (.kept acc, 0)
  | n + 1, i, acc =>
    let r := hStep f acc a b i
    if n ≠ 0 ∧ belowSnap f (hBound f r.1 (ta.getD (i + 1) 0) (tb.getD (i + 1) 0) n) snap then (.gone (i + 1), r.2)
    else
      let t := cellRun f a b ta tb snap n (i + 1) r.1
      (t.1, r.2 ||| t.2)

/-- The value of an element as quanta of 2^-k, and k; none for a NaN, and infinite values as `inf`. -/
inductive Mag where
  | fin (q : Nat) | inf | nan
  deriving DecidableEq, Repr

def hMagK (f : LaneWord) : Nat :=
  match f.typ.val with
  | 8 => Fmt.e2m1.k + Fmt.e3m5.k
  | 9 => 0
  | 10 => 0
  | _ => ((tyFmt (laneTy f)).getD .f32).k
def hMag (f : LaneWord) (x sc : Nat) : Mag :=
  let of (v : FVal) (m : Nat) : Mag := match v with | .fin _ q => .fin (q * m) | .inf _ => .inf | .nan _ _ => .nan
  match f.typ.val with
  | 8 => of (e2m1Val x) (Fmt.e3m5.quanta sc)
  | 9 => .fin (intVal true 8 x).natAbs
  | 10 => .fin x
  | _ => of (((tyFmt (laneTy f)).getD .f32).decode x) 1

/-- R215: entry s of a bound table is smaller than the norm of a line from step s on. -/
def normBad (f : LaneWord) (l : HLine) (s entry : Nat) : Bool :=
  let from_ := f.kstep * s
  let ms := (l.elems.zipIdx.drop from_).map (fun x => hMag f x.1 (l.scales.getD (x.2 / 8) 0))
  match Fmt.f32.decode entry with
  | .nan _ _ => false
  | .inf n => n
  | .fin n q =>
    if ms.contains .nan then false
    else if ms.contains .inf then true
    else
      let sum := (ms.map (fun m => match m with | .fin x => x * x | _ => 0)).foldl (· + ·) 0
      (n && q != 0) || decide (q * q * 2 ^ (2 * hMagK f) < sum * 2 ^ (2 * Fmt.f32.k))

/-- A bound table has an entry that is too small. -/
def tableBad (f : LaneWord) (lines : List HLine) (table : List (List Nat)) : Bool :=
  (lines.zip table).any (fun p => (List.range f.steps).any (fun s => s != 0 && normBad f p.1 s (p.2.getD s 0)))

/-! ### Groups (R209, R216, R221) -/

/-- The list as the groups leave it: before the last group's insertion, and after it, the flags, and the two counts. -/
structure Grate where
  prev      : WList
  list      : WList
  flags     : Flags
  abandoned : Nat
  skipped   : Nat
  deriving DecidableEq, Repr

/-- Offer the kept cells of one column to their rows. -/
def offerCol (idx : Word) : List (Nat × CellEnd) → WList → Flags → WList × Flags
  | [], l, fl => (l, fl)
  | (r, .kept sc) :: cs, l, fl =>
    let o := l.offer r (BitVec.ofNat 32 sc, idx)
    offerCol idx cs o.1 (fl ||| o.2)
  | (_, .gone _) :: cs, l, fl => offerCol idx cs l fl

/-- One group: its rows with their bound tables, and the index of its first candidate. -/
def groupStep (f : LaneWord) (lines : List (Nat × HLine × List Nat)) (rows : List (HLine × List Nat)) (idx : Word)
    (g : Grate) : Grate :=
  let cols := rows.map (fun c => lines.map (fun l =>
    (l.1, cellRun f c.1 l.2.1 l.2.2 c.2 (g.prev.threshold l.1) f.steps 0 0)))
  let fl := cols.foldl (fun fl c => c.foldl (fun fl x => fl ||| x.2.2) fl) g.flags
  let gone (x : Nat × CellEnd × Flags) : Option Nat := match x.2.1 with | .gone n => some n | .kept _ => none
  let all := cols.flatten
  let out := (all.filter (fun x => (gone x).isSome)).length
  let ran := if all.all (fun x => (gone x).isSome) then (all.filterMap gone).foldl max 0 else f.steps
  let ins := cols.zipIdx.foldl (fun (p : WList × Flags) c =>
    offerCol (idx + BitVec.ofNat 32 c.2) (c.1.map (fun x => (x.1, x.2.1))) p.1 p.2) (g.list, fl)
  { prev := g.list, list := ins.1, flags := ins.2, abandoned := g.abandoned + out,
    skipped := if all.isEmpty then g.skipped else g.skipped + (f.steps - ran) }

/-- The groups of an instruction in order; `n` bounds their number. -/
def groupsGo (f : LaneWord) (lines : List (Nat × HLine × List Nat)) : Nat → List (HLine × List Nat) → Word → Grate → Grate
  | 0, _, _, g => g
  | n + 1, rows, idx, g =>
    if rows.isEmpty then g
    else groupsGo f lines n (rows.drop 64) (idx + 64) (groupStep f lines (rows.take 64) idx g)

end Sys2Proof.Machine
end

