-- ==== Sys2Proof/Machine/HearthIssue.lean ====
section
/-! DEFINITION. The matrix and winner-list instructions as they issue (spec 10 R223-R226, 11 R232-R240): what they check
and how they enter their hearths (tables 11-1 to 11-3). -/

namespace Sys2Proof.Machine

/-! ### What the instructions name -/

/-- The tile that an instruction names. -/
def hTile (i : Instr) : Option Nat :=
  match i with
  | .mxmac f | .mxv f | .mxld f | .mxst f | .mxclr f | .mxmovToTile f | .mxmovToVector f => some (f.x 23 21)
  | _ => none
/-- The winner list that an instruction names. -/
def hList (i : Instr) : Option Nat :=
  match i with
  | .mxtopk f | .wlclr f | .wlget f | .wlins f | .wlmrg f | .wlthr f | .wlst f | .wlld f | .wlcfg f => some (f.x 23 23)
  | _ => none
/-- The instruction reads scratchpad. -/
def hReads (i : Instr) : Bool :=
  match i with
  | .mxmac _ | .mxtopk _ | .mxld _ | .wlmrg _ | .wlld _ => true
  | _ => false
/-- The instruction reads a list image as it issues, and so waits for what comes before it (R239, R250). -/
def hHeader (i : Instr) : Bool := match i with | .wlmrg _ | .wlld _ => true | _ => false
def isMxrdy (i : Instr) : Bool := match i with | .mxrdy _ => true | _ => false
/-- The deferred tag (R225). -/
def hDefer (i : Instr) : Option Nat :=
  match i with
  | .mxmac f | .mxtopk f | .mxv f => f.deferTag
  | _ => none
/-- The joint form (R208). -/
def hJoint (i : Instr) : Bool :=
  match i with
  | .mxmac f | .mxtopk f => f.opx34
  | _ => false
/-- R223: the word without its guard. -/
def bareInstr (i : Instr) : Instr :=
  match i with
  | .mxmac f => .mxmac { f with ge := false, gn := false, pn := 0 }
  | .mxtopk f => .mxtopk { f with ge := false, gn := false, pn := 0 }
  | _ => i

/-- R235: the scalar operands as read at issue: the registers that the instruction uses, in the places of its operand
block, and the mask pair of `mxtopk`. -/
def hBlock (g : Gang) (i : Instr) (f : LaneWord) : List Word :=
  let used := laneSReads i
  (List.range 8).map (fun j => if used.contains (f.vb.val + j) && f.bsrc.val == 1 then g.rs (f.vb.val + j) else 0)
  ++ (match i with
      | .mxtopk _ => if f.x 20 14 = 0 then [0, 0] else [g.rs (f.x 20 14), g.rs (f.x 20 14 + 1)]
      | _ => [0, 0])

/-- Word n of an operand block as a number. -/
def bw (blk : List Word) (n : Nat) : Nat := (blk.getD n 0).toNat

/-- R236: the accumulator type of an operand type. -/
def accTy (f : LaneWord) : Ty := if hIsInt f then .s32 else .f32

/-! ### The state that earlier instructions leave (R239) -/

/-- The instructions of a gang that have not been performed, in issue order. -/
def insertSeq (x : Nat × HOp) : List (Nat × HOp) → List (Nat × HOp)
  | [] => [x]
  | y :: ys => if x.1 < y.1 then x :: y :: ys else y :: insertSeq x ys
def State.hopsOf (s : State) (k : Nat) : List (Nat × HOp) :=
  (s.hops.flatMap (fun h => (h.parts.filter (fun p => p.gang == k)).map (fun p => (p.seq, h)))).foldr insertSeq []
def State.pendingHops (s : State) (k : Nat) : List HOp :=
  (s.hopsOf k).filterMap (fun x => if x.2.stage = .over then none else some x.2)

/-- The tag of a tile. -/
def State.tileTagAt (s : State) (k t : Nat) : Ty :=
  (s.pendingHops k).foldl (fun y h =>
    match h.instr with
    | .mxld f | .mxclr f | .mxmovToTile f => if f.x 23 21 = t then laneTy f else y
    | _ => y) ((s.gang k).ttag t)

/-- The settings that `wlcfg` and an image's header give (R248, R250). -/
def cfgList (f : LaneWord) (blk : List Word) : WList :=
  ⟨f.x 22 21, f.x 20 15 + 1, f.typ.val == 1, blk.getD 0 0, []⟩
def headList (blk : List Word) : WList :=
  match readHeader (bw blk 10) with
  | some l => { l with base := blk.getD 11 0 }
  | none => WList.init

/-- The settings of a list. -/
def State.listAt (s : State) (k w : Nat) : WList :=
  (s.pendingHops k).foldl (fun l h =>
    if hList h.instr = some w then
      match h.instr with
      | .wlcfg f => cfgList f h.blk
      | .wlld _ => headList h.blk
      | _ => l
    else l) ((s.gang k).list w)

/-! ### Checks (R239) -/

/-- What an instruction checks at issue beyond registers and tags: that its shape fits, the offsets and pitches with
their alignment, and the areas of scratchpad by offset and length. -/
structure HCheck where
  shape : Bool
  align : List (Nat × Nat)
  areas : List (Nat × Nat)

/-- The rows of an area at a pitch. -/
def pitchRows (off pitch n len : Nat) : List (Nat × Nat) := (List.range n).map (fun r => (off + r * pitch, len))

/-- The first offset that fails its alignment or its range, with the cause. An instruction as a whole has no address of its own in
each lane: the trap records the first offset, or pitch, that fails, and every lane in which the instruction acts (log 36). -/
def HCheck.fails (c : HCheck) (size : Nat) : Option (Nat × Dword) :=
  if !c.shape then some (3, 0)
  else match c.align.find? (fun x => x.1 % x.2 != 0) with
    | some x => some (5, BitVec.ofNat 64 x.1)
    | none => (c.areas.find? (fun x => decide (size < x.1 + x.2))).map (fun x => (6, BitVec.ofNat 64 x.1))

/-! ### Entering the hearths (R223-R226) -/

def Crew.tagTarget (w : Crew) (num : Nat) : Nat := if w.hasWatches then num / 4 else num

/-- R89, R87, R86: what an instruction leaves in its gang as it issues. -/
def State.hearthMarks (s : State) (wr : List Nat) (flag : Option Nat) : State :=
  let s' := { (s.taint s.cur wr) with nextOp := s.nextOp + 1 }
  s'.setMe ({ (s'.me.flagOp flag true) with vpend := s'.me.vpend ++ wr } : Gang).laneNext

/-- An instruction joins the queues of its hearths at their tails. -/
def State.enterQueue (s : State) (h : HOp) : State := { s with hops := s.hops ++ [{ h with stage := .queued }] }

/-- R225: a registration: whether its tag is parked, or the tag and the stage that follow. -/
def TagSt.register (t : TagSt) (id : Nat) : Option (TagSt × HStage) :=
  match t with
  | .empty => some (.parked id, .parked)
  | .parked _ => none
  | .landed m => some (if m ≤ 1 then .empty else .landed (m - 1), .queued)

/-- R225: every gang that issued the instruction before traps for a tag that is parked; the operation no longer holds
their flags. -/
def State.parkedTrap (s : State) : List HPart → State
  | [] => s
  | p :: ps =>
    let s1 := s.report p.gang ⟨0x0E, false, true, p.pc, p.info, p.act, 0, 1, p.seq, 0⟩
    (s1.setGang p.gang ((s1.gang p.gang).flagOp p.flag false)).parkedTrap ps

/-- An instruction that all its gangs have issued: it enters its hearths' queues, or registers on its deferred tag. The
gang whose turn it is issues it with part `me`. -/
def State.hearthEnter (s : State) (h : HOp) (wr : List Nat) (lanes : BitVec 32) (flag : Option Nat) : State :=
  match hDefer h.instr with
  | none => (s.hearthMarks wr flag).enterQueue h
  | some tag =>
    let w := s.myCrew
    let key := tagKey (w.tagTarget s.me.num) tag
    match (w.tag key).register h.id with
    | none => (s.parkedTrap (h.parts.filter (fun p => p.gang != s.cur))).laneTrap 0x0E lanes 0
    | some (t, st) =>
      let s1 := (s.setCrew s.me.crew (w.setTag key t)).hearthMarks wr flag
      if st = .queued then s1.enterQueue h else { s1 with hops := s1.hops ++ [{ h with stage := st }] }

/-- The joint operation of number `n` of the watch of gang `k` that the gang has not issued (R223). -/
def State.joinable (s : State) (k n : Nat) : Option HOp := (s.unmatched k).find? (fun h => h.n == n)

/-- R223: the `n`-th joint instruction of gang `k` can match no more: a gang of its watch has ended before its own `n`-th, or has
issued it in an operation that is gone. -/
def State.jointLost (s : State) (k n : Nat) : Bool :=
  (s.joinable k n).isNone && (s.watchOf k).any (fun j => j != k
    && (decide (n ≤ (s.gang j).joints) || (s.gang j).phase != .running))

/-- R223: the next joint instruction of the gang whose turn it is. -/
def State.hearthJoin (s0 : State) (i : Instr) (blk : List Word) (lanes : BitVec 32) (flag : Option Nat) : State :=
  let n := s0.me.joints + 1
  let s := s0.setMe { s0.me with joints := n }
  let part : HPart := ⟨s.cur, s.nextOp, s.me.lanePc, s.me.laneInfo, flag, lanes⟩
  match s.joinable s.cur n with
  | none =>
    let h : HOp := ⟨s.nextOp, s.me.crew, [part], i, blk, .joint, [], [], [], false, [], n, [], []⟩
    let s1 := s.hearthMarks [] flag
    if s.jointLost s.cur n then s1.mismatch h h.parts else { s1 with hops := s1.hops ++ [h] }
  | some h =>
    let bad := h.bad || bareInstr h.instr != bareInstr i || h.blk != blk
    let h1 : HOp := { h with parts := h.parts ++ [part], bad := bad }
    if h1.parts.length < 4 then (s.hearthMarks [] flag).setHop h1
    else
      let s1 := { s with hops := s.hops.filter (fun x => x.id != h.id) }
      if bad then (s1.hearthMarks [] flag).mismatch h1 h1.parts
      else s1.hearthEnter { h1 with quads := h1.parts.map (fun p => slotQuad p.gang) } [] lanes flag

/-- R240, R239: an instruction that reads a list image as it issues waits for the gang's stores of tiles and images and
for its `mxrdy`. -/
def State.hearthWaits (s : State) (k : Nat) (i : Instr) : Bool :=
  hHeader i && (s.pendingHops k).any (fun h => match h.instr with | .mxst _ | .wlst _ | .mxrdy _ => true | _ => false)

/-- A matrix or winner-list instruction at the head clause: it waits (R87, R89, R187), traps (R79, R239, Table 10-7) or enters. The
manual gives cause 0x0D of Table 10-7 no place among the checks: it stands behind cause 0x04 of R79 and before the tags (log 21).
`lanes` are the lanes in which it acts; `more` are values that it reads as it issues beyond its block. -/
def hearthGo (s : State) (i : Instr) (f : LaneWord) (u : LaneUse) (lanes : BitVec 32) (chk : List Word → HCheck)
    (more : List Word) : Res :=
  let g := s.me
  let w := s.myCrew
  if g.lBlocked u || s.laneHeld || s.hearthWaits s.cur i then .next (s.laneWait u)
  else if (u.rd ++ u.wr).any (fun r => decide (g.vlimit ≤ r)) || (hTile i).any (fun t => decide (g.ntiles ≤ t))
      || (hList i).any (fun l => decide (g.nlists ≤ l)) then .next (s.laneTrap 4 lanes 0)
  else if hJoint i && !w.hasWatches then .next (s.laneTrap 0x0D lanes 0)
  else if u.tags.any (fun p => g.tag p.1 != p.2) then .next (s.laneTrap 3 lanes 0)
  else
    let blk := hBlock g i f ++ more
    match (chk blk).fails w.scrSize with
    | some (c, a) => .next (s.laneTrap c lanes a)
    | none =>
      let flag := g.attached f
      if hJoint i then .next (s.hearthJoin i blk lanes flag)
      else
        let part : HPart := ⟨s.cur, s.nextOp, g.lanePc, g.laneInfo, flag, lanes⟩
        let quads := if isMxrdy i then [] else [slotQuad s.cur]
        .next (s.hearthEnter ⟨s.nextOp, g.crew, [part], i, blk, .queued, quads, [], [], false, u.wr, 0, [], []⟩ u.wr lanes flag)

/-! ### The instructions -/

/-- The rows that an instruction streams, over all hearths (R238). -/
def hRows (f : LaneWord) (n : Nat) : Nat := if f.opx34 then 4 * n else n
/-- Bytes of the block scales of a line (R238). -/
def scaleBytes (f : LaneWord) : Nat := f.steps * f.kstep / 8

/-- The stream rows and block scales (R238). -/
def streamAreas (f : LaneWord) (blk : List Word) (n : Nat) : List (Nat × Nat) :=
  if n = 0 then []
  else pitchRows (bw blk 0) (bw blk 1) (hRows f n) (4 * f.lineWords)
    ++ (if f.typ.val = 8 then [(bw blk 3, hRows f n * scaleBytes f), (bw blk 4, 64 * scaleBytes f)] else [])

/-- The registers of R (R237), all of operand type (R81). An instruction waits at issue while one of them is pending, as R87 says of
every lane instruction that reads one: the model never shows what Table 14-9 allows where R is read before (log 21). -/
def rUse (i : Instr) (f : LaneWord) : LaneUse :=
  let rs := asyncReads i
  ⟨rs, [], laneSReads i, [], rs.map (·, laneTy f)⟩

/-- `mxmac`, R241. -/
def execMxmac (f : LaneWord) (s : State) : Res :=
  hearthGo s (.mxmac f) f (rUse (.mxmac f) f) s.me.live (fun blk =>
    let n := bw blk 2
    ⟨decide (n ≤ 64) && s.tileTagAt s.cur (f.x 23 21) == accTy f, [(bw blk 0, 4), (bw blk 1, 4)], streamAreas f blk n⟩) []

/-- `mxtopk`, R242. With n = 0 nothing is read, as R241 says of `mxmac`: neither a bound table nor the scales of R's blocks is checked
against the scratchpad (log 36). -/
def execMxtopk (f : LaneWord) (s : State) : Res :=
  hearthGo s (.mxtopk f) f (rUse (.mxtopk f) f) s.me.live (fun blk =>
    let n := bw blk 2
    let tables := f.steps != 1
    ⟨decide (n < 65536) && (s.listAt s.cur (f.x 23 23)).isInt == hIsInt f,
     [(bw blk 0, 4), (bw blk 1, 4)] ++ (if tables then [(bw blk 5, 4), (bw blk 6, 4)] else []),
     streamAreas f blk n ++ (if tables && n != 0 then
       [(bw blk 5, 64 * f.steps * 4), (bw blk 6, hRows f n * f.steps * 4)] else [])⟩) []

/-- `mxv`, R243. -/
def execMxv (f : LaneWord) (s : State) : Res :=
  hearthGo s (.mxv f) f (rUse (.mxv f) f) s.me.live (fun blk =>
    ⟨decide (bw blk 0 ≤ 512) && s.tileTagAt s.cur (f.x 23 21) == accTy f, [], []⟩) []

/-- No operand in vector registers. -/
def hUse (i : Instr) : LaneUse := ⟨[], [], laneSReads i, [], []⟩

/-- `mxrdy`, R244. -/
def execMxrdy (f : LaneWord) (s : State) : Res :=
  hearthGo s (.mxrdy f) f (hUse (.mxrdy f)) s.me.live (fun _ => ⟨true, [], []⟩) []

/-- `mxld`, R245. -/
def execMxld (f : LaneWord) (s : State) : Res :=
  hearthGo s (.mxld f) f (hUse (.mxld f)) s.me.live (fun blk =>
    ⟨decide (bw blk 2 ≤ 64), [(bw blk 0, 4), (bw blk 1, 4)], pitchRows (bw blk 0) (bw blk 1) (bw blk 2) 256⟩) []

/-- Table 11-6. -/
def stConv (tag : Ty) (typ : Ty) : Bool :=
  match tag with
  | .f32 => typ == .f32 || typ == .f16x2 || typ == .bf16x2 || typ == .e4m3x4 || typ == .e5m2x4
  | _ => typ == .s32 || typ == .s16x2 || typ == .s8x4

/-- `mxst`, R245. -/
def execMxst (f : LaneWord) (s : State) : Res :=
  hearthGo s (.mxst f) f (hUse (.mxst f)) s.me.live (fun blk =>
    let tag := s.tileTagAt s.cur (f.x 23 21)
    ⟨decide (bw blk 2 ≤ 64) && stConv tag (laneTy f) && (!f.opx34 || tag == .f32), [(bw blk 0, 4), (bw blk 1, 4)],
     pitchRows (bw blk 0) (bw blk 1) (bw blk 2) (256 / (laneTy f).elems)⟩) []

/-- `mxclr`, R245. -/
def execMxclr (f : LaneWord) (s : State) : Res :=
  hearthGo s (.mxclr f) f (hUse (.mxclr f)) s.me.live (fun _ => ⟨true, [], []⟩) []

/-- `mxmov`, vector to tile, R245. -/
def execMxmovToTile (f : LaneWord) (s : State) : Res :=
  hearthGo s (.mxmovToTile f) f (rUse (.mxmovToTile f) f) (s.me.act f) (fun _ => ⟨true, [], []⟩) []

/-- `mxmov`, tile to vector, R245. -/
def execMxmovToVector (f : LaneWord) (s : State) : Res :=
  hearthGo s (.mxmovToVector f) f ⟨[], regs f.vd.val (2 * (f.x 14 9 + 1)), [], [], []⟩ (s.me.act f)
    (fun _ => ⟨s.tileTagAt s.cur (f.x 23 21) == laneTy f, [], []⟩) []

/-- `wlclr`, R248. -/
def execWlclr (f : LaneWord) (s : State) : Res :=
  hearthGo s (.wlclr f) f (hUse (.wlclr f)) s.me.live (fun _ => ⟨true, [], []⟩) []

/-- `wlcfg`, R248. -/
def execWlcfg (f : LaneWord) (s : State) : Res :=
  hearthGo s (.wlcfg f) f (hUse (.wlcfg f)) s.me.live (fun _ => ⟨true, [], []⟩) []

/-- `wlget`, R251. -/
def execWlget (f : LaneWord) (s : State) : Res :=
  hearthGo s (.wlget f) f ⟨[], regs f.vd.val 3, [], [], []⟩ (s.me.act f) (fun _ => ⟨true, [], []⟩) []

/-- `wlthr`, R251. -/
def execWlthr (f : LaneWord) (s : State) : Res :=
  hearthGo s (.wlthr f) f ⟨[], regs f.vd.val 2, [], [], []⟩ (s.me.act f) (fun _ => ⟨true, [], []⟩) []

/-- `wlins`, R249: its candidates are read as it issues (Table 4-2 lists no asynchronous read of it). -/
def execWlins (f : LaneWord) (s : State) : Res :=
  let col (r : Nat) : List Word := (List.range 32).map (s.me.rv r)
  hearthGo s (.wlins f) f
    ⟨[f.va.val, f.vb.val, f.vc.val], [], [], [], [(f.va.val, laneTy f), (f.vb.val, .n32), (f.vc.val, .n32)]⟩ (s.me.act f)
    (fun _ => ⟨(s.listAt s.cur (f.x 23 23)).isInt == (f.typ.val == 1), [], []⟩)
    (col f.va.val ++ col f.vb.val ++ col f.vc.val)

/-- The offset register of `wlst`, `wlld` and `wlmrg`. -/
def wlOff (s : State) (f : LaneWord) : Nat := (s.me.rs f.vb.val).toNat
/-- The four words of the image's header at the offset (Table 11-8). -/
def wlHead (s : State) (f : LaneWord) : List Word :=
  let bs := s.myCrew.readScr (wlOff s f) 16
  (List.range 4).map (fun i => BitVec.ofNat 32 (leNat ((bs.drop (4 * i)).take 4)))
/-- The header of the image lies in scratchpad: then it decides before alignment and range do (R239, R250, log 21). -/
def wlFits (s : State) (f : LaneWord) : Bool := decide (wlOff s f + 16 ≤ s.myCrew.scrSize)
def wlArea (blk : List Word) : List (Nat × Nat) := [(bw blk 0, 4176)]

/-- `wlst`, R250. -/
def execWlst (f : LaneWord) (s : State) : Res :=
  hearthGo s (.wlst f) f (hUse (.wlst f)) s.me.live (fun blk => ⟨true, [(bw blk 0, 8)], wlArea blk⟩) []

/-- `wlld`, R250. -/
def execWlld (f : LaneWord) (s : State) : Res :=
  hearthGo s (.wlld f) f (hUse (.wlld f)) s.me.live (fun blk =>
    ⟨!wlFits s f || ((readHeader (bw blk 10)).isSome && bw blk 12 == 0 && bw blk 13 == 0), [(bw blk 0, 8)], wlArea blk⟩)
    (wlHead s f)

/-- `wlmrg`, R250. -/
def execWlmrg (f : LaneWord) (s : State) : Res :=
  let l := s.listAt s.cur (f.x 23 23)
  hearthGo s (.wlmrg f) f (hUse (.wlmrg f)) s.me.live (fun blk =>
    ⟨!wlFits s f || (bits (bw blk 10) 1 0 == l.shape && (bw blk 10).testBit 8 == l.isInt), [(bw blk 0, 8)], wlArea blk⟩)
    (wlHead s f)

end Sys2Proof.Machine
end

