-- ==== Sys2Proof/Machine/Hearth.lean ====
section
/-! DEFINITION. What the hearths do (spec 10 R207-R221, R224-R230, 11 R237-R252): HEARTH_START, which performs the work of
one hearth, and LANE_OP_COMPLETE, which ends long-latency lane operations. -/

namespace Sys2Proof.Machine

/-! ### Operands -/

/-- The words of a byte string. -/
def wordsOf : Nat → List Byte → List Word
  | 0, _ => []
  | n + 1, bs => BitVec.ofNat 32 (leNat (bs.take 4)) :: wordsOf n (bs.drop 4)

/-- Words as elements (Table 2-14). -/
def lineElems (f : LaneWord) (ws : List Word) : List Nat :=
  let e := hElems f.typ.val
  ws.flatMap (fun x => (List.range e).map (elt (32 / e) x))

/-- R234: a lane that is not live contributes zero. R70 and R76 say that such a lane raises no flag, and R70 that a zero raises flags as
data does: the model raises them for its cells (log 36). -/
def Gang.lv (g : Gang) (r l : Nat) : Word := if g.live.getLsbD l then g.rv r l else 0

/-- The words of line `l` of R (R237). -/
def State.rLine (s : State) (h : HOp) (f : LaneWord) (l : Nat) : List Word :=
  let w := f.lineWords
  if f.opx34 then
    match h.parts.find? (fun p => (s.gang p.gang).num % 4 == l / 16) with
    | some p => (List.range w).map (fun i => (s.gang p.gang).lv (f.va.val + i) (l % 16))
    | none => []
  else
    match h.parts with
    | p :: _ => (List.range w).map (fun i => (s.gang p.gang).lv (f.va.val + l / 32 * w + i) (l % 32))
    | [] => []

/-- A line of R with its block scales (R238). -/
def State.rOperand (s : State) (h : HOp) (f : LaneWord) (l : Nat) : HLine :=
  let b := scaleBytes f
  ⟨lineElems f (s.rLine h f l),
   if f.typ.val = 8 then ((s.crew h.crew).readScr (bw h.blk 4 + l * b) b).map BitVec.toNat else []⟩

/-- Row `r` of S with its block scales (R238). -/
def State.sOperand (s : State) (h : HOp) (f : LaneWord) (r : Nat) : HLine :=
  let b := scaleBytes f
  let w := f.lineWords
  ⟨lineElems f (wordsOf w ((s.crew h.crew).readScr (bw h.blk 0 + r * bw h.blk 1) (4 * w))),
   if f.typ.val = 8 then ((s.crew h.crew).readScr (bw h.blk 3 + r * b) b).map BitVec.toNat else []⟩

/-- Row `r` of a bound table (R215). -/
def State.boundRow (s : State) (c : Nat) (f : LaneWord) (off r : Nat) : List Nat :=
  (wordsOf f.steps ((s.crew c).readScr (off + 4 * r * f.steps) (4 * f.steps))).map BitVec.toNat

/-- R223, R237: the first row of a hearth. -/
def hBase (f : LaneWord) (g : Gang) (n : Nat) : Nat := if f.opx34 then g.num % 4 * n else 0

/-! ### Tiles -/

/-- Write the cells of a tile, with the flags that they raise. -/
def Gang.wtCells (g : Gang) (t : Nat) : List (Nat × Nat × Nat × Flags) → Gang
  | [] => g
  | c :: cs => ((g.wt t c.1 c.2.1 (BitVec.ofNat 32 c.2.2.1)).raise c.2.2.2).wtCells t cs

/-- Undefined values in the cells of a tile (R5, R88); they set no flag. -/
def State.freeCells (s : State) (k t : Nat) (cells : List (Nat × Nat)) : State :=
  let cs := cells.zipIdx.map (fun c => (c.1.1, c.1.2, (s.free c.2).toNat, (0 : Flags)))
  (s.setGang k ((s.gang k).wtCells t cs)).useFree cells.length

/-- Cells (i, j) of `n` rows and `m` columns. -/
def cellsOf (n m : Nat) : List (Nat × Nat) := (List.range n).flatMap (fun i => (List.range m).map (fun j => (i, j)))

/-- R88: a register from which line `l` of R is read has been overwritten. -/
def State.lineLost (s : State) (h : HOp) (f : LaneWord) (l : Nat) : Bool :=
  let w := f.lineWords
  h.taint.any (fun x =>
    if f.opx34 then (s.gang x.1).num % 4 == l / 16
    else decide (f.va.val + l / 32 * w ≤ x.2) && decide (x.2 < f.va.val + (l / 32 + 1) * w))

/-- `mxmac` in one hearth, R241: the cells of the lines that no write has made undefined. -/
def State.hMac (s : State) (h : HOp) (f : LaneWord) (k : Nat) : State :=
  let g := s.gang k
  let t := f.x 23 21
  let n := bw h.blk 2
  let base := hBase f g n
  let rs := (List.range n).map (fun i => s.sOperand h f (base + i))
  let ls := if n = 0 then [] else ((List.range 64).filter (fun l => !s.lineLost h f l)).map (fun l => (l, s.rOperand h f l))
  let cells := rs.zipIdx.flatMap (fun r => ls.map (fun l =>
    let x := hRun f r.1 l.2 f.steps 0 (g.rt t r.2 l.1).toNat
    (r.2, l.1, x.1, x.2)))
  s.setGang k (g.wtCells t cells)

/-- The cells of an `mxv`: row and column of the tile for each row and line (R243). -/
def vecCell (c : Nat × Nat) : Nat × Nat := (c.1 % 64, 8 * (c.1 / 64) + c.2)

/-- `mxv` with the words of its rows, R243; every line stands in every register of R. -/
def State.hVec (s : State) (h : HOp) (f : LaneWord) (k : Nat) (ws : List Word) : State :=
  let g := s.gang k
  let t := f.x 23 21
  let n := bw h.blk 0
  let m := f.x 20 18 + 1
  if !h.taint.isEmpty then s
  else
    let ls := (List.range m).map (fun l => (⟨lineElems f (s.rLine h f l), []⟩ : HLine))
    let cells := (List.range n).flatMap (fun i =>
      let r : HLine := ⟨lineElems f (part f.lineWords i ws), []⟩
      ls.zipIdx.map (fun l =>
        let c := vecCell (i, l.2)
        let x := hRun f r l.1 f.steps 0 (g.rt t c.1 c.2).toNat
        (c.1, c.2, x.1, x.2)))
    s.setGang k (g.wtCells t cells)

/-- `mxld`, R245. -/
def State.hLoad (s : State) (h : HOp) (f : LaneWord) (k : Nat) : State :=
  let g := s.gang k
  let t := f.x 23 21
  let cells := (List.range (bw h.blk 2)).flatMap (fun i =>
    (wordsOf 64 ((s.crew h.crew).readScr (bw h.blk 0 + i * bw h.blk 1) 256)).zipIdx.map (fun x =>
      (i, x.2, x.1.toNat, (0 : Flags))))
  s.setGang k ((g.wtCells t cells).setTtag t (laneTy f))

/-- One row of `mxst`: its bytes and flags (R245, Table 11-6). -/
def stRow (f : LaneWord) (blk : List Word) (tag : Ty) (xs : List Nat) : List Byte × Flags :=
  let d := laneTy f
  let ys := xs.map (fun x =>
    let a := if f.opx34 then bandScale x (bw blk 3 % 65536) (bw blk 3 / 65536) else (x, 0)
    let b := cvtElem d tag (laneRnd f) (laneSat f) a.1
    (b.1, a.2 ||| b.2))
  (natLE (256 / d.elems) (pack d.width (ys.map (·.1))), ys.foldl (fun fl y => fl ||| y.2) 0)

/-- `mxst`, R245. -/
def State.hStore (s : State) (h : HOp) (f : LaneWord) (k : Nat) : State :=
  let g := s.gang k
  let t := f.x 23 21
  (List.range (bw h.blk 2)).foldl (fun s i =>
    let r := stRow f h.blk (g.ttag t) ((List.range 64).map (fun j => (g.rt t i j).toNat))
    (s.scrStore h.crew (bw h.blk 0 + i * bw h.blk 1) r.1 false).raise k r.2) s

/-- The cells that `mxmov` moves: row, column, register and lane, in the lanes that act. -/
def movCells (f : LaneWord) (r : Nat) (act : BitVec 32) : List (Nat × Nat × Nat × Nat) :=
  (cellsOf (f.x 14 9 + 1) 64).filterMap (fun c =>
    if act.getLsbD (c.2 % 32) then some (f.x 20 15 + c.1, c.2, r + 2 * c.1 + c.2 / 32, c.2 % 32) else none)

/-- `mxmov`, vector to tile, R245. -/
def State.hMovIn (s : State) (h : HOp) (f : LaneWord) (k : Nat) (act : BitVec 32) : State :=
  let g := s.gang k
  let t := f.x 23 21
  let cs := (movCells f f.va.val act).filter (fun c => !h.taint.contains (k, c.2.2.1))
  s.setGang k ((g.wtCells t (cs.map (fun c => (c.1, c.2.1, (g.rv c.2.2.1 c.2.2.2).toNat, (0 : Flags))))).setTtag t (laneTy f))

/-- `mxmov`, tile to vector, R245. -/
def State.hMovOut (s : State) (f : LaneWord) (k : Nat) (act : BitVec 32) : State :=
  let g := s.gang k
  let t := f.x 23 21
  let g1 := (movCells f f.vd.val act).foldl (fun (x : Gang) c => x.wv c.2.2.1 c.2.2.2 (g.rt t c.1 c.2.1)) g
  s.setGang k ((regs f.vd.val (2 * (f.x 14 9 + 1))).foldl (fun (x : Gang) r => x.setTag r (laneTy f)) g1)

/-! ### Winner lists -/

/-- A list becomes undefined (R5). -/
def State.listUndef (s : State) (k w : Nat) (l : WList) : State :=
  (s.setGang k ((s.gang k).setList w (l.undefined s.fresh))).useFree listFree

/-- The rows of a list that an `mxtopk` scores (R242). -/
def scoredRows (h : HOp) (l : WList) : List Nat :=
  if bw h.blk 2 = 0 then []
  else (List.range l.rows).filter (fun i => !((h.blk.getD 9 0) ++ (h.blk.getD 8 0)).getLsbD i)

/-- `mxtopk` in one hearth, R242: the rows of the lines that no write has made undefined, and the counts, which it keeps until it
completes. -/
def State.hTopk (s : State) (h : HOp) (f : LaneWord) (k : Nat) : HOp × State :=
  let g := s.gang k
  let w := f.x 23 23
  let l := g.list w
  let n := bw h.blk 2
  let base := hBase f g n
  let scored := (scoredRows h l).filter (fun i => !s.lineLost h f i)
  let tab (off r : Nat) : List Nat := if f.steps = 1 then [] else s.boundRow h.crew f off r
  let rows := if scored = [] then [] else
    (List.range n).map (fun i => (s.sOperand h f (base + i), tab (bw h.blk 6) (base + i)))
  let all := if scored = [] then [] else
    ((List.range 64).filter (fun i => !s.lineLost h f i)).map (fun i => (i, s.rOperand h f i, tab (bw h.blk 5) i))
  let r := groupsGo f (all.filter (fun x => scored.contains x.1)) (n / 64 + 1) rows
    (h.blk.getD 7 0 + BitVec.ofNat 32 base) ⟨l, l, 0, 0, 0⟩
  let bad := f.steps != 1 && (tableBad f (all.map (·.2.1)) (all.map (·.2.2)) || tableBad f (rows.map (·.1)) (rows.map (·.2)))
  let s1 := s.setGang k ((g.setList w r.list).raise r.flags)
  ({ h with counts := h.counts ++ [(k, BitVec.ofNat 32 r.abandoned, BitVec.ofNat 32 r.skipped)] },
   if bad then s1.listUndef k w l else s1)

/-- `wlins`: the candidates of the acting lanes in ascending order, R249. -/
def insLanes (blk : List Word) (act : BitVec 32) (l : WList) : WList × Flags :=
  (List.range 32).foldl (fun (p : WList × Flags) i =>
    if act.getLsbD i then
      let r := p.1.offer (bw blk (42 + i)) (blk.getD (10 + i) 0, blk.getD (74 + i) 0)
      (r.1, p.2 ||| r.2)
    else p) (l, 0)

/-- `wlmrg` and `wlld` of an image, R250. -/
def State.hImage (s : State) (h : HOp) (k w : Nat) (merge : Bool) : State :=
  let bs := (s.crew h.crew).readScr (bw h.blk 0) 4176
  let es := imageEntries bs
  let img : WList := { headList h.blk with ent := entriesMap es }
  let chk : WList := if merge then { img with shape := bits (bw h.blk 10) 1 0, k := bits (bw h.blk 10) 7 2 + 1,
                                              isInt := (bw h.blk 10).testBit 8, base := h.blk.getD 11 0 } else img
  let l := (s.gang k).list w
  if merge then
    if chk.orderly then
      let r := l.merge chk.base es
      s.setGang k (((s.gang k).setList w r.1).raise r.2)
    else s.listUndef k w l
  else if chk.orderly then s.setGang k ((s.gang k).setList w img)
  else s.listUndef k w img

/-- The score of an empty entry (R251). -/
def emptyScore (isInt : Bool) : Word := if isInt then 0x80000000 else 0xFF800000

/-- `wlget`, R251. -/
def State.hGet (s : State) (f : LaneWord) (k : Nat) (act : BitVec 32) : State :=
  let g := s.gang k
  let l := g.list (f.x 23 23)
  let ent (i : Nat) : Option Entry :=
    let j := 32 * f.x 15 15 + i
    let r := if f.x 22 22 = 1 then f.x 21 16 else j
    let p := if f.x 22 22 = 1 then j else f.x 21 16
    if r < l.rows ∧ p < l.len then l.entry (r * l.len + p) else none
  let d := f.vd.val
  let g1 := g.wvs d act (fun i => match ent i with | some e => e.1 | none => emptyScore l.isInt)
  let g2 := g1.wvs (d + 1) act (fun i => match ent i with | some e => l.global e.2 | none => 0xFFFFFFFF)
  let g3 := g2.wvs (d + 2) act (fun i => if (ent i).isSome then 1 else 0)
  s.setGang k (((g3.setTag d (if l.isInt then .s32 else .f32)).setTag (d + 1) .n32).setTag (d + 2) .n32)

/-- `wlthr`, R251. -/
def State.hThr (s : State) (f : LaneWord) (k : Nat) (act : BitVec 32) : State :=
  let g := s.gang k
  let l := g.list (f.x 23 23)
  let row (i : Nat) : Nat := 32 * f.x 15 15 + i
  let d := f.vd.val
  let g1 := g.wvs d act (fun i => if row i < l.rows then (l.threshold (row i)).getD (emptyScore l.isInt) else emptyScore l.isInt)
  let g2 := g1.wvs (d + 1) act (fun i => if row i < l.rows then BitVec.ofNat 32 (l.row (row i)).length else 0)
  s.setGang k ((g2.setTag d (if l.isInt then .s32 else .f32)).setTag (d + 1) .n32)

/-! ### HEARTH_START -/

/-- Two instructions name one tile or one winner list. -/
def shares (e h : HOp) : Bool :=
  (hTile e.instr).isSome && hTile e.instr == hTile h.instr || (hList e.instr).isSome && hList e.instr == hList h.instr

/-- The cells of a tile that an instruction overwrites whatever they held, and a list that it replaces: rows from one number to below
another, and the columns, which repeat every 32. -/
def renews (h : HOp) (p : HPart) : Option (Nat × Nat × BitVec 32) :=
  match h.instr with
  | .mxld _ => some (0, bw h.blk 2, BitVec.allOnes 32)
  | .mxclr _ | .wlclr _ | .wlcfg _ | .wlld _ => some (0, 64, BitVec.allOnes 32)
  | .mxmovToTile f => some (f.x 20 15, f.x 20 15 + f.x 14 9 + 1, p.act)
  | _ => none
/-- R88: what an instruction overwrites in the gang of a part is no result of an earlier one any more. -/
def Tail.after (h : HOp) (p : HPart) (t : Tail) : Tail :=
  match renews h p with
  | some r =>
    if t.hop.parts.any (fun q => q.gang == p.gang) && shares t.hop h then { t with renewed := t.renewed ++ [(p.gang, r)] } else t
  | none => t

/-- The work of the hearth of a part's quadrant; `mxv` is given its words apart. -/
def State.hPerform (s : State) (h : HOp) (p : HPart) : HOp × State :=
  let k := p.gang
  match h.instr with
  | .mxtopk f => s.hTopk h f k
  | .mxmac f => (h, s.hMac h f k)
  | .mxv f => (h, s.hVec h f k (h.blk.drop 10))
  | .mxld f => (h, s.hLoad h f k)
  | .mxst f => (h, s.hStore h f k)
  | .mxclr f =>
    let g := s.gang k
    let t := f.x 23 21
    (h, s.setGang k ({ g with tile := g.tile.filter (fun e => e.1 / 4096 != t) }.setTtag t (laneTy f)))
  | .mxmovToTile f => (h, s.hMovIn h f k p.act)
  | .mxmovToVector f => (h, s.hMovOut f k p.act)
  | .wlclr f => (h, s.setGang k ((s.gang k).setList (f.x 23 23) ((s.gang k).list (f.x 23 23)).clear))
  | .wlcfg f => (h, s.setGang k ((s.gang k).setList (f.x 23 23) (cfgList f h.blk)))
  | .wlins f =>
    let r := insLanes h.blk p.act ((s.gang k).list (f.x 23 23))
    (h, s.setGang k (((s.gang k).setList (f.x 23 23) r.1).raise r.2))
  | .wlmrg f => (h, s.hImage h k (f.x 23 23) true)
  | .wlld f => (h, s.hImage h k (f.x 23 23) false)
  | .wlst f => (h, s.scrStore h.crew (bw h.blk 0) ((s.gang k).list (f.x 23 23)).image false)
  | .wlget f => (h, s.hGet f k p.act)
  | .wlthr f => (h, s.hThr f k p.act)
  | _ => (h, s)

/-! ### Order at the hearths (R221, R226, R240, R243) -/

/-- A deferred instruction (R225). -/
def HOp.deferred (h : HOp) : Bool := (hDefer h.instr).isSome
/-- R221: an earlier instruction of the gang stands before a later one in the queues: a deferred one only where it has
entered them first. -/
def State.inTurn (s : State) (e h : HOp) : Bool :=
  e.stage != .parked && (!e.deferred || (s.hops.takeWhile (fun x => x.id != h.id)).any (fun x => x.id == e.id))

/-- An earlier instruction `e` of a gang holds back a later one `h` (R226, R240, R244): one of the same tile or list until it has
completed. -/
def State.holds (s : State) (e h : HOp) : Bool :=
  match e.stage with
  | .over => shares e h
  | .parked => shares e h
  | _ => if isMxrdy e.instr then hReads h.instr || isMxrdy h.instr else shares e h || s.inTurn e h

/-- The instructions that a gang issued before part `p`. -/
def State.before (s : State) (p : HPart) : List HOp :=
  (s.hopsOf p.gang).filterMap (fun x => if x.1 < p.seq then some x.2 else none)

/-- R226, R228, R240: an earlier instruction of one of its gangs holds an instruction back. -/
def State.hHeld (s : State) (h : HOp) : Bool := h.parts.any (fun p => (s.before p).any (fun e => s.holds e h))

def isMxv (i : Instr) : Bool := match i with | .mxv _ => true | _ => false
/-- An instruction waits for another one, of which `id` is the name: that one holds it, or holds what does; of chains of at most
`n` instructions. -/
def State.waitsFor (s : State) (id : Nat) : Nat → HOp → Bool
  | 0, _ => false
  | n + 1, x => x.parts.any (fun p => (s.before p).any (fun e => s.holds e x && (e.id == id || s.waitsFor id n e)))

/-- R243: an `mxv` may take bytes of its FIFO: no other of the crew has entered the hearth before it, but for one that waits for
it (log 21). -/
def State.fifoTurn (s : State) (q : Nat) (h : HOp) : Bool :=
  match s.hops.find? (fun x => x.stage == .queued && x.quads.contains q && isMxv x.instr && x.crew == h.crew) with
  | none => true
  | some x => x.id == h.id || s.waitsFor h.id s.hops.length x

/-- The instruction at the head of a hearth's queue whose operand-ready conditions hold (R221): one that has begun there, or else
the first that nothing holds back. -/
def State.hHead (s : State) (q : Nat) : Option HOp :=
  let here := s.hops.filter (fun h => h.stage == .queued && h.quads.contains q && !h.started.contains q)
  match here.find? (fun h => isMxv h.instr && h.begun) with
  | some h => some h
  | none => here.find? (fun h => !s.hHeld h && (!isMxv h.instr || s.fifoTurn q h))

/-- A hearth has performed its part. -/
def HOp.mark (h : HOp) (q : Nat) : HOp :=
  let st := h.started ++ [q]
  { h with started := st, stage := if h.quads.all st.contains then .over else h.stage }

/-- The stream FIFO of a crew in a quadrant: crew * 4 + quadrant of the core (R270). -/
def fifoKey (c q : Nat) : Nat := c * 4 + q % 4
def State.fifoOf (s : State) (q : Nat) : List Byte := Map.get [] s.fifo q
def State.setFifo (s : State) (q : Nat) (bs : List Byte) : State := { s with fifo := Map.put [] s.fifo q bs }

/-- `mxv` takes what its FIFO holds, up to its rows (R243). -/
def State.hTake (s : State) (h : HOp) (f : LaneWord) (q : Nat) : HOp × State :=
  let k := fifoKey h.crew q
  let n := min ((s.fifoOf k).length / 4) (bw h.blk 0 * f.lineWords + 10 - h.blk.length)
  ({ h with blk := h.blk ++ wordsOf n (s.fifoOf k) }, s.setFifo k ((s.fifoOf k).drop (4 * n)))

/-- HEARTH_START, R221: the hearth performs its part of the instruction at its head. Its scratchpad reads and writes are no
accesses that wait for an older acquire of the gang (R181 lists none of them; log 36). -/
def execHearthStart (q : Nat) (s : State) : Res :=
  match s.hHead q with
  | none => .next s
  | some h =>
    match ((h.parts.zip h.quads).find? (fun x => x.2 == q)).map (·.1) with
    | none => .next s
    | some p =>
      match h.instr with
      | .mxv f =>
        let r := s.hTake h f q
        if r.1.blk.length < bw h.blk 0 * f.lineWords + 10 then .next (r.2.setHop r.1)
        else
          let w := r.2.hPerform r.1 p
          .next (w.2.setHop (w.1.mark q))
      | _ =>
        let w := s.hPerform h p
        .next (({ w.2 with tails := w.2.tails.map (Tail.after h p) } : State).setHop (w.1.mark q))

/-! ### Results that are undefined (R88, R231) -/

/-- Undefined values in lanes of vector registers. -/
def State.freeLanes (s : State) (k : Nat) (act : BitVec 32) : List Nat → State
  | [] => s
  | r :: rs => ((s.setGang k ((s.gang k).wvs r act s.free)).useFree 32).freeLanes k act rs
/-- Undefined bytes in the scratchpad of a crew. -/
def State.freeScr (s : State) (c off n : Nat) : State :=
  (s.scrStore c off ((List.range n).map (fun i => (s.free i).setWidth 8)) false).useFree n

/-- A cell of a gang's tile, or a row of its list, that has been overwritten since. -/
def renewedAt (l : List (Nat × Nat × Nat × BitVec 32)) (k i j : Nat) : Bool :=
  l.any (fun r => r.1 == k && decide (r.2.1 ≤ i) && decide (i < r.2.2.1) && r.2.2.2.getLsbD (j % 32))

/-- What an instruction leaves undefined in the gang of a part: the results that derive from an overwritten register (R88), and the
destination of a gang that has taken a deferred trap since the hearth began (R231); but for what has been overwritten since. -/
def State.hUndef (s : State) (h : HOp) (p : HPart) (renewed : List (Nat × Nat × Nat × BitVec 32) := []) : State :=
  let k := p.gang
  let lost := h.lost.contains k
  let list (f : LaneWord) (s : State) : State :=
    if lost then s.listUndef k (f.x 23 23) ((s.gang k).list (f.x 23 23)) else s
  let rows (n len : Nat) (s : State) : State :=
    if lost then (List.range n).foldl (fun t i => t.freeScr h.crew (bw h.blk 0 + i * bw h.blk 1) len) s else s
  let cells (t : Nat) (l : List (Nat × Nat)) : State := s.freeCells k t (l.filter (fun c => !renewedAt renewed k c.1 c.2))
  match h.instr with
  | .mxmac f => cells (f.x 23 21) ((cellsOf (bw h.blk 2) 64).filter (fun c => lost || s.lineLost h f c.2))
  | .mxv f => cells (f.x 23 21) (if lost || !h.taint.isEmpty then (cellsOf (bw h.blk 0) (f.x 20 18 + 1)).map vecCell else [])
  | .mxld f => cells (f.x 23 21) (if lost then cellsOf (bw h.blk 2) 64 else [])
  | .mxclr f => cells (f.x 23 21) (if lost then cellsOf 64 64 else [])
  | .mxmovToTile f => cells (f.x 23 21)
      (((movCells f f.va.val p.act).filter (fun c => lost || h.taint.contains (k, c.2.2.1))).map (fun c => (c.1, c.2.1)))
  | .mxmovToVector f => s.freeLanes k p.act (if lost then regs f.vd.val (2 * (f.x 14 9 + 1)) else [])
  | .mxst f => rows (bw h.blk 2) (256 / (laneTy f).elems) s
  | .mxtopk f =>
    let w := f.x 23 23
    let l := (s.gang k).list w
    let gone := (scoredRows h l).filter (fun i => (lost || s.lineLost h f i) && !renewedAt renewed k i 0)
    if gone = [] then s else (s.setGang k ((s.gang k).setList w (l.undefRows gone.contains s.fresh))).useFree listFree
  | .wlst _ => if lost then s.freeScr h.crew (bw h.blk 0) 4176 else s
  | .wlget f => s.freeLanes k p.act (if lost then regs f.vd.val 3 else [])
  | .wlthr f => s.freeLanes k p.act (if lost then regs f.vd.val 2 else [])
  | .wlclr f => list f s
  | .wlcfg f => list f s
  | .wlins f => list f s
  | .wlmrg f => list f s
  | .wlld f => list f s
  | _ => s

/-- A line that an `mxtopk` scores in the gang of a part was overwritten. -/
def State.scoreLost (s : State) (h : HOp) (p : HPart) : Bool :=
  match h.instr with
  | .mxtopk f => (scoredRows h ((s.gang p.gang).list (f.x 23 23))).any (s.lineLost h f)
  | _ => false
/-- The counts that an instruction has kept for the gang of a part. -/
def HOp.countsOf (h : HOp) (p : HPart) : Word × Word := ((h.counts.find? (fun x => x.1 == p.gang)).getD (p.gang, 0, 0)).2
/-- The abandoned and skipped counts of an `mxtopk` in the gang of a part: undefined where a line that it scores was overwritten
(R88, R220). -/
def State.hCounts (s : State) (h : HOp) (p : HPart) : (Word × Word) × State :=
  if s.scoreLost h p then ((s.free 0, s.free 1), s.useFree 2) else (h.countsOf p, s)

/-- Table 5-5: the counts of the last `mxtopk` of the gang, in issue order, whose completion flag has cleared. -/
def Gang.setCounts (g : Gang) (i : Instr) (seq : Nat) (c : Word × Word) : Gang :=
  match i with
  | .mxtopk _ => if g.topkAt ≤ seq then { g with abandoned := c.1, skipped := c.2, topkAt := seq } else g
  | _ => g

/-- An attached flag of a gang is busy. -/
def Gang.flagBusy (g : Gang) (i : Option Nat) : Bool := match i with | some i => (g.flag i).busy | none => false

/-- The part of an instruction in one gang completes (R224, R86): its undefined results stand (R88, R231), its registers are pending
no longer, and its flag may clear. It stays among the tails until the turn ends, and while its flag is still busy. -/
def State.partDone (s : State) (h : HOp) (p : HPart) : State :=
  let u := s.hUndef h p
  let c := u.hCounts h p
  let t := c.2.setGang p.gang ((c.2.gang p.gang).opDone h.dsts p.flag)
  { t with tails := t.tails ++ [⟨{ h with taint := [], lost := [], counts := [(p.gang, c.1)] }, p, []⟩] }

/-- A matrix or winner-list instruction completes in each gang that issued it. -/
def State.hopDone (s : State) (h : HOp) : State :=
  h.parts.foldl (fun t p => t.partDone h p) { s with hops := s.hops.filter (fun x => x.id != h.id) }

/-- The counts that an `mxtopk` has left in the gang of a part become undefined where they still stand. -/
def State.countsLost (s : State) (h : HOp) (p : HPart) : State :=
  if s.scoreLost h p ∧ (s.gang p.gang).topkAt = p.seq then
    (s.setGang p.gang { s.gang p.gang with abandoned := s.free 0, skipped := s.free 1 }).useFree 2
  else s

/-- R88: registers of a tail's gang have been overwritten: what the instruction has derived from them in each of its gangs is undefined
from now on, its counts too. -/
def State.tailLost (s : State) (t : Tail) : State :=
  if t.hop.taint.isEmpty then s
  else
    let u := (t.hop.parts.filter (fun p => (s.gang p.gang).phase != .absent)).foldl
      (fun u p => (u.hUndef t.hop p t.renewed).countsLost t.hop p) s
    let c := u.hCounts t.hop t.part
    { c.2 with tails := c.2.tails.map (fun x => if x = t then { x with hop := { t.hop with taint := [], counts := [(t.part.gang, c.1)] } } else x) }

/-- A tail whose flag has cleared. -/
def State.tailDue (s : State) (t : Tail) : Bool := !(s.gang t.part.gang).flagBusy t.part.flag

/-- R88, Table 5-5: what every turn ends with: what has been overwritten makes results of the tails undefined, and the tails whose
attached flags have cleared end, and leave their counts. -/
def State.settleTails (s : State) : State :=
  if s.tails.isEmpty then s
  else
    let t := s.tails.foldl State.tailLost s
    (t.tails.filter t.tailDue).foldl (fun u x =>
        u.setGang x.part.gang ((u.gang x.part.gang).setCounts x.hop.instr x.part.seq (x.hop.countsOf x.part)))
      { t with tails := t.tails.filter (fun x => !t.tailDue x) }

/-! ### LANE_OP_COMPLETE -/

/-- R228, R244: the scratchpad stores of a gang before an `mxrdy` are performed at the banks. -/
def State.scrStoresDone (s : State) (k seq : Nat) : Bool :=
  s.ops.all (fun o => !(o.gang == k && decide (o.id < seq) && o.inQ && o.stage != .ready
    && (o.scr || o.els.any (fun e => homeOf e.addr.toNat == some .window && e.addr.toNat.testBit 35 && e.open_))))

/-- R244: every copy command up to sequence number `q` has landed or been dropped. -/
def Crew.landedTo (w : Crew) (q : Nat) : Bool :=
  decide (q ≤ w.ring.consumed) && w.ring.cmds.all (fun c =>
    let ent := c.ent.toNat
    !(decide (c.pos < q) && decide (bits ent 3 0 ≤ 2) && !ent.testBit 8) || (c.next == c.total && c.held.isEmpty))

/-- The conditions of an `mxrdy`, and those of R240. -/
def State.mxrdyMet (s : State) (h : HOp) : Bool :=
  isMxrdy h.instr && !s.hHeld h
  && h.parts.all (fun p => s.scrStoresDone p.gang p.seq)
  && (s.crew h.crew).landedTo (bw h.blk 0 + 2 ^ 32 * bw h.blk 1)

/-- R240: an earlier instruction of a gang that must complete first: one that is no `mxrdy` in the order of the queues, and an `mxrdy`
before what reads scratchpad, and before anything once its own conditions hold. -/
def State.hLater (s : State) (h : HOp) : Bool :=
  h.parts.any (fun p => (s.before p).any (fun e =>
    if isMxrdy e.instr then hReads h.instr || isMxrdy h.instr || s.mxrdyMet e
    else e.stage != .parked && (shares e h || s.inTurn e h)))

/-- LANE_OP_COMPLETE, R86: a long-latency lane operation writes its results; a load from scratchpad is performed at the bank, and
older loads of its stream are served at the core no more (R178). The result of a load at core scope waits for the older loads of its
stream (R179). -/
def execLaneOpComplete (op : Nat) (s : State) : Res :=
  match s.op op with
  | some o =>
    if !o.lane then .next s
    else
      let bank := o.scr && o.kind == .load && s.scrReady o
      let o' := if bank then { o with els := o.els.map (s.scrRead o), stage := .ready } else o
      let s0 := if bank then s.bypass o else s
      if o'.stage ≠ .ready || (o'.inQ && o'.dst == .none) then .next s
      else if s.resultWaits o then .next (if bank then s0.setOp o' else s)
      else
        let s1 := s0.setGang o.gang (((s0.gang o.gang).vResult o').opDone o'.vregs o'.flag)
        .next ((s1.gatherLand o').retire o')
  | none =>
    match s.hop op with
    | some h => if (h.stage = .over || s.mxrdyMet h) && !s.hLater h then .next (s.hopDone h) else .next s
    | none => .next s

end Sys2Proof.Machine
end

