-- ==== Sys2Proof/Machine/Engine.lean ====
section
/-! DEFINITION. Accesses of the engines (spec 13 R256, R260, R266, R269, 15 R291, R295, 20 R349, 22 R365-R370): cranes, the
harbour master and the device itself read and write a context's memory, and write cause entries. -/

namespace Sys2Proof.Machine

/-- How an engine's access ends: performed, parked on a busy page, absent at a page, refused with a cause, or not yet. -/
inductive Eng where
  | done
  | parked
  | absent (die base size : Nat)
  | trap (cause : Nat)
  | wait
  deriving DecidableEq, Repr

/-- Who makes an access: its context, its crew (0 for none), the crane command that it belongs to (its position plus one; 0
for none) with the element, and, where it pays tokens (R295), the name under which it waits for them. -/
structure Writer where
  asid : Nat
  crew : Nat
  cmd  : Nat
  elem : Nat
  name : Option (Nat × Nat)
  deriving DecidableEq, Repr

/-- The harbour master or the device for a context. -/
def deviceWriter (asid : Nat) : Writer := ⟨asid, 0, 0, 0, none⟩

/-- The new bytes of a store, or of an add to a 64-bit word. -/
def engBytes (add : Bool) (old bs : List Byte) : List Byte :=
  if add then natLE 8 ((leNat old + leNat bs) % 2 ^ 64) else bs

/-- The request of an engine that pays tokens, at a slice. -/
def Writer.request (w : Writer) (sl va n : Nat) : Waiter := ⟨sl, w.asid, (w.name.getD (0, 0)).1, w.cmd, (w.name.getD (0, 0)).2, units va n, 0⟩
/-- Admission of an engine's request (R295), and its place in the order of arrival: one that pays no tokens arrives now. -/
def State.engAdmit (s : State) (w : Writer) (sl va n : Nat) : Option Nat × State :=
  if w.name.isNone then (some s.arrival, s) else s.admit1 (w.request sl va n)
/-- The request of an engine goes on; one that pays no tokens has taken its place in the order. -/
def State.engPass (s : State) (w : Writer) (sl va n : Nat) : State :=
  if w.name.isNone then s.nextArrival else s.pass (w.request sl va n)
/-- The request of an engine has arrived at its slice. -/
def State.engArrived (s : State) (w : Writer) (sl va n : Nat) : Bool :=
  (s.quay.waits ++ s.quay.paid).any (·.same (w.request sl va n))

/-- R367, R369: the host or the peer refuses the access: Unsupported Request, Completer Abort, or no such context. -/
def State.refused (s : State) (asid va n : Nat) : Bool := s.host.refuses.any (fun r => r.1 == asid && spansMeet va n r.2.1 r.2.2)

/-- R369, R280: the page at a peer that an engine's access finds absent: the number of the peer's die, base and size. -/
def State.peerAbsent (s : State) (asid dev va n : Nat) : Option (Nat × Nat × Nat) :=
  (s.host.absents.find? (fun r => r.1 == asid && r.2.1 == peerDie dev va && spansMeet (va % 2 ^ 48) n r.2.2.1 r.2.2.2)).map (·.2)

/-- A store of a core to some bytes of a context has left it, and is still to be performed: it is on its way, or parked, or has come back
with a fault (R197). -/
def Op.leftOver (p : Op) (core asid va n : Nat) : Bool :=
  p.inQ && p.kind.memory && !p.scr && p.seen != 0 && p.leftCores.contains core && p.asid == asid
  && p.els.any (fun f => f.open_ && spansMeet va n f.addr.toNat p.width)
/-- R256: what a crane has acquired may depend on a store of the core of its crew to these bytes, so that an access of a command does not
go out before it (R183); a row of a `vcpidx` waits for those on their way. -/
def State.crewStore (s : State) (w : Writer) (va n : Nat) : Bool :=
  w.crew != 0 && s.ops.any (fun p => p.leftOver (s.crew w.crew).core w.asid va n && (w.cmd != 0 || p.stage == .sent))

/-- R260: a write of a crane is visible to the gangs of its core, whose L1 takes the bytes. -/
def State.crewL1 (s : State) (w : Writer) (va : Nat) (bs : List Byte) : State :=
  if w.crew = 0 then s else s.l1Store (s.crew w.crew).core w.asid va bs

/-- The cause with which an engine's access of `n` bytes within a block fails (R266, R280, R367-R369); a write to a busy page parks
before it is translated (R292). -/
def State.engCause (s : State) (asid va n : Nat) (write : Bool) : Option Nat :=
  match homeOf va with
  | some (.die d) =>
    if write && (s.busyPage (busyKey asid d (va % 2 ^ 50))).isSome then none
    else if s.look asid d va write = .perm then some 7 else none
  | some .host => if s.refused asid va n then some 7 else none
  | some (.peer p) => if (s.portSet p va).isEmpty || s.refused asid va n then some 7 else none
  | _ => some 6

/-- A write of an engine: a store, or an add to a 64-bit word. It does not cross a 512-byte block. -/
def State.engWrite (s : State) (w : Writer) (va : Nat) (bs : List Byte) (add : Bool) : Eng × State :=
  let n := bs.length
  match homeOf va with
  | some .window =>
    if windowBad va || (add && !va.testBit 35) then (.trap 6, s)
    else if s.crewStore w va n then (.wait, s)
    else match s.winCause w.asid va n .raw32 with
      | some c => (.trap c, s)
      | none =>
        let b := engBytes add (s.winRead va n) bs
        (.done, if va.testBit 35 then s.scrStore (s.gang (winSlot va)).crew (bits va 20 0) b false
                else s.winWrite 0 va b)
  | some (.die d) =>
    let sl := d * 64 + sliceOf va
    if !s.engArrived w sl va n && s.crewStore w va n then (.wait, s)
    else match s.engAdmit w sl va n with
    | (none, s1) => (.wait, s1)
    | (some _, s0) =>
      if s0.fetching w.asid va n then (.wait, s0)
      else
        let s1 := s0.engPass w sl va n
        let key := busyKey w.asid d (va % 2 ^ 50)
        let park : Eng × State := (.parked, s1.parkWrite key ⟨w.crew, 0, w.cmd, va, bs, add, false, w.elem, 0⟩)
        if (s1.busyPage key).isSome then park
        else match s1.look w.asid d va true with
          | .absent b z => (.absent d b z, s1)
          | .perm => (.trap 7, s1)
          | .ok pa kind =>
            if kind = kCow then park
            else
              let b := engBytes add (s1.readPhys pa n) bs
              (.done, (s1.writePhys pa b).crewL1 w va b)
  | some h =>
    if s.crewStore w va n then (.wait, s)
    else
    match s.engCause w.asid va n true, h with
    | some c, _ => (.trap c, s)
    | none, .peer p =>
      (match s.peerAbsent w.asid p va n with
      | some x => (.absent x.1 x.2.1 x.2.2, s)
      | none =>
        let b := engBytes add (s.readPeer va n) bs
        (.done, (s.writePeer va b).crewL1 w va b))
    | none, _ =>
      let a := va % 2 ^ 50
      (.done, s.writeHost a (engBytes add (s.readHost a n) bs))
  | none => (.trap 6, s)

/-- A read of an engine within one 512-byte block, as a crane makes it: homes 24 and reserved ones have cause 0x06 (R266). -/
def State.engRead (s : State) (w : Writer) (va n : Nat) : Eng × List Byte × State :=
  match homeOf va with
  | some (.die d) =>
    let sl := d * 64 + sliceOf va
    if !s.engArrived w sl va n && s.crewStore w va n then (.wait, [], s)
    else match s.engAdmit w sl va n with
    | (none, s1) => (.wait, [], s1)
    | (some seen, s0) =>
      if s0.parkedOver (busyKey w.asid d (va % 2 ^ 50)) va n seen then (.wait, [], s0)
      else
        let s1 := s0.engPass w sl va n
        match s1.look w.asid d va false with
        | .absent b z => (.absent d b z, [], s1)
        | .perm => (.trap 7, [], s1)
        | .ok pa _ => (.done, s1.readPhys pa n, s1)
  | _ =>
    if s.crewStore w va n then (.wait, [], s)
    else match s.engCause w.asid va n false, homeOf va with
    | some c, _ => (.trap c, [], s)
    | none, some (.peer p) =>
      (match s.peerAbsent w.asid p va n with
      | some x => (.absent x.1 x.2.1 x.2.2, [], s)
      | none => (.done, s.readPeer va n, s))
    | none, _ => (.done, s.readHost (va % 2 ^ 50) n, s)

/-! ### The registers of BAR0 (Table 22-1) -/

/-- A register of a function by offset. -/
def State.barReg (s : State) (fn off : Nat) : Dword := Map.get 0 s.host.bar (fn * 2 ^ 23 + off)
def State.setBarReg (s : State) (fn off : Nat) (v : Dword) : State :=
  { s with host := { s.host with bar := Map.put 0 s.host.bar (fn * 2 ^ 23 + off) v } }

/-- The host's accesses are served: the device is powered, its bring-up is complete, and it is not in recovery mode
(R359, R371, R375). -/
def State.served (s : State) : Bool := s.powered && s.host.ready && !s.host.recovery

/-! ### Cause entries (R365, R366) -/

/-- Table 22-4. -/
def causeWord (evseq e part asid kind source : Nat) : Nat :=
  evseq % 2 ^ 64 * 2 ^ 64 + e % 2 ^ 24 * 2 ^ 40 + part % 16 * 2 ^ 36 + asid % 2 ^ 14 * 2 ^ 22 + kind % 64 * 2 ^ 16
  + source % 256 * 2 ^ 8

/-- The ring that an entry of kinds 1 to 3 answers for. -/
def lateKey (kind source asid : Nat) : Nat := if kind = 1 then source else 256 + asid

/-- An entry is written, and the interrupt raised; with a full table it is dropped, and its ring is noted. -/
def State.causeEntry (s : State) (kind source asid part evseq : Nat) : State :=
  let e := s.host.causeemit + 1
  if e ≤ s.host.causeseen + 4096 ∧ !s.host.causeover then
    let a := ((s.barReg 0 0x1000).toNat + 16 * ((e - 1) % 4096)) % 2 ^ 50
    let s1 := s.writeHost a (natLE 16 (causeWord evseq e part asid kind source))
    { s1 with host := { s1.host with causeemit := e, interrupts := s1.host.interrupts + 1 } }
  else
    let late := if 1 ≤ kind ∧ kind ≤ 3
      then Map.put none s.host.late (lateKey kind source asid) (some (kind + 64 * asid + 2 ^ 20 * source, part, evseq)) else s.host.late
    { s with host := { s.host with causeover := true, late := late } }

/-- A cause entry of a context. -/
def State.ctxCause (s : State) (kind source asid evseq : Nat) : State :=
  s.causeEntry kind source asid (s.ctxField asid 89 86) evseq

end Sys2Proof.Machine
end

