-- ==== Sys2Proof/Machine/Crane.lean ====
section
/-! DEFINITION. The cranes (spec 13): the ring and its entries, layout records, the events ENTRY_READ, COPY,
INDEX_LIST_COPY, FILL, PUTSIG, STREAM_TO_HEARTH, STAMP, COMMAND_COMPLETE and HELD_ELEMENT_PERFORM, and `vcpidx` with its
rows (R268). -/

namespace Sys2Proof.Machine

/-! ### Entries (Table 13-2) -/

/-- A field of an entry. -/
def CraneCmd.f (c : CraneCmd) (hi lo : Nat) : Nat := bits c.ent.toNat hi lo
def CraneCmd.addr (c : CraneCmd) : Nat := c.f 255 192
def CraneCmd.rec_ (c : CraneCmd) : Nat := c.f 191 160
def CraneCmd.scr (c : CraneCmd) : Nat := c.f 159 128
def CraneCmd.mem (c : CraneCmd) : Nat := c.f 127 64
def CraneCmd.aux (c : CraneCmd) : Nat := c.f 63 32
def CraneCmd.quad (c : CraneCmd) : Nat := c.f 23 22
def CraneCmd.poster (c : CraneCmd) : Nat := c.f 21 17
def CraneCmd.target (c : CraneCmd) : Nat := c.f 16 12
def CraneCmd.tag (c : CraneCmd) : Nat := c.f 11 10
def CraneCmd.defer (c : CraneCmd) : Bool := c.ent.getLsbD 9
def CraneCmd.out (c : CraneCmd) : Bool := c.ent.getLsbD 8
def CraneCmd.stamp (c : CraneCmd) : Bool := c.ent.getLsbD 7
def CraneCmd.kind (c : CraneCmd) : Nat := c.f 3 0
/-- R256: the sequence number. -/
def CraneCmd.seq (c : CraneCmd) : Nat := c.pos + 1
/-- R259: a landing command. -/
def CraneCmd.lands (c : CraneCmd) : Bool := decide (c.kind ≤ 2) && !c.out
/-- Every element has moved, and none is held. -/
def CraneCmd.moved (c : CraneCmd) : Bool := c.next == c.total && c.held.isEmpty

/-- Quadrant `q` of a core belongs to a partition (R360). -/
def State.owns (s : State) (core q part : Nat) : Bool :=
  let m := Map.get 0 s.harb.qmap core
  m.testBit (16 + q) && bits m (4 * q + 3) (4 * q) == part

/-- R261: the cause with which a bad entry is dropped, and the field that is misaligned. -/
def State.entryBad (s : State) (w : Crew) (c : CraneCmd) : Option (Nat × Nat) :=
  let k := c.kind
  if 6 ≤ k || c.f 31 24 != 0 || ((k == 0 || k == 5) && c.aux != 0) || 6 ≤ c.f 6 4
      || (c.defer && (!c.lands || decide ((if w.hasWatches then w.ngangs / 4 else w.ngangs) ≤ c.target)))
      || (k == 4 && !s.owns w.core c.quad (w.d 379 376))
      || ((k == 1 || k == 4 || k == 5) && c.out) || (k == 3 && (!c.out || c.stamp)) || (k == 5 && !c.stamp)
      || (k == 4 && (c.aux == 0 || c.aux % 4 != 0)) then some (1, 0)
  else if (c.stamp || k == 3) && c.addr % 8 != 0 then some (5, c.addr)
  else if k ≤ 3 && c.rec_ % 8 != 0 then some (5, c.rec_)
  else none

/-! ### Layout records (R262-R265) -/

/-- A field of a word of a record. -/
def recField (l : List Byte) (at_ hi lo : Nat) : Nat := bits (leNat ((l.drop at_).take 8)) hi lo
def recAxes (l : List Byte) : Nat := recField l 0 7 6 + 1
def recDims (l : List Byte) : Nat := recField l 0 5 3 + 1
def recZfill (l : List Byte) : Bool := recField l 0 8 8 == 1
/-- Element size in bytes. -/
def recElem (l : List Byte) : Nat := 2 ^ recField l 0 2 0
/-- The signed value of an n-bit field. -/
def sgn (n v : Nat) : Int := intVal true n v
def recOrigin (l : List Byte) (a : Nat) : Int := sgn 32 (recField l (16 + 16 * a) 63 32)
def recSize (l : List Byte) (a : Nat) : Nat := recField l (16 + 16 * a) 31 0
def recStride (l : List Byte) (a : Nat) : Int := sgn 64 (recField l (24 + 16 * a) 63 0)
def recDstride (l : List Byte) (k : Nat) : Int := sgn 32 (recField l (80 + 8 * k) 63 32)
def recInterval (l : List Byte) (k : Nat) : Int := sgn 14 (recField l (80 + 8 * k) 31 18)
def recAxis (l : List Byte) (k : Nat) : Nat := recField l (80 + 8 * k) 17 16
def recExtent (l : List Byte) (k : Nat) : Nat := recField l (80 + 8 * k) 15 0

/-- The number of elements. -/
def recTotal (l : List Byte) : Nat := ((List.range (recDims l)).map (recExtent l)).foldl (· * ·) 1

/-- R265: the cause with which the start of a command drops it, and `taddr`. -/
def recBad (w : Crew) (c : CraneCmd) (l : List Byte) : Option (Nat × Nat) :=
  if w.scrSize < c.rec_ + 136 then some (6, c.rec_)
  else if c.kind = 1 && decide (w.scrSize < c.aux + 4 * recExtent l 1) then some (6, c.aux)
  else if c.kind = 1 && c.aux % 4 != 0 then some (5, c.aux)
  else if recField l 0 63 9 != 0 || recField l 8 63 0 != 0 || 5 ≤ recField l 0 2 0 || recField l 0 5 3 == 7
      || (List.range (recDims l)).any (fun k => decide (recAxes l ≤ recAxis l k) || recExtent l k == 0)
      || (c.kind == 1 && recDims l < 2) then some (1, c.rec_)
  else none

/-- An element: its addresses, whether it lies inside the tensor, and whether its list entry is out of bounds. -/
structure RecElem where
  maddr  : Nat
  saddr  : Int
  inside : Bool
  oob    : Bool
  deriving DecidableEq, Repr

/-- The index of dimension k in element n. -/
def recIndex (l : List Byte) (n : Nat) : Nat → Nat
  | 0 => n % recExtent l 0
  | k + 1 => n / ((List.range (k + 1)).map (recExtent l)).foldl (· * ·) 1 % recExtent l (k + 1)

/-- R263. -/
def CraneCmd.elem (c : CraneCmd) (n : Nat) : RecElem :=
  let l := c.layout
  let idx := (List.range (recDims l)).map (recIndex l n)
  let ent := (c.list.getD (idx.getD 1 0) 0).toNat
  let coord (a : Nat) : Int :=
    if c.kind = 1 ∧ a = recAxis l 1 then recOrigin l a + ent
    else recOrigin l a + (idx.zipIdx.map (fun x => if recAxis l x.2 = a then (x.1 : Int) * recInterval l x.2 else 0)).foldl (· + ·) 0
  let axes := List.range (recAxes l)
  { maddr := (((c.mem : Int) + (axes.map (fun a => coord a * recStride l a)).foldl (· + ·) 0) % 2 ^ 64).toNat
    saddr := (c.scr : Int) + (idx.zipIdx.map (fun x => (x.1 : Int) * recDstride l x.2)).foldl (· + ·) 0
    inside := axes.all (fun a => decide (0 ≤ coord a) && decide (coord a < recSize l a))
    oob := c.kind == 1 && decide (recSize l (recAxis l 1) ≤ ent) }

/-! ### The ring of a crew -/

def State.setCmds (s : State) (c : Nat) (f : List CraneCmd → List CraneCmd) : State :=
  let w := s.crew c
  s.setCrew c { w with ring := { w.ring with cmds := f w.ring.cmds } }
def Crew.cmd (w : Crew) (pos : Nat) : Option CraneCmd := w.ring.cmds.find? (fun x => x.pos == pos)
def State.setCmd (s : State) (c : Nat) (x : CraneCmd) : State :=
  s.setCmds c (fun l => l.map (fun y => if y.pos = x.pos then x else y))
/-- A command leaves flight. -/
def State.endCmd (s : State) (c pos : Nat) : State := s.setCmds c (fun l => l.filter (fun y => y.pos != pos))

/-- R261: the slot of the gang that takes the traps of a command. -/
def State.posterSlot (s : State) (w : Crew) (x : CraneCmd) : Option Nat :=
  match w.slots[x.poster]? with
  | some k => if (s.gang k).phase = .running then some k else w.slots[0]?
  | none => w.slots[0]?

/-- A crane trap of the poster gang (R266). -/
def State.posterTrap (s : State) (c : Nat) (x : CraneCmd) (cause addr : Nat) : State :=
  match s.posterSlot (s.crew c) x with
  | some k => s.report k ⟨cause, true, false, 0, 0, 0, BitVec.ofNat 64 addr, 3, 0, 0⟩
  | none => s

/-- The writes of a command that are parked on busy pages are discarded; a page that only waits for a frame is busy no longer
without one. -/
def State.dropWrites (s : State) (c pos : Nat) : State :=
  let keep (w : ParkedWrite) : Bool := !(w.op == 0 && w.crew == c && w.el == pos + 1)
  let busy := s.quay.busy.map (fun (b : Busy) => { b with writes := b.writes.filter keep })
  { s with quay := { s.quay with busy := busy.filter (fun b => !(b.waiting && b.writes.isEmpty)) } }

/-- R266: a command is dropped: what it has not written by then it does not write. -/
def State.dropCmd (s : State) (c : Nat) (x : CraneCmd) : State :=
  let s1 := (s.endCmd c x.pos).dropWrites c x.pos
  let w := s1.crew c
  s1.setCrew c { w with ring := { w.ring with drops := w.ring.drops ++ [x.pos] } }

/-- A command that traps is dropped. -/
def State.failCmd (s : State) (c : Nat) (x : CraneCmd) (cause addr : Nat) : State :=
  (s.posterTrap c x cause addr).dropCmd c x

/-- R269: a fault of a command: the crew is registered on a page or pool, and a new registration posts a record of source 3. -/
def State.craneHeld (s : State) (c : Nat) (x : CraneCmd) (on : RegOn) (cause size va : Nat) (write : Bool) : State :=
  let w := s.crew c
  let r := s.register c on
  if !r.1 then s
  else
    let k := (s.posterSlot w x).getD 0
    let rec_ := { r.2.recordOf c k with
      pc := x.seq % 2 ^ 32, count := r.2.missing c, cause := cause, write := write, source := 3, size := sizeCode size, va := va }
    r.2.post w.asid rec_
/-- R269: an absent page of a command's access. -/
def State.craneFault (s : State) (c : Nat) (x : CraneCmd) (die base size va : Nat) (write : Bool) : State :=
  s.craneHeld c x (.page (s.crew c).asid die base size) 8 size va write

/-- The writer that a command is for an element at an address; its stamp or counter stands behind its last element. -/
def writerOf (w : Crew) (c : Nat) (x : CraneCmd) (n va : Nat) : Writer := ⟨w.asid, c, x.pos + 1, n, some (c, va)⟩

/-! ### ENTRY_READ (R257, R261, R265) -/

/-- The command that an entry starts, with its record and index list read whole (R263). -/
def Crew.startCmd (w : Crew) (pos : Nat) (ent : Nat) : CraneCmd :=
  let c : CraneCmd := ⟨pos, BitVec.ofNat 256 ent, [], [], 0, [], 0, [], false, false, 0⟩
  if c.kind ≤ 3 then
    let l := w.readScr c.rec_ 136
    let list := if c.kind = 1 then wordsOf (recExtent l 1) (w.readScr c.aux (4 * recExtent l 1)) else []
    { c with layout := l, list := list, total := recTotal l }
  else { c with total := if c.kind = 4 then c.aux else w.ring.stamps }

/-- ENTRY_READ, R257. The number `rel` tells the stores that had left the core by then (R183). -/
def execEntryRead (c : Nat) (s : State) : Res :=
  let w := s.crew c
  let p := w.ring.consumed
  if w.phase ≠ .resident ∨ w.ringLen = 0 ∨ w.ring.notify ≤ p ∨ 8 ≤ w.ring.cmds.length then .next s
  else
    let x : CraneCmd := { w.startCmd p (leNat (w.readScr (w.ringOff + 64 + 32 * (p % w.ringLen)) 32)) with rel := s.nextOp }
    let ring := { w.ring with consumed := p + 1, cmds := w.ring.cmds ++ [x], stamps := if x.kind = 5 then p + 1 else w.ring.stamps }
    let s1 := (s.setCrew c { w with ring := ring }).scrStore c (w.ringOff + 8) (natLE 8 (p + 1)) false
    match s.entryBad w x with
    | some (cause, a) => .next (s1.failCmd c x cause a)
    | none =>
      match (if x.kind ≤ 3 then recBad w x x.layout else none) with
      | some (cause, a) => .next (s1.failCmd c x cause a)
      | none => .next s1

/-! ### Elements -/

/-- The pattern of a fill (R264). -/
def fillBytes (aux n : Nat) : List Byte := (List.range n).map (fun j => (natLE 4 aux).getD (j % 4) 0)

/-- A write of an element into scratchpad. -/
def State.landElem (s : State) (c : Nat) (e : RecElem) (bs : List Byte) : State := s.scrStore c e.saddr.toNat bs false

/-- What a memory access of an element needs before it goes out (R266). -/
def memCause (maddr n : Nat) : Option Nat :=
  if maddr % n ≠ 0 then some 5
  else match homeOf maddr with
    | some .window => some 6
    | none => some 6
    | _ => none

/-- An element reaches beyond the crew's scratchpad (R266). -/
def scrBad (w : Crew) (x : CraneCmd) (e : RecElem) : Bool :=
  decide (e.saddr < 0) || decide ((w.scrSize : Int) < e.saddr + recElem x.layout)

/-- The cause with which an element fails, and the address that the trap names (R264, R266). Where several causes meet, the manual gives no
order: here an element that is outside with zfill 0 has the cause of that, with maddr, before it is checked against the scratchpad, and
one whose list entry is out of bounds has cause 0x14 though it is outside on another axis too (log 13). -/
def State.elemCause (s : State) (c : Nat) (x : CraneCmd) (n : Nat) : Option (Nat × Nat) :=
  let w := s.crew c
  let e := x.elem n
  let sa := (e.saddr % 2 ^ 64).toNat
  let far (write : Bool) : Option (Nat × Nat) :=
    match memCause e.maddr (recElem x.layout) with
    | some k => some (k, e.maddr)
    | none => (s.engCause w.asid e.maddr (recElem x.layout) write).map (·, e.maddr)
  if x.out then
    if !e.inside then none else if x.kind ≠ 2 ∧ scrBad w x e then some (6, sa) else far true
  else if x.kind ≠ 2 ∧ (e.oob || !e.inside) ∧ !recZfill x.layout then some (if e.oob then 0x14 else 6, e.maddr)
  else if scrBad w x e then some (6, sa)
  else if x.kind = 2 ∨ (e.oob || !e.inside) then none
  else far false

/-- One element of a command (R263, R264, R266): how it ends, the address that a trap or fault names, and the state. -/
def State.tryElem (s : State) (c : Nat) (x : CraneCmd) (n : Nat) : Eng × Nat × State :=
  let w := s.crew c
  let e := x.elem n
  let sz := recElem x.layout
  match s.elemCause c x n with
  | some (k, a) => (.trap k, a, s)
  | none =>
    if x.out then
      if !e.inside then (.done, 0, s)
      else
        let r := s.engWrite (writerOf w c x n e.maddr) e.maddr
          (if x.kind = 2 then fillBytes x.aux sz else w.readScr e.saddr.toNat sz) false
        (r.1, e.maddr, r.2)
    else if x.kind = 2 then (.done, 0, s.landElem c e (fillBytes x.aux sz))
    else if e.oob || !e.inside then (.done, 0, s.landElem c e (natLE sz 0))
    else
      let r := s.engRead (writerOf w c x n e.maddr) e.maddr sz
      match r.1 with
      | .done => (.done, 0, r.2.2.landElem c e r.2.1)
      | o => (o, e.maddr, r.2.2)

/-- The first element number from `n` on that is not listed. -/
def skipAhead (ahead : List Nat) : Nat → Nat → Nat
  | 0, n => n
  | k + 1, n => if ahead.contains n then skipAhead ahead k (n + 1) else n

/-- Element `n` has moved or is held. -/
def CraneCmd.move (x : CraneCmd) (n : Nat) : CraneCmd :=
  if n = x.next then
    let m := skipAhead x.ahead (x.ahead.length + 1) (n + 1)
    { x with next := m, ahead := x.ahead.filter (fun a => decide (m < a)) }
  else { x with ahead := x.ahead ++ [n] }

/-- Element `n` is still to be performed: it has not moved, or is held. -/
def CraneCmd.open_ (x : CraneCmd) (n : Nat) : Bool := (decide (x.next ≤ n) && !x.ahead.contains n) || x.held.contains n
/-- The lowest element that fails, up to element `n` (R266). -/
def State.lowestFail (s : State) (c : Nat) (x : CraneCmd) (n : Nat) : Option (Nat × Nat) :=
  ((List.range (n + 1)).filter x.open_).findSome? (s.elemCause c x)

/-- An element moves, parks, is held by a fault, or ends its command. -/
def State.moveElem (s : State) (c : Nat) (x : CraneCmd) (n : Nat) : State :=
  let r := s.tryElem c x n
  match r.1 with
  | .done => r.2.2.setCmd c (x.move n)
  | .parked => r.2.2.setCmd c (x.move n)
  | .absent d b z =>
    (r.2.2.craneFault c x d b z r.2.1 x.out).setCmd c { x.move n with held := x.held ++ [n] }
  | .trap k =>
    let f := (s.lowestFail c x n).getD (k, r.2.1)
    s.failCmd c x f.1 f.2
  | .wait => r.2.2

/-- An element event of a command of a kind. -/
def elemEvent (s : State) (c pos n kind : Nat) : Res :=
  let w := s.crew c
  match w.cmd pos with
  | none => .next s
  | some x =>
    if w.craneRuns && x.kind == kind && decide (x.next ≤ n) && decide (n < x.total) && !x.ahead.contains n
    then .next (s.moveElem c x n) else .next s

/-- COPY, R263. -/
def execCopy (c pos n : Nat) (s : State) : Res := elemEvent s c pos n 0
/-- INDEX_LIST_COPY, R263. -/
def execIndexListCopy (c pos n : Nat) (s : State) : Res := elemEvent s c pos n 1
/-- FILL, R264. -/
def execFill (c pos n : Nat) (s : State) : Res := elemEvent s c pos n 2

/-! ### Ends of commands (R260) -/

/-- A write of a command is parked on a busy page. -/
def State.cmdParked (s : State) (c pos : Nat) : Bool :=
  s.quay.busy.any (fun b => b.writes.any (fun w => w.crew == c && w.op == 0 && w.el == pos + 1))

/-- The scope of the stamp of an entry, or of the counter of a PUTSIG (Table 13-2). -/
def CraneCmd.scope (x : CraneCmd) : Scope := (Scope.ofCode (x.f 6 4)).getD .sys

/-- R11, R183: the stamp or counter of a command is a release at the entry's scope: at a scope of 3 or wider it waits until every store
that had left the core as the entry was read is acknowledged there; what the crane acquired through the notify word is among them. -/
def State.stampHeld (s : State) (c : Nat) (x : CraneCmd) : Bool := !s.cumulative (s.crew c).core x.rel x.scope

/-- The store or add at the entry's address: a stamp, or the counter of a PUTSIG. It waits for the stores before it, is sent, waits for a
page, or fails; a stamp that fails leaves the command complete, a counter that fails drops it. -/
def State.sendAddr (s : State) (c : Nat) (x : CraneCmd) (v : Nat) (add : Bool) : State :=
  let w := s.crew c
  if s.stampHeld c x then s
  else
  let r := s.engWrite (writerOf w c x x.total x.addr) x.addr (natLE 8 v) add
  match r.1 with
  | .done => r.2.setCmd c { x with counted := true, stamped := false }
  | .parked => r.2.setCmd c { x with counted := true, stamped := false }
  | .absent d b z => (r.2.craneFault c x d b z x.addr true).setCmd c { x with stamped := true }
  | .trap k => if add then s.failCmd c x k x.addr else (s.posterTrap c x k x.addr).endCmd c x.pos
  | .wait => r.2

/-- R260 step 1. -/
def State.cmdLand (s : State) (c : Nat) (x : CraneCmd) : State :=
  if x.lands && x.defer && !x.stamped then s.land c x.target x.tag else s

/-- A command whose elements have all moved and been performed ends: its landing, then its stamp. -/
def State.finish (s : State) (c : Nat) (x : CraneCmd) : State :=
  if x.counted then s.endCmd c x.pos
  else if x.kind = 3 then s.sendAddr c x x.aux true
  else
    let s1 := s.cmdLand c x
    if x.stamp then
      let s2 := s1.sendAddr c x x.seq false
      match (s2.crew c).cmd x.pos with
      | some y => if y.counted && !s2.cmdParked c x.pos then s2.endCmd c x.pos else if y = x then s.sendAddr c x x.seq false else s2
      | none => s2
    else s1.endCmd c x.pos

/-- PUTSIG, R259: an element of the put. -/
def execPutsig (c pos n : Nat) (s : State) : Res := elemEvent s c pos n 3

/-- STREAM_TO_HEARTH, R259, R260, R270: the next bytes enter the FIFO, as its room allows. -/
def execStreamToHearth (c pos : Nat) (s : State) : Res :=
  let w := s.crew c
  match w.cmd pos with
  | none => .next s
  | some x =>
    let q := fifoKey c x.quad
    let va := (x.mem + x.next) % 2 ^ 64
    let n := min (min (512 - (s.fifoOf q).length) (x.total - x.next)) (64 - va % 64)
    let earlier := w.ring.cmds.any (fun y => y.kind == 4 && y.quad == x.quad && decide (y.pos < pos))
    if !w.craneRuns || x.kind != 4 || earlier || !x.held.isEmpty || n == 0 then .next s
    else
      let r := s.engRead (writerOf w c x x.next va) va n
      match r.1 with
      | .done => .next ((r.2.2.setFifo q (s.fifoOf q ++ r.2.1)).setCmd c { x with next := x.next + n })
      | .parked => .next s
      | .absent d b z => .next ((r.2.2.craneFault c x d b z va false).setCmd c { x with held := [x.next] })
      | .trap k => .next (s.failCmd c x k va)
      | .wait => .next r.2.2

/-- STAMP, R260, R266: a kind-5 command writes its stamp or is dropped. -/
def execStamp (c pos : Nat) (s : State) : Res :=
  let w := s.crew c
  match w.cmd pos with
  | none => .next s
  | some x =>
    if !w.craneRuns || x.kind != 5 || x.stamped || w.ring.cmds.any (fun y => decide (y.pos < pos))
      || s.cmdParked c pos then .next s
    else if w.ring.drops.any (fun d => decide (x.total ≤ d) && decide (d < pos)) then .next (s.dropCmd c x)
    else .next (s.finish c x)

/-- COMMAND_COMPLETE, R260. -/
def execCommandComplete (c pos : Nat) (s : State) : Res :=
  let w := s.crew c
  match w.cmd pos with
  | none => .next s
  | some x =>
    if w.craneRuns && x.kind != 5 && x.moved && !x.stamped && !s.cmdParked c pos then .next (s.finish c x)
    else .next s

/-! ### `vcpidx` (R268) -/

/-- Row bytes and pitch. -/
def cpRow (f : LaneWord) : Nat := 4 * (f.x 9 0 + 1)
def cpPitch (f : LaneWord) : Nat := if (f.x 9 0 + 1) % 2 = 1 then cpRow f else cpRow f + 4

/-- The elements of a `vcpidx`: row address, and slot offset with whether the index is in bounds as data. -/
def cpEls (g : Gang) (f : LaneWord) : List El :=
  let n := f.vb.val
  let base := g.rp n
  let stride := (g.rs (n + 2)).setWidth 64
  laneEls (g.act f) (fun l => base + (g.rv f.va.val l).setWidth 64 * stride)
    (fun l => natLE 8 ((g.rs (n + 4)).toNat + l * cpPitch f)
      ++ [if (g.rv f.va.val l).toNat < (g.rs (n + 3)).toNat then 1 else 0])

/-- `vcpidx`, R268. An unaligned dst gives cause 0x05 where some lane acts; where none does, nothing moves, and the flag completes
at once (log 22). -/
def execVcpidx (f : LaneWord) (s : State) : Res :=
  let w := s.myCrew
  let slot (g : Gang) (l : Nat) : Nat := (g.rs (f.vb.val + 4)).toNat + l * cpPitch f
  laneMem s f ⟨[f.va.val], [], laneSReads (.vcpidx f), [], [(f.va.val, .n32)]⟩
    (fun g l => if slot g 0 % 4 ≠ 0 then some 5 else if w.scrSize < slot g l + cpRow f then some 6 else none)
    (fun g l => BitVec.ofNat 64 (slot g l))
    (fun g =>
      let els := cpEls g f
      { s.laneOp with kind := .gather f.opx34 (f.x 9 0 + 1) (if f.x 12 12 = 1 then some (f.x 11 10) else none),
                      scope := laneScope f, els := els, flag := g.attached f,
                      stage := if els.isEmpty then .ready else .sent })

/-- The bytes of a span of one block in the L1 of a core, where it holds every line of them (R153). -/
def State.l1Span (s : State) (core asid va n : Nat) : Option (List Byte) :=
  let lines := (List.range ((va % 128 + n + 127) / 128)).map (fun i => s.l1Find core asid (va / 128 * 128 + 128 * i))
  if lines.all Option.isSome then some ((((lines.filterMap id).flatMap L1Line.data).drop (va % 128)).take n) else none

/-- The bytes of a row, block by block (R290), from those already read on: from the core's L1 where the choice says that it serves
the read (scopes 0 to 2, R153), otherwise where they lie, once the core has room for the request (R6). -/
def State.rowRead (s : State) (o : Op) (i : Nat) (hit : Bool) : Nat → Nat → Nat → List Byte → Eng × List Byte × State
  | 0, _, _, bs => (.done, bs, s)
  | fuel + 1, va, n, bs =>
    if n = 0 then (.done, bs, s)
    else
      let m := min n (512 - va % 512)
      let r := match (if hit && decide (o.scope.code ≤ 2) then s.l1Span (s.coreOf o) o.asid va m else none) with
        | some l => (Eng.done, l, s)
        | none => if s.goesOut o [i] then s.engRead ⟨o.asid, o.crew, 0, i, some (o.id, i)⟩ va m else (.wait, [], s)
      match r.1 with
      | .done => r.2.2.rowRead o i hit fuel ((va + m) % 2 ^ 64) (n - m) (bs ++ r.2.1)
      | e => (e, bs, r.2.2)

/-- The rest of a row of `n` bytes whose first bytes `bs` have been read. -/
def State.rowRest (s : State) (o : Op) (i : Nat) (e : El) (hit : Bool) (n : Nat) (bs : List Byte) : Eng × List Byte × State :=
  s.rowRead o i hit (n / 512 + 2) ((e.addr.toNat + bs.length) % 2 ^ 64) (n - bs.length) bs

/-- One row of a `vcpidx`; what it has read when it waits is kept. -/
def State.rowAccess (s : State) (o : Op) (i : Nat) (e : El) (zf : Bool) (words : Nat) (hit : Bool) : State :=
  let n := 4 * words
  let slot := leNat (e.data.take 8)
  let inb : Bool := e.data.getD 8 0 == 1
  if !inb then
    if zf then (s.scrStore o.crew slot (natLE n 0) false).elDone o.id i [] else s.trapEl o.id i 0x14
  else match memCause e.addr.toNat 4 with
    | some c => s.trapEl o.id i c
    | none =>
      let r := s.rowRest o i e hit n e.res
      match r.1 with
      | .done => (r.2.2.scrStore o.crew slot r.2.1 false).elDone o.id i []
      | .absent d b z => r.2.2.faultEl o.id i 8 (.page o.asid d b z) z
      | .trap c => r.2.2.trapEl o.id i c
      | _ => r.2.2.setEl o.id i { e with res := r.2.1 }

/-- SLICE_ACCESS, R176: the element is admitted, translated and performed at its home slice; a row of a `vcpidx` is read
and lands (R268), and a line of a `vprf` is brought (R174). -/
def execSliceAccess (op el : Nat) (ch : Choice) (s : State) : Res :=
  match s.elAt op el with
  | some (o, e) =>
    (match homeOf e.addr.toNat with
    | some (.die d) => .next (s.dieAccess o el e d ch)
    | some (.peer p) => .next (s.peerAccess o el e p ch)
    | _ => .next s)
  | none =>
    match s.op op with
    | none => .next s
    | some o =>
      match o.kind, o.els[el]? with
      | .prf, some e => if o.stage == .sent && e.st == .todo then .next (s.prefetch o el e) else .next s
      | .gather zf n _, some e =>
        if o.stage == .sent && e.st == .todo && s.acqDone o.gang o.id && (s.crew o.crew).phase != .out then .next (s.rowAccess o el e zf n ch.l1Hit)
        else .next s
      | _, _ => .next s

/-! ### HELD_ELEMENT_PERFORM (R269) -/

/-- A crew is still registered on the page that a fault names. -/
def State.waitsOn (s : State) (c asid die base size : Nat) : Bool :=
  s.quay.regs.any (fun r => r.crew == c && r.on == .page asid die base size)

/-- The page of an access of a crew to a byte is still awaited: it would fault again on what the crew is registered for. -/
def State.addrWaits (s : State) (c va : Nat) (write : Bool) : Bool :=
  let asid := (s.crew c).asid
  match homeOf va with
  | some (.die d) => (match s.look asid d va write with | .absent b z => s.waitsOn c asid d b z | _ => false)
  | some (.peer p) => (match s.peerAbsent asid p va 1 with | some x => s.waitsOn c asid x.1 x.2.1 x.2.2 | none => false)
  | _ => false

/-- The first held element of a command whose page is awaited no more tries again: it moves, or is held anew; none of them fails. -/
def State.tryHeld (s : State) (c : Nat) (x : CraneCmd) : List Nat → State
  | [] => s
  | n :: ns =>
    if s.addrWaits c (x.elem n).maddr x.out then s.tryHeld c x ns
    else
      let r := s.tryElem c x n
      let y : CraneCmd := { x with held := x.held.filter (fun m => m != n) }
      match r.1 with
      | .done => r.2.2.setCmd c y
      | .parked => r.2.2.setCmd c y
      | .absent d b z => r.2.2.craneFault c x d b z r.2.1 x.out
      | .trap k => s.failCmd c x k r.2.1
      | .wait => if r.2.2 = s then s.tryHeld c x ns else r.2.2

/-- The held elements of a command: where one fails now, the lowest failing element of the command ends it (R266). -/
def State.retryHeld (s : State) (c : Nat) (x : CraneCmd) : State :=
  match (x.held.filter (fun n => (s.elemCause c x n).isSome)).head? with
  | none => s.tryHeld c x x.held
  | some n =>
    let f := (s.lowestFail c x n).getD (6, 0)
    s.failCmd c x f.1 f.2

/-- The first faulted row of a `vcpidx` that waits for no page any more is read again. -/
def State.tryRows (s : State) (o : Op) (zf : Bool) (n : Nat) : List (El × Nat) → State
  | [] => s
  | x :: xs =>
    let i := x.2
    let waits : Bool := match (s.rowRest o i x.1 false (4 * n) []).1 with
      | .absent d b z => s.waitsOn o.crew o.asid d b z
      | _ => false
    if x.1.st != .faulted || waits then s.tryRows o zf n xs
    else
      let e : El := { x.1 with st := .todo, res := [] }
      (s.setEl o.id i e).rowAccess o i e zf n false

/-- HELD_ELEMENT_PERFORM, R269: an element, stamp or counter of a ring command, or a row of the `vcpidx` with that
identity, is performed after its commit. -/
def execHeldElementPerform (c pos : Nat) (s : State) : Res :=
  let w := s.crew c
  if !w.craneRuns then .next s
  else match w.cmd pos with
  | some x =>
    if x.stamped then .next (if s.addrWaits c x.addr true then s else s.finish c x)
    else if x.kind = 4 then
      .next (if x.held.isEmpty || s.addrWaits c ((x.mem + x.next) % 2 ^ 64) false then s else s.setCmd c { x with held := [] })
    else .next (s.retryHeld c x)
  | none =>
    match s.op pos with
    | none => .next s
    | some o =>
      match o.kind with
      | .gather zf n _ => if o.crew = c then .next (s.tryRows o zf n o.els.zipIdx) else .next s
      | _ => .next s

end Sys2Proof.Machine
end

