-- ==== Sys2Proof/Machine/QuayCtl.lean ====
section
/-! DEFINITION. Frames and pools, shootdowns and notification, the frame instructions with PAGE_COMMIT, PAGE_DECOMMIT and
PAGE_QUERY, COPY_ON_WRITE and FRAME_SCRUB_DONE (spec 15). -/

namespace Sys2Proof.Machine

/-! ### Frames and pools (R275-R277, R284, R285) -/

def State.frame (s : State) (f : Nat) : Frame := Map.get Frame.hostHeld s.quay.frames f
def State.setFrame (s : State) (f : Nat) (x : Frame) : State :=
  { s with quay := { s.quay with frames := Map.put Frame.hostHeld s.quay.frames f x } }
def poolKey (asid die : Nat) : Nat := asid * 4 + die
def State.pool (s : State) (asid die : Nat) : Pool := Map.get ⟨[], []⟩ s.quay.pools (poolKey asid die)
def State.setPool (s : State) (asid die : Nat) (p : Pool) : State :=
  { s with quay := { s.quay with pools := Map.put ⟨[], []⟩ s.quay.pools (poolKey asid die) p } }

/-- R275: the die that owns a frame number. -/
def frameDie (f : Nat) : Nat := f / 2 ^ 22
/-- R275: a frame number names a frame of its die. -/
def frameOk (f : Nat) : Bool := decide (f < 2 ^ 24) && decide (f % 2 ^ 22 < 3145728)

/-- R284: a frame is pushed onto the pool that its asid names: it waits to be scrubbed. -/
def State.pushFrame (s : State) (f : Nat) : State :=
  let x := s.frame f
  let p := s.pool x.asid (frameDie f)
  (s.setFrame f { x with state := 1, count := 0, next := 0 }).setPool x.asid (frameDie f) { p with scrub := p.scrub ++ [f] }

/-- R277: a reference of a frame ends; whether the frame was pushed. -/
def State.unref (s : State) (f : Nat) : Bool × State :=
  let x := s.frame f
  if x.count ≤ 1 then (true, s.pushFrame f) else (false, s.setFrame f { x with count := x.count - 1 })

/-- R284: the head of a pool's free list leaves it, in use with count 1. -/
def State.popFrame (s : State) (asid die : Nat) : Option (Nat × State) :=
  let p := s.pool asid die
  match p.free with
  | [] => none
  | f :: rest => some (f, (s.setFrame f ⟨2, asid, 0, 1⟩).setPool asid die { p with free := rest })

/-- R284: a scrubbed frame is linked at the tail of the free list. -/
def State.linkFree (s : State) (asid die f : Nat) : State :=
  let p := s.pool asid die
  let s1 := match p.free.getLast? with
    | some t => s.setFrame t { s.frame t with next := f }
    | none => s
  (s1.setFrame f ⟨0, asid, 0, 0⟩).setPool asid die { p with free := p.free ++ [f] }

/-- Bytes of a frame. -/
def frameBase (f : Nat) : Nat := f * 65536
/-- The copy unit zeroes a frame. -/
def State.zeroFrame (s : State) (f : Nat) : State :=
  { s with quay := { s.quay with mem := s.quay.mem.filter (fun e => !(decide (frameBase f ≤ e.1) && decide (e.1 < frameBase f + 65536))) } }
/-- The copy unit copies a frame. -/
def State.copyFrame (s : State) (src dst : Nat) : State :=
  let s1 := s.zeroFrame dst
  let es := s.quay.mem.filter (fun e => decide (frameBase src ≤ e.1) && decide (e.1 < frameBase src + 65536))
  { s1 with quay := { s1.quay with mem := es.foldl (fun m e => Map.put 0 m (e.1 - frameBase src + frameBase dst) e.2) s1.quay.mem } }

/-- R285: a frame has become free in a pool (dies from 4 on are those of peers): its waiting crews are notified and its waiting copies go on. -/
def State.poolNotify (s : State) (asid die : Nat) : State :=
  let s1 := s.unregister (fun r => r.on == .pool asid die)
  if 4 ≤ die then s1
  else { s1 with quay := { s1.quay with busy := s1.quay.busy.map (fun b =>
      if b.key / 2 ^ 34 = poolKey asid die then { b with waiting := false } else b) } }

/-- The pages of a peer's die that the crews of a context await are committed there: the crews are notified (R200), and engines find none
of them absent any more. -/
def State.peerNotify (s : State) (asid die : Nat) : State :=
  let s1 := s.unregister (fun r => match r.on with | .page a d _ _ => a == asid && d == die | _ => false)
  { s1 with host := { s1.host with absents := s1.host.absents.filter (fun r => !(r.1 == asid && r.2.1 == die)) } }

/-- FRAME_SCRUB_DONE, R284. A die from 4 on is one of a peer (log 25): only its notifications reach this device, of its pool and of its
pages. -/
def execFrameScrubDone (asid die : Nat) (s : State) : Res :=
  if 4 ≤ die then .next ((s.poolNotify asid die).peerNotify asid die)
  else
  let p := s.pool asid die
  match p.scrub with
  | [] => .next s
  | f :: rest =>
    .next ((((s.zeroFrame f).setPool asid die { p with scrub := rest }).linkFree asid die f).poolNotify asid die)

/-! ### Changes of a page (R282, R200) -/

/-- A PTE is written at its place. -/
def State.setPte (s : State) (at_ e : Nat) : State := s.writePhys at_ (natLE 8 e)

/-- R287: faulted berths of a page are retried. -/
def State.notifyBerths (s : State) (asid die base size : Nat) : State :=
  { s with quay := { s.quay with berths := s.quay.berths.map (fun e =>
      let b := e.2
      if b.st == .faulted && b.cause == 8 && b.asid == asid && b.addr / 2 ^ 50 == die
          && spansMeet b.page.1 b.page.2 base size then (e.1, { b with st := .pending, retry := true }) else e) } }

/-- R200, R287: crews registered on a page that the committed page overlaps are notified, and faulted berths of the page
are retried. -/
def State.notifyPage (s : State) (asid die base size : Nat) : State :=
  (s.unregister (fun r => match r.on with
    | .page a d b z => a == asid && d == die && spansMeet b z base size
    | _ => false)).notifyBerths asid die base size

/-! ### The frame instructions (R286) -/

/-- An operand byte address of a page: homes 0-3 and 64-127 only. -/
def pageCause (va : Dword) : Option Nat :=
  match homeOf va.toNat with
  | some (.die _) => none
  | some (.peer _) => none
  | _ => some 6

/-- `pcommit`, `pdecommit` and `pquery` as they issue. -/
def pageOp (s : State) (kind : OpKind) (dst : Dst) (sa : Pair) (ord : Order) : Res :=
  scalarMem s (pr sa) dst.sregs 8 (fun g => [(pageCause (g.rp (ev sa)), g.rp (ev sa))])
    (fun g => { s.baseOp with kind := kind, inQ := true, stage := .queued, scope := .die, ord := ord,
                              mask := ordMask ord, els := [el1 (g.rp (ev sa)) []], dst := dst })

/-- `pcommit`, R287. -/
def execPcommit (tr : Bool) (sd : SReg) (sa : Pair) (s : State) : Res := pageOp s (.pcommit tr) (.sreg sd.val) sa .rlx
/-- `pdecommit`, R289: a release at die scope of every colour. -/
def execPdecommit (sd : SReg) (sa : Pair) (s : State) : Res := pageOp s .pdecommit (.sreg sd.val) sa .rel
/-- `pquery`, R288. -/
def execPquery (pool : Bool) (sd sa : Pair) (s : State) : Res := pageOp s (.pquery pool) (.pair (ev sd)) sa .rlx

/-- R283: the control slice of a page, numbered over the device. -/
def ctlSlice (die va : Nat) : Nat := die * 64 + bits va 21 16

def OpKind.commits : OpKind → Bool
  | .pcommit _ => true
  | _ => false

/-- An entry of the control slice that stands next of its core (R177, R283). The `pcommit`s of a gang take frames of one pool in
the order of its queue: R339 fixes the frames of three of them to three control slices (log 25). -/
def State.pageTurn (s : State) (o : Op) (e : El) : Bool :=
  o.stage == .sent && e.st == .todo
  && !s.ops.any (fun p => p.kind.pages && p.stage == .sent && s.homeCore p == s.homeCore o
      && decide (p.left < o.left) && p.els.any (fun f => f.st == .todo
        && f.addr.toNat / 2 ^ 50 == e.addr.toNat / 2 ^ 50 && (bits f.addr.toNat 21 16 == bits e.addr.toNat 21 16
          || (p.gang == o.gang && p.kind.commits && o.kind.commits))))

/-- A result of a frame instruction. -/
def State.pageDone (s : State) (o : Op) (bytes v : Nat) : State := s.elDone o.id 0 (natLE bytes v)

/-- The words of Table 15-5: no leaf, with the busy bit; or a leaf, of any kind at 64 KB and normal at a larger size, whose frame is
one of a die (R275), with its count, and neither for a sparse-reserved one. -/
def leafWord (f c size kind : Nat) (r w busy : Bool) : Nat :=
  let sparse := kind == kSparse
  (if sparse then 0 else (f / 2 ^ 22 % 4 * 2 ^ 22 + f % 2 ^ 22 % 3145728) * 2 ^ 40 + c % 2 ^ 24 * 2 ^ 16) + size % 3 * 2 ^ 14
    + kind % 4 * 2 ^ 12 + 2 ^ 11 + b1 r * 2 ^ 10 + b1 w * 2 ^ 9 + b1 busy * 2 ^ 8

/-- A word of Table 15-5 for the page of a peer, from two free words. -/
def peerWord (x y : Word) : Nat :=
  if x.getLsbD 31 then 3 * 2 ^ 14 + b1 (x.getLsbD 30) * 2 ^ 8
  else
    let size := bits x.toNat 29 28 % 3
    leafWord (bits x.toNat 23 0) (bits y.toNat 23 0) size (if size = 0 then bits y.toNat 25 24 else kNormal) (y.getLsbD 26) (y.getLsbD 27)
      (x.getLsbD 30)

/-- A page of a peer is committed by this device: the crews that await it are notified (R200). -/
def State.peerCommit (s : State) (asid dev va : Nat) : State :=
  let b := peerSpan va 3
  let s1 := s.notifyPage asid (peerDie dev va) b.1 b.2
  { s1 with host := { s1.host with absents := s1.host.absents.filter (fun r =>
      !(r.1 == asid && r.2.1 == peerDie dev va && spansMeet b.1 b.2 r.2.2.1 r.2.2.2)) } }

/-- What a peer answers to a frame instruction is not known here: one of the results that the instruction has, the pool-empty fault
of a `pcommit`, or cause 0x07 for a malformed table or a missing context there (R286-R289, R369, log 25). -/
def State.peerPage (s : State) (o : Op) (dev va bytes : Nat) : State :=
  let t := s.useFree 4
  let v := (s.free 0).toNat + 2 ^ 32 * (s.free 1).toNat
  let pick (l : List Nat) : Nat := l.getD ((s.free 2).toNat % l.length) 0
  if (s.portSet dev va true).isEmpty || (s.free 3).getLsbD 0 then t.trapEl o.id 0 7
  else match o.kind with
    | .pcommit tr =>
      let r := pick [0, 1, 2, 3]
      if r = 2 ∧ !tr then t.faultEl o.id 0 0x0F (.pool o.asid (peerDie dev va)) 65536
      else (if r = 0 then t.peerCommit o.asid dev va else t).pageDone o bytes r
    | .pdecommit => t.pageDone o bytes (pick [0, 1, 3, 4])
    | .pquery true => t.pageDone o bytes (v % 2 ^ 48)
    | _ => t.pageDone o bytes (peerWord (s.free 0) (s.free 1))

/-- The page of this device that an access of an operation lies in. -/
def pageKeyOf (o : Op) (e : El) : Option Nat :=
  match homeOf e.addr.toNat with
  | some (.die d) => some (busyKey o.asid d (e.addr.toNat % 2 ^ 50))
  | _ => none

/-- R283: a frame instruction for a page which reached the page's control slice before place `seen` of the order of arrival is still to
be performed. -/
def State.pageBefore (s : State) (key seen : Nat) : Bool :=
  (s.quay.waits ++ s.quay.paid).any (fun w => w.cmd == 0 && decide (w.seen < seen) && s.waiterLive w
    && (match s.op w.who with
      | some p => p.kind.pages && (p.els.head?.bind (pageKeyOf p)) == some key
      | none => false))

/-- R283: the place at which the copy-on-write of a busy page reached the control slice: that of its first write. -/
def Busy.place (b : Busy) : Nat := (b.writes.head?.map ParkedWrite.at_).getD 0

/-- R283, R282: a frame instruction that stands at place `seen` waits for those of its page that arrived before it; one that changes the
page also waits for a copy-on-write that arrived before it, and for accesses that hold the page's translation. -/
def State.pageWaits (s : State) (key seen : Nat) (query : Bool) : Bool :=
  s.pageBefore key seen
  || (!query && (s.midAtomic key || (match s.busyPage key with | some b => decide (b.place < seen) | none => false)))

/-- A frame instruction at the control slice of its page: `k` acts on the die, the walked offset and the walk. -/
def pageEvent (op : Nat) (s : State) (sel : OpKind → Bool) (bytes : Nat)
    (k : State → Op → Nat → Nat → Walk → State) : Res :=
  match s.op op with
  | none => .next s
  | some o =>
    match o.els with
    | e :: _ =>
      let va := e.addr.toNat
      if !sel o.kind || !s.pageTurn o e then .next s
      else match homeOf va with
        | some (.die d) =>
          let off := va % 2 ^ 50
          let key := busyKey o.asid d off
          let w : Waiter := ⟨ctlSlice d va, o.asid, o.id, 0, 0, 1, 0⟩
          (match s.admit1 w with
          | (none, t) => .next t
          | (some seen, t) =>
            if t.pageWaits key seen (match o.kind with | .pquery _ => true | _ => false) then .next t
            else
              let u := t.pass w
              .next (k u o d off (u.walk o.asid d off)))
        | some (.peer p) => .next (s.peerPage o p va bytes)
        | _ => .next s
    | [] => .next s

/-- The commit of a page at its control slice, R287. -/
def State.commitPage (s : State) (o : Op) (d off : Nat) (w : Walk) : State :=
  match w with
  | .bad => s.trapEl o.id 0 7
  | .absent _ => s.pageDone o 4 3
  | .leaf l e at_ =>
    if l = 3 ∧ (pteKind e = kNormal ∨ pteKind e = kPooled) then s.pageDone o 4 1
    else if l ≠ 3 ∨ pteKind e ≠ kSparse then s.pageDone o 4 3
    else match s.popFrame o.asid d with
      | none => if o.kind == .pcommit true then s.pageDone o 4 2 else s.faultEl o.id 0 0x0F (.pool o.asid d) 65536
      | some (f, s1) =>
        let base := off / 65536 * 65536
        ((((s1.setPte at_ (mkLeaf kPooled true true f)).shoot o.asid d base 65536).notifyPage o.asid d base 65536).pageDone o 4 0)

/-- PAGE_COMMIT, R287. -/
def execPageCommit (op : Nat) (s : State) : Res :=
  pageEvent op s OpKind.commits 4 (fun s o d off w => s.commitPage o d off w)

/-- The decommit of a page at its control slice, R289. -/
def State.decommitPage (s : State) (o : Op) (d off : Nat) (w : Walk) : State :=
  match w with
  | .bad => s.trapEl o.id 0 7
  | .absent _ => s.pageDone o 4 3
  | .leaf l e at_ =>
    if l ≠ 3 then s.pageDone o 4 3
    else if pteKind e = kSparse then s.pageDone o 4 1
    else if pteKind e ≠ kPooled then s.pageDone o 4 3
    else
      let s1 := (s.setPte at_ (mkLeaf kSparse (pteR e) (pteW e) 0)).shoot o.asid d (off / 65536 * 65536) 65536
      let r := s1.unref (pteFrame e)
      r.2.pageDone o 4 (if r.1 then 0 else 4)

/-- PAGE_DECOMMIT, R289. -/
def execPageDecommit (op : Nat) (s : State) : Res :=
  pageEvent op s (· == .pdecommit) 4 (fun s o d off w => s.decommitPage o d off w)

/-- Table 15-5. -/
def State.queryWord (s : State) (asid d off : Nat) (w : Walk) : Nat :=
  let busy := b1 (s.busyPage (busyKey asid d off)).isSome * 2 ^ 8
  match w with
  | .leaf l e _ =>
    let f := if pteKind e = kSparse then 0 else pteFrame e
    let c := if pteKind e = kSparse then 0 else (s.frame f).count
    f * 2 ^ 40 + c * 2 ^ 16 + (3 - l) * 2 ^ 14 + pteKind e * 2 ^ 12 + 2 ^ 11 + b1 (pteR e) * 2 ^ 10 + b1 (pteW e) * 2 ^ 9 + busy
  | _ => 3 * 2 ^ 14 + busy

/-- PAGE_QUERY, R288. -/
def execPageQuery (op : Nat) (s : State) : Res :=
  pageEvent op s (fun k => match k with | .pquery _ => true | _ => false) 8
    (fun s o d off w =>
      if o.kind == .pquery true then
        let p := s.pool o.asid d
        s.pageDone o 8 (p.free.length + p.scrub.length * 2 ^ 24)
      else match w with
        | .bad => s.trapEl o.id 0 7
        | w => s.pageDone o 8 (s.queryWord o.asid d off w))

/-! ### COPY_ON_WRITE (R291-R293) -/

/-- The page is busy no longer. -/
def State.endBusy (s : State) (key : Nat) : State :=
  { s with quay := { s.quay with busy := s.quay.busy.filter (fun b => b.key != key) } }

/-- A parked write is performed in the page's frame; the L1 of a crane's core takes its bytes (R260). -/
def State.performParked (s : State) (pa : Nat) (w : ParkedWrite) : State :=
  if w.op = 0 then
    let b := engBytes w.add (s.readPhys pa w.data.length) w.data
    let s1 := s.writePhys pa b
    if w.crew = 0 then s1 else s1.l1Store (s.crew w.crew).core (s.crew w.crew).asid w.va b
  else match s.op w.op with
    | none => s
    | some o => match o.els[w.el]? with
      | some e => s.writeAt o w.el e pa
      | none => s

/-- A parked write of a crane command that finds its page absent is held in the crane (R260, R269): an element, the stamp or the counter. -/
def State.holdCmd (s : State) (w : ParkedWrite) (die base size : Nat) : State :=
  match (s.crew w.crew).cmd (w.el - 1) with
  | none => s
  | some x =>
    let s1 := s.craneFault w.crew x die base size w.va true
    if x.total ≤ w.elem then s1.setCmd w.crew { x with counted := false, stamped := true }
    else s1.setCmd w.crew { x with held := x.held ++ [w.elem] }

/-- A write whose crew has stopped meanwhile (R193). The stamp of a redeem that outlives its crew is none (log 25). -/
def State.orphaned (s : State) (w : ParkedWrite) : Bool :=
  w.crew != 0 && (s.crew w.crew).phase == .ended && !(s.op w.op).any (fun o => o.kind.redeems)
/-- A write of a crew that is gone is discarded, and no release waits for it any more (R183). -/
def State.dropOrphan (s : State) (id : Nat) : State :=
  match s.op id with
  | some o => (s.dropOp id).settleOf o
  | none => s

/-- R266: where an element of a command fails as the writes of a page are translated again, the lowest failing one names the cause:
of those of the command that were parked on the page, `ws`, and those that it has still to move. -/
def State.parkedFail (s : State) (w : ParkedWrite) (x : CraneCmd) (ws : List ParkedWrite) : Nat × Nat :=
  let first := (ws.filter (fun v => v.op == 0 && v.crew == w.crew && v.el == w.el)).foldl (fun m v => if v.elem < m.elem then v else m) w
  (s.lowestFail w.crew x first.elem).getD (7, first.va)

/-- A parked write of an engine or of the host is translated again (R293): it is performed, parks as if it reached its slice now,
faults or traps. -/
def State.retryEng (s : State) (asid d : Nat) (ws : List ParkedWrite) (w : ParkedWrite) : State :=
  match s.look asid d w.va true with
  | .ok pa kind =>
    if kind = kCow then s.parkWrite (busyKey asid d (w.va % 2 ^ 50)) w else s.performParked pa w
  | .absent b z => if w.el = 0 then (if w.host then s else s.stampLost asid w.va w.data) else s.holdCmd w d b z
  | .perm =>
    if w.el = 0 then (if w.host then s else s.stampLost asid w.va w.data)
    else match (s.crew w.crew).cmd (w.el - 1) with
      | some x =>
        if decide (x.total ≤ w.elem) && x.stamp then (s.posterTrap w.crew x 7 w.va).endCmd w.crew x.pos
        else
          let f := s.parkedFail w x ws
          s.failCmd w.crew x f.1 f.2
      | none => s

/-- A parked write is translated again (R293): it is performed, parks, faults or traps; one of a crew that is gone comes to nothing
where it is not performed (R193). -/
def State.retryParked (s : State) (asid d : Nat) (ws : List ParkedWrite) (w : ParkedWrite) : State :=
  if w.op = 0 then s.retryEng asid d ws w
  else match s.op w.op with
    | none => s
    | some o => match o.els[w.el]? with
      | some e =>
        let tr := s.look asid d w.va true
        (match s.orphaned w, tr with
        | true, .absent _ _ => s.dropOrphan o.id
        | true, .perm => s.dropOrphan o.id
        | _, _ => s.writeTr o w.el e d tr)
      | none => s

/-- R201, R293: the record of a crew's first write parked on a page that meets an empty pool, and its registration. -/
def State.cowFault (s : State) (asid d : Nat) (w : ParkedWrite) : State :=
  let r := s.register w.crew (.pool asid d)
  let base : FaultRec := match r.2.op w.op with
    | some o => (match o.els[w.el]? with
      | some e => r.2.elRecord o e
      | none => r.2.recordOf w.crew o.gang)
    | none => r.2.recordOf w.crew 0
  r.2.post asid { base with cause := 0x0F, write := true, source := 4, size := 0, va := w.va, count := r.2.missing w.crew }

/-- The first parked write of each crew. -/
def firstWrites : List ParkedWrite → List Nat → List ParkedWrite
  | [], _ => []
  | w :: ws, seen => if w.crew = 0 ∨ w.crew ∈ seen then firstWrites ws seen else w :: firstWrites ws (w.crew :: seen)

/-- A parked write of a crane command. -/
def ParkedWrite.ofCrane (w : ParkedWrite) : Bool := w.op == 0 && w.el != 0

/-- R197: the destinations of an atomic whose write waits for a frame are marked faulted. -/
def State.markWaiting (s : State) (w : ParkedWrite) : State :=
  match s.op w.op with
  | some o =>
    if o.kind.atomic && (s.crew o.crew).phase != .ended then
      let g := s.gang o.gang
      let new (l rs : List Nat) : List Nat := l ++ rs.filter (fun r => r != 0 && !l.contains r)
      s.setGang o.gang { g with sfault := new g.sfault o.dst.sregs, vfault := g.vfault ++ o.vregs.filter (fun r => !g.vfault.contains r) }
    else s
  | none => s

/-- The record of a crew whose writes on a page that meets an empty pool are all of its crane: that of a pool-empty fault on an element or
stamp (R260, R269). -/
def State.craneWait (s : State) (asid d : Nat) (w : ParkedWrite) : State :=
  match (s.crew w.crew).cmd (w.el - 1) with
  | some x => s.craneHeld w.crew x (.pool asid d) 0x0F 65536 w.va true
  | none => s

/-- R293: the sequence meets an empty pool. A write of the host, and one of a crew that is gone, is discarded (R291, R193); every other one
stays parked until a frame comes, and each crew is registered on the pool, with one record: of source 4 for the first write of its gangs,
and of source 3 where only its crane has writes there (R260, R269; log 22). -/
def State.cowWait (s : State) (asid d : Nat) (b : Busy) : State :=
  let ws := b.writes.filter (fun w => !w.host && !s.orphaned w)
  let live := ws.filter (fun w => (s.crew w.crew).phase != .ended)
  let s0 := (b.writes.filter s.orphaned).foldl (fun t w => t.dropOrphan w.op) s
  let s1 := (firstWrites (live.filter (fun w => !w.ofCrane)) []).foldl (fun t w => t.cowFault asid d w) s0
  let s2 := (firstWrites live []).foldl (fun t w => if w.ofCrane then t.craneWait asid d w else t) s1
  let s3 := live.foldl State.markWaiting s2
  if ws = [] then s3.endBusy b.key
  else { s3 with quay := { s3.quay with busy := s3.quay.busy.map (fun x =>
    if x.key == b.key then { b with writes := ws, waiting := true } else x) } }

/-- The parked writes of a page are performed in order of arrival. -/
def State.performAll (s : State) (pa : Nat) (b : Busy) : State :=
  b.writes.foldl (fun s w => s.performParked (pa + w.va % 65536) w) (s.endBusy b.key)

/-- COPY_ON_WRITE, R293: the copy unit of a die takes its pages in order of arrival (R292), after the frame instructions of the page that
arrived before it (R283), and the shootdown waits for accesses that hold the page's translation (R282). The copy is one event, so a write that races it is whole before it or whole after it: of the
bytes that R294 lets a copy take from before such a write and from after it, the model never mixes any (log 36). -/
def execCopyOnWrite (page : Nat) (s : State) : Res :=
  match s.busyPage page with
  | none => .next s
  | some b =>
    let pk := page / 2 ^ 34
    let asid := pk / 4
    let d := pk % 4
    let off := page % 2 ^ 34 * 65536
    let turn := s.quay.busy.find? (fun x => !x.waiting && x.key / 2 ^ 34 % 4 == d)
    if turn.map Busy.key ≠ some page ∨ s.midAtomic page ∨ s.pageBefore page b.place then .next s
    else match s.walk asid d off with
      | .leaf 3 e at_ =>
        if pteKind e ≠ kCow then .next (b.writes.foldl (fun s w => s.retryParked asid d b.writes w) (s.endBusy page))
        else
          let old := pteFrame e
          let c := (s.frame old).count
          if c = 1 then
            .next (((s.setPte at_ (e - kCow * 2 ^ 60 + kPooled * 2 ^ 60)).shoot asid d off 65536).performAll (frameBase old) b)
          else match s.popFrame asid d with
            | none => .next (s.cowWait asid d b)
            | some (f, s1) =>
              let s2 := ((s1.copyFrame old f).setPte at_ (mkLeaf kPooled true true f)).shoot asid d off 65536
              let s3 := if 1 < c then s2.setFrame old { s2.frame old with count := c - 1 } else s2
              .next (s3.performAll (frameBase f) b)
      | _ => .next (b.writes.foldl (fun s w => s.retryParked asid d b.writes w) (s.endBusy page))

end Sys2Proof.Machine
end

