-- ==== Sys2Proof/Machine/Tickets.lean ====
section
/-! DEFINITION. Tickets and berths (spec 16, 17 R314, R316): the ticket instructions and the events BERTH_ACCEPT,
FETCH_LAND, FETCH_FAULT, REDEEM_AT_SLICE, REDEEM_DELIVERY, BERTH_DROP, BERTH_STATUS and LEVEL_RECLAIM. A berth is keyed by
(die * 64 + slice) * 2048 + berth. -/

namespace Sys2Proof.Machine

/-! ### Tickets (R298, R299) -/

def tkKey (t : Nat) : Nat := bits t 63 56 * 2048 + bits t 55 45
def tkGen (t : Nat) : Nat := bits t 44 29
def tkAsid (t : Nat) : Nat := bits t 28 15
/-- The bytes that a ticket delivers. -/
def tkLen (t : Nat) : Nat := 32 * (bits t 14 11 + 1)

/-- The check byte of bits [63:8] at a slice. -/
def State.tkCheck (s : State) (hi : Nat) : Byte :=
  Config.checkByte s.resets (bits hi 55 54) (bits hi 53 48) (BitVec.ofNat 56 hi)

/-- The ticket word of a berth. -/
def State.ticket (s : State) (key gen asid sectors life : Nat) : Nat :=
  let hi := key / 2048 * 2 ^ 48 + key % 2048 * 2 ^ 37 + gen * 2 ^ 21 + asid * 2 ^ 7 + sectors * 2 ^ 3 + life
  hi * 2 ^ 8 + (s.tkCheck hi).toNat

/-- R299. -/
def State.tkInvalid (s : State) (t : Nat) : Bool :=
  (s.tkCheck (t / 2 ^ 8)).toNat != t % 2 ^ 8 || tkGen t == 0 || decide (3 < bits t 10 8)

/-! ### Berths -/

def State.berth (s : State) (key : Nat) : Berth := Map.get Berth.init s.quay.berths key
def State.setBerth (s : State) (key : Nat) (b : Berth) : State :=
  { s with quay := { s.quay with berths := Map.put Berth.init s.quay.berths key b } }
/-- R299: the generation after this one. -/
def nextGen (g : Nat) : Nat := if g = 65535 then 1 else g + 1
/-- R311: the fetch of a berth is no open load of its issuer any more. -/
def State.fetchEnded (s : State) (key : Nat) : State :=
  ((s.gangs.filter (fun e => e.2.landing.any (fun x => x.2.1 == key))).map (·.1)).foldl (fun t k =>
    let g := t.gang k
    (t.setGang k { g with landing := g.landing.filter (fun x => x.2.1 != key) }).settleFences k) s
/-- A berth frees. -/
def State.freeBerth (s : State) (key : Nat) : State :=
  (s.setBerth key { Berth.init with gen := nextGen (s.berth key).gen }).fetchEnded key
/-- Table 16-2: a berth is let go; while its fetch is pending it frees only when the fetch ends. -/
def State.letGo (s : State) (key : Nat) : State :=
  let b := s.berth key
  if b.st = .pending then s.setBerth key { b with dropped := true, claim := .none } else s.freeBerth key

/-- R304 item 3, but for claims. -/
def Berth.stale (b : Berth) (t : Nat) : Bool :=
  b.st == .free || b.dropped || b.asid != tkAsid t || b.gen != tkGen t
def Claim.held : Claim → Bool
  | .none => false
  | _ => true

/-- Table 16-2: the claims of a crew that stops. -/
def State.dropClaims (s : State) (c : Nat) : State :=
  (s.quay.berths.map (·.1)).foldl (fun s k =>
    match (s.berth k).claim with
    | .waiting id => if (s.op id).any (fun o => o.crew == c) then s.letGo k else s
    | .faulted id => if (s.op id).any (fun o => o.crew == c) then s.letGo k else s
    | .none => s) s

/-! ### Issue -/

/-- R303. -/
def fetchCause (n : Nat) (va : Dword) : Option Nat :=
  if va.toNat % 32 ≠ 0 ∨ 512 < va.toNat % 512 + n then some 5
  else match homeOf va.toNat with
    | some (.die _) => none
    | _ => some 6

/-- `fetchk`, R303. -/
def execFetchk (tr : Bool) (sectors : Fin 16) (life : Level) (sd sa : Pair) (s : State) : Res :=
  let n := 32 * (sectors.val + 1)
  let a (g : Gang) : Dword := g.rp (ev sa)
  scalarMem s (pr sa) (pr sd) 8 (fun g => [(fetchCause n (a g), a g)])
    (fun g => { s.baseOp with kind := .fetchk tr sectors.val life, inQ := true, stage := .queued, width := n,
                              els := [el1 (a g) []], dst := .pair (ev sd) })

/-- `kdrop`, R309. -/
def execKdrop (sa : Pair) (s : State) : Res :=
  scalarMem s (pr sa) [] 8 (fun _ => []) (fun g => { s.baseOp with kind := .kdrop, els := [el1 (g.rp (ev sa)) []] })

/-- `kstat`, R308. -/
def execKstat (sd : SReg) (sa : Pair) (s : State) : Res :=
  scalarMem s (pr sa) [sd.val] 8 (fun _ => [])
    (fun g => { s.baseOp with kind := .kstat, els := [el1 (g.rp (ev sa)) []], dst := .sreg sd.val })

/-- `sredeem`, R306: element 0 is the delivery, element 1 the stamp. -/
def execSredeem (tr : Bool) (sc : Scope) (sd off : SReg) (sa sb : Pair) (s : State) : Res :=
  let w := s.myCrew
  let tk (g : Gang) : Dword := g.rp (ev sa)
  let st (g : Gang) : Dword := g.rp (ev sb)
  let o (g : Gang) : Dword := (g.rs off.val).setWidth 64
  scalarMem s (pr sa ++ pr sb ++ [off.val]) (if tr then [sd.val] else []) 8
    (fun g => [(if (o g).toNat % 32 ≠ 0 then some 5 else none, o g), (addrCause 8 (st g), st g),
               (if w.scrSize < (o g).toNat + tkLen (tk g).toNat then some 6 else none, o g)])
    (fun g => { s.baseOp with kind := .sredeem tr, scope := sc, width := 8, arg := [g.rs off.val],
                              els := [el1 (tk g) [], ⟨1, st g, natLE 8 (tk g).toNat, .todo, []⟩],
                              dst := if tr then .sreg sd.val else .none })

/-- R305: a window address that a remote delivery may name. -/
def remoteBad (a : Nat) : Bool :=
  homeOf a != some .window || a.testBit 35 || windowBad a || bits a 9 0 != 0 || decide (252 < bits a 17 10)

/-- `vredeem` of both forms: `own` are the registers that it fills, `win` the window pair. Words of `arg`: the ticket, the
status register, the live lanes, the window address. A redeem is not ordered by the acquires before it (R312). -/
def redeemGo (s : State) (f : LaneWord) (i : Instr) (remote : Bool) : Res :=
  let tr := f.opx34
  let own := if remote then [] else regs f.vd.val 4
  let wr := own ++ (if tr then [f.vc.val] else [])
  laneGoIf s false s.me.live ⟨[], wr, laneSReads i, [], []⟩ (fun s =>
    let g := s.me
    let win := if remote then g.rp (f.x 6 0) else 0
    if remote && remoteBad win.toNat then .next (s.laneTrap 6 g.live win)
    else
      let n := f.vb.val
      let o := { s.laneOp with kind := .vredeem tr remote, els := [el1 (g.rp n) []],
                               arg := [g.rs n, g.rs (n + 1), BitVec.ofNat 32 f.vc.val, g.live, win.setWidth 32,
                                       (win >>> 32).setWidth 32],
                               dst := .vreg f.vd.val (if remote then 0 else 4) (laneTy f), flag := g.attached f }
      .next (s.laneEnter o wr))

/-- `vredeem`, own form, R305. -/
def execVredeem (f : LaneWord) (s : State) : Res := redeemGo s f (.vredeem f) false
/-- `vredeem`, remote form, R305. -/
def execVredeemRemote (f : LaneWord) (s : State) : Res := redeemGo s f (.vredeemRemote f) true

/-! ### BERTH_ACCEPT (R301, R303, R310) -/

/-- The level id of a launch descriptor. -/
def Crew.levelId (w : Crew) (lvl : Nat) : Nat :=
  match lvl with
  | 0 => w.launchId | 1 => w.d 463 448 | 2 => w.d 479 464 | _ => w.d 495 480
/-- R346: the level at whose completion a berth of a lifetime is reclaimed. -/
def Crew.lifeOf (w : Crew) (lvl : Nat) : Nat × Nat :=
  if lvl = 0 then (0, w.launchId)
  else match ([1, 2, 3].filter (fun l => decide (lvl ≤ l))).find? (fun l => w.levelId l != 0) with
    | some l => (l, w.levelId l)
    | none => (0, w.launchId)

/-- A context may take a berth of a slice. -/
def State.quotaOk (s : State) (sl asid : Nat) : Bool :=
  decide ((s.quay.berths.filter (fun e => e.1 / 2048 == sl && e.2.st != .free && e.2.asid == asid)).length
    < s.ctxField asid 116 106 + 1)
/-- The lowest-numbered FREE berth of a slice. -/
def State.freeSlot (s : State) (sl : Nat) : Option Nat :=
  ((List.range 2048).find? (fun b => (s.berth (sl * 2048 + b)).st == .free)).map (sl * 2048 + ·)

/-- The slice of the device that an address of homes 0-3 names. -/
def slOf (va : Nat) : Nat := va / 2 ^ 50 * 64 + sliceOf va

/-- A fetch that arrived earlier goes first: one of the same context, or one that only waits for a FREE berth. -/
def State.fetchBefore (s : State) (o : Op) (sl : Nat) : Bool :=
  (s.quay.fetches.takeWhile (· != o.id)).any (fun id => match s.op id with
    | some p => (match p.els with
      | f :: _ => slOf f.addr.toNat == sl && (p.asid == o.asid || s.quotaOk sl p.asid)
      | [] => false)
    | none => false)

/-- BERTH_ACCEPT, R301, R303; the gang's fences and releases wait for the fetch to land (R311). -/
def execBerthAccept (op : Nat) (s : State) : Res :=
  match s.op op with
  | none => .next s
  | some o =>
    match o.kind, o.els with
    | .fetchk tr n life, e :: _ =>
      let va := e.addr.toNat
      let sl := slOf va
      if o.stage != .sent || e.st != .todo || !s.acqDone o.gang o.id || s.fifoBlocked o e o.left then .next s
      else
        let w : Waiter := ⟨sl, o.asid, o.id, 0, 0, units va o.width, 0⟩
        match s.admit1 w with
        | (none, s0) => .next s0
        | (some seen, s0) =>
          match (if s0.quotaOk sl o.asid && !s0.fetchBefore o sl then s0.freeSlot sl else none) with
          | none =>
            if tr then .next ((s0.pass w).elDone op 0 (natLE 8 0))
            else if s0.quay.fetches.contains op then .next s0
            else .next { s0 with quay := { s0.quay with fetches := s0.quay.fetches ++ [op] } }
          | some key =>
            let s1 := s0.pass w
            let lv := (s.crew o.crew).lifeOf life.code
            let gen := (s.berth key).gen
            let b : Berth := ⟨.pending, .none, gen, o.asid, lv.1, lv.2, va, o.width, 0, [], false, false, (0, 0), seen⟩
            let g := s1.gang o.gang
            let s2 := ((s1.setBerth key b).setGang o.gang { g with landing := g.landing ++ [(o.id, key, gen)] }).elDone op 0 (natLE 8 (s.ticket key gen o.asid n life.code))
            .next { s2 with quay := { s2.quay with fetches := s2.quay.fetches.filter (· != op) } }
    | _, _ => .next s

/-! ### Faulted redeems (R307, R314) -/

/-- A redeem traps with the address that `taddr` takes: its stamp is given up. -/
def State.redeemTrapAt (s : State) (id cause : Nat) (a : Option Dword) : State :=
  match s.op id with
  | none => s
  | some o =>
    let g := s.gang o.gang
    let s1 := s.setGang o.gang { g with log := g.log.filter (· != id) }
    (s1.setOp { o with els := o.els.map (fun (e : El) =>
      if e.lane = 0 then { e with st := .trapped, res := [BitVec.ofNat 8 cause], addr := a.getD e.addr }
      else { e with st := .dropped }) }).settleOp id
/-- A redeem traps: `taddr` is its ticket. -/
def State.redeemTrap (s : State) (id cause : Nat) : State := s.redeemTrapAt id cause none

/-- The crew of an operation has ended: nobody waits for its registers or its scratchpad any more. -/
def State.goneCrew (s : State) (o : Op) : Bool := (s.crew o.crew).phase == .ended

/-- A redeem gives up what it has still to do. -/
def State.giveUp (s : State) (o : Op) : State :=
  (s.setOp { o with els := o.els.map (fun (e : El) => { e with st := .dropped }) }).settleOp o.id

/-- R307: a redeem becomes a faulted access; its claim is one outstanding item of its crew, with a record of source 2. A redeem of a crew
that has ended is given up, and leaves the berth unclaimed (log 25). -/
def State.redeemFault (s : State) (id key : Nat) : State :=
  match s.op id with
  | none => s
  | some o =>
    let b := s.berth key
    if s.goneCrew o then (s.setBerth key { b with claim := .none }).giveUp o
    else
    let r := s.register o.crew (.berth key)
    let s1 := r.2
    let s2 := if r.1 then s1.post o.asid { s1.recordOf o.crew o.gang with
        pc := o.recPc, count := s1.missing o.crew, cause := 8, source := 2, size := (b.data.getD 0 0).toNat, va := b.addr }
      else s1
    (s2.setOp { o with els := o.els.map (fun (e : El) =>
      if e.lane = 0 then { e with st := .faulted, res := [8, b.data.getD 0 0] } else e) })

/-- Data reach a redeem: they wait at its element for delivery. -/
def State.giveData (s : State) (id : Nat) (bs : List Byte) : State :=
  match s.op id with
  | none => s
  | some o => s.setOp { o with els := o.els.map (fun (e : El) => if e.lane = 0 then { e with data := bs } else e) }

/-! ### FETCH_LAND and FETCH_FAULT (R300, R314) -/

/-- The outcome of a pending fetch now: none while it waits for parked writes (R291) or for tokens (R295). -/
def State.fetchNow (s : State) (key : Nat) : Option Tr × State :=
  let b := s.berth key
  let d := b.addr / 2 ^ 50
  let w : Waiter := ⟨key / 2048, b.asid, key, retryCmd, 0, units b.addr b.len, 0⟩
  if b.st ≠ .pending then (none, s)
  else match (if b.retry then s.admit1 w else (some b.seen, s)) with
    | (none, t) => (none, t)
    | (some seen, t) =>
      if t.parkedOver (busyKey b.asid d (b.addr % 2 ^ 50)) b.addr b.len seen then (none, t)
      else
        let u := if b.retry then t.pass w else t
        (some (u.look b.asid d b.addr false), u)

/-- R177, R311: a fetch is a load of the gang that issued it, so that as it lands the lines that its core holds take the bytes of memory. -/
def State.fetchFresh (s : State) (key pa : Nat) : State :=
  let b := s.berth key
  let by_ := s.gangs.filter (fun e => e.2.landing.any (fun x => x.2 == (key, b.gen)))
  (by_.map (fun e => s.coreOfGang e.1)).foldl (fun t c =>
    (List.range ((b.addr % 128 + b.len + 127) / 128)).foldl (fun u i =>
      u.l1Fresh c b.asid (b.addr / 128 * 128 + 128 * i) (u.readPhys (pa / 128 * 128 + 128 * i) 128)) t) s

/-- FETCH_LAND, R300. -/
def execFetchLand (key : Nat) (s : State) : Res :=
  match s.fetchNow key with
  | (none, s1) => .next s1
  | (some (.ok pa _), s0) =>
    let b := s.berth key
    let data := s.readPhys pa b.len
    let s1 := s0.fetchFresh key pa
    if b.dropped then .next (s1.freeBerth key)
    else match b.claim with
      | .none => .next ((s1.setBerth key { b with st := .landed, data := data, retry := false }).fetchEnded key)
      | .waiting id => .next ((s1.freeBerth key).giveData id data)
      | .faulted _ => .next (((s1.setBerth key { b with st := .landed, data := data, retry := false }).fetchEnded key).unregister (fun r => r.on == .berth key))
  | _ => .next s

/-- FETCH_FAULT, R314. -/
def execFetchFault (key : Nat) (s : State) : Res :=
  match s.fetchNow key with
  | (none, s1) => .next s1
  | (some (.ok _ _), _) => .next s
  | (some tr, s1) =>
    let b := s.berth key
    if b.dropped then .next (s1.freeBerth key)
    else match tr, b.claim with
      | .absent pg z, .waiting id =>
        .next (((s1.setBerth key { b with st := .faulted, cause := 8, data := [BitVec.ofNat 8 (sizeCode z)], page := (pg, z),
                                          claim := .faulted id }).fetchEnded key).redeemFault id key)
      | .absent pg z, _ =>
        .next ((s1.setBerth key { b with st := .faulted, cause := 8, data := [BitVec.ofNat 8 (sizeCode z)], page := (pg, z) }).fetchEnded key)
      | _, .none => .next ((s1.setBerth key { b with st := .faulted, cause := 7, data := [] }).fetchEnded key)
      | _, .waiting id => .next ((s1.freeBerth key).redeemTrapAt id 7 (some (BitVec.ofNat 64 b.addr)))
      | _, .faulted id => .next (((s1.freeBerth key).unregister (fun r => r.on == .berth key)).redeemTrapAt id 7 (some (BitVec.ofNat 64 b.addr)))

/-! ### REDEEM_AT_SLICE (R304, R307) -/

/-- A `.try` form. -/
def OpKind.isTry : OpKind → Bool
  | .sredeem t => t
  | .vredeem t _ => t
  | _ => false

/-- The status register of a `vredeem.try` (R305). -/
def State.putStatus (s : State) (o : Op) (v : Nat) : State :=
  match o.kind with
  | .vredeem true _ =>
    if s.goneCrew o then s else
    let g := s.gang o.gang
    let r := (o.arg.getD 2 0).toNat
    s.setGang o.gang ((g.wvs r g.live (fun _ => BitVec.ofNat 32 v)).setTag r .n32)
  | _ => s

/-- A redeem that ends with a status and delivers nothing. -/
def State.redeemStatus (s : State) (o : Op) (v : Nat) : State :=
  ((s.putStatus o v).setOp { o with els := o.els.map (fun (e : El) =>
    if e.lane = 0 then { e with st := .done, res := natLE 4 v } else { e with st := .dropped }) }).settleOp o.id

def OpKind.isRedeem : OpKind → Bool
  | .sredeem _ => true
  | .vredeem _ _ => true
  | _ => false

/-- An operation that stands at the slice of its ticket: the operation, its ticket and the berth's key. -/
def State.atSlice (s : State) (op : Nat) (sel : OpKind → Bool) : Option (Op × Nat) :=
  match s.op op with
  | none => none
  | some o =>
    match o.els with
    | e :: _ => if sel o.kind && o.stage == .sent && e.st == .todo && e.data.isEmpty then some (o, e.addr.toNat) else none
    | [] => none

/-- The request of a ticket operation at the slice of its ticket. -/
def tkWaiter (o : Op) (t : Nat) : Waiter := ⟨bits t 63 56, o.asid, o.id, 0, 0, 1, 0⟩

/-- REDEEM_AT_SLICE, R304, R307; the request goes out as its core has room for it (R6), and costs a token (R295). A redeem whose claim
waits has nothing to ask. -/
def execRedeemAtSlice (op : Nat) (s : State) : Res :=
  match s.atSlice op OpKind.isRedeem with
  | none => .next s
  | some (o, t) =>
    if (s.berth (tkKey t)).claim = .waiting op ∨ !s.goesOut o [0] then .next s
    else match s.admitted (tkWaiter o t) with
    | (false, s) => .next s
    | (true, s) =>
    let key := tkKey t
    let b := s.berth key
    if s.tkInvalid t then .next (s.redeemTrap op 0x0A)
    else if tkAsid t ≠ o.asid then .next (s.redeemTrap op 0x0C)
    else if b.claim = .faulted op then
      (match b.st with
      | .landed => .next ((s.freeBerth key).giveData op b.data)
      | .pending => .next (s.setBerth key { b with claim := .waiting op })
      | _ => .next (s.redeemFault op key))
    else if b.stale t || b.claim.held then
      .next (if o.kind.isTry then s.redeemStatus o 2 else s.redeemTrap op 0x0B)
    else match b.st with
      | .pending => .next (s.setBerth key { b with claim := .waiting op })
      | .landed => .next ((s.freeBerth key).giveData op b.data)
      | _ =>
        if o.kind.isTry then .next (s.redeemStatus o 1)
        else if b.cause = 8 then .next ((s.setBerth key { b with claim := .faulted op }).redeemFault op key)
        else .next ((s.freeBerth key).redeemTrapAt op 7 (some (BitVec.ofNat 64 b.addr)))

/-! ### REDEEM_DELIVERY (R305, R306) -/

/-- Word `l` of register `j` of the delivered data. -/
def dataWord (bs : List Byte) (j l : Nat) : Word := BitVec.ofNat 32 (leNat ((bs.drop (128 * j + 4 * l)).take 4))
/-- Four registers take the data in the live lanes. -/
def Gang.deliver (g : Gang) (r : Nat) (bs : List Byte) : Gang :=
  (List.range 4).foldl (fun (g : Gang) j => g.wvs (r + j) g.live (dataWord bs j)) g

/-- The window address of a remote redeem. -/
def Op.window (o : Op) : Nat := (o.arg.getD 4 0).toNat + 2 ^ 32 * (o.arg.getD 5 0).toNat

/-- R305: the cause that the named core finds. -/
def State.remoteCause (s : State) (o : Op) (t : Ty) : Option Nat :=
  let va := o.window
  let g := s.gang (winSlot va)
  let r := bits va 17 10
  if g.phase = .absent ∨ (s.crew g.crew).asid ≠ o.asid then some 9
  else if 64 + 64 * g.blocks < r + 4 then some 4
  else if t ≠ .raw32 ∧ (List.range 4).any (fun j => g.tag (r + j) != t) then some 3
  else none

/-- A redeem whose registers are written. -/
def State.redeemed (s : State) (o : Op) : State := (s.putStatus o 0).elDone o.id 0 (natLE 4 0)

/-- The stamp store of `sredeem`: by its home as any store (R306), once its core has room for it (R6). -/
def State.stampStore (s : State) (o : Op) (e : El) : State :=
  if !s.goesOut o [1] then s
  else match homeOf e.addr.toNat with
  | some (.die d) =>
    let w : Waiter := ⟨slOf e.addr.toNat, o.asid, o.id, 0, 1, 1, 0⟩
    (match s.admit1 w with
    | (none, t) => t
    | (some _, t) =>
      if t.fetching o.asid e.addr.toNat 8 then t
      else (t.pass w).writeTr o 1 e d ((t.pass w).look o.asid d e.addr.toNat true))
  | _ =>
    let r := s.engWrite ⟨o.asid, o.crew, 0, 0, none⟩ e.addr.toNat e.data false
    match r.1 with
    | .trap c => s.trapEl o.id 1 c
    | .absent d b z => r.2.faultEl o.id 1 8 (.page o.asid d b z) z
    | .wait => r.2
    | _ => r.2.elDone o.id 1 []

/-- REDEEM_DELIVERY, R305, R306. A redeem that its crew's end has outlived delivers to no register and no scratchpad of that crew; what it
delivers to another gang, and its stamp, stand (log 25). -/
def execRedeemDelivery (op : Nat) (s : State) : Res :=
  match s.op op with
  | none => .next s
  | some o =>
    match o.kind, o.els with
    | .vredeem _ remote, e :: _ =>
      if o.stage != .sent || e.st != .todo || e.data.isEmpty then .next s
      else
        match o.dst with
        | .vreg r _ t =>
          if remote then
            match s.remoteCause o t with
            | some c => .next (s.redeemTrapAt op c (some (BitVec.ofNat 64 o.window)))
            | none =>
              let k := winSlot o.window
              let rr := bits o.window 17 10
              .next ((((s.taint k (regs rr 4)).setGang k ((s.gang k).deliver rr e.data))).redeemed o)
          else if s.goneCrew o then .next (s.redeemed o)
          else
            let g := (s.gang o.gang).deliver r e.data
            .next ((s.setGang o.gang ((regs r 4).foldl (fun (g : Gang) x => g.setTag x t) g)).redeemed o)
        | _ => .next s
    | .sredeem _, [e, f] =>
      if o.stage != .sent then .next s
      else if e.st == .todo then
        if e.data.isEmpty then .next s
        else
          let t := if s.goneCrew o then s else s.scrStore o.crew (o.arg.getD 0 0).toNat e.data false
          .next (t.elDone op 0 (natLE 4 0))
      else if e.st == .done && f.st == .todo then .next (s.stampStore o f) else .next s
    | _, _ => .next s

/-! ### BERTH_DROP and BERTH_STATUS (R308, R309) -/

/-- Items 1 and 2 of R304. -/
def State.ticketCause (s : State) (o : Op) (t : Nat) : Option Nat :=
  if s.tkInvalid t then some 0x0A else if tkAsid t ≠ o.asid then some 0x0C else none

/-- BERTH_DROP, R309; the request goes out as its core has room (R6), and costs a token (R295). -/
def execBerthDrop (op : Nat) (s : State) : Res :=
  match s.atSlice op (· == .kdrop) with
  | none => .next s
  | some (o, t) =>
    if !s.goesOut o [0] then .next s
    else match s.admitted (tkWaiter o t) with
    | (false, s) => .next s
    | (true, s) =>
    match s.ticketCause o t with
    | some c => .next (s.trapEl op 0 c)
    | none =>
      let b := s.berth (tkKey t)
      .next ((if b.stale t || b.claim.held then s else s.letGo (tkKey t)).elDone op 0 [])

/-- BERTH_STATUS, R308; the request goes out as its core has room (R6), and costs a token (R295). -/
def execBerthStatus (op : Nat) (s : State) : Res :=
  match s.atSlice op (· == .kstat) with
  | none => .next s
  | some (o, t) =>
    if !s.goesOut o [0] then .next s
    else match s.admitted (tkWaiter o t) with
    | (false, s) => .next s
    | (true, s) =>
    match s.ticketCause o t with
    | some c => .next (s.trapEl op 0 c)
    | none =>
      let b := s.berth (tkKey t)
      let v := if b.stale t then 0
        else (match b.st with | .pending => 1 | .landed => 2 | .faulted => 3 | .free => 0)
          + b1 b.claim.held * 8 + (if b.st = .faulted then b.cause * 256 else 0)
      .next (s.elDone op 0 (natLE 4 v))

end Sys2Proof.Machine
end

