-- ==== Sys2Proof/Machine/Harbour.lean ====
section
/-! DEFINITION. The harbour master (spec 20): descriptors and their checks, `slaunch`, `jcount`, `jcancel`, levels, and the
events SLIPWAY_POST, LAUNCH_ELIGIBLE, LEVEL_RECLAIM, LEVEL_COMPLETE and CREW_PLACE. -/

namespace Sys2Proof.Machine

/-! ### Launch descriptors (Table 20-2) -/

def dGangs (d : BitVec 512) : Nat := descF d 324 320 + 1
def dWatch (d : BitVec 512) : Bool := descF d 338 338 == 1
def dPart (d : BitVec 512) : Nat := descF d 379 376
def dScratch (d : BitVec 512) : Nat := 256 * descF d 352 340
def dScalar (d : BitVec 512) : Nat := 256 * descF d 271 256
def dCrews (d : BitVec 512) : Nat := descF d 319 288
def dStamp (d : BitVec 512) : Nat := descF d 191 128
/-- The crew count is read from memory. -/
def dCm (d : BitVec 512) : Bool := descF d 339 339 == 1
/-- Co-residence (R97). -/
def dCores (d : BitVec 512) : Bool := descF d 496 496 == 1

/-- The area of a ring: header and entries (R255). -/
def ringEnd (d : BitVec 512) : Nat := 64 * descF d 366 353 + 64 + 32 * 2 ^ descF d 370 367

/-- A code offset that Table 20-3 calls malformed. -/
def dOffBad (d : BitVec 512) (v : Nat) : Bool := v % 4 != 0 || decide (dScalar d ≤ v)

/-- Status 2 of Table 20-3. -/
def descBad (d : BitVec 512) : Bool :=
  let rl := descF d 370 367
  let code := descF d 63 0
  let handler := descF d 255 224
  descF d 511 501 != 0 || descF d 383 380 != 0
  || rl == 1 || rl == 2 || decide (10 < rl)
  || descF d 352 340 == 0 || decide (5120 < descF d 352 340)
  || descF d 271 256 == 0 || descF d 287 272 == 0
  || descF d 337 336 == 3 || decide (8 < descF d 335 332)
  || (if dCm d then dCrews d % 4 != 0 else decide (2 ^ 24 < dCrews d))
  || code % 256 != 0 || decide (2 ^ 52 ≤ code)
  || dStamp d % 8 != 0
  || dOffBad d (descF d 223 192) || (handler != 0xFFFFFFFF && dOffBad d handler)
  || (if rl = 0 then descF d 366 353 != 0 else decide (dScratch d < ringEnd d))

/-! ### Shapes and cores (R74, R75, R341, R350) -/

/-- What a crew needs of a core: its watches, blocks and tiles gang by gang, scratchpad and energy class. -/
structure Shape where
  watch   : Bool
  blocks  : List Nat
  tiles   : List Nat
  scratch : Nat
  eclass  : Nat
  deriving DecidableEq, Repr

def Shape.gangs (h : Shape) : Nat := h.blocks.length

/-- The shape of a crew that a descriptor asks for. -/
def dShape (d : BitVec 512) : Shape :=
  ⟨dWatch d, List.replicate (dGangs d) (descF d 331 330), List.replicate (dGangs d) (descF d 335 332), dScratch d,
   descF d 373 371⟩

/-- R350. -/
def energyWeight (c : Nat) : Nat := [1, 2, 3, 4, 6, 8, 12, 16].getD c 16

/-- The core keys in ascending die and core number: 48 cores of each die. -/
def coreList : List Nat := (List.range 192).map (fun c => c / 48 * 64 + c % 48)

def State.ownedQuads (s : State) (core part : Nat) : List Nat := (List.range 4).filter (fun q => s.owns core q part)
/-- The cores on which a partition owns quadrants. -/
def State.partCores (s : State) (part : Nat) : List Nat := coreList.filter (fun c => !(s.ownedQuads c part).isEmpty)
/-- R341, R360: the size of a scratchpad quarter of a core. -/
def State.quarter (s : State) (core : Nat) : Nat := (Map.get 0 s.harb.split core + 1) * 65536
/-- The crews that hold room on a core. -/
def State.crewsOn (s : State) (core : Nat) : List Crew :=
  (s.crews.filter (fun e => e.2.core == core && e.2.craneRuns)).map (·.2)

/-- A span of a core's scratchpad is free and lies in one run of quarters that the partition owns (R341). -/
def State.spanOk (s : State) (core part n a : Nat) : Bool :=
  let q := s.quarter core
  decide (a + n ≤ 4 * q)
  && (List.range 4).all (fun i => !spansMeet a n (i * q) q || s.owns core i part)
  && (s.crewsOn core).all (fun w => !spansMeet a n w.scratchBase w.scrSize)

/-- R341: the lowest offset at which such a span starts. -/
def State.scratchSpot (s : State) (core part n : Nat) : Option Nat :=
  let starts := (List.range 4).map (· * s.quarter core) ++ (s.crewsOn core).map (fun w => w.scratchBase + w.scrSize)
  (starts.filter (s.spanOk core part n)).min?

/-- The free slots of a quadrant of a core. -/
def State.freeSlots (s : State) (core q : Nat) : List Nat :=
  ((List.range 16).map (core * 64 + q * 16 + ·)).filter (fun k => (s.gang k).phase == .absent)

/-- R74: gang g sits in quadrant q(g mod m); it takes the lowest free slot there. -/
def State.seats (s : State) (core : Nat) (qs : List Nat) (n : Nat) : Option (List Nat) :=
  (List.range n).mapM (fun g => (s.freeSlots core (qs.getD (g % qs.length) 0))[g / qs.length]?)

/-- What the gangs of a crew in quadrant `j` of `m` need. -/
def share (l : List Nat) (m j : Nat) : Nat :=
  ((l.zipIdx.filter (fun x => x.2 % m == j)).map (·.1)).foldl (· + ·) 0

/-- The tiles that the gangs of a quadrant hold. -/
def State.tilesIn (s : State) (quad : Nat) : Nat :=
  ((List.range 16).map (fun i => (s.gang (quad * 16 + i)).ntiles)).foldl (· + ·) 0

/-- The energy of the gangs that sit on a core (R350). -/
def State.energyOn (s : State) (core : Nat) : Nat :=
  ((s.crewsOn core).map (fun w =>
    energyWeight (w.d 373 371) * (w.slots.filter (fun k => (s.gang k).phase != .absent)).length)).foldl (· + ·) 0

/-- R350: a core admits a crew: the seats of its gangs and its scratchpad base. -/
def State.admits (s : State) (core part : Nat) (h : Shape) : Option (List Nat × Nat) :=
  let qs := s.ownedQuads core part
  let m := qs.length
  if qs.isEmpty || (h.watch && m != 4) || decide (64 < s.energyOn core + energyWeight h.eclass * h.gangs) then none
  else if qs.zipIdx.any (fun x => decide (s.freeBlocks (core * 4 + x.1) < share h.blocks m x.2)
      || decide (8 < s.tilesIn (core * 4 + x.1) + share h.tiles m x.2)) then none
  else match s.seats core qs h.gangs, s.scratchSpot core part h.scratch with
    | some ks, some a => some (ks, a)
    | _, _ => none

/-! ### Seating a crew -/

/-- R76: the live mask of a gang. -/
def liveMask (d : BitVec 512) (g : Nat) : BitVec 32 :=
  if g + 1 = dGangs d then BitVec.ofNat 32 (2 ^ (descF d 329 325 + 1) - 1) else BitVec.allOnes 32

/-- Table 4-1, R343: a gang at admission. -/
def gangAt (d : BitVec 512) (c num g : Nat) : Gang :=
  let g0 : Gang := { Gang.empty with
    phase := .running, crew := c, num := g, live := liveMask d g, pc := BitVec.ofNat 32 (descF d 223 192),
    blocks := descF d 331 330, nextBlk := descF d 331 330, nlists := descF d 337 336, ntiles := descF d 335 332 }
  (g0.wp 2 (BitVec.ofNat 64 (descF d 127 64))).ws 4 (BitVec.ofNat 32 num)

/-- The gangs of a new crew take their slots. -/
def State.seatGangs (s : State) (d : BitVec 512) (c num : Nat) (seats : List Nat) : State :=
  seats.zipIdx.foldl (fun s x => s.setGang x.1 (gangAt d c num x.2)) s

/-- R295: the buckets of a context at the slices of a die gain up to now, and what they cannot hold goes to the spare pools. -/
def State.refreshDie (s : State) (asid die : Nat) : State :=
  (List.range 64).foldl (fun u i => u.refreshOne (Map.get 0 u.cycles die) (bucketKey (die * 64 + i) asid)) s
/-- R295: the buckets of a context on a die go with its last crew there; they have gained up to then. -/
def State.freeDie (s : State) (asid die : Nat) : State :=
  if s.crews.any (fun e => e.2.craneRuns && e.2.asid == asid && e.2.core / 64 == die)
    || (Map.get none s.quay.since (asid * 4 + die)).isNone then s
  else
    let t := s.refreshDie asid die
    { t with quay := { t.quay with
        since := Map.put none t.quay.since (asid * 4 + die) none
        buckets := (List.range 64).foldl (fun b i => Map.put ⟨0, 0⟩ b (bucketKey (die * 64 + i) asid) ⟨0, 0⟩) t.quay.buckets } }

/-- R343, R350, R351: a crew of a launch starts on a core; its gangs start with an acquire at scope 4 (R153). -/
def State.startCrew (s : State) (launch num ncrews : Nat) (d : BitVec 512) (core : Nat) (seats : List Nat) (base : Nat) : State :=
  let c := s.nextCrew
  let w : Crew := { Crew.empty with
    phase := .resident, launch := launch, num := num, desc := d, ncrews := ncrews, core := core, slots := seats,
    scratchBase := base }
  (((({ s with nextCrew := c + 1 } : State).setCrew c w).seatGangs d c num seats).emptyL1 core).holdDie (launch / 65536) (core / 64)

/-- The crews of a shape that an empty core holds at once. -/
def State.capGo (s : State) (core part : Nat) (d : BitVec 512) : Nat → Nat
  | 0 => 0
  | n + 1 => match s.admits core part (dShape d) with
    | none => 0
    | some x => 1 + (s.startCrew 0 0 0 d core x.1 x.2).capGo core part d n
def State.capacity (s : State) (core part : Nat) (d : BitVec 512) : Nat :=
  ({ s with gangs := [], crews := [] } : State).capGo core part d 64

/-- The crews of a shape that a partition holds at once. -/
def State.partCapacity (s : State) (part : Nat) (d : BitVec 512) : Nat :=
  ((s.partCores part).map (fun c => s.capacity c part d)).foldl (· + ·) 0

/-! ### Checks of a descriptor (Table 20-3) -/

/-- Status 3. -/
def State.descUnfit (s : State) (d : BitVec 512) : Bool :=
  let part := dPart d
  let s0 : State := { s with gangs := [], crews := [] }
  (dWatch d && dGangs d % 4 != 0)
  || (s.partCores part).all (fun c => (s0.admits c part (dShape d)).isNone)
  || (dCores d && !dCm d && decide (s.partCapacity part d < dCrews d))

/-- Status 5. A graph lies in one phase and one job (R346), and a phase in one job (R17, log 24). -/
def State.levelsBad (s : State) (asid : Nat) (d : BitVec 512) : Bool :=
  (List.range 4).any (fun i =>
    let p := descF d (399 + 16 * i) (384 + 16 * i)
    p != 0 && (s.launch (launchKey asid p)).isNone)
  || [1, 2, 3].any (fun l => descLevel d l != 0 && (match s.level (levelKey asid l (descLevel d l)) with
      | some i => !i.complete && (i.closed || i.cancelled
          || (l == 1 && i.phase != descLevel d 2) || (l != 3 && i.job != descLevel d 3))
      | none => false))

/-- The status of a descriptor of a context: the lowest that applies. -/
def State.launchStatus (s : State) (asid : Nat) (d : BitVec 512) : Nat :=
  if descBad d then 2
  else if s.descUnfit d then 3
  else if dPart d ≠ s.ctxField asid 89 86 then 4
  else if s.levelsBad asid d then 5
  else 0

/-! ### Acceptance (R344, R346) -/

/-- A level counts one member more. -/
def State.addMember (s : State) (asid : Nat) (p : Option (Nat × Nat)) : State :=
  match p with
  | none => s
  | some (l, id) => match s.level (levelKey asid l id) with
    | some i => s.setLevel (levelKey asid l id) { i with out := i.out + 1 }
    | none => s

/-- A level id is named: where no instance is open, one opens, and the level above counts it. -/
def State.openLevel (s : State) (asid lvl id phase job : Nat) : State :=
  if id = 0 then s
  else
    let fresh : State :=
      let s1 := s.setLevel (levelKey asid lvl id) ⟨false, false, false, false, 0, s.harb.orders, phase, job⟩
      ({ s1 with harb := { s1.harb with orders := s1.harb.orders + 1 } } : State).addMember asid (s1.parent asid lvl id)
    match s.level (levelKey asid lvl id) with
    | some i => if i.complete then fresh else s
    | none => fresh

/-- A level closes. -/
def State.closeLevel (s : State) (asid lvl id : Nat) (yes : Bool) : State :=
  match s.level (levelKey asid lvl id) with
  | some i => if yes && id != 0 then s.setLevel (levelKey asid lvl id) { i with closed := true } else s
  | none => s

def State.slipQ (s : State) (q : Nat) : List Nat := Map.get [] s.harb.slip q
def State.setSlip (s : State) (q : Nat) (l : List Nat) : State :=
  { s with harb := { s.harb with slip := Map.put [] s.harb.slip q l } }

/-- R344: launch ids run from 1 upward modulo 2^16 and skip 0. -/
def nextLaunch (id : Nat) : Nat := if id = 65535 then 1 else id + 1

/-- A descriptor is accepted: it takes the next launch id of its context, joins its levels, closes those that it closes, and
goes to the tail of a slipway queue. `pair` is the host queue pair and submission, `rec_` whether its record is awaited. -/
def State.accept (s : State) (asid : Nat) (d : BitVec 512) (q : Nat) (pair : Option (Nat × Nat)) (rec_ : Bool) : Nat × State :=
  let id := Map.get 1 s.harb.nextId asid
  let g := descLevel d 1
  let p := descLevel d 2
  let j := descLevel d 3
  let s1 := ((s.openLevel asid 3 j 0 0).openLevel asid 2 p 0 j).openLevel asid 1 g p j
  let l : Launch := ⟨d, dPart d, .queued, false, 0, 0, 0, false, false, s1.harb.orders, 0, !rec_, pair⟩
  let s2 := s1.setLaunch (launchKey asid id) l
  let s3 := s2.addMember asid (s2.parent asid 0 id)
  let cj := descF d 500 500 == 1
  let cp := descF d 499 499 == 1 || cj
  let cg := descF d 498 498 == 1 || cp
  let s4 := ((s3.closeLevel asid 1 g cg).closeLevel asid 2 p cp).closeLevel asid 3 j cj
  let s5 : State := { s4 with harb := { s4.harb with
    orders := s4.harb.orders + 1, nextId := Map.put 1 s4.harb.nextId asid (nextLaunch id) } }
  (id, s5.setSlip q (s5.slipQ q ++ [launchKey asid id]))

/-! ### The instructions -/

/-- `slaunch`, R344: a release at device scope of every colour. -/
def execSlaunch (tr : Bool) (q : Fin 8) (sd : SReg) (sa : Pair) (s : State) : Res :=
  let a (g : Gang) : Dword := g.rp (ev sa)
  let die (g : Gang) : Bool := match homeOf (a g).toNat with | some (.die _) => true | _ => false
  scalarMem s (pr sa) [sd.val] 8
    (fun g => [(if (a g).toNat % 64 ≠ 0 then some 5 else if die g then none else some 6, a g)])
    (fun g => { s.baseOp with kind := .slaunch tr q.val, inQ := true, stage := .queued, scope := .dev, ord := .rel,
                              mask := BitVec.allOnes 8, width := 64, els := [el1 (a g) []], dst := .sreg sd.val })

/-- `jcount`, R348: its acquire holds later accesses until the answer is there. -/
def execJcount (lvl : Level) (sc : Scope) (sd : Pair) (sa : SReg) (s : State) : Res :=
  scalarMem s [sa.val] (pr sd) 8 (fun _ => [])
    (fun g => { s.baseOp with kind := .jcount lvl, scope := sc, ord := .acq, dst := .pair (ev sd), arg := [g.rs sa.val] })

/-- `jcancel`, R348. -/
def execJcancel (lvl : Level) (sd sa : SReg) (s : State) : Res :=
  scalarMem s [sa.val] [sd.val] 8 (fun _ => [])
    (fun g => { s.baseOp with kind := .jcancel lvl, els := [el1 0 []], dst := .sreg sd.val, arg := [g.rs sa.val] })

/-! ### SLIPWAY_POST (R344) -/

/-- The slipway queue of a context. -/
def State.slipOf (s : State) (asid q : Nat) : Nat := s.ctxField asid 89 86 * 8 + q

/-- The 64 bytes of a descriptor, read once; a single byte stands for a descriptor that does not translate. -/
def State.readDesc (s : State) (o : Op) (e : El) : Option (List Byte) × State :=
  if !e.data.isEmpty then (some e.data, s)
  else
    let r := s.engRead ⟨o.asid, 0, 0, 0, some (o.id, 0)⟩ e.addr.toNat 64
    match r.1 with
    | .done => (some r.2.1, r.2.2)
    | .wait => (none, r.2.2)
    | _ => (some [0], r.2.2)

/-- SLIPWAY_POST, R344: the descriptor is read, waits for room in its queue, and is accepted or refused. -/
def execSlipwayPost (op : Nat) (s : State) : Res :=
  match s.op op with
  | none => .next s
  | some o =>
    match o.kind, o.els with
    | .slaunch tr q, e :: _ =>
      if o.stage != .sent || e.st != .todo || s.fifoBlocked o e o.left then .next s
      else match s.readDesc o e with
        | (none, s1) => .next s1
        | (some bs, s1) =>
          let key := s1.slipOf o.asid q
          if 64 ≤ (s1.slipQ key).length then
            .next (if tr then s1.elDone op 0 (natLE 4 0x10000) else s1.setEl op 0 { e with data := bs })
          else if bs.length ≠ 64 then .next (s1.elDone op 0 (natLE 4 0x60000))
          else
            let d := BitVec.ofNat 512 (leNat bs)
            let st := s1.launchStatus o.asid d
            if st ≠ 0 then .next (s1.elDone op 0 (natLE 4 (st * 65536)))
            else
              let a := s1.accept o.asid d key none false
              .next (a.2.elDone op 0 (natLE 4 a.1))
    | _, _ => .next s

/-! ### LAUNCH_ELIGIBLE (R345) -/

def Launch.isComplete (l : Launch) : Bool := l.st == .complete

/-- An earlier graph of a launch's phase has not completed. -/
def State.phaseWaits (s : State) (asid : Nat) (l : Launch) : Bool :=
  let g := descLevel l.desc 1
  let p := descLevel l.desc 2
  let mine := if g = 0 then l.opened else ((s.level (levelKey asid 1 g)).map LevelInst.opened).getD 0
  p != 0
  && (s.harb.levels.any (fun e => e.1 / 65536 == asid * 4 + 1 && (match e.2 with
        | some i => !i.complete && i.phase == p && decide (i.opened < mine)
        | none => false))
    || s.harb.launches.any (fun e => e.1 / 65536 == asid && (match e.2 with
        | some k => !k.isComplete && descLevel k.desc 1 == 0 && descLevel k.desc 2 == p && decide (k.opened < mine)
        | none => false)))

/-- Every named predecessor has completed. -/
def State.predsDone (s : State) (asid : Nat) (l : Launch) : Bool :=
  (List.range 4).all (fun i =>
    let p := descF l.desc (399 + 16 * i) (384 + 16 * i)
    p == 0 || (match s.launch (launchKey asid p) with | some k => k.isComplete | none => false))

/-- The crew count of a launch: from its descriptor, or read from memory; none where the read fails. -/
def State.crewCount (s : State) (asid : Nat) (d : BitVec 512) : Option (Option Nat × State) :=
  if dCm d then
    let va := (descF d 127 64 + dCrews d) % 2 ^ 64
    if va % 4 ≠ 0 then some (none, s)
    else
      let r := s.engRead (deviceWriter asid) va 4
      match r.1 with
      | .done => some (some (leNat r.2.1), r.2.2)
      | .wait => none
      | _ => some (none, r.2.2)
  else some (some (dCrews d), s)

/-- A crew count that places nothing and sets the error bit. -/
def State.countBad (s : State) (l : Launch) (n : Option Nat) : Bool :=
  match n with
  | none => true
  | some n => decide (2 ^ 24 < n) || (dCores l.desc && decide (s.partCapacity l.part l.desc < n))

/-- LAUNCH_ELIGIBLE, R345: the oldest launch of a slipway queue becomes eligible. -/
def execLaunchEligible (q : Nat) (s : State) : Res :=
  match s.slipQ q with
  | [] => .next s
  | key :: rest =>
    let asid := key / 65536
    match s.launch key with
    | none => .next (s.setSlip q rest)
    | some l =>
      if !s.predsDone asid l || s.phaseWaits asid l then .next s
      else match s.crewCount asid l.desc with
        | none => .next s
        | some (n, s1) =>
          let bad := s1.countBad l n
          let l1 : Launch := { l with st := .eligible, fixed := true, ncrews := if bad then 0 else n.getD 0, order := s1.harb.orders }
          let s2 := (s1.setLaunch key l1).setSlip q rest
          let s3 : State := { s2 with harb := { s2.harb with orders := s2.harb.orders + 1 } }
          .next (if bad then s3.launchError asid (key % 65536) else s3)

/-! ### LEVEL_RECLAIM and LEVEL_COMPLETE (R310, R346, R349) -/

/-- Every crew of a launch has been placed and has ended. -/
def Launch.due (l : Launch) : Bool := l.st == .eligible && l.placed == l.ncrews && l.ended == l.ncrews
def LevelInst.due (i : LevelInst) : Bool := i.closed && !i.complete && i.out == 0

/-- R346, R352: a job waits for the remote puts of its crews. -/
def State.putsOpen (s : State) (asid lvl id : Nat) : Bool :=
  lvl == 3 && s.puts.any (fun p => p.2 == levelKey asid 3 id && (s.op p.1).isSome)

/-- A level whose members have all completed and whose counter does not say so yet. -/
def State.levelDue (s : State) (asid lvl id : Nat) : Bool :=
  if lvl = 0 then (match s.launch (launchKey asid id) with | some l => l.due | none => false)
  else (match s.level (levelKey asid lvl id) with | some i => i.due && !s.putsOpen asid lvl id | none => false)

/-- The unclaimed berths of a level. -/
def State.orphanKeys (s : State) (asid lvl id : Nat) : List Nat :=
  (s.quay.berths.filter (fun e => e.2.st != .free && !e.2.dropped && !e.2.claim.held && e.2.asid == asid
    && e.2.life == lvl && e.2.levelId == id)).map (·.1)

/-- R310: the orphan counter of a context grows. -/
def State.addOrphans (s : State) (asid n : Nat) : State :=
  let r := (Map.get ctxReset s.harb.ctx asid).toNat
  let o := (bits r 447 384 + n) % 2 ^ 64
  let v := BitVec.ofNat 512 (r / 2 ^ 448 * 2 ^ 448 + o * 2 ^ 384 + r % 2 ^ 384)
  { s with harb := { s.harb with ctx := Map.put ctxReset s.harb.ctx asid v } }

/-- R310: the slices free the unclaimed berths of a level. -/
def State.reclaim (s : State) (asid lvl id : Nat) : State :=
  let ks := s.orphanKeys asid lvl id
  if ks.isEmpty then s else (ks.foldl State.letGo s).addOrphans asid ks.length

/-- LEVEL_RECLAIM, R310. -/
def execLevelReclaim (asid lvl id : Nat) (s : State) : Res :=
  if s.levelDue asid lvl id then .next (s.reclaim asid lvl id) else .next s

/-- R346: a level has completed: the level above counts one member less, and completes where that was its last. -/
def State.completeUp (s : State) (asid : Nat) : Nat → Nat → Nat → State
  | 0, _, _ => s
  | n + 1, lvl, id =>
    match s.parent asid lvl id with
    | none => s
    | some (l, i) =>
      match s.level (levelKey asid l i) with
      | none => s
      | some x =>
        let y : LevelInst := { x with out := x.out - 1 }
        let s1 := s.setLevel (levelKey asid l i) y
        if y.due && !s.putsOpen asid l i then
          let s2 := s1.reclaim asid l i
          (s2.setLevel (levelKey asid l i) { y with complete := true }).completeUp asid n l i
        else s1

def State.pairAt (s : State) (p : Nat) : QPair := Map.get QPair.init s.host.pairs p
def State.setPair (s : State) (p : Nat) (x : QPair) : State :=
  { s with host := { s.host with pairs := Map.put QPair.init s.host.pairs p x } }
/-- R363: a completion entry waits to be written to an enabled pair. -/
def State.addEntry (s : State) (p : Nat) (e : CEntry) : State :=
  let x := s.pairAt p
  if x.qcfg.toNat.testBit 31 then s.setPair p { x with pend := x.pend ++ [e] } else s

/-- R349: the stamp of a launch: written, parked, or failed. -/
def State.writeStamp (s : State) (asid id : Nat) (l : Launch) : Eng × State :=
  if dStamp l.desc = 0 then (.done, s)
  else s.engWrite (deviceWriter asid) (dStamp l.desc) (natLE 8 (id + b1 l.cancelled * 2 ^ 16 + b1 l.error * 2 ^ 17)) false

/-- A launch completes. -/
def State.finishLaunch (s : State) (asid id : Nat) (l : Launch) : State :=
  let r := s.writeStamp asid id l
  match r.1 with
  | .wait => s
  | e =>
    let s1 := match e with
      | .absent _ _ _ => r.2.launchError asid id
      | .trap _ => r.2.launchError asid id
      | _ => r.2
    match s1.launch (launchKey asid id) with
    | none => s1
    | some l1 =>
      let s2 := s1.setLaunch (launchKey asid id) { l1 with st := .complete }
      let s3 := match l1.pair with
        | some (p, sseq) => s2.addEntry p ⟨3, b1 l1.cancelled, launchKey asid id, sseq⟩
        | none => s2
      s3.completeUp asid 4 0 id

/-- LEVEL_COMPLETE, R346: a level completes once its orphans are reclaimed, and with it the levels above it whose last
member it was. -/
def execLevelComplete (asid lvl id : Nat) (s : State) : Res :=
  if !s.levelDue asid lvl id || !(s.orphanKeys asid lvl id).isEmpty then .next s
  else if lvl = 0 then
    match s.launch (launchKey asid id) with
    | some l => .next (s.finishLaunch asid id l)
    | none => .next s
  else match s.level (levelKey asid lvl id) with
    | some i => .next ((s.setLevel (levelKey asid lvl id) { i with complete := true }).completeUp asid 4 lvl id)
    | none => .next s

/-! ### Placement (R350) -/

/-- What may be placed next in a partition: the launch, its priority and order, and the crew number; a switched-out crew by
its name. -/
structure Item where
  key   : Nat
  prio  : Nat
  order : Nat
  num   : Nat
  out   : Option Nat
  deriving DecidableEq, Repr

def Item.before (a b : Item) : Bool :=
  decide (b.prio < a.prio) || (a.prio == b.prio && (decide (a.order < b.order) || (a.order == b.order && decide (a.num < b.num))))

def firstItem (l : List Item) : Option Item :=
  l.foldl (fun (m : Option Item) x => match m with | none => some x | some y => if x.before y then some x else some y) none

/-- R353: a ladder runs for a context. -/
def State.onLadder (s : State) (asid : Nat) : Bool := (Map.get ⟨0, [], [], []⟩ s.harb.ladder asid).step != 0

def dPrio (d : BitVec 512) : Nat := descF d 375 374

/-- The launches and switched-out crews of a partition that are to be placed. -/
def State.items (s : State) (part : Nat) : List Item :=
  s.harb.launches.filterMap (fun e => match e.2 with
    | some l => if l.part == part && l.st == .eligible && decide (l.placed < l.ncrews) && !s.onLadder (e.1 / 65536)
        then some ⟨e.1, dPrio l.desc, l.order, l.placed, none⟩ else none
    | none => none)
  ++ s.crews.filterMap (fun e =>
    let w := e.2
    if w.phase == .out && s.missing e.1 == 0 && w.d 379 376 == part && !s.onLadder w.asid then
      some ⟨w.launch, w.prio, ((s.launch w.launch).map Launch.order).getD 0, w.num, some e.1⟩
    else none)

/-- The next one in the strict order of R350. -/
def State.nextItem (s : State) (part : Nat) : Option Item := firstItem (s.items part)

/-- A written split or map of a core waits (R360). -/
def State.corePending (s : State) (core : Nat) : Bool :=
  (Map.get none s.harb.splitP core).isSome || (Map.get none s.harb.qmapP core).isSome

/-- A list of cores from the pointer on. -/
def fromPointer (l : List Nat) (r : Nat) : List Nat := l.filter (fun c => decide (r ≤ c)) ++ l.filter (fun c => decide (c < r))

/-- R350 step 1: the window. -/
def State.window (s : State) (part : Nat) (cs : List Nat) (h : Shape) : List (Nat × List Nat × Nat) :=
  (cs.filterMap (fun c => if s.corePending c then none else (s.admits c part h).map (c, ·))).take 4

def passedKey (part core : Nat) : Nat := part * 256 + core
def State.passedOver (s : State) (part core : Nat) : Nat := Map.get 0 s.harb.passed (passedKey part core)
def State.setPassed (s : State) (part core n : Nat) : State :=
  { s with harb := { s.harb with passed := Map.put 0 s.harb.passed (passedKey part core) n } }

/-- R350: the health score of the n-th core of a window is outside the manual, from 0 to 30 (log 16). -/
def State.health (s : State) (n : Nat) : Nat := (s.free n).toNat % 31

/-- R350 step 3: the first of the highest score. -/
def State.healthiest (s : State) (win : List (Nat × List Nat × Nat)) : Nat :=
  (win.zipIdx.foldl (fun (m : Nat × Nat) x => if m.2 < s.health x.2 + 1 then (x.2, s.health x.2 + 1) else m) (0, 0)).1

/-- R350 steps 2 to 4: the core, the seats and the scratchpad base of a crew; the pointer and the counts follow. -/
def State.choose (s : State) (part : Nat) (pinned : Bool) (h : Shape) : Option ((Nat × List Nat × Nat) × State) :=
  let cs := fromPointer (s.partCores part) (Map.get 0 s.harb.robin part)
  let win := s.window part cs h
  match win with
  | [] => none
  | first :: _ =>
    let s1 : State := { s with harb := { s.harb with robin := Map.put 0 s.harb.robin part (cs.getD 1 (cs.headD 0)) } }
    match win.find? (fun x => s.passedOver part x.1 == 8) with
    | some x => some (x, s1.setPassed part x.1 0)
    | none =>
      let x := if pinned then first else win.getD (s.healthiest win) first
      let s2 := if pinned then s1 else s1.useFree 4
      let s3 := win.foldl (fun t y => if y.1 = x.1 then t else t.setPassed part y.1 (t.passedOver part y.1 + 1)) s2
      some (x, s3.setPassed part x.1 0)

/-- Pinned placement of a context (Table 20-1). -/
def State.pinned (s : State) (asid : Nat) : Bool := s.ctxField asid 64 64 == 1

/-- The next crew of a launch is placed. -/
def State.placeOne (s : State) (key : Nat) : Option State :=
  match s.launch key with
  | none => none
  | some l =>
    match s.choose l.part (s.pinned (key / 65536)) (dShape l.desc) with
    | none => none
    | some (x, s1) =>
      some ((s1.startCrew key l.placed l.ncrews l.desc x.1 x.2.1 x.2.2).setLaunch key { l with placed := l.placed + 1 })

/-- R97: `n` crews of a launch are placed at once, or none. -/
def State.placeAll (s : State) (key : Nat) : Nat → Option State
  | 0 => some s
  | n + 1 => match s.placeOne key with
    | some s1 => s1.placeAll key n
    | none => none

/-- CREW_PLACE, R350: the next crew of a partition is placed where a core admits it; with `cores` set, all crews of its
launch. -/
def execCrewPlace (part : Nat) (s : State) : Res :=
  match s.nextItem part with
  | none => .next s
  | some it =>
    match it.out, s.launch it.key with
    | none, some l =>
      if !l.recorded then .next s
      else .next ((if dCores l.desc then s.placeAll it.key (l.ncrews - l.placed) else s.placeOne it.key).getD s)
    | _, _ => .next s

end Sys2Proof.Machine
end

