-- ==== Sys2Proof/Machine/Faults.lean ====
section
/-! DEFINITION. Crews as they fault, stop, end, leave and return (spec 09, 05 R119, 20 R348, R353): the events
DEFERRED_TRAP_TAKE, FAULT_REPORT, FAULT_RING_POST, GANG_SLOT_FREE, CREW_END, CREW_STOP, CREW_SWITCH_OUT, CREW_RESTORE,
REPLAY_IN_PLACE, LEVEL_CANCEL and the pre-emption ladder. -/

namespace Sys2Proof.Machine

/-! ### Deferred traps (R192, R196, R266) -/

/-- R266: a crane trap of the poster gang, which names no instruction; the landing overflow of Table 10-5 is none. -/
def TrapInfo.ofCrane (t : TrapInfo) : Bool := t.source == 3 && t.issue == 0 && t.cause != 0x0E

/-- R266: a wait that a crane trap ends. -/
def Wait.craneEnds : Wait → Bool
  | .mwait _ => true
  | .bar _ _ => true
  | .barw _ _ _ => true
  | _ => false

/-- A report that a gang takes now: it stands between instructions, a crane trap ends its wait, or its crew is being halted
(R206). -/
def State.takes (s : State) (k : Nat) : Bool :=
  let g := s.gang k
  !g.reports.isEmpty && (g.wait == .none || (g.wait.craneEnds && g.reports.any (fun r => r.2.ofCrane))
    || (s.crew g.crew).phase == .halting)

/-- The requests for blocks of some gangs leave their queues (R116). -/
def State.leaveVacq (s : State) (ks : List Nat) : State :=
  { s with vacqQ := (s.vacqQ.map (·.1)).foldl (fun m q =>
      Map.put [] m q ((Map.get [] m q).filter (fun x => !ks.contains x.1))) s.vacqQ }

/-- A wait ends without its effect. -/
def State.endWait (s : State) (k : Nat) : State :=
  let g := s.gang k
  match g.wait with
  | .mwait id => (s.dropOp id).setGang k { g with wait := .none, log := g.log.filter (· != id), replay := g.replay.filter (· != id) }
  | .vacq _ => (s.leaveVacq [k]).setGang k { g with wait := .none }
  | _ => s.setGang k { g with wait := .none }

/-- A crew whose gangs may take traps: it runs, or is being halted (R206). -/
def Crew.alive (w : Crew) : Bool := w.phase == .resident || w.phase == .halting

/-- R196: the report that a gang takes: of those that reached it in the cycle of the first one, the one whose instruction issued
first; one that names no instruction (`issue` 0) comes last. -/
def firstReport : List (Nat × TrapInfo) → Option (Nat × TrapInfo)
  | [] => none
  | r :: rs => some (r.1, ((rs.takeWhile (fun x => x.1 == r.1)).map (·.2)).foldl
      (fun m t => if t.issue != 0 && (m.issue == 0 || decide (t.issue < m.issue)) then t else m) r.2)

/-- DEFERRED_TRAP_TAKE, R192, R196: the report that reached the gang first is taken, and the others are lost. The gang takes none
before the cycle in which it was reported has ended, since the reports of that cycle rank by issue (log 11). -/
def execDeferredTrapTake (k : Nat) (s : State) : Res :=
  let g := s.gang k
  match firstReport g.reports with
  | none => .next s
  | some r =>
    if g.phase != .running || !(s.crew g.crew).alive || !s.takes k || r.1 == Map.get 0 s.cycles (slotDie k) then .next s
    else
      let s1 := s.endWait k
      .next ((s1.setGang k { s1.gang k with reports := [] }).dropTrap k r.2)

/-! ### What has come to rest (R193, R202, R270) -/

/-- A row gather, whose faulted rows the crane holds (R269). -/
def OpKind.gathers : OpKind → Bool | .gather _ _ _ => true | _ => false
def OpKind.waits : OpKind → Bool | .mwait _ => true | _ => false

/-- The operand log holds an operation of a gang: one that waits for its replay, or whose replay has not come to it yet. -/
def Gang.logged (g : Gang) (id : Nat) : Bool := g.log.contains id || (g.replay.drop 1).contains id

/-- The second element of an `ssendsig` or `sredeem`, whose first one is not performed. -/
def Op.behind (o : Op) (i : Nat) : Bool :=
  i == 1 && !o.els.isEmpty && !(o.els.headD (el1 0 [])).final && (match o.kind with | .sendsig _ => true | .sredeem _ => true | _ => false)

/-- A claim of the operation waits on a berth. -/
def State.claims (s : State) (o : Op) : Bool :=
  o.kind.isRedeem && s.quay.berths.any (fun e => e.2.claim == .waiting o.id)

/-- An element waits for faulted work: for what comes before it in its operation or its gang, or for the value of an atomic in its
queue. -/
def State.elHeld (s : State) (o : Op) (i : Nat) (e : El) : Bool :=
  o.behind i || s.behindFrame o i e
  || (s.hasFaulted o.gang o.id
      && (if o.scr then !s.scrReady o
          else if o.kind.isLoad then !s.acqDone o.gang o.id || s.olderLoad o e || (s.forward o e).any (· == .atomic)
          else if o.kind.memory then s.olderHeld o e
          else o.kind.gathers && !s.acqDone o.gang o.id))

/-- An element goes no further until faulted work has been replayed; one that has trapped is reported with its operation. A faulted one
whose operation waits for room in the operand log does go further, so that it holds back a switch-out (R197, R202; log 36). -/
def State.elRests (s : State) (o : Op) (i : Nat) (e : El) : Bool :=
  match e.st with
  | .faulted => o.kind.gathers || (s.gang o.gang).logged o.id
  | .parked => s.elAwaits o i
  | .trapped => true
  | .todo => s.elHeld o i e
  | _ => true

/-- Every element of an operation has been tried, or waits for faulted work. -/
def State.tried (s : State) (o : Op) : Bool := o.els.zipIdx.all (fun x => x.1.st != .todo || s.elHeld o x.2 x.1)

/-- An access goes no further until faulted work of its gang has been replayed. -/
def State.stuck (s : State) (o : Op) : Bool := s.faultedOp o || s.hasFaulted o.gang o.id
/-- A release of a gang waits for a store that had left the core before it, of its own crew, and that is stuck (R183). -/
def State.releaseStuck (s : State) (o : Op) : Bool :=
  o.ord.releases && decide (3 ≤ o.scope.code)
  && s.ops.any (fun p => p.crew == o.crew && p.leftBefore (slotCore o.gang) o.head && !p.doneAt o.scope && s.stuck p)

/-- An operation goes no further until faulted work has been replayed: a queue entry stands behind a faulted one, and the
head is faulted itself or must order one. -/
def State.opRests (s : State) (o : Op) : Bool :=
  match o.stage with
  | .ready => false
  | .over => true
  | .asleep => true
  | .queued =>
    (match s.queue o.gang with
    | h :: _ => h.id != o.id || o.faulted || (!s.mayLeave o.gang o && (s.hasFaulted o.gang o.id || s.releaseStuck o))
    | [] => true)
  | .sent =>
    if o.els.isEmpty then s.hasFaulted o.gang o.id && !s.acqDone o.gang o.id
    else o.els.zipIdx.all (fun x => s.elRests o x.2 x.1)

/-- A matrix or winner-list instruction can neither start nor complete now. -/
def State.hopRests (s : State) (h : HOp) : Bool :=
  if h.stage == .over || s.mxrdyMet h then s.hLater h
  else h.stage != .queued || h.quads.all (fun q => h.started.contains q || s.hHead q != some h
    || (isMxv h.instr && decide ((s.fifoOf (fifoKey h.crew q)).length < 4)))

/-- The bytes that the `mxv`s that a crew has issued for a quadrant of its core have still to take (R243). -/
def State.mxvNeeds (s : State) (c q : Nat) : Nat :=
  ((s.hops.filter (fun h => h.crew == c && h.quads.contains q && !h.started.contains q)).map (fun h =>
    match h.instr with
    | .mxv f => 4 * (bw h.blk 0 * f.lineWords + 10 - h.blk.length)
    | _ => 0)).foldl (· + ·) 0

/-- R270: the next bytes of a stream command are taken by no issued `mxv`, or by none that can take bytes now. -/
def State.streamRests (s : State) (c q : Nat) : Bool :=
  let n := (s.fifoOf (fifoKey c q)).length
  decide (s.mxvNeeds c q ≤ n)
  || (decide (512 ≤ n) && s.hops.all (fun h => h.crew != c || !isMxv h.instr || !h.quads.contains q || s.hopRests h))

/-- R270: a command holds a faulted element, or a write of it waits for a frame. -/
def State.cmdFaulted (s : State) (c : Nat) (x : CraneCmd) : Bool :=
  !x.held.isEmpty || x.stamped
  || s.quay.busy.any (fun b => b.waiting && b.writes.any (fun p => p.crew == c && p.op == 0 && p.el == x.pos + 1))

/-- What a command has still to access waits for stores that had left the core, and that are stuck (R183, R256). -/
def State.cmdStuck (s : State) (c : Nat) (w : Crew) (x : CraneCmd) : Bool :=
  let ps := s.ops.filter (fun p => p.crew == c && p.inQ && p.kind.memory && p.leftCores.contains w.core && p.seen != 0 && s.stuck p)
  let meets (va n : Nat) : Bool := ps.any (fun p => p.els.any (fun f => f.open_ && spansMeet va n f.addr.toNat p.width))
  if ps.isEmpty then false
  else if x.moved ∨ x.kind = 5 then
    (x.stamp || x.kind == 3) && (meets x.addr 8 || (decide (3 ≤ x.scope.code) && ps.any (fun p => decide (p.seen < x.rel))))
  else if x.kind = 4 then meets ((x.mem + x.next) % 2 ^ 64) 64
  else ((List.range x.total).filter x.open_).all (fun n =>
    (x.elem n).inside && !(x.elem n).oob && (x.out || x.kind != 2) && meets (x.elem n).maddr (recElem x.layout))

/-- R270: a crane command holds a faulted element, or waits behind one or for stores that are stuck, or no issued `mxv` takes its
bytes. -/
def State.cmdRests (s : State) (c : Nat) (w : Crew) (x : CraneCmd) : Bool :=
  s.cmdFaulted c x || s.cmdStuck c w x
  || (x.kind == 5 && w.ring.cmds.any (fun y => decide (y.pos < x.pos)))
  || (x.kind == 4 && (w.ring.cmds.any (fun y => y.kind == 4 && y.quad == x.quad && decide (y.pos < x.pos))
        || s.streamRests c (w.core * 4 + x.quad)))

/-- Everything that a crew has issued has completed or rests; `ok` names operations that count as resting. -/
def State.crewRests (s : State) (c : Nat) (ok : Op → Bool) : Bool :=
  let w := s.crew c
  s.ops.all (fun o => o.crew != c || ok o || s.opRests o)
  && s.hops.all (fun h => h.crew != c || s.hopRests h)
  && w.ring.cmds.all (s.cmdRests c w)

/-! ### FAULT_REPORT and replay (R197, R203, R204) -/

/-- R197: the entries of a quadrant's operand log. -/
def State.logUse (s : State) (quad : Nat) : Nat :=
  ((List.range 16).map (fun i => let g := s.gang (quad * 16 + i); g.log.length + (g.replay.drop 1).length)).foldl (· + ·) 0

/-- R197: a faulted operation takes an entry of the operand log: its destinations are marked faulted, a queue entry keeps
its place in the store queue, and a gang in `mwait`, or one that R198 parks, parks. -/
def State.logFault (s : State) (o : Op) : State :=
  let g := s.gang o.gang
  let g' : Gang := { g with
    log := g.log ++ [o.id], sfault := g.sfault ++ o.dst.sregs.filter (· != 0), vfault := g.vfault ++ o.vregs,
    parked := g.parked || o.kind.waits }
  ((s.setOp (if o.inQ then o.requeued else o)).setGang o.gang g').parkNow o.gang

/-- FAULT_REPORT, R197: with the log full the request waits in the core. Records that wait for an element which only faulted work
holds back are posted now, whether the log is full or not (R200). -/
def execFaultReport (op : Nat) (s : State) : Res :=
  match s.op op with
  | none => .next s
  | some o =>
    if !o.faulted || !s.tried o || o.kind.gathers || (s.gang o.gang).logged op || o.stage != .sent then .next s
    else
      let o1 : Op := { o with els := o.els.map El.posted }
      let s1 := s.postOp o
      if 64 ≤ s.logUse (slotQuad o.gang) then .next (s1.setOp o1) else .next (s1.logFault o1)

/-- A logged operation goes out again: a queue entry from its place in the queue, and any other leaves its core now (R177), each by the
route of a new request (R370). -/
def State.replayOp (s : State) (id : Nat) : State :=
  match s.op id with
  | none => s
  | some o =>
    if !o.faulted then s
    else
      let g := s.gang o.gang
      let els := o.els.map (fun (e : El) => if e.st == .faulted then { e with st := .todo, res := [] } else e)
      let g' : Gang := { g with
        sfault := g.sfault.filter (fun r => !o.dst.sregs.contains r), vfault := g.vfault.filter (fun r => !o.vregs.contains r) }
      let anew := if o.kind.isLoad then els.map (fun (e : El) => if e.st == .todo then { e with data := [] } else e) else els
      let o1 : Op := if o.inQ then { o.requeued with els := els } else { o with els := anew, stage := .sent, head := s.nextOp }
      { ((s.setOp o1).setGang o.gang g').rerouted id with nextOp := s.nextOp + 1 }

/-- The entries of a gang's log that are to be replayed, the first of them in its turn; with none left its streams go on (R203). -/
def State.replayFrom (s : State) (k : Nat) (l : List Nat) : State :=
  let s1 := s.setGang k { s.gang k with replay := l }
  match l with
  | [] => s1
  | id :: _ => s1.replayOp id

/-- The replay of a gang begins: its log is replayed in log order (R203). -/
def State.beginReplay (s : State) (k : Nat) : State :=
  let g := s.gang k
  (s.setGang k { g with log := [], parked := false }).replayFrom k g.log

/-- An operation in replay has been performed, has faulted again, or waits for faulted work or a berth. -/
def State.replayed (s : State) (k id : Nat) : Bool :=
  match s.op id with
  | none => true
  | some o =>
    match o.stage with
    | .queued => o.faulted || s.ops.any (fun p => p.gang == k && decide (p.id < id) && p.inQ && p.faulted)
        || (!s.mayLeave k o && (s.hasFaulted k id || s.releaseStuck o))
    | .sent => s.claims o || o.els.zipIdx.all (fun x => (x.1.st != .todo && x.1.st != .parked) || s.elRests o x.2 x.1)
    | _ => true

/-- The replay of a gang goes on to the next entry. -/
def State.replayStep (s : State) (k : Nat) : State :=
  match (s.gang k).replay with
  | [] => s
  | id :: rest => if s.replayed k id then s.replayFrom k rest else s

/-- The gangs of a crew, with those that have gone and whose operations the log still holds (R119). -/
def State.gangsOf (s : State) (c : Nat) : List Nat :=
  (s.crew c).slots.filter (fun k => let g := s.gang k; g.phase != .absent || !g.log.isEmpty || !g.replay.isEmpty)

/-- REPLAY_IN_PLACE, R203, R204: a resident crew whose count is zero begins to replay its logs, and a replay that has begun goes
on. -/
def execReplayInPlace (c : Nat) (s : State) : Res :=
  let ks := s.gangsOf c
  if (s.crew c).phase != .resident then .next s
  else if ks.any (fun k => !(s.gang k).replay.isEmpty) then .next (ks.foldl State.replayStep s)
  else if s.missing c == 0 && ks.any (fun k => !(s.gang k).log.isEmpty) then .next (ks.foldl State.beginReplay s)
  else .next s

/-! ### FAULT_RING_POST (R199, R315) -/

/-- A parked write covers a byte of a span of a context. -/
def State.spanParked (s : State) (asid va n : Nat) : Bool :=
  match homeOf va with
  | some (.die d) => s.parkedOver (busyKey asid d (va % 2 ^ 50)) va n s.arrival
  | _ => false

/-- The address of the record of number q in the fault ring of a context (R199). -/
def State.ringAddr (s : State) (asid q : Nat) : Nat :=
  (s.ctxField asid 255 192 + 32 * (q % 2 ^ (s.ctxField asid 93 90 + 6))) % 2 ^ 64

/-- The record of number q is written, or parks on a busy page; until its page translates it waits. -/
def State.writeRecord (s : State) (asid q : Nat) (r : BitVec 256) : State :=
  let w := s.engWrite (deviceWriter asid) (s.ringAddr asid q) (natLE 32 r.toNat) false
  match w.1 with
  | .done => w.2.setRing asid { s.ring asid with wrote := true }
  | .parked => w.2.setRing asid { s.ring asid with wrote := true }
  | .wait => w.2
  | _ => s

/-- The stamp that follows the record of number q once that record has been performed (R11), with its cause entry (R365). -/
def State.stampRecord (s : State) (asid q : Nat) (r : BitVec 256) (rest : List (BitVec 256)) : State :=
  let ended (t : State) : State :=
    (t.setRing asid ⟨q, rest, false⟩).ctxCause (if bits r.toNat 86 85 = 1 then 3 else 2) 0 asid q
  if s.spanParked asid (s.ringAddr asid q) 32 then s
  else
    let w := s.engWrite (deviceWriter asid) (s.ctxField asid 319 256) (natLE 8 q) false
    match w.1 with
    | .done => ended w.2
    | .parked => ended w.2
    | .wait => w.2
    | _ => s

/-- FAULT_RING_POST, R199: the oldest waiting record of a context is written while the ring has room, then the stamp. -/
def execFaultRingPost (asid : Nat) (s : State) : Res :=
  let f := s.ring asid
  match f.pending with
  | [] => .next s
  | r :: rest =>
    let q := f.seq + 1
    if f.wrote then .next (s.stampRecord asid q r rest)
    else
      let rd := s.engRead (deviceWriter asid) (s.ctxField asid 383 320) 8
      match rd.1 with
      | .done =>
        if 2 ^ (s.ctxField asid 93 90 + 6) ≤ (q + 2 ^ 64 - leNat rd.2.1) % 2 ^ 64 then .next s
        else .next (rd.2.2.writeRecord asid q r)
      | .wait => .next rd.2.2
      | _ => .next s

/-! ### Crews leave their cores -/

/-- The key under which a gang of a crew without a core is kept. -/
def heldKey (c num : Nat) : Nat := 16384 + c * 32 + num

/-- A key under a list of moves. -/
def rekey (ps : List (Nat × Nat)) (k : Nat) : Nat := ((ps.find? (fun p => p.1 == k)).map (·.2)).getD k

/-- A gang takes another slot: the accounts of the ports that it leaves are not those of the ports that it comes to (R93). -/
def State.moveOne (s : State) (p : Nat × Nat) : State :=
  let g := s.gang p.1
  (s.setGang p.1 Gang.empty).setGang p.2 { g with lastS := 0, lastL := 0, waitS := 0, waitL := 0 }

/-- The hearths that an instruction has performed, by the place of its part. -/
def HOp.doneParts (h : HOp) : List Nat :=
  (h.quads.zipIdx.filter (fun x => h.started.contains x.1)).map (·.2)

/-- The gangs of an instruction under a list of moves. -/
def HOp.rekeyed (ps : List (Nat × Nat)) (h : HOp) : HOp :=
  { h with parts := h.parts.map (fun (p : HPart) => { p with gang := rekey ps p.gang }),
           taint := h.taint.map (fun x => (rekey ps x.1, x.2)), counts := h.counts.map (fun x => (rekey ps x.1, x.2)),
           lost := h.lost.map (rekey ps) }
def Tail.rekeyed (ps : List (Nat × Nat)) (t : Tail) : Tail :=
  { hop := t.hop.rekeyed ps, part := { t.part with gang := rekey ps t.part.gang }, renewed := t.renewed.map (fun r => (rekey ps r.1, r.2)) }
/-- An instruction of a crew that leaves its core, or takes another: one that is away has no quadrants and keeps the places. A gang
that has gone leaves its part to the quadrant of the seat that is its. -/
def HOp.leave (h : HOp) (ps : List (Nat × Nat)) : HOp := { h.rekeyed ps with quads := [], started := h.doneParts }
def HOp.arrive (h : HOp) (ps seats : List (Nat × Nat)) : HOp :=
  let x := h.rekeyed ps
  let quads := h.parts.map (fun p => slotQuad (rekey seats p.gang))
  { x with quads := if isMxrdy h.instr || h.stage == .joint then [] else quads,
           started := h.started.map (fun i => quads.getD i 0) }

/-- The gangs of a crew and their operations move. -/
def State.moveGangs (s : State) (c : Nat) (ps : List (Nat × Nat)) (hop : HOp → HOp) : State :=
  let s1 := ps.foldl State.moveOne s
  let move (o : Op) : Op := if o.crew == c then { o with gang := rekey ps o.gang } else o
  { s1 with ops := s1.ops.map move
            hops := s1.hops.map (fun h => if h.crew == c then hop h else h)
            tails := s1.tails.map (fun t => if t.hop.crew == c then t.rekeyed ps else t)
            quay := { s1.quay with pfx := s1.quay.pfx.map (fun (j : PfxJob) => { j with op := move j.op }) } }

/-! ### A crew is gone -/

/-- A store to a peer that outlives its crew (R352). -/
def State.isPut (s : State) (id : Nat) : Bool := s.puts.any (fun p => p.1 == id)

/-- A request that acts outside its crew, and for whose answer nobody waits any more. -/
def OpKind.external : OpKind → Bool
  | .kdrop => true
  | .jcancel _ => true
  | _ => false

/-- What still acts of an operation whose crew is gone: a request that has left it; a redeem, where the crew has ended and was not stopped
(Table 16-2, R305, R306); and the elements whose writes stand on a busy page that has a frame (R193). Their places among the elements
stay; the others are given up. -/
def State.orphan (s : State) (key : Nat) (o : Op) (stop : Bool) : Option Op :=
  let stays (i : Nat) : Bool := s.quay.busy.any (fun b => !b.waiting && b.writes.any (fun w => w.op == o.id && w.el == i))
  let o1 : Op := { o with gang := key, dst := .none, flag := none, inQ := true }
  if o.kind.external then some o1
  else if !stop && o.kind.isRedeem && o.stage == .sent && !o.faulted then
    some { o with gang := key, flag := none, dst := (match o.dst with | .vreg r n t => .vreg r n t | _ => .none) }
  else if (List.range o.els.length).any stays then
    some { o1 with kind := if o.kind.redeems then .store else o.kind, stage := .sent,
                   els := o.els.zipIdx.map (fun x => if stays x.2 then x.1 else { x.1 with st := .dropped }) }
  else none

/-- Nothing is left of a crew: its operations but for puts that outlive it and what acts without it, its registrations, gangs and
commands, and where it stops, its claims (Table 16-2). Writes of a crew that stops which wait for a frame are discarded with them (R193),
and no release waits for them (R183). -/
def State.discardCrew (s : State) (c : Nat) (stop : Bool) : State :=
  let w := s.crew c
  let s1 := (if stop then s.dropClaims c else s).unregister (fun r => r.crew == c)
  let gone (o : Op) : Bool := o.crew == c && !s.isPut o.id
  let ids := (s1.ops.filter gone).map Op.id
  let busy := (s1.quay.busy.map (fun (b : Busy) =>
    if b.waiting && stop then { b with writes := b.writes.filter (fun x => x.crew != c) } else b)).filter (fun b => !b.writes.isEmpty)
  let s2 : State := { s1 with
    ops := s1.ops.filterMap (fun o => if gone o then s1.orphan (heldKey c (s1.gang o.gang).num) o stop else some o),
    hops := s1.hops.filter (fun h => h.crew != c), tails := s1.tails.filter (fun t => t.hop.crew != c),
    fifo := s1.fifo.filter (fun e => e.1 / 4 != c), images := Map.put [] s1.images c [],
    quay := { s1.quay with busy := busy, fetches := s1.quay.fetches.filter (fun i => !ids.contains i) } }
  let s3 := (s2.leaveVacq w.slots)
  let left : Crew := { Crew.empty with core := if s2.ops.any (fun o => o.crew == c) then w.core else 0 }
  (((w.slots.foldl (fun t k => t.setGang k Gang.empty) s3).setCrew c left).freeDie w.asid (w.core / 64)).settleCore w.core

/-- A crew of a launch counts as ended. -/
def State.crewEnded (s : State) (launch : Nat) : State :=
  match s.launch launch with
  | some l => s.setLaunch launch { l with ended := l.ended + 1 }
  | none => s

/-- R352: a put to a peer that has left the core, for which the crew's launch does not wait: its descriptor's drain is clear, and
what it has still to do is at peers. -/
def Crew.lets (w : Crew) (o : Op) : Bool :=
  let far (e : El) : Bool := match homeOf e.addr.toNat with | some (.peer _) => true | _ => false
  w.d 497 497 == 0 && o.inQ && !o.faulted && (o.stage == .sent || o.stage == .ready)
  && o.els.any far && o.els.all (fun e => far e || e.final)

/-- The slot of a gang is freed. Its puts to peers go on without it, known to their job (R346, R352); what it has issued beside its
store queue goes on under the key at which its registers are kept, which nothing reads any more (R119; log 25). -/
def State.freeGang (s : State) (k : Nat) : State :=
  let g := s.gang k
  let w := s.crew g.crew
  let key := heldKey g.crew g.num
  let put (o : Op) : Bool := o.gang == k && w.lets o
  let s1 : State := { s with
    ops := s.ops.map (fun (o : Op) =>
      if put o then { o with gang := key, dst := .none, flag := none } else if o.gang == k then { o with gang := key } else o)
    hops := s.hops.map (HOp.rekeyed [(k, key)]), tails := s.tails.map (Tail.rekeyed [(k, key)])
    quay := { s.quay with pfx := s.quay.pfx.map (fun (j : PfxJob) => { j with op := { j.op with gang := rekey [(k, key)] j.op.gang } }) }
    puts := (s.puts.filter (fun p => (s.op p.1).isSome))
      ++ (s.ops.filter put).map (fun o => (o.id, levelKey w.asid 3 (w.d 495 480))) }
  let keeps : Bool := s.ops.any (fun o => o.gang == k && !put o) || s.hops.any (fun h => h.parts.any (fun p => p.gang == k))
  let s2 := if keeps then s1.setGang key { g with phase := .absent } else s1
  (s2.setGang k Gang.empty).setCrew g.crew { w with slots := w.slots.map (fun x => if x = k then key else x) }

/-- GANG_SLOT_FREE, R119: nothing is left in the store queue of an exited gang but puts that outlive it (R352). -/
def execGangSlotFree (k : Nat) (s : State) : Res :=
  let g := s.gang k
  let w := s.crew g.crew
  if g.phase == .exited && w.alive && s.ops.all (fun o => o.gang != k || !o.inQ || w.lets o) then .next (s.freeGang k) else .next s

/-- CREW_END, R119. Its redeems and claims go on: Table 16-2 lets a claim go where the claiming crew stops, and here it ends (log 25). -/
def execCrewEnd (c : Nat) (s : State) : Res :=
  let w := s.crew c
  if w.alive && w.slots.all (fun k => (s.gang k).phase == .absent) && w.ring.cmds.isEmpty
    && (w.ringLen == 0 || decide (w.ring.notify ≤ w.ring.consumed))
  then .next ((s.discardCrew c false).crewEnded w.launch) else .next s

/-! ### CREW_STOP (R193, R195) -/

/-- R201: the stop record of a crew. -/
def State.stopRecord (s : State) (c : Nat) (i : StopInfo) : FaultRec :=
  let t := (s.gang i.gang).trap
  { s.recordOf c i.gang with
    pc := t.tpc.toNat, lane := ((List.range 32).find? (fun l => t.tlanes.getLsbD l)).getD 0, cause := i.trap.cause,
    kind := 1, source := i.trap.source % 8, write := decide (8 ≤ i.trap.source), va := t.taddr.toNat }

/-- No element of an operation is parked at a page that still gets a frame (R193). -/
def State.noneMoves (s : State) (o : Op) : Bool := o.els.zipIdx.all (fun x => x.1.st != .parked || s.elAwaits o x.2)

/-- CREW_STOP, R193: what the crew has issued has completed; the rest is discarded, its place is freed, and a stop record is
posted. R199 leaves a crew as it is while the ring has no room for its record: here that holds of the record alone, which stays pending,
while the crew may be stopped, freed and counted as ended, or be switched out (log 36). -/
def execCrewStop (c : Nat) (s : State) : Res :=
  let w := s.crew c
  match w.stop with
  | none => .next s
  | some i =>
    if w.phase != .stopping || !s.crewRests c (fun o => s.claims o || (o.faulted && s.tried o && s.noneMoves o)) then .next s
    else
      let s1 := if i.record then s.post w.asid (s.stopRecord c i) else s
      let s2 := (s1.discardCrew c true).crewEnded w.launch
      .next (if i.error then s2.launchError w.asid w.launchId else s2)

/-! ### CREW_SWITCH_OUT (R202, R206, R270) -/

/-- R206, R307: a claim that waits when its crew is halted is logged as a faulted one, without a record. -/
def State.haltClaims (s : State) (c : Nat) : State :=
  (s.ops.filter (fun o => o.crew == c && s.claims o)).foldl (fun s o =>
    let o1 : Op := { o with els := o.els.map (fun (e : El) => if e.lane = 0 then { e with st := .faulted, res := [8, 0] } else e) }
    let s1 : State := { s with quay := { s.quay with berths := s.quay.berths.map (fun e =>
      if e.2.claim == .waiting o.id then (e.1, { e.2 with claim := .faulted o.id }) else e) } }
    s1.logFault o1) s

/-- Numbers of `n` bytes at places `f` of a list of keys and values, over a base. -/
def imgPut {α : Type} (base n : Nat) (f : Nat → Nat) (v : α → Nat) (es : List (Nat × α)) (m : Map Byte) : Map Byte :=
  es.foldl (fun m e => Map.putList 0 m (base + f e.1) (natLE n (v e.2))) m

/-- Table 9-4: the parts of a gang's area whose bytes the manual places, at a base (R205; log 27): scalar registers, predicates,
tags, entries of both winner lists, vector registers and the tiles owned. The table gives no order of a tile's cells in its 16 KB: the
model writes them row by row (log 27). -/
def Gang.image (g : Gang) (base : Nat) (m : Map Byte) : Map Byte :=
  let m1 := imgPut base 4 (fun r => 0x400 + 4 * r) BitVec.toNat g.sreg m
  let m2 := imgPut base 2 (fun l => 0x600 + 2 * l) id ((List.range 32).map (fun l =>
    (l, ((List.range 16).map (fun p => if (g.pred p).getLsbD l then 2 ^ p else 0)).foldl (· + ·) 0))) m1
  let m3 := imgPut base 1 (fun r => 0x640 + r) Ty.code ((List.range (64 + 64 * g.blocks)).map (fun r => (r, g.tag r))) m2
  let m4 := imgPut base 1 (fun t => 0x740 + t) Ty.code ((List.range g.ntiles).map (fun t => (t, g.ttag t))) m3
  let m5 := (List.range g.nlists).foldl (fun m w =>
    imgPut (base + 0x1000 + 0x1000 * w) 8 (fun i => 8 * i)
      (fun x => match x with | some e => e.1.toNat + 2 ^ 32 * e.2.toNat | none => 0) (g.list w).ent m) m4
  let m6 := imgPut base 4 (fun r => 0x3000 + 4 * r) BitVec.toNat g.vreg m5
  imgPut base 4 (fun t => 0xB000 + 4 * t) BitVec.toNat (g.tile.filter (fun e => decide (e.1 < 4096 * g.ntiles))) m6

/-- The gangs of a crew that are left, with their areas in its image. -/
def State.gangAreas (s : State) (c : Nat) : List (Gang × Nat) :=
  let w := s.crew c
  (w.slots.zipIdx.map (fun x => (s.gang x.1, 0x20000 + w.scrSize + 0x3B000 * x.2))).filter (fun x => x.1.phase != .absent)

/-- Table 9-4: the parts of an image in use whose contents the manual names, and not their places, with their sizes: of the crew its
numbers, its barriers, the pages outstanding and the crane state; of a gang its counters, flags, trap state and queue entries, the
settings of its lists, and its operand log (log 27). -/
def State.openAreas (s : State) (c : Nat) : List (Nat × Nat) :=
  [(0, 256), (0x100, 128), (0x1000, 8 * min 8192 (s.missing c)), (0x11000, 4096)]
  ++ (s.gangAreas c).flatMap (fun x => [(x.2, 1024), (x.2 + 0x800, 256), (x.2 + 0x2B000, 1024 * x.1.log.length)])

/-- Free bytes over areas, from the n-th free value on (R5). -/
def State.putFree (s : State) (m : Map Byte) : Nat → List (Nat × Nat) → Map Byte
  | _, [] => m
  | n, a :: as => s.putFree (Map.putList 0 m a.1 ((List.range a.2).map (fun i => (s.free (n + i)).setWidth 8))) (n + a.2) as

/-- R205, Table 9-4: the save image of a crew: its own area, its scratchpad, then one area per gang that is left, in gang order. -/
def State.image (s : State) (c : Nat) : Map Byte :=
  let m0 := s.putFree [] 0 (s.openAreas c)
  let m1 := imgPut 0x20000 1 id (fun (b : Byte) => b.toNat) (s.crew c).scratch m0
  (s.gangAreas c).foldl (fun m x => x.1.image x.2 m) m1
/-- The free values that an image takes. -/
def State.imageFree (s : State) (c : Nat) : Nat := ((s.openAreas c).map (·.2)).foldl (· + ·) 0

/-- A gang as it is saved: entries that its replay has not come to stand in its log again. -/
def Gang.saved (g : Gang) : Gang := { g with log := g.replay ++ g.log.filter (fun i => !g.replay.contains i), replay := [] }

/-- The requests of a crew that wait at slices for tokens are made anew when it is back. -/
def State.callBack (s : State) (c : Nat) : State :=
  let mine (w : Waiter) : Bool :=
    if w.cmd = 0 then (s.op w.who).any (fun o => o.crew == c) else w.cmd != retryCmd && w.who == c
  { s with quay := { s.quay with waits := s.quay.waits.filter (fun w => !mine w), paid := s.quay.paid.filter (fun w => !mine w) } }

/-- R202 steps 3 to 5: the image of a crew is saved, and its place is freed. Queue entries that have not been performed stand
in the queue again. -/
def State.switchOut (s : State) (c : Nat) : State :=
  let s9 := s.haltClaims c
  let s8 := (s9.gangsOf c).foldl (fun t k => t.setGang k (t.gang k).saved) s9
  let s0 : State := { s8.useFree (s8.imageFree c) with images := Map.put [] s8.images c (s8.image c) }
  let w := s0.crew c
  let ps := w.slots.map (fun k => (k, heldKey c (s0.gang k).num))
  let ps' := ps.filter (fun p => (s0.gang p.1).phase != .absent)
  let s1 := (s0.leaveVacq w.slots).moveGangs c ps' (fun h => h.leave ps')
  let back (o : Op) : Bool :=
    o.crew == c && o.inQ && o.stage == .sent && o.els.any (fun e => e.st == .todo) && !o.els.any (fun e => e.st == .parked)
  let s2 := ({ s1 with ops := s1.ops.map (fun o => if back o then o.requeued else o) } : State).callBack c
  (s2.setCrew c { w with phase := .out, slots := w.slots.map (rekey ps') }).freeDie w.asid (w.core / 64)

/-- R202: every gang is parked, exited or waits, and at least one is parked, or the crane holds a faulted element or has a write
that waits for a frame (R270). -/
def State.allStill (s : State) (c : Nat) : Bool :=
  let w := s.crew c
  w.slots.all (fun k => let g := s.gang k; g.phase != .running || g.parked || g.wait != .none)
  && (w.slots.any (fun k => let g := s.gang k; g.phase == .running && g.parked)
      || w.ring.cmds.any (s.cmdFaulted c)
      || s.ops.any (fun o => o.crew == c && o.kind.gathers && o.faulted))

/-- R186, R183: a switch-out is a release at device scope: every store that has left the core is acknowledged, of whichever crew, but for
those of the crew itself that faulted work keeps back (R202). -/
def State.coreReleased (s : State) (c core : Nat) : Bool :=
  s.ops.all (fun o => !(o.inQ && o.kind.memory && o.leftCores.contains core && o.seen != 0) || o.doneAt .dev
    || (o.crew == c && s.stuck o))

/-- CREW_SWITCH_OUT, R202; a halted crew is saved whatever its gangs do, its deferred traps taken (R206). -/
def execCrewSwitchOut (c : Nat) (s : State) : Res :=
  let w := s.crew c
  let halt := w.phase == .halting
  if (halt || (w.phase == .resident && decide (0 < s.missing c) && s.allStill c))
    && w.slots.all (fun k => !s.takes k)
    && s.crewRests c (fun o => halt && s.claims o) && s.coreReleased c w.core
  then .next (s.switchOut c) else .next s

/-! ### CREW_RESTORE (R203, R116, R171, R186) -/

/-- The shape of a crew that is out. -/
def State.outShape (s : State) (w : Crew) : Shape :=
  ⟨w.hasWatches, w.slots.map (fun k => (s.gang k).blocks), w.slots.map (fun k => (s.gang k).ntiles), w.scrSize, w.d 373 371⟩

/-- Requests for blocks join the queues of their new quadrants (R116), and an `mwait` starts anew (R171). Several gangs of the crew
join one queue in gang order: the manual does not say in which, and this is the model's choice (log 36). -/
def State.resumeWaits (s : State) : List Nat → State
  | [] => s
  | k :: ks =>
    (match (s.gang k).wait with
    | .vacq n =>
      let q := slotQuad k
      { s with vacqQ := Map.put [] s.vacqQ q (Map.get [] s.vacqQ q ++ [(k, n)]) }
    | .mwait id => (match s.op id with | some o => if o.stage = Stage.asleep then s.reread o else s | none => s)
    | _ => s).resumeWaits ks

/-- A crew takes its seats on a core: an acquire at device scope empties the L1, its image is no longer needed, and its logs
begin their replay. -/
def State.restore (s : State) (c core : Nat) (seats : List Nat) (base : Nat) : State :=
  let w := s.crew c
  let ps := (w.slots.zip seats).filter (fun p => (s.gang p.1).phase != .absent)
  let s1 := s.moveGangs c ps (fun h => h.arrive ps (w.slots.zip seats))
  let slots := w.slots.map (rekey ps)
  let s2 := ((s1.setCrew c { w with phase := .resident, core := core, scratchBase := base, slots := slots }).emptyL1 core).holdDie
    w.asid (core / 64)
  let s3 := ({ s2 with images := Map.put [] s2.images c [] } : State).resumeWaits slots
  (s3.gangsOf c).foldl State.beginReplay s3

/-- CREW_RESTORE, R203, R350: a crew whose count is zero is placed in its turn. -/
def execCrewRestore (c : Nat) (s : State) : Res :=
  let w := s.crew c
  if w.phase != .out then .next s
  else
    let part := w.d 379 376
    if ((s.nextItem part).bind Item.out) != some c then .next s
    else match s.choose part (s.pinned w.asid) (s.outShape w) with
      | none => .next s
      | some (x, s1) => .next (s1.restore c x.1 x.2.1 x.2.2)

/-! ### LEVEL_CANCEL (R348) -/

/-- A crew is stopped with cause 0x16 (R195): one that is out loses its image. -/
def State.cancelCrew (s : State) (c : Nat) (error : Bool) : State :=
  let w := s.crew c
  if w.phase = .out then (s.discardCrew c true).crewEnded w.launch
  else s.stopCrew c ⟨0, ⟨0x16, true, false, 0, 0, 0, 0, 0, 0, 0⟩, false, error⟩

/-- The crews of a launch stop. -/
def State.cancelCrews (s : State) (key : Nat) (error : Bool) : State :=
  ((s.crews.filter (fun e => e.2.launch == key)).map (·.1)).foldl (fun s c => s.cancelCrew c error) s

/-- A launch is cancelled: it places no further crew; a complete one is only marked (R347). -/
def State.cancelLaunch (s : State) (key : Nat) (error : Bool) : State :=
  match s.launch key with
  | none => s
  | some l =>
    if l.isComplete then s.setLaunch key { l with cancelled := true }
    else
      let n := if l.st = .queued then 0 else l.placed
      let s1 := s.setLaunch key { l with cancelled := true, st := .eligible, fixed := true, ncrews := n }
      let s2 : State := { s1 with harb := { s1.harb with slip := (s1.harb.slip.map (·.1)).foldl (fun m q =>
        Map.put [] m q ((Map.get [] m q).filter (· != key))) s1.harb.slip } }
      s2.cancelCrews key error

/-- A level lies inside another one: its ids above name it. -/
def insideLevel (lvl id : Nat) (l : Nat) (i : LevelInst) : Bool :=
  (l == 1 && lvl == 2 && i.phase == id) || (decide (l < 3) && decide (0 < l) && lvl == 3 && i.job == id)

/-- The place at which an instance of a level opened: what lies inside it opened no earlier. -/
def State.openedAt (s : State) (asid lvl id : Nat) : Nat :=
  if lvl = 0 then 0 else ((s.level (levelKey asid lvl id)).map LevelInst.opened).getD 0

/-- A level and the levels inside this instance of it are marked cancelled, also those that are complete (R347). -/
def State.markLevels (s : State) (asid lvl id : Nat) : State :=
  let from_ := s.openedAt asid lvl id
  { s with harb := { s.harb with levels := s.harb.levels.map (fun e =>
      let l := e.1 / 65536 % 4
      match e.2 with
      | some i =>
        if e.1 / 65536 / 4 == asid && ((l == lvl && e.1 % 65536 == id) || (insideLevel lvl id l i && decide (from_ ≤ i.opened)))
        then (e.1, some { i with cancelled := true }) else e
      | none => e) } }

/-- The launches of this instance of a level. -/
def State.launchesIn (s : State) (asid lvl id : Nat) : List Nat :=
  let from_ := s.openedAt asid lvl id
  (s.harb.launches.filter (fun e => e.1 / 65536 == asid && (match e.2 with
    | some l => if lvl = 0 then e.1 % 65536 == id else descLevel l.desc lvl == id && decide (from_ ≤ l.opened)
    | none => false))).map (·.1)

/-- R348: what `jcancel` finds: 2 for no instance, 1 for a complete one, 0 for one to cancel. -/
def State.cancelCode (s : State) (asid lvl id : Nat) : Nat :=
  if lvl = 0 then (match s.launch (launchKey asid id) with
    | some l => if l.isComplete then 1 else 0
    | none => 2)
  else if id = 0 then 2
  else match s.level (levelKey asid lvl id) with
    | some i => if i.complete then 1 else 0
    | none => 2

/-- LEVEL_CANCEL, R348. -/
def execLevelCancel (op : Nat) (s : State) : Res :=
  match s.op op with
  | none => .next s
  | some o =>
    match o.kind, o.els with
    | .jcancel lv, e :: _ =>
      if o.stage != .sent || e.st != .todo then .next s
      else
        let id := (o.arg.getD 0 0).toNat
        let code := if 65536 ≤ id then 2 else s.cancelCode o.asid lv.code id
        let s1 := s.elDone op 0 (natLE 4 code)
        if code ≠ 0 then .next s1
        else .next ((s1.launchesIn o.asid lv.code id).foldl (fun s k => s.cancelLaunch k false) (s1.markLevels o.asid lv.code id))
    | _, _ => .next s

/-! ### The pre-emption ladder (R206, R353) -/

def State.ladderOf (s : State) (asid : Nat) : Ladder := Map.get ⟨0, [], [], []⟩ s.harb.ladder asid
def State.setLadder (s : State) (asid : Nat) (l : Ladder) : State :=
  { s with harb := { s.harb with ladder := Map.put ⟨0, [], [], []⟩ s.harb.ladder asid l } }
def State.now (s : State) (die : Nat) : Nat := Map.get 0 s.cycles die
/-- The cycles of a die since a ladder started. -/
def State.since (s : State) (l : Ladder) (die : Nat) : Nat := (s.now die + 2 ^ 64 - Map.get 0 l.starts die) % 2 ^ 64

/-- START_LADDER, R353, R206 step 1: no crew of the context is placed from now on. -/
def execStartLadder (asid : Nat) (s : State) : Res :=
  if !s.served || s.onLadder asid then .next s
  else
    let starts := (List.range 4).foldl (fun m d => Map.put 0 m d (s.now d)) []
    .next ((s.setLadder asid ⟨1, starts, [], []⟩).ctxCause 4 1 asid 0)

/-- The crews of a context on a die. -/
def State.crewsAt (s : State) (asid die : Nat) : List Nat :=
  (s.crews.filter (fun e => e.2.asid == asid && e.2.core / 64 == die && e.2.craneRuns)).map (·.1)

/-- A crew that runs is halted. -/
def State.haltCrew (s : State) (c : Nat) : State :=
  let w := s.crew c
  if w.phase = .resident then s.setCrew c { w with phase := .halting } else s

/-- GRACE_TIMER_EXPIRE, R206 step 2. -/
def execGraceTimerExpire (asid die : Nat) (s : State) : Res :=
  let l := s.ladderOf asid
  if l.step == 0 || l.dies.contains die || decide (4 ≤ die) || decide (s.since l die < 2 ^ s.ctxField asid 99 94) then .next s
  else
    let s1 := (s.crewsAt asid die).foldl State.haltCrew (s.setLadder asid
      { l with step := 2, dies := l.dies ++ [die], grace := Map.put 0 l.grace die (s.now die) })
    .next (if l.step = 1 then s1.ctxCause 4 2 asid 0 else s1)

/-- R206 step 3, R195, R353: a context is killed: its crews stop without a save, saved images are discarded, its launches
that are not complete complete with error and cancelled set, and one stop record is posted. -/
def State.killContext (s : State) (asid : Nat) : State :=
  let keys := (s.harb.launches.filter (fun e => e.1 / 65536 == asid && (match e.2 with
    | some l => !l.isComplete
    | none => false))).map (·.1)
  let s1 := keys.foldl (fun s k => (s.cancelLaunch k true).launchError asid (k % 65536)) s
  let s2 := s1.post asid ⟨0, 0, 0, 0, 0, asid, 0, 0, 0x16, 1, false, 0, 0, 0⟩
  (s2.setLadder asid ⟨0, [], [], []⟩).ctxCause 4 3 asid 0

/-- KILL_TIMER_EXPIRE, R206 step 3: a crew of the context on the die is not yet saved a further 2^k cycles after the grace timer of
the die expired (R353). -/
def execKillTimerExpire (asid die : Nat) (s : State) : Res :=
  let l := s.ladderOf asid
  if !l.dies.contains die || (s.crewsAt asid die).isEmpty
    || decide ((s.now die + 2 ^ 64 - Map.get 0 l.grace die) % 2 ^ 64 < 2 ^ s.ctxField asid 105 100) then .next s
  else .next (s.killContext asid)

/-- RESUME, R353: halted crews are restored by R203. -/
def execResume (asid : Nat) (s : State) : Res := .next (if s.served then s.setLadder asid ⟨0, [], [], []⟩ else s)

/-- KILL, R353. -/
def execKill (asid : Nat) (s : State) : Res := .next (if s.served then s.killContext asid else s)

end Sys2Proof.Machine
end

