-- ==== Sys2Proof/Machine/Prefix.lean ====
section
/-! DEFINITION. The prefix engine of each die (spec 18): trees and nodes in memory, the four requests, and the events
PREFIX_WALK, PREFIX_INSERT, PREFIX_RELEASE and PREFIX_EVICT. A request that has left its core stands in its engine's queue; an
event of its kind accepts or refuses it, and the next one performs it to its end. -/

namespace Sys2Proof.Machine

/-! ### The instructions (R325-R327) -/

/-- The registers of the operand block that a request reads (Table 18-4), by place. -/
def pfxUses (kind : Nat) : List Nat :=
  match kind with
  | 0 => [0, 1, 2, 3, 4, 5, 6, 7]
  | 1 => [0, 1, 2, 3, 4, 6, 7]
  | 2 => [0, 1, 4, 5, 6, 7]
  | _ => [0, 1, 4]

/-- A request as it issues. Words of `arg`: the operand block, the record address, then the scope of the stamp. -/
def pfxOp (kind : Nat) (sc : Scope) (sd : Pair) (blk : Fin 16) (sb : Pair) (s : State) : Res :=
  let n := 8 * blk.val
  let t (g : Gang) : Dword := g.rp n
  let rec_ (g : Gang) : Dword := g.rp (ev sb)
  let al (a : Dword) (k : Nat) : Option Nat := if a.toNat % k ≠ 0 then some 5 else none
  let home (a : Dword) : Option Nat := match homeOf a.toNat with | some (.die _) => none | _ => some 6
  scalarMem s ((pfxUses kind).map (n + ·) ++ pr sb) (pr sd) 8
    (fun g => [(al (t g) 64, t g), (al (rec_ g) 32, rec_ g), (home (t g), t g), (home (rec_ g), rec_ g)])
    (fun g => { s.baseOp with
      kind := .pfx kind, inQ := true, stage := .queued, scope := .dev, ord := .rel, mask := BitVec.allOnes 8,
      els := [el1 (t g) []], dst := .pair (ev sd),
      arg := (List.range 8).map (fun i => if (pfxUses kind).contains i then g.rs (n + i) else 0)
        ++ [g.rs (ev sb), g.rs (ev sb + 1), BitVec.ofNat 32 sc.code] })

/-- `pfxwalk`, R327. -/
def execPfxwalk (sc : Scope) (sd : Pair) (blk : Fin 16) (sb : Pair) (s : State) : Res := pfxOp 0 sc sd blk sb s
/-- `pfxins`, R327. -/
def execPfxins (sc : Scope) (sd : Pair) (blk : Fin 16) (sb : Pair) (s : State) : Res := pfxOp 1 sc sd blk sb s
/-- `pfxrel`, R327. -/
def execPfxrel (sc : Scope) (sd : Pair) (blk : Fin 16) (sb : Pair) (s : State) : Res := pfxOp 2 sc sd blk sb s
/-- `pfxevict`, R327. -/
def execPfxevict (sc : Scope) (sd : Pair) (blk : Fin 16) (sb : Pair) (s : State) : Res := pfxOp 3 sc sd blk sb s

/-- A request as the engine has it: T, A, the words N+4 and N+5, W, the record address, and whether the scope of its stamp is the
issuing core's or narrower. -/
structure PfxReq where
  asid : Nat
  t    : Nat
  a    : Nat
  n    : Nat
  w    : Nat
  win  : Nat
  rec_ : Nat
  near : Bool

def Op.pfx (o : Op) : PfxReq :=
  let word (i : Nat) : Nat := (o.arg.getD i 0).toNat
  let pair (i : Nat) : Nat := word i + 2 ^ 32 * word (i + 1)
  ⟨o.asid, pair 0, pair 2, word 4, word 5, pair 6, pair 8, decide (word 10 ≤ 2)⟩

/-! ### Memory of a context -/

/-- The 64 KB pages of a span. -/
def pagesOf (va n : Nat) : List Nat :=
  (List.range ((va + n + 65535) / 65536 - va / 65536)).map (fun i => (va / 65536 + i) * 65536)

/-- R320, R329: a page is a normal or pooled page with R and W. -/
def State.treePage (s : State) (asid va : Nat) : Bool :=
  match homeOf va with
  | some (.die d) =>
    (match s.walk asid d (va % 2 ^ 50) with
    | .leaf _ e _ => (pteKind e == kNormal || pteKind e == kPooled) && pteR e && pteW e
    | _ => false)
  | _ => false
def State.treeSpan (s : State) (asid va n : Nat) : Bool := (pagesOf va n).all (s.treePage asid)

/-- Write bytes of a context block by block, each at its slice, and in the lines that the L1 of a core holds; a block that does not
translate is left alone. -/
def State.writeV (s : State) (asid : Nat) (core : Option Nat) : Nat → Nat → List Byte → State
  | 0, _, _ => s
  | fuel + 1, va, bs =>
    if bs.isEmpty then s
    else
      let m := min bs.length (512 - va % 512)
      let s1 := match homeOf va with
        | some (.die d) =>
          (match s.look asid d va true with
          | .ok pa _ =>
            let t := s.writePhys pa (bs.take m)
            (match core with | some c => t.l1Store c asid va (bs.take m) | none => t)
          | _ => s)
        | _ => s
      s1.writeV asid core fuel (va + m) (bs.drop m)
def State.putV (s : State) (asid va : Nat) (bs : List Byte) (core : Option Nat := none) : State :=
  s.writeV asid core (bs.length / 512 + 2) va bs

/-! ### Trees and nodes (R320, R321) -/

/-- Table 18-1, with the context and the address of the header. -/
structure Tree where
  asid   : Nat
  t      : Nat
  p      : Nat
  count  : Nat
  nodes  : Nat
  walks  : Nat
  free   : Nat
  unused : Nat
  used   : Nat
  held   : Nat

/-- Table 18-2, with the token run. -/
structure TNode where
  parent : Nat
  child  : Nat
  sib    : Nat
  last   : Nat
  frame  : Nat
  run    : Nat
  state  : Nat
  toks   : List Nat

def Tree.nodeSize (tr : Tree) : Nat := 32 + 4 * tr.p
def Tree.nodeAt (tr : Tree) (i : Nat) : Nat := tr.nodes + i * tr.nodeSize

/-- The tree of a header, or none for a malformed one (status 4). -/
def treeOf (asid t h : Nat) : Option Tree :=
  let tr : Tree := ⟨asid, t, 8 * 2 ^ bits h 1 0, bits h 63 32, bits h 127 64, bits h 255 192, bits h 287 256, bits h 319 288,
    bits h 351 320, bits h 383 352⟩
  if bits h 511 384 != 0 || bits h 31 2 != 0 || decide (tr.count < 2) || decide (2 ^ 24 < tr.count)
      || decide (tr.used < 1) || decide (tr.count < tr.used) || decide (tr.unused < 1) || decide (tr.count < tr.unused)
      || decide (tr.count ≤ tr.free) || tr.nodes % 32 != 0 || tr.nodes / 2 ^ 50 != t / 2 ^ 50
  then none else some tr

/-- The node of an index, whatever its fields hold; none outside the area or outside a normal or pooled page. -/
def State.rawNode (s : State) (tr : Tree) (i : Nat) : Option TNode :=
  let va := tr.nodeAt i
  if tr.count ≤ i ∨ va / 2 ^ 50 ≠ tr.t / 2 ^ 50 ∨ !s.treeSpan tr.asid va tr.nodeSize then none
  else match s.readV tr.asid va tr.nodeSize with
    | none => none
    | some bs =>
      let h := leNat (bs.take 32)
      if bits h 159 128 ≠ 0 ∨ bits h 29 0 ≠ 0 then none
      else some ⟨bits h 255 224, bits h 223 192, bits h 191 160, bits h 127 64, bits h 63 40, bits h 39 33, bits h 32 30,
        (wordsOf tr.p (bs.drop 32)).map BitVec.toNat⟩

/-- R321: a node in use: the root, or a node with a run of 1 to P tokens. -/
def State.node (s : State) (tr : Tree) (i : Nat) : Option TNode :=
  (s.rawNode tr i).bind (fun x =>
    if i = 0 then (if x.state = 0 ∨ x.state = 2 then some x else none)
    else if x.state = 1 ∧ 1 ≤ x.run ∧ x.run ≤ tr.p then some x else none)

def TNode.bytes (x : TNode) (p : Nat) : List Byte :=
  natLE 32 (x.parent * 2 ^ 224 + x.child * 2 ^ 192 + x.sib * 2 ^ 160 + x.last * 2 ^ 64 + x.frame * 2 ^ 40 + x.run * 2 ^ 33
    + x.state * 2 ^ 30)
  ++ (List.range p).flatMap (fun i => natLE 4 (if i < x.run then x.toks.getD i 0 else 0))

def State.putNode (s : State) (tr : Tree) (i : Nat) (x : TNode) : State := s.putV tr.asid (tr.nodeAt i) (x.bytes tr.p)

/-- The fields of the header that a request writes: walks, free, unused, used, held. -/
def State.putTree (s : State) (tr : Tree) : State :=
  s.putV tr.asid (tr.t + 24) (natLE 8 tr.walks ++ natLE 4 tr.free ++ natLE 4 tr.unused ++ natLE 4 tr.used ++ natLE 4 tr.held)

/-- The children of a node from one of them on, with their nodes. -/
def State.kidsFrom (s : State) (tr : Tree) (parent : Nat) : Nat → Nat → Option (List (Nat × TNode))
  | 0, c => if c = 0 then some [] else none
  | fuel + 1, c =>
    if c = 0 then some []
    else match s.node tr c with
      | none => none
      | some x => if x.parent ≠ parent then none else (s.kidsFrom tr parent fuel x.sib).map ((c, x) :: ·)
def State.kids (s : State) (tr : Tree) (i : Nat) : Option (List (Nat × TNode)) :=
  match s.node tr i with
  | none => none
  | some x => s.kidsFrom tr i tr.count x.child

/-- R324: the run of a node equals the tokens at a position. -/
def TNode.fits (x : TNode) (toks : List Nat) (pos : Nat) : Bool :=
  decide (x.run ≤ toks.length - pos) && (toks.drop pos).take x.run == x.toks.take x.run

/-! ### Counts and pages -/

/-- R277: one reference more; none past 0xFF_FFFF. -/
def State.refFrame (s : State) (f : Nat) : Option State :=
  let x := s.frame f
  if 0xFFFFFF ≤ x.count then none else some (s.setFrame f { x with count := x.count + 1 })

/-- The leaf PTE of a 64 KB page of a window and its place. -/
def State.winLeaf (s : State) (asid va : Nat) : Option (Nat × Nat) :=
  match homeOf va with
  | some (.die d) => (match s.walk asid d (va % 2 ^ 50) with | .leaf 3 e a => some (e, a) | _ => none)
  | _ => none

/-- A new PTE of a 64 KB page with its shootdown (R282). -/
def State.newLeaf (s : State) (asid va at_ e : Nat) : State :=
  (s.setPte at_ e).shoot asid (va / 2 ^ 50) (va % 2 ^ 50) 65536

/-- The key of a page of a window. -/
def winKey (asid va : Nat) : Nat := busyKey asid (va / 2 ^ 50) (va % 2 ^ 50)
/-- A page of a window is busy with a copy-on-write (R292). -/
def State.winBusy (s : State) (asid va : Nat) : Bool := (s.busyPage (winKey asid va)).isSome

/-- Table 18-5: what a request puts into its record. -/
structure PfxOut where
  status : Nat
  a      : Nat
  b      : Nat
  c      : Nat
  d      : Nat
  frames : List Nat

/-- A request that ends with status 2 or above changes nothing (R330). -/
abbrev PfxRes := Except Nat (PfxOut × State)

def orStatus {α : Type} (n : Nat) (x : Option α) : Except Nat α := match x with | some v => .ok v | none => .error n

/-- The n tokens of the array (status 6). -/
def State.tokens (s : State) (r : PfxReq) : Except Nat (List Nat) :=
  if r.n = 0 then .ok []
  else match s.readV r.asid r.a (4 * r.n) with
    | some bs => .ok ((wordsOf r.n bs).map BitVec.toNat)
    | none => .error 6

/-- The window lies on 64 KB at the home of the tree (Table 18-4). -/
def PfxReq.winBad (r : PfxReq) : Bool := r.win % 65536 != 0 || r.win / 2 ^ 50 != r.t / 2 ^ 50
/-- The token array and its length are within their limits. -/
def PfxReq.arrayBad (r : PfxReq) (p : Nat) : Bool := decide (4096 * p < r.n) || r.a % 4 != 0 || decide (2 ^ 52 ≤ r.a)

/-! ### The requests (R331-R334) -/

/-- R324: the path from a node on, of at most `fuel` nodes, and its length in tokens. -/
def State.pathFrom (s : State) (tr : Tree) (toks : List Nat) : Nat → Nat → Nat → Option (List (Nat × TNode) × Nat)
  | 0, _, pos => some ([], pos)
  | fuel + 1, cur, pos =>
    match s.kids tr cur with
    | none => none
    | some ks =>
      let fit := ks.filter (fun x => x.2.fits toks pos)
      match fit.foldl (fun (m : Option (Nat × TNode)) x =>
          match m with | none => some x | some y => if y.2.run < x.2.run then some x else some y) none with
      | none => some ([], pos)
      | some x =>
        if x.2.run < tr.p then some ([x], pos + x.2.run)
        else (s.pathFrom tr toks fuel x.1 (pos + x.2.run)).map (fun y => (x :: y.1, y.2))

/-- R331: page k of the window takes the frame of a path node. -/
def State.mapPath (s : State) (tr : Tree) (win cnt : Nat) : List ((Nat × TNode) × Nat) → Except Nat State
  | [] => .ok s
  | ((i, x), k) :: rest =>
    let va := win + k * 65536
    match s.winLeaf tr.asid va, s.refFrame x.frame with
    | some (_, at_), some s1 =>
      let s2 := s1.putNode tr i { x with last := cnt }
      ((s2.newLeaf tr.asid va at_ (mkLeaf kCow true true x.frame)).notifyPage tr.asid (va / 2 ^ 50) (va % 2 ^ 50) 65536).mapPath
        tr win cnt rest
    | none, _ => .error 3
    | _, none => .error 2

/-- `pfxwalk`, R331. -/
def State.pfxWalk (s : State) (r : PfxReq) (tr : Tree) : PfxRes := do
  if r.winBad || r.arrayBad tr.p || decide (4096 < r.w) then .error 5
  else
    let toks ← s.tokens r
    let (path, pos) ← orStatus 4 (s.pathFrom tr toks r.w 0 0)
    if path.zipIdx.any (fun x => match s.winLeaf r.asid (r.win + x.2 * 65536) with
        | some (e, _) => pteKind e != kSparse
        | none => true) then .error 3
    else
      let cnt := (tr.walks + 1) % 2 ^ 64
      let s1 ← (s.putTree { tr with walks := cnt }).mapPath tr r.win cnt path.zipIdx
      .ok (⟨0, pos, path.length, 0, cnt, path.map (fun x => x.2.frame)⟩, s1)

/-- R332: a node is made for a page and becomes the first child of its parent. -/
def State.makeNode (s : State) (tr : Tree) (parent : Nat) (toks : List Nat) (frame : Nat) : Except Nat (Nat × Tree × State) := do
  let px ← orStatus 4 (s.node tr parent)
  let (i, tr1) ← (if tr.free ≠ 0 then
      match s.rawNode tr tr.free with
      | some x => if x.state = 0 then .ok (tr.free, { tr with free := x.sib }) else .error 4
      | none => .error 4
    else .ok (tr.unused, { tr with unused := tr.unused + 1 }))
  let s1 ← orStatus 2 (s.refFrame frame)
  if !s1.treeSpan tr.asid (tr.nodeAt i) tr.nodeSize then .error 4
  else
    let s2 := (s1.putNode tr i ⟨parent, 0, px.child, tr.walks, frame, toks.length, 1, toks⟩).putNode tr parent { px with child := i }
    .ok (i, { tr1 with held := tr.held + 1, used := tr.used + 1 }, s2)

/-- R332: a pooled page of a sequence becomes shared-COW. -/
def State.sharePage (s : State) (asid va : Nat) : State :=
  match s.winLeaf asid va with
  | some (e, at_) => if pteKind e = kPooled then s.newLeaf asid va at_ (e - kPooled * 2 ^ 60 + kCow * 2 ^ 60) else s
  | none => s

/-- R332: pages from `k` on, under `node` at position `pos`; `fuel` pages are left. -/
def State.insFrom (s : State) (r : PfxReq) (toks : List Nat) (tr : Tree) (node pos k made : Nat) (frames : List Nat) :
    Nat → PfxRes
  | 0 => .ok (⟨0, pos, k, made, 0, frames⟩, s.putTree tr)
  | fuel + 1 => do
    let len := min tr.p (r.n - pos)
    let seg := (toks.drop pos).take len
    let ks ← orStatus 4 (s.kids tr node)
    match ks.find? (fun x => x.2.run == len && x.2.toks.take len == seg) with
    | some x => s.insFrom r toks tr x.1 (pos + len) (k + 1) made (frames ++ [x.2.frame]) fuel
    | none =>
      if tr.free = 0 ∧ tr.unused = tr.count then .ok (⟨1, pos, k, made, 0, frames⟩, s.putTree tr)
      else
        let va := r.win + k * 65536
        let (e, _) ← orStatus 3 (s.winLeaf r.asid va)
        let (i, tr1, s1) ← s.makeNode tr node seg (pteFrame e)
        (s1.sharePage r.asid va).insFrom r toks tr1 i (pos + len) (k + 1) (made + 1) (frames ++ [pteFrame e]) fuel

/-- R332: the pages of n tokens. -/
def insPages (n p : Nat) : Nat := (n + p - 1) / p

/-- `pfxins`, R332: the check of the window's pages comes before the loop, so that status 3 comes before a malformed node of the path
(4) and a count (2): the model's choice (log 28). -/
def State.pfxIns (s : State) (r : PfxReq) (tr : Tree) : PfxRes := do
  if r.winBad || r.arrayBad tr.p then .error 5
  else
    let toks ← s.tokens r
    let n := insPages r.n tr.p
    if (List.range n).any (fun k => match s.winLeaf r.asid (r.win + k * 65536) with
        | some (e, _) => (pteKind e != kPooled && pteKind e != kCow) || frameDie (pteFrame e) != r.t / 2 ^ 50
            || (s.frame (pteFrame e)).asid != r.asid
        | none => true) then .error 3
    else s.insFrom r toks tr 0 0 0 0 [] n

/-- R333: pages of a window are released. -/
def State.relPages (s : State) (r : PfxReq) : List Nat → Nat → Nat → Nat × Nat × State
  | [], rel, skip => (rel, skip, s)
  | k :: ks, rel, skip =>
    let va := r.win + k * 65536
    match s.winLeaf r.asid va with
    | none => s.relPages r ks rel skip
    | some (e, at_) =>
      if pteKind e = kSparse then s.relPages r ks rel (skip + 1)
      else ((s.newLeaf r.asid va at_ (mkLeaf kSparse (pteR e) (pteW e) 0)).unref (pteFrame e)).2.relPages r ks (rel + 1) skip

/-- The pages that a release names. -/
def PfxReq.relList (r : PfxReq) : List Nat := (List.range r.n).map (r.w + ·)

/-- `pfxrel`, R333. -/
def State.pfxRel (s : State) (r : PfxReq) : PfxRes :=
  if r.winBad || decide (4096 < r.n) || decide (65536 < r.w + r.n) then .error 5
  else if r.relList.any (fun k => match s.winLeaf r.asid (r.win + k * 65536) with
      | some (e, _) => pteKind e == kNormal
      | none => true) then .error 3
  else
    let x := s.relPages r r.relList 0 0
    .ok (⟨0, x.1, x.2.1, 0, 0, []⟩, x.2.2)

/-- R334: the nodes in use other than the root, by index; none where one is malformed. -/
def State.liveNodes (s : State) (tr : Tree) : Option (List (Nat × TNode)) :=
  ((List.range tr.unused).drop 1).foldr (fun i acc =>
    match acc, s.rawNode tr i with
    | some l, some x => if x.state = 1 then (s.node tr i).map (fun y => (i, y) :: l) else if x.state = 0 then some l else none
    | _, _ => none) (some [])

/-- The leaf with the smallest last value, then the smallest index. -/
def oldestLeaf (l : List (Nat × TNode)) : Option (Nat × TNode) :=
  (l.filter (fun x => x.2.child == 0)).foldl (fun (m : Option (Nat × TNode)) x =>
    match m with | none => some x | some y => if x.2.last < y.2.last then some x else some y) none

/-- A leaf leaves the list of its parent's children. -/
def State.unlink (s : State) (tr : Tree) (i : Nat) (x : TNode) : Option State :=
  match s.node tr x.parent, s.kids tr x.parent with
  | some px, some ks =>
    if px.child = i then some (s.putNode tr x.parent { px with child := x.sib })
    else (ks.find? (fun y => y.2.sib == i)).map (fun y => s.putNode tr y.1 { y.2 with sib := x.sib })
  | _, _ => none

/-- R334: leaves are removed until `f` frames are free. -/
def State.evictGo (s : State) (f : Nat) : Nat → Tree → Nat → Nat → PfxRes
  | 0, tr, freed, removed => .ok (⟨0, freed, removed, 0, 0, []⟩, s.putTree tr)
  | fuel + 1, tr, freed, removed => do
    let live ← orStatus 4 (s.liveNodes tr)
    match (if freed < f then oldestLeaf live else none) with
    | none => .ok (⟨0, freed, removed, 0, 0, []⟩, s.putTree tr)
    | some (i, x) =>
      let s1 ← orStatus 4 (s.unlink tr i x)
      let s2 := s1.putNode tr i { x with state := 0, sib := tr.free }
      let u := s2.unref x.frame
      u.2.evictGo f fuel { tr with free := i, used := tr.used - 1, held := tr.held - 1 }
        (if u.1 then freed + 1 else freed) (removed + 1)

/-- `pfxevict`, R334. -/
def State.pfxEvict (s : State) (r : PfxReq) (tr : Tree) : PfxRes := s.evictGo r.n tr.unused tr 0 0

/-! ### Acceptance and the record (R328-R330, R336) -/

/-- R329: the pages that a request could list. -/
def pfxLists (kind p : Nat) (r : PfxReq) : Nat :=
  match kind with
  | 0 => if r.w ≤ 4096 then r.w else 0
  | 1 => if r.n ≤ 4096 * p then insPages r.n p else 0
  | _ => 0

/-- The header of a request's tree, where the request is accepted. -/
def State.pfxAccepts (s : State) (kind : Nat) (r : PfxReq) : Option Nat :=
  if !s.treeSpan r.asid r.t 64 then none
  else match s.readV r.asid r.t 64 with
    | none => none
    | some bs =>
      let h := leNat bs
      if s.treeSpan r.asid r.rec_ (32 + 4 * pfxLists kind (8 * 2 ^ bits h 1 0) r) then some h else none

/-- R328, R321: the request counter counts a request, and the first one accepted on a tree marks its root. -/
def State.pfxCount (s : State) (r : PfxReq) (h q : Nat) : State :=
  let s1 := s.putV r.asid (r.t + 16) (natLE 8 q)
  match treeOf r.asid r.t h with
  | none => s1
  | some tr => match s1.node tr 0 with
    | some x => if x.state = 0 then s1.putNode tr 0 { x with state := 2 } else s1
    | none => s1

/-- R311: a fetch of bytes that an acceptance writes is pending: of the header, or of a root that it marks. -/
def State.markFetched (s : State) (r : PfxReq) (h : Nat) : Bool :=
  s.fetching r.asid r.t 64 || (match treeOf r.asid r.t h with
    | none => false
    | some tr => (s.node tr 0).any (fun x => x.state == 0 && s.fetching r.asid tr.nodes tr.nodeSize))

/-- The work of an accepted request. A malformed header or root (status 4) comes before the operands (5), and those before the token
array (6) and what the request finds on its way: the model's choice (log 28). -/
def State.pfxRun (s : State) (kind : Nat) (r : PfxReq) (h : Nat) : PfxRes :=
  if kind = 2 then s.pfxRel r
  else match treeOf r.asid r.t h with
    | none => .error 4
    | some tr =>
      if (s.node tr 0).isNone then .error 4
      else match kind with
        | 0 => s.pfxWalk r tr
        | 1 => s.pfxIns r tr
        | _ => s.pfxEvict r tr

/-- Table 18-5: the record, then the stamp. A gang that acquires the stamp at a scope of 0 to 2 sits on the core that issued the
request and keeps its L1, whose lines take the bytes (R153, R189, R336). -/
def State.pfxRecord (s : State) (r : PfxReq) (core q : Nat) (o : PfxOut) : State :=
  let l1 := if r.near then some core else none
  (s.putV r.asid (r.rec_ + 8) (natLE 4 o.status ++ natLE 4 o.a ++ natLE 4 o.b ++ natLE 4 o.c ++ natLE 8 o.d
    ++ o.frames.flatMap (natLE 4)) l1).putV r.asid r.rec_ (natLE 8 q) l1

/-- R329, R330: the trap of a request, which its gang takes while it runs. -/
def State.pfxTrap (s : State) (o : Op) : State :=
  if (s.gang o.gang).crew = o.crew then s.report o.gang ⟨0x15, true, false, o.pc, o.info, 0, 0, 0, o.id, 0⟩ else s

/-- A fetch of bytes of the nodes that a request may write is pending (R311), by this address or by another of the same frame. -/
def State.nodesFetched (s : State) (kind : Nat) (r : PfxReq) (head : Nat) : Bool :=
  kind != 2 && s.quay.berths.any (fun b => b.2.st == .pending) && (match treeOf r.asid r.t head with
    | none => false
    | some tr =>
      let n := tr.nodeSize * min tr.count (tr.unused + pfxLists kind tr.p r)
      (pagesOf tr.nodes n).any (fun a =>
        let lo := max a tr.nodes
        s.fetching r.asid lo (min (a + 65536) (tr.nodes + n) - lo)))

/-- A request waits for copies of its pages (R283, R333), for accesses that hold their translations (R282), and for writes and
fetches of the bytes that it reads or writes (R291, R311). -/
def State.pfxWaits (s : State) (kind : Nat) (r : PfxReq) (p : Nat) : Bool :=
  let pages := match kind with
    | 1 => List.range (insPages (min r.n (4096 * p)) p)
    | 2 => ({ r with n := min r.n 4096 } : PfxReq).relList
    | _ => []
  pages.any (fun k => s.winBusy r.asid (r.win + k * 65536) || s.midAtomic (winKey r.asid (r.win + k * 65536)))
  || s.fetching r.asid r.t 64 || s.fetching r.asid r.rec_ (32 + 4 * pfxLists kind p r)
  || (decide (kind ≤ 1) && (pagesOf r.a (4 * min r.n (4096 * p))).any (fun a =>
        (s.busyPage (busyKey r.asid (a / 2 ^ 50) (a % 2 ^ 50))).isSome && s.spanParked r.asid a 65536))

/-- The request at the head of the engine of a die: the first that left its core. -/
def State.pfxHead (s : State) (die : Nat) : Option Op :=
  (s.ops.filter (fun o => (match o.kind with | .pfx _ => true | _ => false) && o.stage == .sent
      && o.els.any (fun e => e.st == .todo && e.addr.toNat / 2 ^ 50 == die))).foldl (fun (m : Option Op) x =>
    match m with | none => some x | some y => if x.left < y.left then some x else some y) none

/-- The request at the head of an engine is refused, or accepted with the next number of its tree (R328, R329). -/
def State.pfxAccept (s : State) (die kind : Nat) (o : Op) : State :=
  let r := o.pfx
  match s.pfxAccepts kind r with
  | none => (s.pfxTrap o).elDone o.id 0 (natLE 8 0)
  | some h =>
    if s.markFetched r h then s
    else
      let q := (bits h 191 128 + 1) % 2 ^ 64
      let s1 := s.pfxCount r h q
      let s2 : State := { s1 with quay := { s1.quay with pfx := s1.quay.pfx ++ [⟨die, h, q, o⟩] } }
      s2.elDone o.id 0 (natLE 8 q)

/-- An accepted request is performed: its work, its record and its stamp, or a status of 2 or above with its trap (R330). The core that
issued it is the one that it last left, wherever its crew is now. -/
def State.pfxPerform (s : State) (kind : Nat) (j : PfxJob) : State :=
  let r := j.op.pfx
  let core := j.op.leftCores.headD (s.coreOf j.op)
  let s1 : State := { s with quay := { s.quay with pfx := s.quay.pfx.erase j } }
  match s1.pfxRun kind r j.head with
  | .ok (out, s2) => s2.pfxRecord r core j.q out
  | .error st => (s1.pfxRecord r core j.q ⟨st, 0, 0, 0, 0, []⟩).pfxTrap j.op

/-- An engine performs the request that it has accepted, and otherwise takes the one at its head, if that is of a kind (R328). -/
def pfxEvent (die kind : Nat) (s : State) : Res :=
  match s.quay.pfx.find? (fun j => j.die == die) with
  | some j =>
    if j.op.kind != .pfx kind || s.pfxWaits kind j.op.pfx (8 * 2 ^ bits j.head 1 0)
        || s.nodesFetched kind j.op.pfx j.head then .next s else .next (s.pfxPerform kind j)
  | none =>
    match s.pfxHead die with
    | none => .next s
    | some o => if o.kind != .pfx kind then .next s else .next (s.pfxAccept die kind o)

/-- PREFIX_WALK, R331. -/
def execPrefixWalk (die : Nat) (s : State) : Res := pfxEvent die 0 s
/-- PREFIX_INSERT, R332. -/
def execPrefixInsert (die : Nat) (s : State) : Res := pfxEvent die 1 s
/-- PREFIX_RELEASE, R333. -/
def execPrefixRelease (die : Nat) (s : State) : Res := pfxEvent die 2 s
/-- PREFIX_EVICT, R334. -/
def execPrefixEvict (die : Nat) (s : State) : Res := pfxEvent die 3 s

end Sys2Proof.Machine
end

