-- ==== Sys2Proof/Machine/HostIf.lean ====
section
/-! DEFINITION. The host interface (spec 22): registers, queue pairs, cause table, management mailbox, aperture, firmware,
SPDM, recording, Apfiz ports, power and reset. Each event of the host is one write or access that has arrived. -/

namespace Sys2Proof.Machine

/-- An event of the host at a device that serves it. -/
def hostDo (s : State) (t : State) : Res := .next (if s.served then t else s)

/-! ### Registers (R359, Table 22-1) -/

/-- The bits of a plain register that a write keeps; none for an offset without one. -/
def plainMask (fn off : Nat) : Option Nat :=
  if off = 0x300 then some (0xFFFFFFFF * 2 ^ 32 + 0x3FFF)
  else if fn ≠ 0 then none
  else if off = 0x10 then some (2 ^ 64 - 1)
  else if off = 0x18 then some 0xFFFFFFFF
  else if off = 0x1000 then some (2 ^ 64 - 1)
  else if 0x1044 ≤ off ∧ off ≤ 0x107C ∧ off % 4 = 0 then some 0xF
  else if off = 0x1100 then some (2 ^ 64 - 1)
  else if off = 0x1108 then some (2 ^ 31 + 31 * 2 ^ 20)
  else if 0x3008 ≤ off ∧ off ≤ 0x3020 ∧ off % 8 = 0 then some (2 ^ 64 - 1)
  else none

/-- Queue pair q of a function. -/
def pairKey (fn q : Nat) : Nat := fn * 8 + q
def pairOk (fn q : Nat) : Bool := decide (fn < 16) && decide (q < 8)

/-- A write to a register of a queue pair that only holds what is written. -/
def QPair.plainWrite (x : QPair) (reg : Nat) (v : Dword) : QPair :=
  match reg with
  | 0 => { x with qbase := v }
  | 8 => { x with cbase := v }
  | 0x38 => { x with recregs := v &&& 0xFFFFFFFFFFFFFFCF }
  | _ => x

/-- The firmware-load mailbox is there in recovery mode too. -/
def State.mailboxOpen (s : State) (fn off : Nat) : Bool :=
  s.powered && (s.served || (fn == 0 && s.host.recovery && (off == 0x10 || off == 0x18)))

/-- REGISTER_WRITE, R359: registers that hold what is written; writes to other offsets are ignored. A new ring of records is
filled from its start. -/
def execRegisterWrite (fn off : Nat) (v : Dword) (s : State) : Res :=
  if decide (16 ≤ fn) || !s.mailboxOpen fn off then .next s
  else if 0x100 ≤ off ∧ off < 0x300 then
    let p := pairKey fn ((off - 0x100) / 0x40)
    .next (s.setPair p ((s.pairAt p).plainWrite ((off - 0x100) % 0x40) v))
  else match plainMask fn off with
    | none => .next s
    | some m =>
      let s1 := s.setBarReg fn off (v &&& BitVec.ofNat 64 m)
      .next (if off = 0x1100 ∨ off = 0x1108 then { s1 with host := { s1.host with recpos := 0 } } else s1)

/-- A register of a queue pair (Table 22-1). -/
def QPair.reg (x : QPair) (reg : Nat) : Dword :=
  match reg with
  | 0 => x.qbase
  | 8 => x.cbase
  | 0x10 => x.qcfg.setWidth 64
  | 0x18 => x.sqemit
  | 0x20 => x.sqtaken
  | 0x28 => x.cqemit
  | 0x30 => x.cqseen
  | 0x38 => x.recregs
  | _ => 0

/-- R360: the value of a split or map register: what is in effect (log 19), and bit 31 while a written value waits. -/
def pendingReg (now : Nat) (written : Option Nat) : Dword := BitVec.ofNat 64 (now + b1 written.isSome * 2 ^ 31)

/-- The registers that function 0 alone has (Table 22-1). -/
def State.barRead0 (s : State) (off : Nat) : Dword :=
  let core (base : Nat) : Nat := let c := (off - base) / 4; c / 48 * 64 + c % 48
  if off = 0x20 then BitVec.ofNat 64 s.host.fwstat
  else if off = 0x1008 then BitVec.ofNat 64 s.host.causeemit
  else if off = 0x1010 then BitVec.ofNat 64 s.host.causeseen
  else if off = 0x1018 then BitVec.ofNat 64 (b1 s.host.causeover)
  else if 0x2000 ≤ off ∧ off < 0x2300 ∧ off % 4 = 0 then
    pendingReg (Map.get 0 s.harb.split (core 0x2000)) (Map.get none s.harb.splitP (core 0x2000))
  else if 0x2400 ≤ off ∧ off < 0x2700 ∧ off % 4 = 0 then
    pendingReg (Map.get 0 s.harb.qmap (core 0x2400)) (Map.get none s.harb.qmapP (core 0x2400))
  else if 0x2800 ≤ off ∧ off < 0x2A00 ∧ off % 8 = 0 then s.barReg 0 off
  else if off = 0x3000 then s.host.mgcmd
  else if off = 0x3028 then s.host.mgstat
  else if 0x100000 ≤ off ∧ off < 0x200000 ∧ off % 8 = 0 then
    BitVec.ofNat 64 (s.ctxField ((off - 0x100000) / 64) (64 * (off / 8 % 8) + 63) (64 * (off / 8 % 8)))
  else if (plainMask 0 off).isSome then s.barReg 0 off
  else 0

/-- What a read of BAR0 of a function returns, 64 bits from a register's offset on (R359): `ident` and `devstate` wherever the
device is powered, the firmware-load mailbox in recovery mode too (R371), every other register while the device serves its
host; zero for an offset that Table 22-1 does not list. -/
def State.barRead (s : State) (fn off : Nat) : Dword :=
  if decide (16 ≤ fn) || !s.powered then 0
  else if off = 0 then BitVec.ofNat 64 (0x7412 * 65536 + s.host.stepping % 256 * 256 + fn)
  else if off = 8 then BitVec.ofNat 64 (s.host.step % 16 + 16 * b1 s.host.ready + 32 * b1 s.host.recovery)
  else if !s.served then
    (if fn = 0 ∧ s.host.recovery ∧ (off = 0x10 ∨ off = 0x18 ∨ off = 0x20) then s.barRead0 off else 0)
  else if 0x100 ≤ off ∧ off < 0x300 then (s.pairAt (pairKey fn ((off - 0x100) / 0x40))).reg ((off - 0x100) % 0x40)
  else if off = 0x300 then s.barReg fn off
  else if fn = 0 then s.barRead0 off
  else 0

/-! ### Queue pairs (R362, R363) -/

def QPair.on (x : QPair) : Bool := x.qcfg.getLsbD 31
def QPair.asid (x : QPair) : Nat := bits x.qcfg.toNat 13 0
def QPair.entries (x : QPair) : Nat := 2 ^ bits x.qcfg.toNat 24 20

/-- R358: a function may name a context: function 0 every one, a virtual function those of its partition. -/
def State.fnMay (s : State) (fn asid : Nat) : Bool :=
  fn == 0 || (s.barReg 0 (0x1040 + 4 * fn)).toNat == s.ctxField asid 89 86

/-- Launches lose the queue pair that they answer to. -/
def State.forgetPair (s : State) (p : Nat) : State :=
  { s with harb := { s.harb with launches := s.harb.launches.map (fun e =>
      match e.2 with
      | some l => if l.pair.any (fun x => x.1 == p) then (e.1, some { l with pair := none }) else e
      | none => e) } }

/-- QCFG, R362, R358: enabling or disabling a pair sets its sequence registers to 0; a disabled pair reads no submission. A pair
is not enabled with an entry count outside its range. -/
def execQcfg (fn q : Nat) (v : Word) (s : State) : Res :=
  let p := pairKey fn q
  let x := s.pairAt p
  let w := v &&& 0x81F03FFF
  let y : QPair := { x with qcfg := w }
  if !pairOk fn q || (y.on && (decide (bits w.toNat 24 20 < 6) || decide (16 < bits w.toNat 24 20) || !s.fnMay fn y.asid)) then .next s
  else if x.on = y.on then hostDo s (s.setPair p y)
  else hostDo s ((s.setPair p { y with sqemit := 0, sqtaken := 0, cqemit := 0, cqseen := 0, pend := [] }).forgetPair p)

/-- SQEMIT, R362. -/
def execSqemit (fn q : Nat) (v : Dword) (s : State) : Res :=
  if !pairOk fn q then .next s
  else hostDo s (s.setPair (pairKey fn q) { s.pairAt (pairKey fn q) with sqemit := v })

/-- CQSEEN, R363. -/
def execCqseen (fn q : Nat) (v : Dword) (s : State) : Res :=
  if !pairOk fn q then .next s
  else hostDo s (s.setPair (pairKey fn q) { s.pairAt (pairKey fn q) with cqseen := v })

/-- R373: recording is enabled. -/
def State.records (s : State) : Bool := (s.barReg 0 0x1108).getLsbD 31

/-- R374: the region list of a pair: addresses and lengths. -/
def State.regionList (s : State) (x : QPair) : List (Nat × Nat) :=
  let base := x.recregs.toNat / 64 * 64 % 2 ^ 50
  (List.range (bits x.recregs.toNat 3 0)).map (fun i =>
    (leNat (s.readHost (base + 16 * i) 8), leNat (s.readHost (base + 16 * i + 8) 4)))

/-- A submission is consumed: its entry waits to be written, and its record to be appended. -/
def State.consumed (s : State) (p sseq : Nat) (e : CEntry) (d : BitVec 512) : State :=
  let x := s.pairAt p
  let s1 := s.setPair p { x with sqtaken := BitVec.ofNat 64 sseq, pend := x.pend ++ [e] }
  if s.records then
    { s1 with host := { s1.host with recs := s1.host.recs ++ [⟨p, sseq, e.launch, d, s.regionList x⟩] } }
  else s1

/-- SUBMISSION_CONSUME, R362: the next submission of a pair is checked as `slaunch` is, once its slipway queue has room. -/
def execSubmissionConsume (fn q : Nat) (s : State) : Res :=
  let p := pairKey fn q
  let x := s.pairAt p
  let n := x.sqtaken.toNat + 1
  let key := s.slipOf x.asid q
  if !pairOk fn q || !s.served || !x.on || decide (x.sqemit.toNat < n) || decide (64 ≤ (s.slipQ key).length) then .next s
  else
    let d := BitVec.ofNat 512 (leNat (s.readHost ((x.qbase.toNat + 64 * ((n - 1) % x.entries)) % 2 ^ 50) 64))
    let st := s.launchStatus x.asid d
    if st ≠ 0 then .next (s.consumed p n ⟨2, st, 0, n⟩ d)
    else
      let a := s.accept x.asid d key (some (p, n)) s.records
      .next (a.2.consumed p n ⟨1, 0, launchKey x.asid a.1, n⟩ d)

/-- Table 22-2. -/
def completionWord (cseq sseq kind status launch : Nat) : Nat :=
  cseq % 2 ^ 64 * 2 ^ 192 + sseq % 2 ^ 64 * 2 ^ 128 + kind * 2 ^ 72 + status * 2 ^ 64 + launch % 65536 * 2 ^ 48

/-- R363: a kind-3 entry waits while the stamp of its launch is parked. -/
def State.entryHeld (s : State) (e : CEntry) : Bool :=
  e.kind == 3 && (match s.launch e.launch with
    | some l => dStamp l.desc != 0 && s.spanParked (e.launch / 65536) (dStamp l.desc) 8
    | none => false)

/-- The status field of an entry: whether the launch completed cancelled and whether it has its error mark, or the refusal. -/
def State.entryStatus (s : State) (e : CEntry) : Nat :=
  if e.kind = 3 then (match s.launch e.launch with | some l => e.status % 2 + 2 * b1 l.error | none => e.status % 2) else e.status

/-- COMPLETION_ENTRY_WRITE, R363: the oldest entry that may go is written where the ring has room, with its cause entry
(R365). -/
def execCompletionEntryWrite (fn q : Nat) (s : State) : Res :=
  let p := pairKey fn q
  let x := s.pairAt p
  let c := x.cqemit.toNat + 1
  match x.pend.find? (fun e => !s.entryHeld e) with
  | none => .next s
  | some e =>
    if !pairOk fn q || !s.served || !x.on || decide (x.entries < c - x.cqseen.toNat) then .next s
    else
      let a := (x.cbase.toNat + 32 * ((c - 1) % x.entries)) % 2 ^ 50
      let s1 := s.writeHost a (natLE 32 (completionWord c e.sseq e.kind (s.entryStatus e) e.launch))
      .next ((s1.setPair p { x with cqemit := BitVec.ofNat 64 c, pend := x.pend.erase e }).ctxCause 1 p x.asid c)

/-- FUNCTION_LEVEL_RESET, R362: the sequence registers of the function's pairs are cleared. -/
def execFunctionLevelReset (fn : Nat) (s : State) : Res :=
  if 16 ≤ fn then .next s
  else .next ((List.range 8).foldl (fun (t : State) q =>
    t.setPair (pairKey fn q) { t.pairAt (pairKey fn q) with sqemit := 0, sqtaken := 0, cqemit := 0, cqseen := 0 }) s)

/-! ### The cause table (R365, R366) -/

/-- R366: one entry for each ring that advanced while entries were dropped. -/
def State.catchUp (s : State) : State :=
  let late := s.host.late
  let s1 : State := { s with host := { s.host with late := [], causeover := false } }
  late.foldl (fun t e => match e.2 with
    | some (k, part, evseq) => t.causeEntry (k % 64) (k / 2 ^ 20) (k / 64 % 2 ^ 14) part evseq
    | none => t) s1

/-- CAUSESEEN, R366. -/
def execCauseseen (v : Dword) (s : State) : Res :=
  let s1 : State := { s with host := { s.host with causeseen := v.toNat } }
  hostDo s (if s.host.causeseen < v.toNat then s1.catchUp else s1)

/-! ### Context records (R340) -/

/-- A field is out of its range, or a reserved bit is set. -/
def recordBad (asid : Nat) (r : Nat) : Bool :=
  let n := 2 ^ (bits r 93 90 + 6)
  bits r 511 448 != 0 || bits r 191 160 != 0 || bits r 127 117 != 0 || bits r 85 72 != 0 || bits r 71 65 != 0
  || bits r 63 14 != 0 || bits r 13 0 != asid
  || bits r 383 320 % 8 != 0 || bits r 319 256 % 8 != 0
  || decide (10 < bits r 93 90) || bits r 255 192 % (32 * n) != 0
  || decide (bits r 159 144 < 1) || decide (4096 < bits r 159 144)
  || decide (bits r 105 100 < 10) || decide (40 < bits r 105 100)
  || decide (bits r 99 94 < 10) || decide (40 < bits r 99 94)

/-- R295: the buckets of a context gain up to now, cycle by cycle at the rate and depth that its record gives. -/
def State.settleBuckets (s : State) (asid : Nat) : State :=
  (List.range 4).foldl (fun t d => match Map.get none t.quay.since (asid * 4 + d) with
    | none => t
    | some _ => t.refreshDie asid d) s

/-- CONTEXT_RECORD, R340: a bad record is refused; the orphan counter stays the harbour master's. The cycles before it have given
the context's buckets what the record before gave (R295). -/
def execContextRecord (asid : Nat) (rec : BitVec 512) (s : State) : Res :=
  let r := rec.toNat
  if decide (2 ^ 14 ≤ asid) || recordBad asid r then .next s
  else
    let v := BitVec.ofNat 512 (s.ctxField asid 447 384 * 2 ^ 384 + r % 2 ^ 384)
    let t := s.settleBuckets asid
    hostDo s { t with harb := { t.harb with ctx := Map.put ctxReset t.harb.ctx asid v } }

/-! ### Splits and maps (R360) -/

/-- Core c of Table 22-1 as a core key. -/
def coreKey (c : Nat) : Nat := c / 48 * 64 + c % 48

/-- A quadrant of a core holds a crew: a gang of it, or a part of its scratchpad region. -/
def State.quadHeld (s : State) (core q : Nat) : Bool :=
  (List.range 16).any (fun i => (s.gang ((core * 4 + q) * 16 + i)).phase != .absent)
  || (s.crewsOn core).any (fun w => spansMeet w.scratchBase w.scrSize (q * s.quarter core) (s.quarter core))

/-- The quadrants that a written map concerns: those whose owner it changes. -/
def State.mapConcerns (s : State) (core v q : Nat) : Bool :=
  let m := Map.get 0 s.harb.qmap core
  m.testBit (16 + q) != v.testBit (16 + q) || bits m (4 * q + 3) (4 * q) != bits v (4 * q + 3) (4 * q)
def State.mapFree (s : State) (core v : Nat) : Bool :=
  (List.range 4).all (fun q => !s.mapConcerns core v q || !s.quadHeld core q)

/-- Pending values that may take effect do so. -/
def State.applySplit (s : State) (core : Nat) : State :=
  let h := s.harb
  let h1 : Harbour := match Map.get none h.splitP core with
    | some v => if (s.crewsOn core).isEmpty then { h with split := Map.put 0 h.split core v, splitP := Map.put none h.splitP core none } else h
    | none => h
  let h2 : Harbour := match Map.get none h.qmapP core with
    | some v => if s.mapFree core v then { h1 with qmap := Map.put 0 h1.qmap core v, qmapP := Map.put none h1.qmapP core none } else h1
    | none => h1
  { s with harb := h2 }

/-- CORESPLIT, R360: a value above 4 is ignored; it takes effect while the core holds no crew. -/
def execCoresplit (core : Nat) (v : Word) (s : State) : Res :=
  let n := bits v.toNat 2 0
  let k := coreKey core
  if decide (192 ≤ core) || decide (4 < n) then .next s
  else hostDo s (({ s with harb := { s.harb with splitP := Map.put none s.harb.splitP k (some n) } } : State).applySplit k)

/-- QUADMAP, R360. -/
def execQuadmap (core : Nat) (v : Word) (s : State) : Res :=
  let k := coreKey core
  if 192 ≤ core then .next s
  else hostDo s (({ s with harb := { s.harb with qmapP := Map.put none s.harb.qmapP k (some (bits v.toNat 19 0)) } } : State).applySplit k)

/-- SPLIT_APPLY, R360. -/
def execSplitApply (core : Nat) (s : State) : Res := .next (s.applySplit (coreKey core))

/-! ### Routes and ports (R368, R370) -/

/-- The elements on their way to a peer, as operation * 64 + element. -/
def State.goingTo (s : State) (dev : Nat) : List Nat :=
  (s.ops.filter (fun o => o.stage == .sent)).flatMap (fun o =>
    (o.els.zipIdx.filter (fun x => x.1.st == .todo && homeOf x.1.addr.toNat == some (.peer dev))).map (fun x => o.id * 64 + x.2))

/-- ROUTE, R370: requests on their way keep their slices on the routes before, oldest first. -/
def execRoute (peer : Nat) (v : Dword) (s : State) : Res :=
  if 64 ≤ peer then .next s
  else
    let ids := s.goingTo peer
    let live := (Map.get [] s.host.routeOld peer).filter (fun r => r.2.any ids.contains)
    let old := if ids.isEmpty then [] else live ++ [(s.routeReg peer, ids)]
    let s1 := s.setBarReg 0 (0x2800 + 8 * peer) (v &&& 0x10FFF)
    hostDo s { s1 with host := { s1.host with routeOld := Map.put [] s1.host.routeOld peer old } }

/-- PORT_STATE_CHANGE, R368: the code of the new state in the cause entry is not given (log 19). -/
def execPortStateChange (port : Nat) (st : PortState) (s : State) : Res :=
  if decide (12 ≤ port) || !s.powered || s.port port == st then .next s
  else
    let s1 : State := { s with host := { s.host with ports := Map.put PortState.down s.host.ports port st } }
    .next ((s1.useFree 1).causeEntry 6 port 0 0 (s.free 0).toNat)

/-! ### The management mailbox (R361) -/

/-- Operand i of a command. -/
def State.mgarg (s : State) (i : Nat) : Nat := (s.barReg 0 (0x3008 + 8 * i)).toNat
/-- A command has finished: result and returned value. -/
def State.mgDone (s : State) (result value : Nat) : State :=
  { s with host := { s.host with mgstat := BitVec.ofNat 64 (value * 65536 + result * 256) } }
def State.mgAsid (s : State) : Nat := bits (s.mgarg 0) 13 0
def State.mgDie (s : State) : Nat := bits (s.mgarg 0) 17 16

/-- A command of the mailbox: `mgcmd` holds its code. -/
def mailbox (code : Nat) (s : State) (t : State) : Res :=
  hostDo s { t with host := { t.host with mgcmd := BitVec.ofNat 64 (code % 256) } }

/-- SET_ROOT, R361. -/
def execSetRoot (s : State) : Res :=
  let a := s.mgarg 1
  if a % 16384 ≠ 0 ∨ !paOk a then mailbox 1 s (s.mgDone 1 0)
  else
    let root : Option Nat := if a = 0 then none else some a
    mailbox 1 s (({ s with quay := { s.quay with roots := Map.put none s.quay.roots (s.mgAsid * 4 + s.mgDie) root } } : State).mgDone 0 0)

/-- WRITE_PHYSICAL, R361. A pending fetch of its bytes holds it back (R311). -/
def execWritePhysical (s : State) : Res :=
  let a := s.mgarg 0
  if a % 8 ≠ 0 ∨ !paOk a then mailbox 2 s (s.mgDone 1 0)
  else if s.physFetching a 8 then .next s
  else mailbox 2 s ((s.writePhys a (natLE 8 (s.mgarg 1))).mgDone 0 0)

/-- READ_PHYSICAL, R361. -/
def execReadPhysical (s : State) : Res :=
  let a := s.mgarg 0
  if a % 8 ≠ 0 ∨ !paOk a then mailbox 3 s (s.mgDone 1 0)
  else mailbox 3 s ((s.setBarReg 0 0x3010 (BitVec.ofNat 64 (leNat (s.readPhys a 8)))).mgDone 0 0)

/-- COPY_IN, R361. A pending fetch of bytes that it writes holds it back (R311). -/
def execCopyIn (refused : Bool) (s : State) : Res :=
  let a := s.mgarg 1
  let n := s.mgarg 2
  if homeOf (s.mgarg 0) ≠ some .host ∨ n % 64 ≠ 0 ∨ 2 ^ 20 < n ∨ !paOk a ∨ !paOk (a + n - 1) then mailbox 4 s (s.mgDone 1 0)
  else if refused then mailbox 4 s (s.mgDone 3 0)
  else if s.physFetching a n then .next s
  else mailbox 4 s ((s.writePhys a (s.readHost (s.mgarg 0 % 2 ^ 50) n)).mgDone 0 0)

/-- The bytes of a page size code of Table 9-3. -/
def pageSize (code : Nat) : Nat := match code with | 0 => 2 ^ 16 | 1 => 2 ^ 21 | 2 => 2 ^ 30 | _ => 2 ^ 39

/-- SHOOTDOWN, R282, R200. It is complete once no access holds an old translation of its pages. -/
def execShootdown (s : State) : Res :=
  let die := s.mgDie
  let va := s.mgarg 1
  let size := pageSize (bits (s.mgarg 0) 21 20)
  let base := va % 2 ^ 50 / size * size
  let page (key : Nat) : Bool := key / 2 ^ 34 == poolKey s.mgAsid die && spansMeet (key % 2 ^ 34 * 65536) 65536 base size
  if homeOf va ≠ some (.die die) then mailbox 5 s (s.mgDone 1 0)
  else if s.midAtomicIn page then .next s
  else mailbox 5 s (((s.shoot s.mgAsid die base size).notifyPage s.mgAsid die base size).mgDone 0 0)

/-- R361: a frame in use with count 0 belongs to no pool. -/
def State.hostHeld (s : State) (f : Nat) : Bool := (s.frame f).state == 2 && (s.frame f).count == 0

/-- POOL_PUSH, R361: the frame is scrubbed and linked free (R284). -/
def execPoolPush (s : State) : Res :=
  let f := s.mgarg 1
  if !frameOk f || frameDie f != s.mgDie then mailbox 6 s (s.mgDone 1 0)
  else if !s.hostHeld f then mailbox 6 s (s.mgDone 2 0)
  else mailbox 6 s (((s.setFrame f { s.frame f with asid := s.mgAsid }).pushFrame f).mgDone 0 0)

/-- POOL_TAKE, R361. -/
def execPoolTake (s : State) : Res :=
  match s.popFrame s.mgAsid s.mgDie with
  | none => mailbox 7 s (s.mgDone 2 0)
  | some (f, s1) => mailbox 7 s ((s1.setFrame f Frame.hostHeld).mgDone 0 f)

/-- FRAME_REFERENCE, R361, R277. -/
def execFrameReference (s : State) : Res :=
  let f := s.mgarg 0
  let x := s.frame f
  let n : Int := x.count + (BitVec.ofNat 64 (s.mgarg 1)).toInt
  if !frameOk f then mailbox 8 s (s.mgDone 1 0)
  else if x.state ≠ 2 ∨ n < 0 ∨ 0xFFFFFF < n then mailbox 8 s (s.mgDone 2 0)
  else if n = 0 ∧ x.count ≠ 0 then mailbox 8 s ((s.pushFrame f).mgDone 0 0)
  else mailbox 8 s ((s.setFrame f { x with count := n.toNat }).mgDone 0 0)

/-- MGCMD_RESERVED, R361. -/
def execMgcmdReserved (code : Nat) (s : State) : Res :=
  if code = 0 ∨ 9 ≤ code then mailbox code s (s.mgDone 1 0) else .next s

/-! ### The aperture (R364) -/

/-- Bytes read block by block as the device reads them (R290): how it ends, and the bytes. -/
def State.readPages (s : State) (w : Writer) : Nat → Nat → Nat → Eng × List Byte × State
  | 0, _, _ => (.done, [], s)
  | fuel + 1, va, n =>
    if n = 0 then (.done, [], s)
    else
      let m := min n (512 - va % 512)
      let r := s.engRead w va m
      match r.1 with
      | .done =>
        let t := r.2.2.readPages w fuel ((va + m) % 2 ^ 64) (n - m)
        (t.1, r.2.1 ++ t.2.1, t.2.2)
      | e => (e, [], r.2.2)
def State.readSpan (s : State) (w : Writer) (va n : Nat) : Eng × List Byte × State := s.readPages w (n / 512 + 2) va n

/-- The address and the context that the aperture of a function gives an offset. -/
def State.apVa (s : State) (fn off : Nat) : Nat := (s.barReg fn 0x300).toNat / 2 ^ 32 * 2 ^ 32 + off
def State.apAsid (s : State) (fn : Nat) : Nat := bits (s.barReg fn 0x300).toNat 13 0

/-- What a host read returns: bytes, or Unsupported Request. -/
def State.hostReturn (s : State) (r : Option (List Byte)) : State :=
  { s with host := { s.host with reads := s.host.reads ++ [r] } }

/-- BAR2_READ, R364. -/
def execBar2Read (fn off len : Nat) (s : State) : Res :=
  if decide (16 ≤ fn) || decide (2 ^ 32 < off + len) || !s.served then .next s
  else if !s.fnMay fn (s.apAsid fn) then .next (s.hostReturn none)
  else
    let r := s.readSpan (deviceWriter (s.apAsid fn)) (s.apVa fn off) len
    match r.1 with
    | .done => .next (r.2.2.hostReturn (some r.2.1))
    | .wait => .next s
    | _ => .next (s.hostReturn none)

/-- A write of the host within a block: performed, parked (R291, R292), or discarded; none while it waits. A register window
takes none, as it gives no host read (log 29). -/
def State.hostStore (s : State) (asid va : Nat) (bs : List Byte) : Option State :=
  match homeOf va with
  | some (.die d) =>
    let key := busyKey asid d (va % 2 ^ 50)
    let park := s.parkWrite key ⟨0, 0, 0, va, bs, false, true, 0, 0⟩
    if s.fetching asid va bs.length then none
    else if (s.busyPage key).isSome then some park
    else match s.look asid d va true with
      | .ok pa kind => some (if kind = kCow then park else s.writePhys pa bs)
      | _ => some s
  | some .window => some s
  | _ => some (s.engWrite (deviceWriter asid) va bs false).2

/-- The blocks of a write. -/
def State.hostStores (s : State) (asid : Nat) : Nat → Nat → List Byte → Option State
  | 0, _, _ => some s
  | fuel + 1, va, bs =>
    if bs.isEmpty then some s
    else
      let m := min bs.length (512 - va % 512)
      (s.hostStore asid va (bs.take m)).bind (fun t => t.hostStores asid fuel ((va + m) % 2 ^ 64) (bs.drop m))

/-- BAR2_WRITE, R364. -/
def execBar2Write (fn off : Nat) (data : List Byte) (s : State) : Res :=
  if decide (16 ≤ fn) || decide (2 ^ 32 < off + data.length) || !s.served || !s.fnMay fn (s.apAsid fn) then .next s
  else .next ((s.hostStores (s.apAsid fn) (data.length / 512 + 2) (s.apVa fn off) data).getD s)

/-! ### Recording (R373, R374) -/

/-- The copies of the regions of a launch, while they total at most 1 MB; one that does not translate is empty. None while a
parked write of their bytes is waited for (R291). -/
def State.regionCopies (s : State) (asid : Nat) (total : Nat) : List (Nat × Nat) → Option (List (List Byte))
  | [] => some []
  | (va, n) :: rest =>
    if 2 ^ 20 < total + n then some []
    else
      let r := s.readSpan (deviceWriter asid) va n
      match r.1 with
      | .wait => none
      | .done => (s.regionCopies asid (total + n) rest).map (r.2.1 :: ·)
      | _ => (s.regionCopies asid total rest).map ([] :: ·)

/-- The bytes of a record: header, descriptor and regions; none while a region is waited for. -/
def State.recordBytes (s : State) (r : RecReq) : Option (List Byte) :=
  (if r.launch = 0 then some [] else
    s.regionCopies (r.launch / 65536) 0 ((descF r.desc 127 64, 4096) :: r.regions)).map (fun regions =>
  natLE 64 (Config.recordHeader (r.pair / 8) (r.pair % 8) r.sseq (r.launch % 65536) (regions.map List.length)).toNat
  ++ natLE 64 r.desc.toNat ++ regions.flatten)

/-- A record waits until its launch is eligible. -/
def State.recordReady (s : State) (r : RecReq) : Bool :=
  r.launch == 0 || (match s.launch r.launch with | some l => l.st != .queued | none => true)

/-- The launch of a record waits no longer. -/
def State.recordGone (s : State) (r : RecReq) (rest : List RecReq) : State :=
  let s1 : State := { s with host := { s.host with recs := rest } }
  match s1.launch r.launch with
  | some l => s1.setLaunch r.launch { l with recorded := true }
  | none => s1

/-- RECORD_APPEND, R373: the next record in the order of `sqtaken` is appended where it fits. -/
def execRecordAppend (s : State) : Res :=
  match s.host.recs with
  | [] => .next s
  | r :: rest =>
    if !s.recordReady r then .next s
    else if !s.records then .next (s.recordGone r rest)
    else match s.recordBytes r with
    | none => .next s
    | some bs =>
      let size := 2 ^ 20 * 2 ^ bits (s.barReg 0 0x1108).toNat 24 20
      if size < s.host.recpos + bs.length then .next s
      else
        let s1 := s.writeHost (((s.barReg 0 0x1100).toNat + s.host.recpos) % 2 ^ 50) bs
        .next (({ s1 with host := { s1.host with recpos := s.host.recpos + bs.length } } : State).recordGone r rest)

/-! ### Firmware, reset and power (R371, R372, R375) -/

/-- R371: the boot ROM's checks of an image. -/
def firmwareOk (image : List Byte) (least : Nat) : Bool :=
  Config.firmwareSignatureOk image && decide (least ≤ Config.firmwareVersion image)

/-- What a reset leaves: what lies outside the device's own state, the flash image and the fused version. -/
def State.kept (s : State) : State :=
  { State.reset with
    agenda := s.agenda, fresh := s.fresh, resets := s.resets, hostMem := s.hostMem, peerMem := s.peerMem
    host := { HostIf.reset with
      ready := false, stepping := s.host.stepping, flash := s.host.flash, fusedVer := s.host.fusedVer,
      refuses := s.host.refuses, absents := s.host.absents, fails := s.host.fails, badRows := s.host.badRows } }

/-- R375: a reset starts the bring-up of a powered device at step 1; the slices choose new secrets (R299). -/
def State.bringUp (s : State) : State :=
  let t := s.kept
  { t with resets := s.resets + 1, host := { t.host with step := 1 } }

/-- A step of the bring-up is complete (Table 22-7); each takes a cycle (log 4). -/
def State.bringTo (s : State) (n : Nat) : State := { s with host := { s.host with step := n, ready := n == 6 } }
/-- R371, step 1: firmware that passes the checks runs, and can raise the fused minimum; otherwise the device enters recovery
mode. -/
def State.bootFirmware (s : State) : State :=
  let h := s.host
  if firmwareOk h.flash h.fusedVer then
    { s with host := { h with step := 2, running := h.flash, fusedVer := max h.fusedVer (Config.firmwareMinimum h.flash) } }
  else { s with host := { h with recovery := true } }
/-- Step 2: frames of rows that fail are retired (Table 15-1). -/
def State.retireRows (s : State) : State :=
  let fs := s.host.badRows.foldl (fun m f => Map.put Frame.hostHeld m f ⟨3, 0, 0, 0⟩) s.quay.frames
  { s with quay := { s.quay with frames := fs } }
/-- R375: the bring-up goes on by one step, unless it has failed at the step that it has reached. -/
def State.bringStep (s : State) : State :=
  let h := s.host
  if !s.powered || h.ready || h.recovery || h.step == h.fails then s
  else match h.step with
    | 1 => s.bootFirmware
    | 2 => s.retireRows.bringTo 3
    | 3 => s.bringTo 4
    | 4 => s.bringTo 5
    | 5 => s.bringTo 6
    | _ => s

/-- DEVICE_RESET, R375. -/
def execDeviceReset (s : State) : Res := .next (if s.powered then s.bringUp else s)

/-- POWER_DOWN, R375: the device holds no state. -/
def execPowerDown (s : State) : Res :=
  let t := s.kept
  .next { t with powered := false, host := { t.host with step := 0 } }

/-- POWER_WAKE, R375. -/
def execPowerWake (s : State) : Res := .next (if s.powered then s else { s.bringUp with powered := true })

/-- FWGO, R372. -/
def execFwgo (v : Word) (s : State) : Res :=
  if !s.powered || !(s.host.ready || s.host.recovery) || v != 1 || s.host.fwstat == 1 || s.host.fwstat == 2 then .next s
  else .next { s with host := { s.host with fwstat := 1, fwimage := [] } }

/-- The verdict on an image: 3 accepted, 4 signature, 5 version. -/
def fwVerdict (image : List Byte) (least : Nat) : Nat :=
  if !Config.firmwareSignatureOk image then 4 else if Config.firmwareVersion image < least then 5 else 3

/-- FIRMWARE_CHECK, R372: the image is read, then checked; an accepted one goes to flash, and in recovery mode the device
resets itself. -/
def execFirmwareCheck (refused : Bool) (s : State) : Res :=
  let a := (s.barReg 0 0x10).toNat
  let n := (s.barReg 0 0x18).toNat
  let h := s.host
  if h.fwstat = 1 then
    if refused || homeOf a != some .host || n % 4096 != 0 || decide (2 ^ 26 < n) then .next { s with host := { h with fwstat := 6 } }
    else .next { s with host := { h with fwstat := 2, fwimage := s.readHost (a % 2 ^ 50) n } }
  else if h.fwstat = 2 then
    let v := fwVerdict h.fwimage h.fusedVer
    if v = 3 then
      let s1 : State := { s with host := { h with fwstat := 3, flash := h.fwimage } }
      .next (if h.recovery then s1.bringUp else s1)
    else .next { s with host := { h with fwstat := v } }
  else .next s

/-- R1: the clock of a die in MHz. -/
def State.clockOf (s : State) (die : Nat) : Nat := Map.get 1400 s.host.clock die

/-- THERMAL_LIMIT, R375: the clock goes down in steps of 50 MHz, to no lower than 700. -/
def execThermalLimit (die mhz : Nat) (s : State) : Res :=
  let c := s.clockOf die
  if !s.served || decide (4 ≤ die) || decide (c ≤ mhz) || decide (mhz < 700) || (c - mhz) % 50 != 0 then .next s
  else .next (({ s with host := { s.host with clock := Map.put 1400 s.host.clock die mhz } } : State).causeEntry 7 die 0 0 mhz)

/-- MEMORY_ERROR, R365. -/
def execMemoryError (stack : Nat) (s : State) : Res :=
  if decide (12 ≤ stack) || !s.powered then .next s else .next (s.causeEntry 5 stack 0 0 0)

/-! ### Attestation (R372) -/

/-- A response goes out. -/
def State.respond (s : State) (r : Spdm) : Res :=
  .next (if s.powered then { s with host := { s.host with spdm := s.host.spdm ++ [r] } } else s)

/-- The state that measurement 4 covers: the partition map and the record ring. -/
def State.configBytes (s : State) : List Byte :=
  (List.range 15).flatMap (fun n => natLE 4 (s.barReg 0 (0x1044 + 4 * n)).toNat)
  ++ natLE 8 (s.barReg 0 0x1100).toNat ++ natLE 4 (s.barReg 0 0x1108).toNat ++ natLE 8 s.host.recpos

/-- The four measurements. -/
def State.measurement (s : State) (index : Nat) : BitVec 256 :=
  match index with
  | 1 => Config.bootRomVersion
  | 2 => Config.sm3 s.host.running
  | 3 => BitVec.ofNat 256 s.host.fusedVer
  | _ => Config.sm3 s.configBytes

/-- GET_VERSION: SPDM 1.3, as 0x13. -/
def execGetVersion (s : State) : Res := s.respond (.version 0x13)
/-- GET_CAPABILITIES. -/
def execGetCapabilities (s : State) : Res := s.respond .capabilities
/-- NEGOTIATE_ALGORITHMS. -/
def execNegotiateAlgorithms (s : State) : Res := s.respond .algorithms
/-- GET_DIGESTS: slot 0. -/
def execGetDigests (s : State) : Res := s.respond (.digests (Config.sm3 Config.certificateChain))
/-- GET_CERTIFICATE: slot 0 holds the chain. -/
def execGetCertificate (slot : Nat) (s : State) : Res :=
  s.respond (.certificate slot (if slot = 0 then Config.certificateChain else []))
/-- CHALLENGE: signed with the identity key. -/
def execChallenge (slot : Nat) (nonce : BitVec 256) (s : State) : Res :=
  s.respond (.challenge slot (Config.sm2Sign (natLE 32 nonce.toNat ++ natLE 32 (Config.sm3 Config.certificateChain).toNat)))
/-- GET_MEASUREMENTS: one of the four by its index, or all of them for index 255. -/
def execGetMeasurements (index : Nat) (s : State) : Res :=
  let vals := if 1 ≤ index ∧ index ≤ 4 then [s.measurement index]
    else if index = 255 then [1, 2, 3, 4].map s.measurement else []
  s.respond (.measurements index vals (Config.sm2Sign (vals.flatMap (fun v => natLE 32 v.toNat))))

end Sys2Proof.Machine
end

