-- ==== Sys2Proof/Machine/LaneCross.lean ====
section
/-! DEFINITION. Predicate instructions, instructions across lanes, counters and lane numbers (spec 06 R142-R151). -/

namespace Sys2Proof.Machine

/-- R142: a predicate instruction over pa and pb. -/
def predOp (fn : BitVec 32 → BitVec 32 → BitVec 32) (f : LaneWord) (s : State) : Res :=
  laneDo s f ⟨[], [], [], [], []⟩
    (fun g => g.predResult f.pd.val (g.act f) (fn (g.pred f.va.val) (g.pred f.vb.val)))

/-- `pand`, R142. -/
def execPand (f : LaneWord) (s : State) : Res := predOp (· &&& ·) f s
/-- `por`, R142. -/
def execPor (f : LaneWord) (s : State) : Res := predOp (· ||| ·) f s
/-- `pxor`, R142. -/
def execPxor (f : LaneWord) (s : State) : Res := predOp (· ^^^ ·) f s
/-- `pnot`, R142. -/
def execPnot (f : LaneWord) (s : State) : Res := predOp (fun a _ => ~~~a) f s
/-- `pmov`, R142. -/
def execPmov (f : LaneWord) (s : State) : Res := predOp (fun a _ => a) f s
/-- `pset`, R142. -/
def execPset (f : LaneWord) (s : State) : Res := predOp (fun _ _ => f.ext) f s
/-- `pget`, R142. -/
def execPget (f : LaneWord) (s : State) : Res :=
  laneDo s f ⟨[], [], [], [f.vd.val], []⟩ (fun g => g.ws f.vd.val (g.pred f.va.val &&& g.act f))
/-- `pcnt`, R142. -/
def execPcnt (f : LaneWord) (s : State) : Res :=
  laneDo s f ⟨[], [], [], [f.vd.val], []⟩ (fun g => g.ws f.vd.val (opPopc (g.pred f.va.val &&& g.act f)))

/-- R143: a source lane that is not live reads as 0. -/
def Gang.rvLive (g : Gang) (r l : Nat) : Word := if g.live.getLsbD l then g.rv r l else 0

/-- R144: the source lane of `vshfl`. -/
def shflSrc (mode lane n : Nat) : Nat :=
  match mode with
  | 0 => n
  | 1 => lane ^^^ n
  | 2 => if lane < n then lane else lane - n
  | _ => if 31 < lane + n then lane else lane + n

/-- R143: va of another lane, with va's tag. -/
def lanePerm (src : Nat → Nat → Nat) (f : LaneWord) (s : State) : Res :=
  laneDo s f ⟨f.va.val :: bRegs f, [f.vd.val], bScalar f, [], []⟩
    (fun g => g.result f.vd.val (g.act f) (g.tag f.va.val)
      (fun l => (g.rvLive f.va.val (src l ((g.b f l).toNat % 32)), 0)))

/-- `vshfl`, R144. -/
def execVshfl (f : LaneWord) (s : State) : Res := lanePerm (shflSrc f.opx.val) f s
/-- `vbcast`, R145. -/
def execVbcast (f : LaneWord) (s : State) : Res := lanePerm (fun _ n => n) f s
/-- `vrot`, R145. -/
def execVrot (f : LaneWord) (s : State) : Res := lanePerm (fun l n => (l + n) % 32) f s

/-- Table 6-6: combine two values. -/
def redComb (op : Nat) (m : Rnd) (a b : Nat) : Nat × Flags :=
  match op with
  | 0 => ((a + b) % 2 ^ 32, 0)
  | 1 => (if intVal true 32 b < intVal true 32 a then b else a, 0)
  | 2 => (if intVal true 32 a < intVal true 32 b then b else a, 0)
  | 3 => (min a b, 0)
  | 4 => (max a b, 0)
  | 5 => (a &&& b, 0)
  | 6 => (a ||| b, 0)
  | 7 => (a ^^^ b, 0)
  | 8 => Fmt.f32.add m false (Fmt.f32.decode a) (Fmt.f32.decode b)
  | 9 => Fmt.f32.minmax false a b
  | 10 => Fmt.f32.minmax true a b
  | _ => (max a b, 0)

/-- Table 6-6: the identities. -/
def redId (op : Nat) : Nat :=
  match op with
  | 1 => 0x7FFFFFFF | 2 => 0x80000000 | 3 => 0xFFFFFFFF | 5 => 0xFFFFFFFF
  | 9 => 0x7F800000 | 10 => 0xFF800000 | _ => 0

/-- R146: one level of the tree. -/
def redLevel (comb : Nat → Nat → Nat × Flags) : List (Option Nat) → List (Option Nat) × Flags
  | some a :: some b :: xs =>
    let c := comb a b
    let r := redLevel comb xs
    (some c.1 :: r.1, c.2 ||| r.2)
  | a :: b :: xs =>
    let r := redLevel comb xs
    (a.or b :: r.1, r.2)
  | xs => (xs, 0)

/-- R146: `n` levels. -/
def redTree (comb : Nat → Nat → Nat × Flags) : Nat → List (Option Nat) → Option Nat × Flags
  | 0, xs => (xs.headD none, 0)
  | n + 1, xs =>
    let l := redLevel comb xs
    let r := redTree comb n l.1
    (r.1, l.2 ||| r.2)

/-- R146, R167: the packed word of a lane for `.maxvi`. -/
def packVi (v i : Word) : Nat := (maxviKey v).toNat * 2 ^ 32 + (~~~i).toNat

/-- R146: the leaves of the tree and the flags that they raise. -/
def redLeaves (g : Gang) (f : LaneWord) (op : Nat) : List (Option Nat) × Flags :=
  let act := g.act f
  if op = 11 then
    let isNan (l : Nat) : Bool := (Fmt.f32.decode (g.rv f.va.val l).toNat).isNan
    ((List.range 32).map (fun l =>
        if act.getLsbD l && !isNan l then some (packVi (g.rv f.va.val l) (g.rv f.vc.val l)) else none),
      flagsOf act (fun l => (0, if isNan l then fIV else 0)))
  else ((List.range 32).map (fun l => if act.getLsbD l then some (g.rv f.va.val l).toNat else none), 0)

/-- `vred`, R146. -/
def execVred (f : LaneWord) (s : State) : Res :=
  let op := f.x 3 0
  let t := laneTy f
  let vi := op == 11
  let d := f.vd.val
  laneDo s f ⟨f.va.val :: (if vi then [f.vc.val] else []), if f.opx34 then [] else [d], [],
      if f.opx34 then (if vi then [d, d + 1] else [d]) else [],
      tagged f.va.val 1 t ++ (if vi then tagged f.vc.val 1 .n32 else [])⟩
    (fun g =>
      let lv := redLeaves g f op
      let r := redTree (redComb op (laneRnd f)) 5 lv.1
      let v := r.1.getD (redId op)
      let g' := g.raise (lv.2 ||| r.2)
      if !f.opx34 then g'.result d (g.act f) t (fun _ => (BitVec.ofNat 32 v, 0))
      else if vi then g'.wp d (BitVec.ofNat 64 v)
      else g'.ws d (BitVec.ofNat 32 v))

/-- R147: the running combination; the results of the acting lanes by lane number, and the flags. -/
def scanGo (comb : Nat → Nat → Nat × Flags) (excl : Bool) (x : Nat → Option Nat) : List Nat → Nat → Map Word × Flags
  | [], _ => ([], 0)
  | l :: ls, acc =>
    match x l with
    | none => scanGo comb excl x ls acc
    | some v =>
      let c := comb acc v
      let r := scanGo comb excl x ls c.1
      ((l, BitVec.ofNat 32 (if excl then acc else c.1)) :: r.1, c.2 ||| r.2)

/-- `vscan`, R147. -/
def execVscan (f : LaneWord) (s : State) : Res :=
  let op := f.x 3 0
  let t := laneTy f
  laneDo s f ⟨[f.va.val], [f.vd.val], [], [], tagged f.va.val 1 t⟩
    (fun g =>
      let act := g.act f
      let r := scanGo (redComb op (laneRnd f)) f.opx34
        (fun l => if act.getLsbD l then some (g.rv f.va.val l).toNat else none) (List.range 32) (redId op)
      (g.result f.vd.val act t (fun l => (Map.get 0 r.1 l, 0))).raise r.2)

/-- R148: the list of a register with the lane of each entry, up to the end marker. -/
def isectList (g : Gang) (r : Nat) : List (Nat × Nat) :=
  (((List.range 32).filter (fun l => g.live.getLsbD l)).map (fun l => (l, (g.rv r l).toNat))).takeWhile
    (fun e => e.2 != 0xFFFFFFFF)

/-- Strictly ascending values. -/
def ascending : List (Nat × Nat) → Bool
  | a :: b :: xs => decide (a.2 < b.2) && ascending (b :: xs)
  | _ => true

/-- R148: the matches, in ascending order, as the words that vd receives. -/
def isectMatches (a b : List (Nat × Nat)) : List Word :=
  a.filterMap (fun x => (b.find? (fun y => y.2 == x.2)).map (fun y => BitVec.ofNat 32 (y.1 * 256 + x.1)))

/-- R148: how far each list advances. -/
def isectAdv (a b : List (Nat × Nat)) : Nat × Nat :=
  match a.getLast?, b.getLast? with
  | some x, some y =>
    let lim := min x.2 y.2
    (a.countP (fun e => decide (e.2 ≤ lim)), b.countP (fun e => decide (e.2 ≤ lim)))
  | _, _ => (a.length, b.length)

/-- `visect`, R148; lists that do not ascend leave undefined values (R5). -/
def execVisect (f : LaneWord) (s : State) : Res :=
  let d := f.x 6 0
  laneGo s s.me.live ⟨[f.va.val, f.vb.val], [f.vd.val], [], [d, d + 1],
      tagged f.va.val 1 .n32 ++ tagged f.vb.val 1 .n32⟩ (fun s =>
    let g := s.me
    let a := isectList g f.va.val
    let b := isectList g f.vb.val
    let s' := s.taint s.cur [f.vd.val]
    if ascending a && ascending b then
      let m := isectMatches a b
      let adv := isectAdv a b
      let g' := (g.result f.vd.val g.live .n32 (fun l => (m.getD l 0xFFFFFFFF, 0))).predResult f.pd.val g.live
        (laneMask (fun l => decide (l < m.length)) 32)
      .next (s'.setMe ((g'.ws d (BitVec.ofNat 32 adv.1)).ws (d + 1) (BitVec.ofNat 32 adv.2)).laneNext)
    else
      let g' := (g.result f.vd.val g.live .n32 (fun l => (s.free l, 0))).predResult f.pd.val g.live (s.free 32)
      .next ((s'.useFree 35).setMe ((g'.ws d (s.free 33)).ws (d + 1) (s.free 34)).laneNext))

/-- R149: the hash of a counter and a seed in a lane. -/
def rng (seed ctr : Word) (lane : Nat) : Word :=
  let x := seed ^^^ ctr ^^^ (BitVec.ofNat 32 lane * 0x9E3779B1)
  let x := x * 0x85EBCA77
  let x := x ^^^ (x >>> 15)
  let x := x * 0xC2B2AE3D
  x ^^^ (x >>> 13)

/-- `vrng`, R149. -/
def execVrng (f : LaneWord) (s : State) : Res :=
  laneDo s f ⟨f.va.val :: bRegs f, [f.vd.val], bScalar f, [], tagged f.va.val 1 .n32 ++ bTag f .n32⟩
    (fun g => g.result f.vd.val (g.act f) .n32 (fun l => (rng (g.b f l) (g.rv f.va.val l) l, 0)))

/-- `vlane`, R150. -/
def execVlane (f : LaneWord) (s : State) : Res :=
  let w := s.myCrew
  laneDo s f ⟨[], [f.vd.val], [], [], []⟩
    (fun g => g.result f.vd.val (g.act f) .n32 (fun l =>
      (match f.opx.val with
       | 0 => BitVec.ofNat 32 l
       | 1 => BitVec.ofNat 32 (g.num * 32 + l)
       | _ => BitVec.ofNat 32 ((w.num * w.ngangs + g.num) * 32 + l), 0)))

/-- `vnop`, R151. -/
def execVnop (f : LaneWord) (s : State) : Res := laneDo s f ⟨[], [], [], [], []⟩ (fun g => g)

end Sys2Proof.Machine
end

