-- ==== Sys2Proof/Machine/Dispatch.lean ====
section
/-! DEFINITION. The meaning of each instruction and event, one direct call per constructor. -/

namespace Sys2Proof.Machine

def exec (i : Instr) (s : State) : Host.Outcome State Fault Refusal :=
  match i with
  | .sadd sd sa sb => Sys2Proof.Machine.execSadd sd sa sb s
  | .ssub sd sa sb => Sys2Proof.Machine.execSsub sd sa sb s
  | .sand sd sa sb => Sys2Proof.Machine.execSand sd sa sb s
  | .sor sd sa sb => Sys2Proof.Machine.execSor sd sa sb s
  | .sxor sd sa sb => Sys2Proof.Machine.execSxor sd sa sb s
  | .sshl sd sa sb => Sys2Proof.Machine.execSshl sd sa sb s
  | .sshr sd sa sb => Sys2Proof.Machine.execSshr sd sa sb s
  | .ssra sd sa sb => Sys2Proof.Machine.execSsra sd sa sb s
  | .smin sd sa sb => Sys2Proof.Machine.execSmin sd sa sb s
  | .smax sd sa sb => Sys2Proof.Machine.execSmax sd sa sb s
  | .sminn sd sa sb => Sys2Proof.Machine.execSminn sd sa sb s
  | .smaxn sd sa sb => Sys2Proof.Machine.execSmaxn sd sa sb s
  | .smul sd sa sb => Sys2Proof.Machine.execSmul sd sa sb s
  | .smulh sd sa sb => Sys2Proof.Machine.execSmulh sd sa sb s
  | .smulhn sd sa sb => Sys2Proof.Machine.execSmulhn sd sa sb s
  | .sclz sd sa => Sys2Proof.Machine.execSclz sd sa s
  | .spopc sd sa => Sys2Proof.Machine.execSpopc sd sa s
  | .smov sd sa => Sys2Proof.Machine.execSmov sd sa s
  | .scmp sa sb => Sys2Proof.Machine.execScmp sa sb s
  | .sandn sd sa sb => Sys2Proof.Machine.execSandn sd sa sb s
  | .saddD sd sa sb => Sys2Proof.Machine.execSaddD sd sa sb s
  | .ssubD sd sa sb => Sys2Proof.Machine.execSsubD sd sa sb s
  | .sshlD sd sa sb => Sys2Proof.Machine.execSshlD sd sa sb s
  | .sshrD sd sa sb => Sys2Proof.Machine.execSshrD sd sa sb s
  | .smovD sd sa => Sys2Proof.Machine.execSmovD sd sa s
  | .scmpD sa sb => Sys2Proof.Machine.execScmpD sa sb s
  | .smulw sd sa sb => Sys2Proof.Machine.execSmulw sd sa sb s
  | .smulwn sd sa sb => Sys2Proof.Machine.execSmulwn sd sa sb s
  | .saddi sd sa imm => Sys2Proof.Machine.execSaddi sd sa imm s
  | .sandi sd sa imm => Sys2Proof.Machine.execSandi sd sa imm s
  | .sori sd sa imm => Sys2Proof.Machine.execSori sd sa imm s
  | .sxori sd sa imm => Sys2Proof.Machine.execSxori sd sa imm s
  | .sshli sd sa n => Sys2Proof.Machine.execSshli sd sa n s
  | .sshri sd sa n => Sys2Proof.Machine.execSshri sd sa n s
  | .ssrai sd sa n => Sys2Proof.Machine.execSsrai sd sa n s
  | .scmpi sa imm => Sys2Proof.Machine.execScmpi sa imm s
  | .sli sd imm => Sys2Proof.Machine.execSli sd imm s
  | .slui sd imm => Sys2Proof.Machine.execSlui sd imm s
  | .sbr cnd inv off => Sys2Proof.Machine.execSbr cnd inv off s
  | .scall sd imm => Sys2Proof.Machine.execScall sd imm s
  | .sjr sd sa imm => Sys2Proof.Machine.execSjr sd sa imm s
  | .lrun imm => Sys2Proof.Machine.execLrun imm s
  | .lrunr sa => Sys2Proof.Machine.execLrunr sa s
  | .lsync => Sys2Proof.Machine.execLsync s
  | .swaitf mask => Sys2Proof.Machine.execSwaitf mask s
  | .mwait sd sa sb sc cmp => Sys2Proof.Machine.execMwait sd sa sb sc cmp s
  | .sld sd sa imm => Sys2Proof.Machine.execSld sd sa imm s
  | .sldD sd sa imm => Sys2Proof.Machine.execSldD sd sa imm s
  | .sst sd sa col woff => Sys2Proof.Machine.execSst sd sa col woff s
  | .sstD sd sa col woff => Sys2Proof.Machine.execSstD sd sa col woff s
  | .satom op wide sc ord col sd sa sb => Sys2Proof.Machine.execSatom op wide sc ord col sd sa sb s
  | .scas wide sc ord col sd sa sb => Sys2Proof.Machine.execScas wide sc ord col sd sa sb s
  | .sldAcq wide sc sd sa => Sys2Proof.Machine.execSldAcq wide sc sd sa s
  | .sstRel wide sc mask col sd sa => Sys2Proof.Machine.execSstRel wide sc mask col sd sa s
  | .sfence sc kind mask => Sys2Proof.Machine.execSfence sc kind mask s
  | .fetchk tr sectors life sd sa => Sys2Proof.Machine.execFetchk tr sectors life sd sa s
  | .kdrop sa => Sys2Proof.Machine.execKdrop sa s
  | .kstat sd sa => Sys2Proof.Machine.execKstat sd sa s
  | .sredeem tr sc sd off sa sb => Sys2Proof.Machine.execSredeem tr sc sd off sa sb s
  | .pcommit tr sd sa => Sys2Proof.Machine.execPcommit tr sd sa s
  | .pdecommit sd sa => Sys2Proof.Machine.execPdecommit sd sa s
  | .pquery pool sd sa => Sys2Proof.Machine.execPquery pool sd sa s
  | .pfxwalk sc sd blk sb => Sys2Proof.Machine.execPfxwalk sc sd blk sb s
  | .pfxins sc sd blk sb => Sys2Proof.Machine.execPfxins sc sd blk sb s
  | .pfxrel sc sd blk sb => Sys2Proof.Machine.execPfxrel sc sd blk sb s
  | .pfxevict sc sd blk sb => Sys2Proof.Machine.execPfxevict sc sd blk sb s
  | .slaunch tr q sd sa => Sys2Proof.Machine.execSlaunch tr q sd sa s
  | .jcount lvl sc sd sa => Sys2Proof.Machine.execJcount lvl sc sd sa s
  | .jcancel lvl sd sa => Sys2Proof.Machine.execJcancel lvl sd sa s
  | .srd sd num => Sys2Proof.Machine.execSrd sd num s
  | .swr sa num => Sys2Proof.Machine.execSwr sa num s
  | .sgetf sd => Sys2Proof.Machine.execSgetf sd s
  | .sclrf mask => Sys2Proof.Machine.execSclrf mask s
  | .vacq tr sd n => Sys2Proof.Machine.execVacq tr sd n s
  | .vrel n => Sys2Proof.Machine.execVrel n s
  | .sbar id sa => Sys2Proof.Machine.execSbar id sa s
  | .sbarw arrive sd sa => Sys2Proof.Machine.execSbarw arrive sd sa s
  | .strap code => Sys2Proof.Machine.execStrap code s
  | .sbrk code => Sys2Proof.Machine.execSbrk code s
  | .syield => Sys2Proof.Machine.execSyield s
  | .sexit => Sys2Proof.Machine.execSexit s
  | .ssendsig sc mask inc col sd sa sb => Sys2Proof.Machine.execSsendsig sc mask inc col sd sa sb s
  | .vadd f => Sys2Proof.Machine.execVadd f s
  | .vsub f => Sys2Proof.Machine.execVsub f s
  | .vmul f => Sys2Proof.Machine.execVmul f s
  | .vmulh f => Sys2Proof.Machine.execVmulh f s
  | .vmad f => Sys2Proof.Machine.execVmad f s
  | .vand f => Sys2Proof.Machine.execVand f s
  | .vor f => Sys2Proof.Machine.execVor f s
  | .vxor f => Sys2Proof.Machine.execVxor f s
  | .vandn f => Sys2Proof.Machine.execVandn f s
  | .vshl f => Sys2Proof.Machine.execVshl f s
  | .vshr f => Sys2Proof.Machine.execVshr f s
  | .vsra f => Sys2Proof.Machine.execVsra f s
  | .vmin f => Sys2Proof.Machine.execVmin f s
  | .vmax f => Sys2Proof.Machine.execVmax f s
  | .vabs f => Sys2Proof.Machine.execVabs f s
  | .vneg f => Sys2Proof.Machine.execVneg f s
  | .vclz f => Sys2Proof.Machine.execVclz f s
  | .vpopc f => Sys2Proof.Machine.execVpopc f s
  | .vbrev f => Sys2Proof.Machine.execVbrev f s
  | .vbfx f => Sys2Proof.Machine.execVbfx f s
  | .vbfi f => Sys2Proof.Machine.execVbfi f s
  | .vmov f => Sys2Proof.Machine.execVmov f s
  | .vli f => Sys2Proof.Machine.execVli f s
  | .vsel f => Sys2Proof.Machine.execVsel f s
  | .vcmp f => Sys2Proof.Machine.execVcmp f s
  | .vdp4 f => Sys2Proof.Machine.execVdp4 f s
  | .vaddc f => Sys2Proof.Machine.execVaddc f s
  | .vfadd f => Sys2Proof.Machine.execVfadd f s
  | .vfsub f => Sys2Proof.Machine.execVfsub f s
  | .vfmul f => Sys2Proof.Machine.execVfmul f s
  | .vfma f => Sys2Proof.Machine.execVfma f s
  | .vfmin f => Sys2Proof.Machine.execVfmin f s
  | .vfmax f => Sys2Proof.Machine.execVfmax f s
  | .vfrcp f => Sys2Proof.Machine.execVfrcp f s
  | .vfsqrt f => Sys2Proof.Machine.execVfsqrt f s
  | .vfrsqrt f => Sys2Proof.Machine.execVfrsqrt f s
  | .vflog2 f => Sys2Proof.Machine.execVflog2 f s
  | .vfexp2 f => Sys2Proof.Machine.execVfexp2 f s
  | .vfcmp f => Sys2Proof.Machine.execVfcmp f s
  | .vfcls f => Sys2Proof.Machine.execVfcls f s
  | .vfrnd f => Sys2Proof.Machine.execVfrnd f s
  | .vfdp2 f => Sys2Proof.Machine.execVfdp2 f s
  | .vcvt f => Sys2Proof.Machine.execVcvt f s
  | .vpackb f => Sys2Proof.Machine.execVpackb f s
  | .vunpkb f => Sys2Proof.Machine.execVunpkb f s
  | .vtag f => Sys2Proof.Machine.execVtag f s
  | .vtagq f => Sys2Proof.Machine.execVtagq f s
  | .pand f => Sys2Proof.Machine.execPand f s
  | .por f => Sys2Proof.Machine.execPor f s
  | .pxor f => Sys2Proof.Machine.execPxor f s
  | .pnot f => Sys2Proof.Machine.execPnot f s
  | .pmov f => Sys2Proof.Machine.execPmov f s
  | .pset f => Sys2Proof.Machine.execPset f s
  | .pget f => Sys2Proof.Machine.execPget f s
  | .pcnt f => Sys2Proof.Machine.execPcnt f s
  | .vshfl f => Sys2Proof.Machine.execVshfl f s
  | .vbcast f => Sys2Proof.Machine.execVbcast f s
  | .vred f => Sys2Proof.Machine.execVred f s
  | .vscan f => Sys2Proof.Machine.execVscan f s
  | .visect f => Sys2Proof.Machine.execVisect f s
  | .vrot f => Sys2Proof.Machine.execVrot f s
  | .vld f => Sys2Proof.Machine.execVld f s
  | .vst f => Sys2Proof.Machine.execVst f s
  | .vlds f => Sys2Proof.Machine.execVlds f s
  | .vsts f => Sys2Proof.Machine.execVsts f s
  | .vatom f => Sys2Proof.Machine.execVatom f s
  | .vatoms f => Sys2Proof.Machine.execVatoms f s
  | .vprf f => Sys2Proof.Machine.execVprf f s
  | .vredeem f => Sys2Proof.Machine.execVredeem f s
  | .vredeemRemote f => Sys2Proof.Machine.execVredeemRemote f s
  | .vcpidx f => Sys2Proof.Machine.execVcpidx f s
  | .vrng f => Sys2Proof.Machine.execVrng f s
  | .vlane f => Sys2Proof.Machine.execVlane f s
  | .vnop f => Sys2Proof.Machine.execVnop f s
  | .mxmac f => Sys2Proof.Machine.execMxmac f s
  | .mxtopk f => Sys2Proof.Machine.execMxtopk f s
  | .mxv f => Sys2Proof.Machine.execMxv f s
  | .mxrdy f => Sys2Proof.Machine.execMxrdy f s
  | .mxld f => Sys2Proof.Machine.execMxld f s
  | .mxst f => Sys2Proof.Machine.execMxst f s
  | .mxclr f => Sys2Proof.Machine.execMxclr f s
  | .mxmovToTile f => Sys2Proof.Machine.execMxmovToTile f s
  | .mxmovToVector f => Sys2Proof.Machine.execMxmovToVector f s
  | .wlclr f => Sys2Proof.Machine.execWlclr f s
  | .wlget f => Sys2Proof.Machine.execWlget f s
  | .wlins f => Sys2Proof.Machine.execWlins f s
  | .wlmrg f => Sys2Proof.Machine.execWlmrg f s
  | .wlthr f => Sys2Proof.Machine.execWlthr f s
  | .wlst f => Sys2Proof.Machine.execWlst f s
  | .wlld f => Sys2Proof.Machine.execWlld f s
  | .wlcfg f => Sys2Proof.Machine.execWlcfg f s
  | .clauseCheck g => Sys2Proof.Machine.execClauseCheck g s
  | .clauseStart g => Sys2Proof.Machine.execClauseStart g s
  | .clauseRetire g => Sys2Proof.Machine.execClauseRetire g s
  | .laneOpComplete op => Sys2Proof.Machine.execLaneOpComplete op s
  | .scalarResultReturn op => Sys2Proof.Machine.execScalarResultReturn op s
  | .storeQueueEntryLeave g => Sys2Proof.Machine.execStoreQueueEntryLeave g s
  | .storeAck op => Sys2Proof.Machine.execStoreAck op s
  | .sliceAccess op el ch => Sys2Proof.Machine.execSliceAccess op el ch s
  | .windowAccess op el => Sys2Proof.Machine.execWindowAccess op el s
  | .hostAccessCompletion op el refused => Sys2Proof.Machine.execHostAccessCompletion op el refused s
  | .mwaitRecheck g => Sys2Proof.Machine.execMwaitRecheck g s
  | .mwaitPollTimeout g => Sys2Proof.Machine.execMwaitPollTimeout g s
  | .deferredTrapTake g => Sys2Proof.Machine.execDeferredTrapTake g s
  | .crewStop c => Sys2Proof.Machine.execCrewStop c s
  | .faultRingPost asid => Sys2Proof.Machine.execFaultRingPost asid s
  | .faultReport op => Sys2Proof.Machine.execFaultReport op s
  | .crewSwitchOut c => Sys2Proof.Machine.execCrewSwitchOut c s
  | .crewRestore c => Sys2Proof.Machine.execCrewRestore c s
  | .replayInPlace c => Sys2Proof.Machine.execReplayInPlace c s
  | .graceTimerExpire asid die => Sys2Proof.Machine.execGraceTimerExpire asid die s
  | .killTimerExpire asid die => Sys2Proof.Machine.execKillTimerExpire asid die s
  | .pageCommit op => Sys2Proof.Machine.execPageCommit op s
  | .pageDecommit op => Sys2Proof.Machine.execPageDecommit op s
  | .pageQuery op => Sys2Proof.Machine.execPageQuery op s
  | .copyOnWrite page => Sys2Proof.Machine.execCopyOnWrite page s
  | .frameScrubDone asid die => Sys2Proof.Machine.execFrameScrubDone asid die s
  | .berthAccept op => Sys2Proof.Machine.execBerthAccept op s
  | .fetchLand b => Sys2Proof.Machine.execFetchLand b s
  | .fetchFault b => Sys2Proof.Machine.execFetchFault b s
  | .redeemAtSlice op => Sys2Proof.Machine.execRedeemAtSlice op s
  | .redeemDelivery op => Sys2Proof.Machine.execRedeemDelivery op s
  | .berthDrop op => Sys2Proof.Machine.execBerthDrop op s
  | .berthStatus op => Sys2Proof.Machine.execBerthStatus op s
  | .levelReclaim asid lvl id => Sys2Proof.Machine.execLevelReclaim asid lvl id s
  | .entryRead c => Sys2Proof.Machine.execEntryRead c s
  | .copy c pos n => Sys2Proof.Machine.execCopy c pos n s
  | .indexListCopy c pos n => Sys2Proof.Machine.execIndexListCopy c pos n s
  | .fill c pos n => Sys2Proof.Machine.execFill c pos n s
  | .putsig c pos n => Sys2Proof.Machine.execPutsig c pos n s
  | .streamToHearth c pos => Sys2Proof.Machine.execStreamToHearth c pos s
  | .stamp c pos => Sys2Proof.Machine.execStamp c pos s
  | .commandComplete c pos => Sys2Proof.Machine.execCommandComplete c pos s
  | .heldElementPerform c pos => Sys2Proof.Machine.execHeldElementPerform c pos s
  | .hearthStart q => Sys2Proof.Machine.execHearthStart q s
  | .vacqGrant q => Sys2Proof.Machine.execVacqGrant q s
  | .blockReturn g => Sys2Proof.Machine.execBlockReturn g s
  | .gangSlotFree g => Sys2Proof.Machine.execGangSlotFree g s
  | .crewEnd c => Sys2Proof.Machine.execCrewEnd c s
  | .prefixWalk die => Sys2Proof.Machine.execPrefixWalk die s
  | .prefixInsert die => Sys2Proof.Machine.execPrefixInsert die s
  | .prefixRelease die => Sys2Proof.Machine.execPrefixRelease die s
  | .prefixEvict die => Sys2Proof.Machine.execPrefixEvict die s
  | .slipwayPost op => Sys2Proof.Machine.execSlipwayPost op s
  | .launchEligible q => Sys2Proof.Machine.execLaunchEligible q s
  | .crewPlace part => Sys2Proof.Machine.execCrewPlace part s
  | .levelComplete asid lvl id => Sys2Proof.Machine.execLevelComplete asid lvl id s
  | .levelCancel op => Sys2Proof.Machine.execLevelCancel op s
  | .sqemit fn q v => Sys2Proof.Machine.execSqemit fn q v s
  | .submissionConsume fn q => Sys2Proof.Machine.execSubmissionConsume fn q s
  | .completionEntryWrite fn q => Sys2Proof.Machine.execCompletionEntryWrite fn q s
  | .cqseen fn q v => Sys2Proof.Machine.execCqseen fn q v s
  | .causeseen v => Sys2Proof.Machine.execCauseseen v s
  | .qcfg fn q v => Sys2Proof.Machine.execQcfg fn q v s
  | .contextRecord asid rec => Sys2Proof.Machine.execContextRecord asid rec s
  | .coresplit core v => Sys2Proof.Machine.execCoresplit core v s
  | .quadmap core v => Sys2Proof.Machine.execQuadmap core v s
  | .splitApply core => Sys2Proof.Machine.execSplitApply core s
  | .route peer v => Sys2Proof.Machine.execRoute peer v s
  | .startLadder asid => Sys2Proof.Machine.execStartLadder asid s
  | .resume asid => Sys2Proof.Machine.execResume asid s
  | .kill asid => Sys2Proof.Machine.execKill asid s
  | .setRoot => Sys2Proof.Machine.execSetRoot s
  | .writePhysical => Sys2Proof.Machine.execWritePhysical s
  | .readPhysical => Sys2Proof.Machine.execReadPhysical s
  | .copyIn refused => Sys2Proof.Machine.execCopyIn refused s
  | .shootdown => Sys2Proof.Machine.execShootdown s
  | .poolPush => Sys2Proof.Machine.execPoolPush s
  | .poolTake => Sys2Proof.Machine.execPoolTake s
  | .frameReference => Sys2Proof.Machine.execFrameReference s
  | .mgcmdReserved code => Sys2Proof.Machine.execMgcmdReserved code s
  | .fwgo v => Sys2Proof.Machine.execFwgo v s
  | .firmwareCheck refused => Sys2Proof.Machine.execFirmwareCheck refused s
  | .bar2Read fn off len => Sys2Proof.Machine.execBar2Read fn off len s
  | .bar2Write fn off data => Sys2Proof.Machine.execBar2Write fn off data s
  | .registerWrite fn off v => Sys2Proof.Machine.execRegisterWrite fn off v s
  | .recordAppend => Sys2Proof.Machine.execRecordAppend s
  | .deviceReset => Sys2Proof.Machine.execDeviceReset s
  | .powerWake => Sys2Proof.Machine.execPowerWake s
  | .portStateChange port st => Sys2Proof.Machine.execPortStateChange port st s
  | .thermalLimit die mhz => Sys2Proof.Machine.execThermalLimit die mhz s
  | .memoryError stack => Sys2Proof.Machine.execMemoryError stack s
  | .getVersion => Sys2Proof.Machine.execGetVersion s
  | .getCapabilities => Sys2Proof.Machine.execGetCapabilities s
  | .negotiateAlgorithms => Sys2Proof.Machine.execNegotiateAlgorithms s
  | .getDigests => Sys2Proof.Machine.execGetDigests s
  | .getCertificate slot => Sys2Proof.Machine.execGetCertificate slot s
  | .challenge slot nonce => Sys2Proof.Machine.execChallenge slot nonce s
  | .getMeasurements index => Sys2Proof.Machine.execGetMeasurements index s
  | .powerDown => Sys2Proof.Machine.execPowerDown s
  | .functionLevelReset fn => Sys2Proof.Machine.execFunctionLevelReset fn s

end Sys2Proof.Machine
end

