-- ==== Sys2Proof/Machine/Fetch.lean ====
section
/-! DEFINITION. What comes before an instruction of a gang: which gangs are ready on an issue port and which one the port
picks (spec 04 R92, R93), and fetching and decoding the next scalar word (02 R24, R45, R46). -/

namespace Sys2Proof.Machine

/-- R92, R192: no rule of the gang as a whole holds back its streams. -/
def State.mayIssue (s : State) (k : Nat) : Bool :=
  let g := s.gang k
  s.live k && !g.parked && g.reports == [] && g.wait == .none && g.replay.isEmpty

/-- R92: a gang whose next scalar instruction may be tried. A precise scalar trap that waits stops the stream. -/
def State.scalarReady (s : State) (k : Nat) : Bool :=
  s.mayIssue k && (s.gang k).trapWait == none

/-- R92: a gang whose head clause has started and holds a further instruction. -/
def State.laneReady (s : State) (k : Nat) : Bool :=
  s.mayIssue k && (match (s.gang k).clauses with | [] => false | c :: _ => c.started && decide (c.next < c.body.length))

/-- What a fetch of the scalar stream gives: an instruction, a cause at the program counter, or code that does not
translate (log 8). -/
inductive Fetched where
  | ok (i : Instr)
  | trap (cause : Nat)
  | noCode
  deriving DecidableEq, Repr

/-- R24, R45, R46: fetch and decode at the program counter of a gang. -/
def State.fetchScalar (s : State) (k : Nat) : Fetched :=
  let g := s.gang k
  let w := s.crew g.crew
  let pc := g.pc.toNat
  if w.scalarSize < pc + 4 then .trap 6
  else match s.readV w.asid (w.codeBase + pc) 4 with
    | none => .noCode
    | some bs =>
      if !isLong (leNat bs) then
        match decodeBytes bs with
        | .ok r => .ok r.1
        | .error _ => .trap 1
      else if w.scalarSize < pc + 8 then .trap 6
      else match s.readV w.asid (w.codeBase + pc + 4) 4 with
        | none => .noCode
        | some cs =>
          match decodeBytes (bs ++ cs) with
          | .ok r => .ok r.1
          | .error _ => .trap 1

/-- The next instruction of the lane stream of a gang: its clause has been checked whole (R47). -/
def State.fetchLane (s : State) (k : Nat) : Option Instr :=
  match (s.gang k).clauses with
  | [] => none
  | c :: _ => c.body[c.next]?

/-! ### Issue among the gangs of a quadrant (R93) -/

/-- The state of one ready gang at a port. -/
structure Cand where
  key   : Nat
  wait  : Nat
  prio  : Nat
  last  : Nat
  deriving DecidableEq, Repr

def Cand.slack (c : Cand) : Nat := 15 - c.wait

/-- R93 step 1. -/
def tight (cs : List Cand) : Bool :=
  (List.range 16).any (fun k => decide (k + 1 ≤ (cs.filter (fun c => decide (c.slack ≤ k))).length))

/-- Whether a port takes `a` before `b`. -/
def Cand.before (urgent : Bool) (a b : Cand) : Bool :=
  if urgent then decide (a.slack < b.slack) || (a.slack == b.slack && decide (a.last < b.last))
  else decide (b.prio < a.prio) || (a.prio == b.prio && decide (a.last < b.last))

/-- R93: the gang that a port picks; of two that issued equally long ago, or not yet, the one in the lower slot (log 36). -/
def pick (cs : List Cand) : Option Nat :=
  let u := tight cs
  (cs.foldl (fun (m : Option Cand) c =>
    match m with
    | none => some c
    | some b => if c.before u b then some c else some b) none).map Cand.key

/-- The gangs of a quadrant that are ready at its scalar or lane port. -/
def State.ready (s : State) (ok : Nat → Bool) (lane : Bool) (q : Nat) : List Cand :=
  ((List.range 16).map (16 * q + ·)).filterMap (fun k =>
    if ok k then
      let g := s.gang k
      some ⟨k, if lane then g.waitL else g.waitS, (s.crew g.crew).prio, if lane then g.lastL else g.lastS⟩
    else none)

/-- The name under which a gang's issue on a port stands in the account of the cycle. -/
def portKey (lane : Bool) (k : Nat) : Nat := 2 * k + (if lane then 1 else 0)
/-- R92: a port has not issued in this cycle. -/
def State.portFree (s : State) (lane : Bool) (q : Nat) : Bool :=
  !s.issued.any (fun x => x % 2 == portKey lane 0 && slotQuad (x / 2) == q)
/-- R93: gang `k` issues on a port in this cycle: its wait is over, and it is the one that issued last there. -/
def State.issueOn (s : State) (lane : Bool) (k : Nat) : State :=
  let now := 2 * Map.get 0 s.cycles (slotDie k) + 2
  let g := s.gang k
  { s.setGang k (if lane then { g with waitL := 0, lastL := now } else { g with waitS := 0, lastS := now }) with
    issued := s.issued ++ [portKey lane k] }

/-- R93: the wait of a gang on a port as a cycle ends: it grows where the gang is ready and has not issued. -/
def nextWait (wait : Nat) (ready issued : Bool) : Nat := if ready && !issued then wait + 1 else 0

/-- R23: a cycle of a die's own counter, while the device is powered. -/
def State.tick (s : State) (die : Nat) : State :=
  if s.powered then { s with cycles := Map.put 0 s.cycles die ((Map.get 0 s.cycles die + 1) % 2 ^ 64) } else s

/-- The quadrants that hold a gang, in order of their slots. -/
def State.quads (s : State) : List Nat := (s.gangs.map (fun e => slotQuad e.1)).eraseDups

end Sys2Proof.Machine
end

