-- ==== Sys2Proof/Machine/Policy.lean ====
section
/-! DEFINITION. Which turn comes next (log 2): the agenda's; where the agenda is empty, the first event of the device, in
a fixed order, that would change something; where none would, an instruction of a quadrant's port by R93; and where no port has
one left in this cycle, the end of the cycle. -/

namespace Sys2Proof.Machine

/-- Whether an answer moves the machine. -/
def moves (r : Res) (s : State) : Bool :=
  match r with
  | .next t => t != s
  | _ => true

/-- A gang without the marks that an instruction which waits may set: that it parks (R198), or waits for every clause (R90). -/
def Gang.unmarked (g : Gang) : Gang := { g with parked := false, sWait := false }

/-- An instruction of the gang whose turn it is issues: its answer changes more than those marks. -/
def issues (r : Res) (s : State) : Bool :=
  match r with
  | .next t => t.setMe t.me.unmarked != s.setMe s.me.unmarked
  | _ => true

/-- A branch or jump that leads to itself changes nothing as it issues (R104): whether one is held back. -/
def branchHeld (g : Gang) (i : Instr) : Option Bool :=
  match i with
  | .sbr cnd _ _ => some (decide (16 ≤ cnd.val) && !g.clauses.isEmpty)
  | .scall sd _ => some (g.sBlocked [] [sd.val])
  | .sjr sd sa _ => some (g.sBlocked [sa.val] [sd.val])
  | _ => none

/-- R92, R100: no rule makes an instruction of the gang whose turn it is wait. -/
def State.goes (s : State) (i : Instr) : Bool :=
  match branchHeld s.me i with
  | some held => !held
  | none => issues (exec i s) s

/-- R92: a gang whose next scalar instruction no rule makes wait. -/
def State.scalarIssues (s : State) (k : Nat) : Bool :=
  s.scalarReady k && (match s.fetchScalar k with
    | .ok i => ({ s with cur := k } : State).goes i
    | _ => true)

/-- R92: a gang whose next lane instruction no rule makes wait. -/
def State.laneIssues (s : State) (k : Nat) : Bool :=
  s.laneReady k && (match s.fetchLane k with
    | some i => ({ s with cur := k } : State).goes i
    | none => false)

/-- The gangs that are ready on a port of a quadrant (R92). -/
def State.portReady (s : State) (lane : Bool) (q : Nat) : List Cand :=
  s.ready (if lane then s.laneIssues else s.scalarIssues) lane q
/-- R92, R93: the gang that a port issues now: none where it has issued in this cycle. -/
def State.portPick (s : State) (lane : Bool) (q : Nat) : Option Nat :=
  if s.portFree lane q then pick (s.portReady lane q) else none

/-- R93: the waits of a gang as a cycle ends in a state. -/
def State.waitsIn (s t : State) (k : Nat) : State :=
  let g := t.gang k
  t.setGang k { g with waitS := nextWait g.waitS (s.scalarIssues k) (s.issued.contains (portKey false k)),
                       waitL := nextWait g.waitL (s.laneIssues k) (s.issued.contains (portKey true k)) }
/-- The gangs of a die. -/
def State.dieGangs (s : State) (die : Nat) : List Nat := (s.gangs.map (·.1)).filter (fun k => slotDie k == die)
/-- R93: a port of a die has still to issue in this cycle. -/
def State.dieIssues (s : State) (die : Nat) : Bool :=
  (((s.dieGangs die).map slotQuad).eraseDups).any (fun q => (s.portPick true q).isSome || (s.portPick false q).isSome)
/-- The end of a cycle of a die: its ports keep their account (R93), its cycle counter counts (R23), and with the cycles of die 0
the bring-up goes on (R375, log 4). -/
def State.endCycle (s : State) (die : Nat) : State :=
  let t := ({ (s.dieGangs die).foldl s.waitsIn s with issued := s.issued.filter (fun x => slotDie (x / 2) != die) } : State).tick die
  if die = 0 then t.bringStep else t

/-! ### The events that may stand next, in the model's order (log 2) -/

/-- The events of a gang. -/
def gangEvents (k : Nat) : List Instr :=
  [.deferredTrapTake k, .clauseCheck k, .clauseStart k, .clauseRetire k, .storeQueueEntryLeave k, .mwaitRecheck k,
   .blockReturn k, .gangSlotFree k]

/-- The choices that the model makes for a slice access: what the L1 and the TLB hold is there and is kept, and a peer
answers. -/
def autoChoice : Choice := ⟨true, true, true, true, .ok⟩

/-- The events of an operation of a gang, with those of its elements. -/
def opEvents (o : Op) : List Instr :=
  [.scalarResultReturn o.id, .laneOpComplete o.id, .storeAck o.id, .faultReport o.id, .pageCommit o.id, .pageDecommit o.id,
   .pageQuery o.id, .berthAccept o.id, .redeemAtSlice o.id, .redeemDelivery o.id, .berthDrop o.id, .berthStatus o.id,
   .slipwayPost o.id, .levelCancel o.id, .heldElementPerform o.crew o.id]
  ++ (List.range o.els.length).flatMap (fun e =>
    [.sliceAccess o.id e autoChoice, .windowAccess o.id e, .hostAccessCompletion o.id e false])

/-- The events of a command in flight of a crew's crane ring. -/
def craneEvents (c : Nat) (x : CraneCmd) : List Instr :=
  [.copy c x.pos x.next, .indexListCopy c x.pos x.next, .fill c x.pos x.next, .putsig c x.pos x.next,
   .streamToHearth c x.pos, .stamp c x.pos, .commandComplete c x.pos, .heldElementPerform c x.pos]

/-- The events of a crew. -/
def crewEvents (c : Nat) (w : Crew) : List Instr :=
  .entryRead c :: w.ring.cmds.flatMap (craneEvents c)
  ++ [.crewStop c, .crewSwitchOut c, .crewRestore c, .replayInPlace c, .crewEnd c]

/-- The events of the quay: a busy page, a pool, a pending fetch, the prefix engine of a die. -/
def quayEvents (q : Quay) : List Instr :=
  q.busy.map (fun b => .copyOnWrite b.key)
  ++ q.pools.map (fun e => .frameScrubDone (e.1 / 4) (e.1 % 4))
  ++ q.berths.flatMap (fun e => [.fetchLand e.1, .fetchFault e.1])
  ++ (List.range 4).flatMap (fun d => [.prefixWalk d, .prefixInsert d, .prefixRelease d, .prefixEvict d])

/-- The level and id of a key of the level table. -/
def levelEvents (k : Nat) : List Instr :=
  let asid := k / 2 ^ 18
  let lvl := k / 65536 % 4
  [.levelReclaim asid lvl (k % 65536), .levelComplete asid lvl (k % 65536)]

/-- The events of the harbour master. -/
def harbourEvents (h : Harbour) : List Instr :=
  h.launches.flatMap (fun e => [.levelReclaim (e.1 / 65536) 0 (e.1 % 65536), .levelComplete (e.1 / 65536) 0 (e.1 % 65536)])
  ++ h.levels.flatMap (fun e => levelEvents e.1)
  ++ h.slip.map (fun e => .launchEligible e.1)
  ++ h.ladder.flatMap (fun e => (List.range 4).flatMap (fun d => [.graceTimerExpire e.1 d, .killTimerExpire e.1 d]))
  ++ (h.splitP.map (·.1) ++ h.qmapP.map (·.1)).map (fun k => .splitApply (k / 64 * 48 + k % 64))
  ++ (List.range 16).map (fun p => .crewPlace p)

/-- The events of the host interface that the device itself starts. -/
def hostEvents (h : HostIf) : List Instr :=
  .recordAppend :: h.pairs.flatMap (fun e =>
    [.submissionConsume (e.1 / 8) (e.1 % 8), .completionEntryWrite (e.1 / 8) (e.1 % 8)])
  ++ (if h.fwstat = 1 ∨ h.fwstat = 2 then [.firmwareCheck false] else [])

/-- Every event that the device itself may start. -/
def State.events (s : State) : List Instr :=
  s.gangs.flatMap (fun e => gangEvents e.1)
  ++ s.hops.map (fun h => .laneOpComplete h.id)
  ++ s.ops.flatMap opEvents
  ++ ((s.quads ++ s.hops.flatMap HOp.quads).eraseDups).flatMap (fun q => [.hearthStart q, .vacqGrant q])
  ++ s.rings.map (fun e => .faultRingPost e.1)
  ++ s.crews.flatMap (fun e => crewEvents e.1 e.2)
  ++ quayEvents s.quay ++ harbourEvents s.harb ++ hostEvents s.host

/-- The cycle in which a quadrant last issued. -/
def State.quadLast (s : State) (q : Nat) : Nat :=
  (List.range 16).foldl (fun m i => max m (max (s.gang (16 * q + i)).lastS (s.gang (16 * q + i)).lastL)) 0

/-- Insert a quadrant before those that issued later. -/
def State.insertQuad (s : State) (q : Nat) : List Nat → List Nat
  | [] => [q]
  | p :: ps => if s.quadLast q ≤ s.quadLast p then q :: p :: ps else p :: s.insertQuad q ps

/-- The quadrants that hold a gang, the one that has not issued for longest first. -/
def State.quadsDue (s : State) : List Nat := s.quads.foldr s.insertQuad []

/-- What a gang does on a port: an instruction that goes issues where the port picks its gang, and takes the port's cycle; one that
waits takes none, and may mark its gang (R100, R198). -/
def State.onPort (s : State) (lane : Bool) (k : Nat) (i : Instr) : Res :=
  if !s.goes i then exec i s
  else if s.portPick lane (slotQuad k) = some k then exec i (s.issueOn lane k)
  else .next s

/-- A turn taken at a state: the instruction that it fetches (R24, R45, R46, R47), the event that it names, or the end of a cycle of
a die, which does not end while a gang is to issue on a port of the die (R93).
The address that a fetch trap of cause 0x06 records is the program counter, an offset in the section: no lane traps, and the
manual names no other address (R46, R196; log 36). -/
def State.take (s : State) (t : Turn) : Res :=
  match t with
  | .scalar k =>
    if !s.scalarReady k then .next s
    else match s.fetchScalar k with
      | .ok i => s.onPort false k i
      | .trap c =>
        if s.portPick false (slotQuad k) = some k then
          .next ((s.issueOn false k).scalarTrap c 0 (if c = 6 then (s.gang k).pc.setWidth 64 else 0))
        else .next s
      | .noCode => .fault .codeNotTranslated
  | .lane k =>
    if !s.laneReady k then .next s
    else match s.fetchLane k with
      | some i => s.onPort true k i
      | none => .next s
  | .act i => exec i s
  | .cycle die => .next (if 4 ≤ die || s.dieIssues die then s else s.endCycle die)

/-- What a step does before its turn: the turn leaves the agenda, and the gang whose turn it is is noted. -/
def State.begin (s : State) (t : Turn) : State :=
  match t with
  | .scalar k => { s with agenda := s.agenda.tail, cur := k }
  | .lane k => { s with agenda := s.agenda.tail, cur := k }
  | _ => { s with agenda := s.agenda.tail }

/-- The gangs that run. -/
def State.runners (s : State) : List Nat := (s.gangs.filter (fun e => e.2.phase == .running)).map (·.1)

/-- A gang whose next instruction waits and marks it. -/
def State.marks (s : State) : Option Turn :=
  match s.runners.find? (fun k => s.laneReady k && !s.laneIssues k && moves ((s.begin (.lane k)).take (.lane k)) (s.begin (.lane k))) with
  | some k => some (.lane k)
  | none => (s.runners.find? (fun k => s.scalarReady k && !s.scalarIssues k
      && moves ((s.begin (.scalar k)).take (.scalar k)) (s.begin (.scalar k)))).map Turn.scalar

/-- A port that still issues in this cycle. -/
def State.issuer (s : State) : Option Turn :=
  match s.quadsDue.findSome? (s.portPick true) with
  | some k => some (.lane k)
  | none => (s.quadsDue.findSome? (s.portPick false)).map Turn.scalar

/-- The dies in the order in which their clocks, in steps of 50 MHz up to 1.4 GHz, end cycles, each evenly spread (R1, R23; log 2). -/
def cycleOrder (clock : Nat → Nat) : List Nat :=
  (List.range 28).flatMap (fun i => (List.range 4).filter (fun d =>
    decide (i * (clock d / 50) / 28 < (i + 1) * (clock d / 50) / 28)))
/-- The die whose cycle ends next. -/
def State.nextDie (s : State) : Nat :=
  let l := cycleOrder s.clockOf
  l.getD (((List.range 4).map (fun d => Map.get 0 s.cycles d)).foldl (· + ·) 0 % l.length) 0

/-- The turn that the model takes where the agenda names none. -/
def State.autoTurn (s : State) : Turn :=
  match s.events.find? (fun i => moves (exec i s) s) with
  | some i => .act i
  | none =>
    match s.marks with
    | some t => t
    | none => s.issuer.getD (.cycle s.nextDie)

/-- The turn that a step takes. -/
def State.turn (s : State) : Turn :=
  match s.agenda with
  | t :: _ => t
  | [] => s.autoTurn

/-- R88, Table 5-5: what every turn ends with. -/
def settled (r : Res) : Res :=
  match r with
  | .next t => .next t.settleTails
  | x => x

/-! ### Placing an instruction -/

/-- The launch descriptor of the placed instruction: one gang, scalar code of 256 bytes at 0x1_0000 of home 0, lane code
of 256 bytes behind it, no trap handler. -/
def placeDesc : BitVec 512 :=
  BitVec.ofNat 512 (0x10000 + 0xFFFFFFFF * 2 ^ 224 + 1 * 2 ^ 256 + 1 * 2 ^ 272)

/-- The page tables that map 0x1_0000 of home 0 to frame 5: a table a level and a normal leaf (Tables 15-2, 15-3). -/
def placeTables (s : State) : State :=
  (((s.writePhys 0x10000 (natLE 8 (2 ^ 63 + 0x20000))).writePhys 0x20000 (natLE 8 (2 ^ 63 + 0x30000))).writePhys 0x30000
    (natLE 8 (2 ^ 63 + 0x40000))).writePhys 0x40008 (natLE 8 (mkLeaf kNormal true true 5))

/-- A clause header that names flags 0 and 1 and one instruction (Table 2-16). -/
def placeHeader : Nat := 0xFF * 2 ^ 88 + 0 * 2 ^ 72 + 1 * 2 ^ 68

/-- The clause that holds the placed lane word, checked and started. -/
def State.placeClause (s : State) (w : Crew) : List Clause :=
  let c := s.newClause w 0 0
  [{ c with checked := true, started := true }]

/-- One gang in slot 0 of a crew of launch 1 of ASID 1, its code in memory, and its turn next. -/
def State.placeWord (s : State) (nbits w : Nat) : State :=
  let c := s.nextCrew
  let crew : Crew := { Crew.empty with phase := .resident, launch := 65536 + 1, desc := placeDesc, ncrews := 1, slots := [0] }
  let s1 := placeTables { s with quay := { s.quay with roots := Map.put none s.quay.roots 4 (some 0x10000), tlb := [] } }
  let s2 := if nbits = 96 then (s1.writePhys 0x50100 (natLE 12 placeHeader)).writePhys 0x5010C (natLE 12 w)
            else s1.writePhys 0x50000 (natLE 8 (w % 2 ^ nbits))
  let s3 := { s2 with nextCrew := c + 1, crews := Map.put Crew.empty s2.crews c crew,
                      agenda := [if nbits = 96 then Turn.lane 0 else Turn.scalar 0] }
  s3.setGang 0 { Gang.empty with phase := .running, crew := c, live := BitVec.allOnes 32,
                                 clauses := if nbits = 96 then s3.placeClause crew else [] }

end Sys2Proof.Machine
end

