-- ==== Sys2Proof/Machine/Step.lean ====
section
/-! DEFINITION. One step of the device, and where the next instruction stands. -/

namespace Sys2Proof.Machine

/-- One turn: an instruction of one gang's stream, one event, or the end of a cycle. -/
def step (s : State) : Host.Outcome State Fault Refusal := settled ((s.begin s.turn).take s.turn)

/-- `s` with an instruction's bits where the next step fetches: the device runs no instruction without a launch, so this
stands for the launch (log 4). -/
def State.withFetchWord (s : State) (nbits w : Nat) : State := s.placeWord nbits w

end Sys2Proof.Machine
end

