-- ==== Sys2Proof/Safety.lean ====
section
/-! DEFINITION. What counts as a safe run, and the terms in which the statements speak of what a turn changes: every
memory of the device keeps its one canonical form, and a step that stops names its reason. -/

namespace Sys2Proof.Machine

/-- The memories that the model keeps in canonical form: the device's, the host's and the peers'. -/
def State.Canonical (s : State) : Prop :=
  Memory.wf s.quay.mem = true ∧ Memory.wf s.hostMem = true ∧ Memory.wf s.peerMem = true

/-- A state from which `n` steps go on. -/
def State.SafeFor : Nat → State → Prop
  | 0, _ => True
  | n + 1, s => ∃ t, step s = .next t ∧ State.SafeFor n t

/-! ### What a turn leaves unchanged -/

/-- Every byte of device memory, host memory and peer memory, and of every crew's scratchpad, reads as before. -/
def State.SameBytes (s t : State) : Prop :=
  ∀ a, t.readPhys a 1 = s.readPhys a 1 ∧ t.readHost a 1 = s.readHost a 1 ∧ t.readPeer a 1 = s.readPeer a 1
    ∧ ∀ c, (t.crew c).readScr a 1 = (s.crew c).readScr a 1

/-- Outside its own gang a turn changes nothing: no byte of memory, no other gang, no other part of the device. -/
def State.OwnGang (s t : State) : Prop :=
  s.SameBytes t ∧ (∀ k, k ≠ s.cur → t.gang k = s.gang k) ∧ t = { s with gangs := t.gangs }

/-- In its own gang a turn writes scalar registers of `wr` and the program counter, and nothing else: every other scalar
register, flag, special register, vector register, predicate and trap register is unchanged. -/
def State.WritesScalar (s t : State) (wr : List Nat) : Prop :=
  s.OwnGang t ∧ (∀ r, r ∉ wr → t.me.rs r = s.me.rs r)
    ∧ t.me = { s.me with sreg := t.me.sreg, pc := t.me.pc }

/-- The condition codes and the program counter of its own gang are all that a turn writes. -/
def State.WritesCodes (s t : State) : Prop :=
  s.OwnGang t ∧ t.me = { s.me with cc := t.me.cc, pc := t.me.pc }

/-- The program counter of its own gang is all that a turn writes. -/
def State.WritesPc (s t : State) (pc : Word) : Prop := s.OwnGang t ∧ t.me = { s.me with pc := pc }

end Sys2Proof.Machine
end

