-- ==== Sys2Proof/Certificates/Slice0/Obligations.lean ====
section
/-! DEFINITION. The statements for the provers. -/

open Sys2Proof Sys2Proof.Machine

namespace Sys2Proof.Claims

/-! ### The scalar stream -/

/-- R28: what a read of a register gives after a write of `v` to register `d`: `s0` stays zero. -/
def written (d : Nat) (v : Word) : Word := if d = 0 then 0 else v

/-- The register rows of Table 5-1 that write sd, each with its result by the table. -/
def saluRows : List ((SReg → SReg → SReg → Instr) × (Word → Word → Word)) :=
  [(.sadd, fun a b => BitVec.ofNat 32 (a.toNat + b.toNat)),
   (.ssub, fun a b => BitVec.ofInt 32 (a.toNat - b.toNat)),
   (.sand, fun a b => a &&& b), (.sor, fun a b => a ||| b), (.sxor, fun a b => a ^^^ b),
   (.sandn, fun a b => a &&& ~~~b),
   (.sshl, fun a b => if b.toNat < 32 then BitVec.ofNat 32 (a.toNat * 2 ^ b.toNat) else 0),
   (.sshr, fun a b => if b.toNat < 32 then BitVec.ofNat 32 (a.toNat / 2 ^ b.toNat) else 0),
   (.ssra, fun a b => if b.toNat < 32 then BitVec.ofInt 32 (a.toInt / 2 ^ b.toNat)
                      else if a.msb then BitVec.allOnes 32 else 0),
   (.smin, fun a b => if a.toInt ≤ b.toInt then a else b), (.smax, fun a b => if a.toInt ≤ b.toInt then b else a),
   (.sminn, fun a b => if a.toNat ≤ b.toNat then a else b), (.smaxn, fun a b => if a.toNat ≤ b.toNat then b else a),
   (.smul, fun a b => BitVec.ofNat 32 (a.toNat * b.toNat)),
   (.smulh, fun a b => BitVec.ofInt 32 (a.toInt * b.toInt / 2 ^ 32)),
   (.smulhn, fun a b => BitVec.ofNat 32 (a.toNat * b.toNat / 2 ^ 32))]

/-- The rows of Table 5-1 with one source; the count of leading zeros by its two bounds, of one bits by the bits. -/
def saluRows1 : List ((SReg → SReg → Instr) × (Word → Word → Prop)) :=
  [(.smov, fun a v => v = a),
   (.sclz, fun a v => v.toNat ≤ 32 ∧ a.toNat < 2 ^ (32 - v.toNat) ∧ (a ≠ 0 → 2 ^ (31 - v.toNat) ≤ a.toNat)
                      ∧ (a = 0 → v = 32)),
   (.spopc, fun a v => v.toNat = ((List.range 32).filter (fun i => a.getLsbD i)).length)]

/-- R28: a read of a pair after a write of `v` to the pair `d`. -/
def writtenPair (d : Pair) (v : Dword) : Dword := if d.val = 0 then v.extractLsb' 32 32 ++ (0 : Word) else v

/-- Table 5-2: the rows over pairs, and those with a count. -/
def salud3 : List ((Pair → Pair → Pair → Instr) × (Dword → Dword → Dword)) :=
  [(.saddD, fun a b => BitVec.ofNat 64 (a.toNat + b.toNat)), (.ssubD, fun a b => BitVec.ofInt 64 (a.toNat - b.toNat))]
def saludS : List ((Pair → Pair → SReg → Instr) × (Dword → Word → Dword)) :=
  [(.sshlD, fun a b => if b.toNat < 64 then BitVec.ofNat 64 (a.toNat * 2 ^ b.toNat) else 0),
   (.sshrD, fun a b => if b.toNat < 64 then BitVec.ofNat 64 (a.toNat / 2 ^ b.toNat) else 0)]
def saludW : List ((Pair → SReg → SReg → Instr) × (Word → Word → Dword)) :=
  [(.smulw, fun a b => BitVec.ofInt 64 (a.toInt * b.toInt)), (.smulwn, fun a b => BitVec.ofNat 64 (a.toNat * b.toNat))]

/-- A signed n-bit field as a 32-bit word (R27). -/
def sext32 (n v : Nat) : Word := (BitVec.ofNat n v).signExtend 32

/-- Table 5-3: the rows that write sd from sa and a literal. -/
def immRows : List ((SReg → SReg → Fin 4096 → Instr) × (Word → Nat → Word)) :=
  [(.saddi, fun a i => BitVec.ofNat 32 (a.toNat + (sext32 12 i).toNat)), (.sandi, fun a i => a &&& BitVec.ofNat 32 i),
   (.sori, fun a i => a ||| BitVec.ofNat 32 i), (.sxori, fun a i => a ^^^ BitVec.ofNat 32 i)]
def shiftRows : List ((SReg → SReg → Fin 32 → Instr) × (Word → Nat → Word)) :=
  [(.sshli, fun a i => BitVec.ofNat 32 (a.toNat * 2 ^ i)), (.sshri, fun a i => BitVec.ofNat 32 (a.toNat / 2 ^ i)),
   (.ssrai, fun a i => BitVec.ofInt 32 (a.toInt / 2 ^ i))]
def constRows : List ((SReg → Fin 524288 → Instr) × (Nat → Word)) :=
  [(.sli, fun i => sext32 19 i), (.slui, fun i => BitVec.ofNat 32 (i * 2 ^ 13))]

/-- R99: the condition codes of a compare of `a` with `b`. -/
def codesOf {w : Nat} (a b : BitVec w) : CC :=
  { z := a == b, n := (a - b).msb, c := decide (b.toNat ≤ a.toNat)
    v := decide (a.toInt - b.toInt < -2 ^ (w - 1)) || decide (2 ^ (w - 1) ≤ a.toInt - b.toInt) }

/-- Table 2-9: the tests 0 to 15 on the condition codes. -/
def ccTests : List (CC → Bool) :=
  [fun _ => true, fun c => c.z, fun c => !c.z, fun c => c.n != c.v, fun c => c.n == c.v,
   fun c => !c.z && (c.n == c.v), fun c => c.z || (c.n != c.v), fun c => !c.c, fun c => c.c, fun c => c.c && !c.z,
   fun c => !c.c || c.z, fun c => c.v, fun c => !c.v, fun c => c.n, fun c => !c.n, fun _ => false]

/-- The test of a branch: a code of Table 2-9, or a predicate whose live lanes are all false (R82). -/
def branchTest (g : Gang) (cnd : Nat) : Bool :=
  match ccTests[cnd]? with | some f => f g.cc | none => g.mz.getLsbD (cnd - 16)

/-- Table 5-5 and Table 9-2: the 32-bit special registers, then the 64-bit ones that are not remote. -/
def special32 (s : State) : List (Nat × Nat) :=
  let g := s.me
  let w := s.myCrew
  [(0x000, g.num), (0x001, w.ngangs), (0x002, w.num), (0x003, w.ncrews),
   (0x004, if w.hasWatches then g.num / 4 else 2 ^ 32 - 1), (0x005, g.live.toNat), (0x006, s.cur), (0x007, w.asid),
   (0x008, w.launchId), (0x009, g.nextBlk), (0x00A, s.freeBlocks (s.cur / 16)),
   (0x00B, 8 * g.cc.z.toNat + 4 * g.cc.n.toNat + 2 * g.cc.c.toNat + g.cc.v.toNat), (0x00C, g.clauses.length),
   (0x014, w.scrSize), (0x015, w.ringOff), (0x016, w.ringLen), (0x020, g.abandoned.toNat), (0x021, g.skipped.toNat),
   (0x030, g.trap.tcause.toNat), (0x031, g.trap.tpc.toNat), (0x032, g.trap.tinfo.toNat), (0x033, g.trap.tlanes.toNat),
   (0x036, g.trap.tcount.toNat), (0x037, g.trap.handler.toNat)]
  ++ ((List.range 8).map (fun i => (0x038 + i, 0)))
def special64 (s : State) : List (Nat × Nat) :=
  [(0x010, Map.get 0 s.cycles (s.cur / 4096 % 4)), (0x012, s.myCrew.d 127 64), (0x034, s.me.trap.taddr.toNat)]

/-! ### Operations in flight -/

/-- An instruction of the scalar stream puts an operation in flight: the operation takes the next place in issue order, its
destination registers become pending (R83), and no register, flag, special register or byte of memory changes. Its requests wait in the
core for room among the 4,096 of R6 as they leave it (log 36). -/
def Issues (i : Instr) (s : State) (len : Word) (dst : List Nat) (o : Op) : Prop :=
  ∃ t h, exec i s = .next t ∧ t.ops = s.ops ++ [{ o with id := s.nextOp, head := h }] ∧ t.nextOp = s.nextOp + 1
    ∧ t.me = { s.me with spend := s.me.spend ++ dst.filter (· != 0), pc := s.me.pc + len, parked := t.me.parked }
    ∧ (∀ k, k ≠ s.cur → t.gang k = s.gang k) ∧ s.SameBytes t
    ∧ t = { s with gangs := t.gangs, ops := t.ops, nextOp := t.nextOp }

/-- The bytes of a register or of a pair, lowest first (R3). -/
def regBytes (g : Gang) (wide : Bool) (r : Nat) : List Byte :=
  (List.range (if wide then 8 else 4)).map (fun i =>
    if i < 4 then (g.rs r).extractLsb' (8 * i) 8 else (g.rs (r + 1)).extractLsb' (8 * (i - 4)) 8)

/-- One element, still to be performed. -/
def element (lane : Nat) (a : Dword) (data : List Byte) : El := ⟨lane, a, data, .todo, []⟩

/-- The registers of a width. -/
def widthRegs (wide : Bool) (r : Nat) : List Nat := if wide then [r, r + 1] else [r]
def widthDst (wide : Bool) (r : Nat) : Dst := if wide then .pair r else .sreg r
def widthBytes (wide : Bool) : Nat := if wide then 8 else 4

/-- A queue entry of the scalar stream (R156) over a fresh operation. -/
def entryOf (s : State) (kind : OpKind) (sc : Scope) (ord : Order) (mask : BitVec 8) (col w : Nat) (els : List El)
    (dst : Dst) : Op :=
  { s.baseOp with kind := kind, inQ := true, stage := .queued, scope := sc, ord := ord, mask := mask, colour := col,
                  width := w, els := els, dst := dst }

/-- The plain accesses of the scalar stream (Table 7-1): the registers read and written, the alignment, whether it is an
atomic, and the address. -/
def scalarAccess (s : State) : Instr → Option (List Nat × List Nat × Nat × Bool × Dword)
  | .sld sd sa i => some (pr sa, [sd.val], 4, false, s.me.rp (ev sa) + (BitVec.ofNat 12 i.val).signExtend 64)
  | .sldD sd sa i => some (pr sa, pr sd, 8, false, s.me.rp (ev sa) + (BitVec.ofNat 12 i.val).signExtend 64)
  | .sst sd sa _ w => some (pr sa ++ [sd.val], [], 4, false, s.me.rp (ev sa) + BitVec.ofNat 64 (4 * w.val))
  | .sstD sd sa _ w => some (pr sa ++ pr sd, [], 8, false, s.me.rp (ev sa) + BitVec.ofNat 64 (4 * w.val))
  | .sldAcq wide _ sd sa => some (pr sa, widthRegs wide sd.val, widthBytes wide, false, s.me.rp (ev sa))
  | .sstRel wide _ _ _ sd sa => some (pr sa ++ widthRegs wide sd.val, [], widthBytes wide, false, s.me.rp (ev sa))
  | .satom _ wide _ _ _ sd sa sb =>
    some (pr sa ++ widthRegs wide sb.val, widthRegs wide sd.val, widthBytes wide, true, s.me.rp (ev sa))
  | .scas wide _ _ _ sd sa sb =>
    some (pr sa ++ widthRegs wide sb.val ++ widthRegs wide sd.val, widthRegs wide sd.val, widthBytes wide, true, s.me.rp (ev sa))
  | .mwait sd sa sb _ _ => some (pr sa ++ pr sb, [sd.val], 8, false, s.me.rp (ev sa))
  | .ssendsig _ _ _ _ sd sa sb => some (pr sd ++ pr sa ++ pr sb, [], 8, false, s.me.rp (ev sa))
  | _ => none

/-- R13, R14: an address whose home Table 1-4 does not list, or a window address with bits that must be zero. -/
def badPlace (a : Dword) : Bool :=
  let h := a.toNat / 2 ^ 50
  decide (¬(h ≤ 3 ∨ h = 16 ∨ h = 24 ∨ 64 ≤ h ∧ h ≤ 127)
  ∨ h = 24 ∧ (48 ≤ a.toNat / 2 ^ 42 % 64
      ∨ (if a.toNat.testBit 35 then a.toNat / 2 ^ 21 % 2 ^ 14 ≠ 0 else a.toNat / 2 ^ 18 % 2 ^ 17 ≠ 0)))

/-- An address of homes 0 to 3, and one of homes 0 to 3 or 64 to 127. -/
def atDie (a : Dword) : Bool := decide (a.toNat < 2 ^ 52)
def atPage (a : Dword) : Bool := decide (a.toNat < 2 ^ 52 ∨ 2 ^ 56 ≤ a.toNat ∧ a.toNat < 2 ^ 57)

/-- The requests of the scalar stream to the quay and the harbour master: the registers read and written, and what is checked
as they issue, in order, with the cause and the address of each failure (R286, R303, R306, R327, R344). -/
def scalarRequest (s : State) : Instr → Option (List Nat × List Nat × List (Bool × Nat × Dword))
  | .fetchk _ n _ sd sa =>
    let a := s.me.rp (ev sa)
    some (pr sa, pr sd, [(decide (a.toNat % 32 ≠ 0 ∨ 512 < a.toNat % 512 + 32 * (n.val + 1)), 5, a), (!atDie a, 6, a)])
  | .pcommit _ sd sa => some (pr sa, [sd.val], [(!atPage (s.me.rp (ev sa)), 6, s.me.rp (ev sa))])
  | .pdecommit sd sa => some (pr sa, [sd.val], [(!atPage (s.me.rp (ev sa)), 6, s.me.rp (ev sa))])
  | .pquery _ sd sa => some (pr sa, pr sd, [(!atPage (s.me.rp (ev sa)), 6, s.me.rp (ev sa))])
  | .slaunch _ _ sd sa =>
    let a := s.me.rp (ev sa)
    some (pr sa, [sd.val], [(decide (a.toNat % 64 ≠ 0), 5, a), (!atDie a, 6, a)])
  | .sredeem tr _ sd off sa sb =>
    let st := s.me.rp (ev sb)
    let o := s.me.rs off.val
    some (pr sa ++ pr sb ++ [off.val], if tr then [sd.val] else [],
      [(decide (o.toNat % 32 ≠ 0), 5, o.setWidth 64), (decide (st.toNat % 8 ≠ 0), 5, st), (badPlace st, 6, st),
       (decide (s.myCrew.scrSize < o.toNat + tkLen (s.me.rp (ev sa)).toNat), 6, o.setWidth 64)])
  | .pfxwalk _ sd blk sa => some (pfx sd blk sa [0, 1, 2, 3, 4, 5, 6, 7])
  | .pfxins _ sd blk sa => some (pfx sd blk sa [0, 1, 2, 3, 4, 6, 7])
  | .pfxrel _ sd blk sa => some (pfx sd blk sa [0, 1, 4, 5, 6, 7])
  | .pfxevict _ sd blk sa => some (pfx sd blk sa [0, 1, 4])
  | _ => none
where
  /-- The tree and the record of a request to a prefix engine. -/
  pfx (sd : Pair) (blk : Fin 16) (sa : Pair) (uses : List Nat) : List Nat × List Nat × List (Bool × Nat × Dword) :=
    let t := s.me.rp (8 * blk.val)
    let r := s.me.rp (ev sa)
    (uses.map (8 * blk.val + ·) ++ pr sa, pr sd,
      [(decide (t.toNat % 64 ≠ 0), 5, t), (decide (r.toNat % 32 ≠ 0), 5, r), (!atDie t, 6, t), (!atDie r, 6, r)])

/-- R158, R170: the cause with which an access fails its first two checks; an atomic reaches no register window. -/
def failsWith (n : Nat) (atom : Bool) (a : Dword) (cause : Nat) : Prop :=
  if a.toNat % n ≠ 0 then cause = 5
  else cause = 6 ∧ (badPlace a = true ∨ atom = true ∧ a.toNat / 2 ^ 50 = 24 ∧ a.toNat.testBit 35 = false)

/-- R172, R173: a gang arrives at a barrier: its clauses have retired, its older accesses are done at crew scope, and no register that
the instruction names waits. -/
def Arrives (s : State) (rd wr : List Nat) : Prop :=
  s.me.clauses = [] ∧ s.olderDone s.cur s.nextOp .crew (BitVec.allOnes 8) = true ∧ s.me.sBlocked rd wr = false

/-- The precise traps of the scalar stream: which instruction takes which cause, with which `tinfo` and address (R106, R108,
R117, R158, R172, R173, R191, R286, R303, R306, R327, R344); of two operands that both fail the first in the model's order (log 36). -/
inductive Traps (s : State) : Instr → Nat → Word → Dword → Prop
  | strap (code : Fin 4096) : Traps s (.strap code) 0x11 (BitVec.ofNat 32 code.val) 0
  | sbrk (code : Fin 4096) : Traps s (.sbrk code) 0x12 (BitVec.ofNat 32 code.val) 0
  | sjr (sd sa : SReg) (i : Fin 4096) : s.me.sBlocked [sa.val] [sd.val] = false →
      (s.me.rs sa.val + 4 * sext32 12 i.val).toNat % 4 ≠ 0 →
      Traps s (.sjr sd sa i) 5 0 ((s.me.rs sa.val + 4 * sext32 12 i.val).setWidth 64)
  | lrunr (sa : SReg) : s.me.sBlocked [sa.val] [] = false → (s.me.rs sa.val).toNat % 16 ≠ 0 →
      Traps s (.lrunr sa) 5 0 ((s.me.rs sa.val).setWidth 64)
  | access (i : Instr) (rd wr : List Nat) (n : Nat) (atom : Bool) (a : Dword) (cause : Nat) :
      scalarAccess s i = some (rd, wr, n, atom, a) → s.me.sBlocked rd wr = false → failsWith n atom a cause →
      Traps s i cause 0 a
  | counter (sc : Scope) (mask inc : Fin 256) (col : Fin 8) (sd sa sb : Pair) (cause : Nat) :
      s.me.sBlocked (pr sd ++ pr sa ++ pr sb) [] = false →
      (s.me.rp (ev sa)).toNat % 8 = 0 → badPlace (s.me.rp (ev sa)) = false →
      failsWith 8 true (s.me.rp (ev sb)) cause → Traps s (.ssendsig sc mask inc col sd sa sb) cause 0 (s.me.rp (ev sb))
  | request (i : Instr) (rd wr : List Nat) (l : List (Bool × Nat × Dword)) (cause : Nat) (a : Dword) :
      scalarRequest s i = some (rd, wr, l) → s.me.sBlocked rd wr = false → l.find? (fun x => x.1) = some (true, cause, a) →
      Traps s i cause 0 a
  | bar (id : Fin 16) (sa : SReg) : Arrives s [sa.val] [] →
      (sa.val ≠ 0 ∧ (s.me.rs sa.val = 0 ∨ s.myCrew.ngangs < (s.me.rs sa.val).toNat)
        ∨ (s.myCrew.bar id.val).arrived ≠ [] ∧ (s.myCrew.bar id.val).n ≠ (if sa.val = 0 then 0 else (s.me.rs sa.val).toNat)) →
      Traps s (.sbar id sa) 0x10 0 0
  | barObject (arrive : Bool) (sd sa : SReg) (ex arr : Nat) : Arrives s [sa.val] [sd.val] → (s.me.rs sa.val).toNat % 8 = 0 →
      (s.me.rs sa.val).toNat + 8 ≤ s.myCrew.scrSize →
      ex = leNat (s.myCrew.readScr (s.me.rs sa.val).toNat 8) / 2 ^ 32 % 2 ^ 16 →
      arr = leNat (s.myCrew.readScr (s.me.rs sa.val).toNat 8) % 2 ^ 32 + 1 → ex = 0 ∨ ex < arr →
      Traps s (.sbarw arrive sd sa) 0x10 0 0
  | barPlace (arrive : Bool) (sd sa : SReg) (cause : Nat) : Arrives s [sa.val] [sd.val] →
      (if (s.me.rs sa.val).toNat % 8 ≠ 0 then cause = 5 else cause = 6 ∧ s.myCrew.scrSize < (s.me.rs sa.val).toNat + 8) →
      Traps s (.sbarw arrive sd sa) cause 0 ((s.me.rs sa.val).setWidth 64)

/-- The trap state that a trap of the scalar stream leaves (Table 9-2). -/
def scalarTrapState (old : TrapState) (cause : Nat) (pc info : Word) (addr : Dword) : TrapState :=
  ⟨BitVec.ofNat 32 cause, pc, info, 0, addr, old.tcount + 1, true⟩

/-- R192, R193: a gang outside handler mode, whose launch names a handler and whose clauses have retired, takes a precise
scalar trap: the trap state is written, the gang enters handler mode at the handler, and no other register changes. -/
def TakesScalarTrap (i : Instr) (s : State) (cause : Nat) (info : Word) (addr : Dword) : Prop :=
  ∀ h, s.myCrew.handler = some h → s.me.trap.handler = false → s.me.clauses = [] →
    ∃ t, exec i s = .next t ∧ s.SameBytes t
      ∧ t.me = { s.me with trap := scalarTrapState s.me.trap cause s.me.pc info addr, pc := BitVec.ofNat 32 h,
                           trapWait := none, parked := false, sWait := false }
      ∧ ∀ k, k ≠ s.cur → t.gang k = { s.gang k with reports := (t.gang k).reports, flags := (t.gang k).flags }

/-! ### The lane stream -/

/-- R79, R81, R87, R89: what must hold at issue for a lane instruction that names `u` to act: nothing it names is
pending, every register lies inside the gang's blocks, and every checked source carries its tag. -/
def LaneReady (s : State) (u : LaneUse) : Prop :=
  s.me.lBlocked u = false ∧ (∀ r ∈ u.rd ++ u.wr, r < s.me.vlimit) ∧ ∀ p ∈ u.tags, s.me.tag p.1 = p.2

/-- R187: and no acquire older than its clause is still to be performed. -/
def LaneRuns (s : State) (u : LaneUse) : Prop := s.laneHeld = false ∧ LaneReady s u

/-- Outside its own gang a lane instruction changes nothing but what it says of operations that read asynchronously (R88). -/
def LaneOwn (s t : State) : Prop :=
  s.SameBytes t ∧ (∀ k, k ≠ s.cur → t.gang k = s.gang k) ∧ t = { s with gangs := t.gangs, hops := t.hops, tails := t.tails }

/-- R122: the flags that the acting lanes raise. -/
def laneFlags (act : BitVec 32) (fl : Nat → BitVec 6) : BitVec 6 :=
  (List.range 32).foldr (fun l x => if act.getLsbD l then fl l ||| x else x) 0

/-- A lane instruction writes vd in its acting lanes with values that `P` describes, gives vd the tag `ty`, raises the
flags `fl`, and moves its clause on; no other register, lane, tag, predicate or scalar register changes. -/
def LaneResult (i : Instr) (f : LaneWord) (s : State) (ty : Ty) (P : Nat → Word → Prop) (fl : BitVec 6) : Prop :=
  ∃ t, exec i s = .next t
    ∧ (∀ l < 32, (s.me.act f).getLsbD l = true → P l (t.me.rv f.vd.val l))
    ∧ (∀ r, ∀ l < 32, ¬(r = f.vd.val ∧ (s.me.act f).getLsbD l = true) → t.me.rv r l = s.me.rv r l)
    ∧ (∀ r, t.me.tag r = if r = f.vd.val then ty else s.me.tag r)
    ∧ t.me.sticky = s.me.sticky ||| fl
    ∧ t.me = { s.me.laneNext with vreg := t.me.vreg, vtag := t.me.vtag, sticky := t.me.sticky }
    ∧ LaneOwn s t

/-- A lane instruction writes predicate pd in its acting lanes: the others keep their bit, lanes that are not live stay
false (R76), and the mask-is-zero flag follows (R82). -/
def PredResult (i : Instr) (f : LaneWord) (s : State) (test : Nat → Bool) (fl : BitVec 6) : Prop :=
  ∃ t, exec i s = .next t
    ∧ (∀ l < 32, (t.me.pred f.pd.val).getLsbD l
        = if (s.me.act f).getLsbD l then test l else (s.me.pred f.pd.val).getLsbD l && s.me.live.getLsbD l)
    ∧ (∀ p, p ≠ f.pd.val → t.me.pred p = s.me.pred p)
    ∧ (∀ p < 16, t.me.mz.getLsbD p = if p = f.pd.val then t.me.pred p == 0 else s.me.mz.getLsbD p)
    ∧ t.me.sticky = s.me.sticky ||| fl
    ∧ t.me = { s.me.laneNext with preg := t.me.preg, mz := t.me.mz, sticky := t.me.sticky }
    ∧ LaneOwn s t

/-- A lane instruction writes the `n` registers from `vd` in its acting lanes with values that `P` describes, each with the
tag `ty`, and raises the flags `fl` of each lane and register; everything else is as for `LaneResult`. -/
def WritesRegs (i : Instr) (f : LaneWord) (s : State) (vd n : Nat) (ty : Ty) (P : Nat → Nat → Word → Prop)
    (fl : Nat → Nat → BitVec 6) : Prop :=
  ∃ t, exec i s = .next t ∧ LaneOwn s t
    ∧ (∀ l < 32, (s.me.act f).getLsbD l = true → ∀ r < n, P l r (t.me.rv (vd + r) l))
    ∧ (∀ r, ∀ l < 32, ¬(vd ≤ r ∧ r < vd + n ∧ (s.me.act f).getLsbD l = true) → t.me.rv r l = s.me.rv r l)
    ∧ (∀ r, t.me.tag r = if vd ≤ r ∧ r < vd + n then ty else s.me.tag r)
    ∧ t.me.sticky = s.me.sticky ||| laneFlags (s.me.act f) (fun l => (List.range n).foldr (fun r y => fl l r ||| y) 0)
    ∧ t.me = { s.me.laneNext with vreg := t.me.vreg, vtag := t.me.vtag, sticky := t.me.sticky }

/-- The sources and the destination of an element instruction on va, and b and vc where it reads them, all of type `t`. -/
def elemUse (f : LaneWord) (t : Ty) (useB useC : Bool) : LaneUse :=
  ⟨f.va.val :: (if useB then bRegs f else []) ++ (if useC then [f.vc.val] else []), [f.vd.val],
   if useB then bScalar f else [], [],
   tagged f.va.val 1 t ++ (if useB then bTag f t else []) ++ (if useC then tagged f.vc.val 1 t else [])⟩

/-- The value of an element of width w. -/
def elemVal (t : Ty) (x : Nat) : Int := if t.isSigned then (BitVec.ofNat t.width x).toInt else x

/-- R126: the range of the elements of a type. -/
def elemMin (t : Ty) : Int := if t.isSigned then -2 ^ (t.width - 1) else 0
def elemMax (t : Ty) : Int := if t.isSigned then 2 ^ (t.width - 1) - 1 else 2 ^ t.width - 1

/-- Table 6-1: the rows with an exact result, which wraps or clamps; then the rows of plain elements. -/
def intRows : List ((LaneWord → Instr) × Bool × Bool × (Int → Int → Int → Int)) :=
  [(.vadd, true, false, fun a b _ => a + b), (.vsub, true, false, fun a b _ => a - b),
   (.vmul, true, false, fun a b _ => a * b), (.vmad, true, true, fun a b c => a * b + c),
   (.vabs, false, false, fun a _ _ => |a|), (.vneg, false, false, fun a _ _ => -a)]
def eltRows : List ((LaneWord → Instr) × Bool × (Ty → Nat → Nat → Nat)) :=
  [(.vmin, true, fun t a b => if elemVal t a ≤ elemVal t b then a else b),
   (.vmax, true, fun t a b => if elemVal t a ≤ elemVal t b then b else a),
   (.vmulh, true, fun t a b => (elemVal t a * elemVal t b / 2 ^ t.width % 2 ^ t.width).toNat),
   (.vclz, false, fun t a _ => if a = 0 then t.width else t.width - 1 - Nat.log2 a),
   (.vpopc, false, fun t a _ => ((List.range t.width).filter (fun i => a.testBit i)).length),
   (.vbrev, false, fun t a _ => (List.range t.width).foldl (fun x i => 2 * x + a / 2 ^ i % 2) 0)]
def shiftEltRows : List ((LaneWord → Instr) × (Ty → Nat → Nat → Nat)) :=
  [(.vshl, fun t a b => if b < t.width then a * 2 ^ b % 2 ^ t.width else 0),
   (.vshr, fun t a b => if b < t.width then a / 2 ^ b else 0),
   (.vsra, fun t a b =>
     if b < t.width then ((BitVec.ofNat t.width a).toInt / 2 ^ b % 2 ^ t.width).toNat
     else if a.testBit (t.width - 1) then 2 ^ t.width - 1 else 0)]
def bitRows : List ((LaneWord → Instr) × (Word → Word → Word)) :=
  [(.vand, fun a b => a &&& b), (.vor, fun a b => a ||| b), (.vxor, fun a b => a ^^^ b), (.vandn, fun a b => a &&& ~~~b)]

/-- Table 6-2: the element rows of the float types. -/
def floatRows : List ((LaneWord → Instr) × Bool × Bool × (LaneWord → Fmt → Nat → Nat → Nat → Nat × BitVec 6)) :=
  [(.vfadd, true, false, fun f m a b _ => m.add (laneRnd f) (laneSat f) (m.decode a) (m.decode b)),
   (.vfsub, true, false, fun f m a b _ => m.add (laneRnd f) (laneSat f) (m.decode a) (m.decode b).neg),
   (.vfmul, true, false, fun f m a b _ => m.mul (laneRnd f) (laneSat f) (m.decode a) (m.decode b)),
   (.vfma, true, true, fun f m a b c => m.fma (laneRnd f) (laneSat f) (m.decode a) (m.decode b) (m.decode c)),
   (.vfmin, true, false, fun _ m a b _ => m.minmax false a b), (.vfmax, true, false, fun _ m a b _ => m.minmax true a b),
   (.vfrcp, false, false, fun f m a _ _ => m.rcp (laneRnd f) (laneSat f) (m.decode a)),
   (.vfsqrt, false, false, fun f m a _ _ => m.sqrt (laneRnd f) (laneSat f) (m.decode a)),
   (.vfrsqrt, false, false, fun f m a _ _ => m.rsqrt (laneRnd f) (laneSat f) (m.decode a)),
   (.vflog2, false, false, fun f m a _ _ => m.log2 (laneRnd f) (laneSat f) (m.decode a)),
   (.vfexp2, false, false, fun f m a _ _ => m.exp2 (laneRnd f) (laneSat f) (m.decode a)),
   (.vfrnd, false, false, fun f m a _ _ => m.rint (laneRnd f) (laneSat f) (m.decode a))]

/-- R50: the magnitudes, in quanta of the format, that a significand of its precision can give at the exponents that `low` admits. -/
def rep (m : Fmt) (low : Int → Prop) (y : ℚ) : Prop :=
  ∃ (c : Nat) (e : Int), low e ∧ c < 2 ^ (m.mBits + 1) ∧ y = c * (2 : ℚ) ^ e
/-- R57: those of them whose lowest significand bit is 0. -/
def evenRep (m : Fmt) (low : Int → Prop) (y : ℚ) : Prop :=
  ∃ (c : Nat) (e : Int), low e ∧ c < 2 ^ (m.mBits + 1) ∧ y = c * (2 : ℚ) ^ e ∧ (2 ^ m.mBits ≤ c ∨ ¬low (e - 1)) ∧ c % 2 = 0
/-- R57: `y` is the magnitude to which the rounding function takes the exact magnitude `x` of a value of that sign. -/
def RoundsTo (m : Fmt) (md : Rnd) (neg : Bool) (low : Int → Prop) (x y : ℚ) : Prop :=
  rep m low y ∧ match md, neg with
    | .rn, _ => ∀ z, rep m low z → |x - y| ≤ |x - z| ∧ (|x - y| = |x - z| → z = y ∨ evenRep m low y)
    | .rna, _ => ∀ z, rep m low z → |x - y| ≤ |x - z| ∧ (|x - y| = |x - z| → z ≤ y)
    | .rz, _ | .ru, true | .rd, false => y ≤ x ∧ ∀ z, rep m low z → z ≤ x → z ≤ y
    | .ru, false | .rd, true => x ≤ y ∧ ∀ z, rep m low z → x ≤ z → y ≤ z
/-- R59: the roundings under which an overflow of that sign gives no infinity. -/
def keepsFinite (md : Rnd) (neg : Bool) : Bool := md == .rz || (md == .ru && neg) || (md == .rd && !neg)
/-- R57 to R60: the rounding of the exact magnitude `num / den` is the value of R57 in the format, its subnormals among it, with NX
where it is inexact and UF beside it where the value rounded with no least exponent is below the least normal one; a value above the
largest finite one is the overflow of R59. -/
def RoundsExactly (m : Fmt) (md : Rnd) (sat neg : Bool) (num den : Nat) : Prop :=
  let x : ℚ := num / den * 2 ^ m.k
  let r := m.round md sat neg num den
  ∃ y, RoundsTo m md neg (0 ≤ ·) x y
    ∧ (y ≤ m.quanta m.maxCode → ∃ c ≤ m.maxCode, r.1 = m.withSign neg c ∧ (m.quanta c : ℚ) = y
      ∧ (y = x → r.2 = 0)
      ∧ (y ≠ x → ∃ z, RoundsTo m md neg (fun _ => True) x z
          ∧ r.2 = if z < 2 ^ m.mBits then fUF ||| fNX else fNX))
    ∧ ((m.quanta m.maxCode : ℚ) < y →
      (sat = true ∨ m = .e2m1 ∨ m = .e3m5 → r = (m.withSign neg m.maxCode, fSA ||| fNX))
      ∧ (sat = false → m ≠ .e2m1 → m ≠ .e3m5 → r.2 = fOF ||| fNX
        ∧ r.1 = m.withSign neg (if keepsFinite md neg then m.maxCode else if m = .e4m3 then 0x7F else m.infCode)))
/-- R50: the value of a finite element. -/
def realOf (m : Fmt) (neg : Bool) (q : Nat) : ℚ := (if neg then -1 else 1) * q / 2 ^ m.k
/-- `r` is the one rounding of the exact value `v`, which is not zero (R57). -/
def IsRounding (m : Fmt) (md : Rnd) (sat : Bool) (v : ℚ) (r : Nat × BitVec 6) : Prop :=
  ∃ num den : Nat, 0 < den ∧ (num / den : ℚ) = |v| ∧ r = m.round md sat (decide (v < 0)) num den

/-- The rows whose instructions act element by element on va, and on b and vc where the two marks say so. -/
def elementRows : List ((LaneWord → Instr) × Bool × Bool) :=
  intRows.map (fun p => (p.1, p.2.1, p.2.2.1)) ++ eltRows.map (fun p => (p.1, p.2.1, false))
  ++ shiftEltRows.map (fun p => (p.1, true, false)) ++ floatRows.map (fun p => (p.1, p.2.1, p.2.2.1))

/-- R127, R136: the six tests on an ordering. -/
def ordTests : List (Ordering → Bool) :=
  [fun o => o == .eq, fun o => o != .eq, fun o => o == .lt, fun o => o != .gt, fun o => o == .gt, fun o => o != .lt]

/-- Table 6-5: the rows that write a predicate, over the bits of pa, pb and ext. -/
def predRows : List ((LaneWord → Instr) × (Bool → Bool → Bool → Bool)) :=
  [(.pand, fun a b _ => a && b), (.por, fun a b _ => a || b), (.pxor, fun a b _ => a != b), (.pnot, fun a _ _ => !a),
   (.pmov, fun a _ _ => a), (.pset, fun _ _ e => e)]

/-- Table 6-6: the integer operations of `vred` and `vscan` with their identities. -/
def redRows : List ((Word → Word → Word) × Word) :=
  [(fun a b => a + b, 0), (fun a b => if a.toInt ≤ b.toInt then a else b, 0x7FFFFFFF),
   (fun a b => if a.toInt ≤ b.toInt then b else a, 0x80000000), (fun a b => if a.toNat ≤ b.toNat then a else b, 0xFFFFFFFF),
   (fun a b => if a.toNat ≤ b.toNat then b else a, 0), (fun a b => a &&& b, 0xFFFFFFFF), (fun a b => a ||| b, 0),
   (fun a b => a ^^^ b, 0)]

/-- R148: the keys of a register in the live lanes in lane order, each with its lane, up to the end marker. -/
def keyList (g : Gang) (r : Nat) : List (Nat × Nat) :=
  (((List.range 32).filter (fun l => g.live.getLsbD l)).map (fun l => (l, (g.rv r l).toNat))).takeWhile
    (fun e => e.2 != 2 ^ 32 - 1)
/-- R148: the words of the keys that stand in both lists, in ascending order. -/
def matchesOf (a b : List (Nat × Nat)) : List Word :=
  a.flatMap (fun x => (b.filter (fun y => y.2 == x.2)).map (fun y => BitVec.ofNat 32 (y.1 * 256 + x.1)))
/-- R148: how far the list `a` advances beside `b`. -/
def advance (a b : List (Nat × Nat)) : Nat :=
  if b = [] then a.length else (a.filter (fun x => b.any (fun y => decide (x.2 ≤ y.2)))).length

/-! ### Lane operations in flight -/

/-- R161: the address and the scratchpad offset of a lane. -/
def memA (s : State) (f : LaneWord) (l : Nat) : Dword :=
  (if f.bsrc.val = 0 then s.me.rv (f.va.val + 1) l ++ s.me.rv f.va.val l
   else s.me.rp f.vb.val + (s.me.rv f.va.val l).setWidth 64) + (BitVec.ofNat 16 (f.x 23 8)).signExtend 64
def scrA (s : State) (f : LaneWord) (l : Nat) : Dword :=
  (s.me.rv f.va.val l + (if f.bsrc.val = 1 then s.me.rs f.vb.val else 0)
    + (BitVec.ofNat 16 (f.x 23 8)).signExtend 32).setWidth 64
def memUse (f : LaneWord) : LaneUse :=
  ⟨if f.bsrc.val = 0 then [f.va.val, f.va.val + 1] else [f.va.val], [],
   if f.bsrc.val = 1 then [f.vb.val, f.vb.val + 1] else [], [], []⟩
def scrUse (f : LaneWord) : LaneUse := ⟨[f.va.val], [], if f.bsrc.val = 1 then [f.vb.val] else [], [], []⟩

/-- One element for each acting lane, in lane order. -/
def lanesOf (act : BitVec 32) (e : Nat → El) : List El := ((List.range 32).filter (fun l => act.getLsbD l)).map e

/-- A lane instruction puts an operation in flight: it takes the next place in issue order, its destination registers
become pending (R87), its attached flag gains an operation (R86), and its clause moves on. No register, no predicate and
no byte of memory changes. Its requests wait in the core for room among the 4,096 of R6 as they leave it (log 36). -/
def LaneIssues (i : Instr) (s : State) (wr : List Nat) (o : Op) : Prop :=
  ∃ t h, exec i s = .next t ∧ t.ops = s.ops ++ [{ o with id := s.nextOp, head := h }] ∧ t.nextOp = s.nextOp + 1
    ∧ t.me = { (s.me.flagOp o.flag true).laneNext with vpend := s.me.vpend ++ wr, parked := t.me.parked }
    ∧ (∀ k, k ≠ s.cur → t.gang k = s.gang k) ∧ s.SameBytes t
    ∧ t = { s with gangs := t.gangs, ops := t.ops, nextOp := t.nextOp, hops := t.hops, tails := t.tails }

/-! ### Matrix and winner-list instructions -/

/-- Scalar operand j of an operand block. -/
def opnd (s : State) (f : LaneWord) (j : Nat) : Nat := (s.me.rs (f.vb.val + j)).toNat

/-- R239: rows of an area of scratchpad, on words and inside the crew's region. -/
def rowsFit (s : State) (off pitch n len : Nat) : Prop :=
  off % 4 = 0 ∧ pitch % 4 = 0 ∧ ∀ r < n, off + r * pitch + len ≤ s.myCrew.scrSize

/-- R238, R239, R241, R242: the streamed rows of `mxmac` and `mxtopk`, and for type 8 the block scales. -/
def streamFits (s : State) (f : LaneWord) : Prop :=
  let n := if f.opx34 then 4 * opnd s f 2 else opnd s f 2
  let sb := f.steps * f.kstep / 8
  rowsFit s (opnd s f 0) (opnd s f 1) n (4 * f.lineWords)
  ∧ (f.typ.val = 8 → n ≠ 0 → opnd s f 3 + n * sb ≤ s.myCrew.scrSize ∧ opnd s f 4 + 64 * sb ≤ s.myCrew.scrSize)

/-- The operand is an integer type; the accumulator type (R236). -/
def isIntOp (f : LaneWord) : Prop := f.typ.val = 9 ∨ f.typ.val = 10
def accOf (f : LaneWord) : Ty := if f.typ.val = 9 ∨ f.typ.val = 10 then .s32 else .f32

/-- R250: a list image at the offset of an instruction lies in scratchpad. -/
def imageFits (s : State) (f : LaneWord) : Prop := opnd s f 0 % 8 = 0 ∧ opnd s f 0 + 4176 ≤ s.myCrew.scrSize
def imageHead (s : State) (f : LaneWord) : Nat := leNat (s.myCrew.readScr (opnd s f 0) 4)

/-- R237: vector registers that hold lines of an operand. -/
def lineUse (i : Instr) (f : LaneWord) (n : Nat) : LaneUse :=
  ⟨regs f.va.val n, [], laneSReads i, [], (regs f.va.val n).map (·, laneTy f)⟩

/-- What each matrix or winner-list instruction names and what it checks as it issues (R223, R239-R251, Table 10-7). -/
def hearthRows : List ((LaneWord → Instr) × (LaneWord → LaneUse) × Bool × (State → LaneWord → Prop)) :=
  [(.mxmac, fun f => lineUse (.mxmac f) f ((if f.opx34 then 1 else 2) * f.lineWords), false, fun s f =>
      opnd s f 2 ≤ 64 ∧ s.tileTagAt s.cur (f.x 23 21) = accOf f ∧ streamFits s f),
   (.mxtopk, fun f => lineUse (.mxtopk f) f ((if f.opx34 then 1 else 2) * f.lineWords), false, fun s f =>
      opnd s f 2 < 65536 ∧ ((s.listAt s.cur (f.x 23 23)).isInt = true ↔ isIntOp f) ∧ streamFits s f
      ∧ (f.steps ≠ 1 → opnd s f 5 % 4 = 0 ∧ opnd s f 6 % 4 = 0 ∧ (opnd s f 2 ≠ 0 →
          opnd s f 5 + 64 * f.steps * 4 ≤ s.myCrew.scrSize
          ∧ opnd s f 6 + (if f.opx34 then 4 * opnd s f 2 else opnd s f 2) * f.steps * 4 ≤ s.myCrew.scrSize))),
   (.mxv, fun f => lineUse (.mxv f) f f.lineWords, false, fun s f =>
      opnd s f 0 ≤ 512 ∧ s.tileTagAt s.cur (f.x 23 21) = accOf f),
   (.mxrdy, fun f => ⟨[], [], laneSReads (.mxrdy f), [], []⟩, false, fun _ _ => True),
   (.mxld, fun f => ⟨[], [], laneSReads (.mxld f), [], []⟩, false, fun s f =>
      opnd s f 2 ≤ 64 ∧ rowsFit s (opnd s f 0) (opnd s f 1) (opnd s f 2) 256),
   (.mxst, fun f => ⟨[], [], laneSReads (.mxst f), [], []⟩, false, fun s f =>
      opnd s f 2 ≤ 64 ∧ stConv (s.tileTagAt s.cur (f.x 23 21)) (laneTy f) = true
      ∧ (f.opx34 = true → s.tileTagAt s.cur (f.x 23 21) = .f32)
      ∧ rowsFit s (opnd s f 0) (opnd s f 1) (opnd s f 2) (256 / (laneTy f).elems)),
   (.mxclr, fun f => ⟨[], [], laneSReads (.mxclr f), [], []⟩, false, fun _ _ => True),
   (.mxmovToTile, fun f => lineUse (.mxmovToTile f) f (2 * (f.x 14 9 + 1)), true, fun _ _ => True),
   (.mxmovToVector, fun f => ⟨[], regs f.vd.val (2 * (f.x 14 9 + 1)), [], [], []⟩, true, fun s f =>
      s.tileTagAt s.cur (f.x 23 21) = laneTy f),
   (.wlclr, fun f => ⟨[], [], laneSReads (.wlclr f), [], []⟩, false, fun _ _ => True),
   (.wlcfg, fun f => ⟨[], [], laneSReads (.wlcfg f), [], []⟩, false, fun _ _ => True),
   (.wlget, fun f => ⟨[], regs f.vd.val 3, [], [], []⟩, true, fun _ _ => True),
   (.wlthr, fun f => ⟨[], regs f.vd.val 2, [], [], []⟩, true, fun _ _ => True),
   (.wlins, fun f => ⟨[f.va.val, f.vb.val, f.vc.val], [], [], [],
      [(f.va.val, laneTy f), (f.vb.val, .n32), (f.vc.val, .n32)]⟩, true, fun s f =>
      ((s.listAt s.cur (f.x 23 23)).isInt = true ↔ f.typ.val = 1)),
   (.wlst, fun f => ⟨[], [], laneSReads (.wlst f), [], []⟩, false, fun s f => imageFits s f),
   (.wlld, fun f => ⟨[], [], laneSReads (.wlld f), [], []⟩, false, fun s f =>
      imageFits s f ∧ imageHead s f / 2 ^ 9 = 0 ∧ leNat (s.myCrew.readScr (opnd s f 0 + 8) 8) = 0 ∧ imageHead s f / 4 % 64 < shapeLen (imageHead s f % 4)),
   (.wlmrg, fun f => ⟨[], [], laneSReads (.wlmrg f), [], []⟩, false, fun s f =>
      imageFits s f ∧ imageHead s f % 4 = (s.listAt s.cur (f.x 23 23)).shape
      ∧ (imageHead s f).testBit 8 = (s.listAt s.cur (f.x 23 23)).isInt)]

/-- R87, R89, R239, R240: what must hold as a matrix or winner-list instruction issues. -/
def HearthRuns (s : State) (i : Instr) (u : LaneUse) : Prop :=
  LaneRuns s u ∧ s.hearthWaits s.cur i = false ∧ (∀ t, hTile i = some t → t < s.me.ntiles)
    ∧ ∀ l, hList i = some l → l < s.me.nlists

/-- R86, R87, R221, R235: an instruction issues: its destinations become pending, its flag gains an operation, its clause
moves on, and it stands behind every other instruction of its hearths with its scalar operands; no register, tile, list
or byte of memory changes. -/
def EntersHearth (i : Instr) (f : LaneWord) (s : State) (wr : List Nat) (lanes : BitVec 32) (st : HStage)
    (tags : Map TagSt) : Prop :=
  ∃ t h, exec i s = .next t ∧ t.hops = (s.taint s.cur wr).hops ++ [h]
    ∧ h.id = s.nextOp ∧ h.instr = i ∧ h.stage = st ∧ h.started = [] ∧ h.dsts = wr
    ∧ h.quads = (if isMxrdy i then [] else [s.cur / 16])
    ∧ h.parts = [⟨s.cur, s.nextOp, s.me.lanePc, s.me.laneInfo, s.me.attached f, lanes⟩]
    ∧ (f.bsrc.val = 1 → ∀ j < 8, f.vb.val + j ∈ laneSReads i → h.blk[j]? = some (s.me.rs (f.vb.val + j)))
    ∧ t.nextOp = s.nextOp + 1
    ∧ t.me = { (s.me.flagOp (s.me.attached f) true).laneNext with vpend := s.me.vpend ++ wr }
    ∧ (∀ k, k ≠ s.cur → t.gang k = s.gang k) ∧ t.myCrew = { s.myCrew with tags := tags } ∧ s.SameBytes t

/-! ### What events leave -/

/-- Table 7-4: the integer operations of an atomic on 32-bit words, of the value in memory and the operand. -/
def atomRows : List (AtomOp × (Word → Word → Word)) :=
  [(.add, fun a b => a + b), (.and, fun a b => a &&& b), (.or, fun a b => a ||| b), (.xor, fun a b => a ^^^ b),
   (.min, fun a b => if a.toInt ≤ b.toInt then a else b), (.max, fun a b => if a.toInt ≤ b.toInt then b else a),
   (.minn, fun a b => if a.toNat ≤ b.toNat then a else b), (.maxn, fun a b => if a.toNat ≤ b.toNat then b else a),
   (.xchg, fun _ b => b)]

/-- An operation has its result. -/
def Returned (t : State) (op : Nat) (bs : List Byte) : Prop :=
  ∃ o, t.op op = some o ∧ o.stage = .ready ∧ o.value = some bs

/-- The bytes of device memory from `pa` on are `bs`, and every other byte of device, host and peer memory is as before. -/
def WritesBytes (s t : State) (pa : Nat) (bs : List Byte) : Prop :=
  ∀ a, t.readPhys a 1 = (if pa ≤ a ∧ a < pa + bs.length then [bs.getD (a - pa) 0] else s.readPhys a 1)
    ∧ t.readHost a 1 = s.readHost a 1 ∧ t.readPeer a 1 = s.readPeer a 1

/-- R365, R366: the cause table has room; the place of its next entry, and the bytes of that entry. -/
def causeRoom (s : State) : Prop := s.host.causeemit < s.host.causeseen + 4096 ∧ s.host.causeover = false
def causeAt (s : State) : Nat := ((s.barReg 0 0x1000).toNat + 16 * (s.host.causeemit % 4096)) % 2 ^ 50
def causeByte (s : State) (x : Nat) : Prop := causeRoom s ∧ causeAt s ≤ x ∧ x < causeAt s + 16

/-- Table 22-4, R366: an entry of a context is written and interrupts, or is dropped with the table marked. -/
def CauseWritten (s t : State) (kind source asid evseq : Nat) : Prop :=
  let e := s.host.causeemit + 1
  (causeRoom s → t.host.causeemit = e ∧ t.host.interrupts = s.host.interrupts + 1
    ∧ t.readHost (causeAt s) 16 = natLE 16 (evseq % 2 ^ 64 * 2 ^ 64 + e % 2 ^ 24 * 2 ^ 40
        + s.ctxField asid 89 86 % 16 * 2 ^ 36 + asid % 2 ^ 14 * 2 ^ 22 + kind % 64 * 2 ^ 16 + source % 256 * 2 ^ 8))
  ∧ (¬causeRoom s → t.host.causeover = true ∧ t.host.causeemit = s.host.causeemit ∧ t.host.interrupts = s.host.interrupts)

/-- Table 22-4, R366: an entry of the device itself, of no context and no partition, and nothing else of host memory. -/
def DeviceCause (s t : State) (kind source evseq : Nat) : Prop :=
  let e := s.host.causeemit + 1
  (causeRoom s → t.host.causeemit = e ∧ t.host.interrupts = s.host.interrupts + 1
    ∧ ∀ x, t.readHost x 1 = if causeAt s ≤ x ∧ x < causeAt s + 16
        then [(natLE 16 (evseq % 2 ^ 64 * 2 ^ 64 + e % 2 ^ 24 * 2 ^ 40 + kind % 64 * 2 ^ 16 + source % 256 * 2 ^ 8)).getD (x - causeAt s) 0]
        else s.readHost x 1)
  ∧ (¬causeRoom s → t.host.causeover = true ∧ t.host.causeemit = s.host.causeemit ∧ t.host.interrupts = s.host.interrupts
    ∧ t.hostMem = s.hostMem)

/-- A store of the device or of a crane to a context's memory is performed, at the host, at a peer and at a home of the
device: `pays` are the slices at which it is admitted (R295), `out` the bytes of host memory that something else writes, and `after` what
else holds. -/
def Puts (s : State) (asid va : Nat) (bs : List Byte) (pays : Nat → Prop) (out : Nat → Prop) (r : Res) (after : State → Prop) :
    Prop :=
  let put (a x : Nat) (old : List Byte) : List Byte := if a ≤ x ∧ x < a + bs.length then [bs.getD (x - a) 0] else old
  (homeOf va = some .host → s.refused asid va bs.length = false →
    ∃ t, r = .next t ∧ after t ∧ ∀ x, (¬out x → t.readHost x 1 = put (va % 2 ^ 50) x (s.readHost x 1))
      ∧ t.readPhys x 1 = s.readPhys x 1 ∧ t.readPeer x 1 = s.readPeer x 1)
  ∧ (∀ p, homeOf va = some (.peer p) → s.portSet p va ≠ [] → s.refused asid va bs.length = false →
    s.peerAbsent asid p va bs.length = none → ∃ t, r = .next t ∧ after t ∧ ∀ x, (¬out x → t.readHost x 1 = s.readHost x 1)
      ∧ t.readPhys x 1 = s.readPhys x 1 ∧ t.readPeer x 1 = put va x (s.readPeer x 1))
  ∧ ∀ d pa kd, homeOf va = some (.die d) → s.fetching asid va bs.length = false →
    s.busyPage (busyKey asid d (va % 2 ^ 50)) = none → pays (d * 64 + sliceOf va) → s.look asid d va true = .ok pa kd →
    kd ≠ kCow → ∃ t, r = .next t ∧ after t ∧ ∀ x, (¬out x → t.readHost x 1 = s.readHost x 1)
      ∧ t.readPhys x 1 = put pa x (s.readPhys x 1) ∧ t.readPeer x 1 = s.readPeer x 1

/-- R324: the path of a walk from a node on: each node is the child that matches at the position with the longest run, and the
path ends where no child matches, behind a partial node, or at the limit. -/
def WalksTo (s : State) (tr : Tree) (toks : List Nat) : Nat → Nat → Nat → List (Nat × TNode) → Prop
  | 0, _, _, path => path = []
  | _ + 1, cur, pos, [] => ∃ ks, s.kids tr cur = some ks ∧ ∀ y ∈ ks, y.2.fits toks pos = false
  | n + 1, cur, pos, x :: rest => ∃ ks, s.kids tr cur = some ks ∧ x ∈ ks ∧ x.2.fits toks pos = true
      ∧ (∀ y ∈ ks, y.2.fits toks pos = true → y.2.run ≤ x.2.run)
      ∧ (if x.2.run < tr.p then rest = [] else WalksTo s tr toks n x.1 (pos + x.2.run) rest)

/-- R277: a reference of frame `f` has ended: its count is one less, or it waits to be scrubbed in its pool. -/
def FrameLetGo (s t : State) (f : Nat) : Prop :=
  (1 < (s.frame f).count → t.frame f = { s.frame f with count := (s.frame f).count - 1 })
  ∧ ((s.frame f).count ≤ 1 → (t.frame f).state = 1 ∧ (t.frame f).count = 0
    ∧ (t.pool (s.frame f).asid (f / 2 ^ 22)).scrub = (s.pool (s.frame f).asid (f / 2 ^ 22)).scrub ++ [f])

end Sys2Proof.Claims

open Sys2Proof.Claims

/-- R101, Table 5-1: each register-to-register instruction of the SALU group runs in every state in which no register
that it names waits (R83, R90); sd receives the value of the table, `s0` stays zero (R28), the program counter moves past
the word, and nothing else changes. `scmp` sets the condition codes by R99 instead. -/
def Obligations.ScalarRegisterResults : Prop :=
  (∀ p ∈ saluRows, ∀ (sd sa sb : SReg) (s : State), s.me.sBlocked [sa.val, sb.val] [sd.val] = false →
    ∃ t, exec (p.1 sd sa sb) s = .next t
      ∧ t.me.rs sd.val = written sd.val (p.2 (s.me.rs sa.val) (s.me.rs sb.val))
      ∧ t.me.pc = s.me.pc + 4 ∧ s.WritesScalar t [sd.val])
  ∧ (∀ p ∈ saluRows1, ∀ (sd sa : SReg) (s : State), s.me.sBlocked [sa.val] [sd.val] = false →
    ∃ t v, exec (p.1 sd sa) s = .next t ∧ p.2 (s.me.rs sa.val) v
      ∧ t.me.rs sd.val = written sd.val v ∧ t.me.pc = s.me.pc + 4 ∧ s.WritesScalar t [sd.val])
  ∧ ∀ (sa sb : SReg) (s : State), s.me.sBlocked [sa.val, sb.val] [] = false →
    ∃ t, exec (.scmp sa sb) s = .next t ∧ t.me.cc = codesOf (s.me.rs sa.val) (s.me.rs sb.val)
      ∧ t.me.pc = s.me.pc + 4 ∧ s.WritesCodes t

/-- R102, Table 5-2: the SALUD group, over pairs; the high half of `s0:s1` is `s1` and its low half stays zero. `scmp.d`
sets the condition codes by R99 with w = 64. -/
def Obligations.ScalarPairResults : Prop :=
  (∀ p ∈ salud3, ∀ (sd sa sb : Pair) (s : State), s.me.sBlocked (pr sa ++ pr sb) (pr sd) = false →
    ∃ t, exec (p.1 sd sa sb) s = .next t
      ∧ t.me.rp (ev sd) = writtenPair sd (p.2 (s.me.rp (ev sa)) (s.me.rp (ev sb)))
      ∧ t.me.pc = s.me.pc + 4 ∧ s.WritesScalar t (pr sd))
  ∧ (∀ p ∈ saludS, ∀ (sd sa : Pair) (sb : SReg) (s : State), s.me.sBlocked (pr sa ++ [sb.val]) (pr sd) = false →
    ∃ t, exec (p.1 sd sa sb) s = .next t
      ∧ t.me.rp (ev sd) = writtenPair sd (p.2 (s.me.rp (ev sa)) (s.me.rs sb.val))
      ∧ t.me.pc = s.me.pc + 4 ∧ s.WritesScalar t (pr sd))
  ∧ (∀ p ∈ saludW, ∀ (sd : Pair) (sa sb : SReg) (s : State), s.me.sBlocked [sa.val, sb.val] (pr sd) = false →
    ∃ t, exec (p.1 sd sa sb) s = .next t
      ∧ t.me.rp (ev sd) = writtenPair sd (p.2 (s.me.rs sa.val) (s.me.rs sb.val))
      ∧ t.me.pc = s.me.pc + 4 ∧ s.WritesScalar t (pr sd))
  ∧ (∀ (sd sa : Pair) (s : State), s.me.sBlocked (pr sa) (pr sd) = false →
    ∃ t, exec (.smovD sd sa) s = .next t ∧ t.me.rp (ev sd) = writtenPair sd (s.me.rp (ev sa))
      ∧ t.me.pc = s.me.pc + 4 ∧ s.WritesScalar t (pr sd))
  ∧ ∀ (sa sb : Pair) (s : State), s.me.sBlocked (pr sa ++ pr sb) [] = false →
    ∃ t, exec (.scmpD sa sb) s = .next t ∧ t.me.cc = codesOf (s.me.rp (ev sa)) (s.me.rp (ev sb))
      ∧ t.me.pc = s.me.pc + 4 ∧ s.WritesCodes t

/-- R103, Table 5-3: the immediate forms: a result in sd, or for `scmpi` the condition codes by R99. -/
def Obligations.ScalarImmediateResults : Prop :=
  (∀ p ∈ immRows, ∀ (sd sa : SReg) (i : Fin 4096) (s : State), s.me.sBlocked [sa.val] [sd.val] = false →
    ∃ t, exec (p.1 sd sa i) s = .next t ∧ t.me.rs sd.val = written sd.val (p.2 (s.me.rs sa.val) i.val)
      ∧ t.me.pc = s.me.pc + 4 ∧ s.WritesScalar t [sd.val])
  ∧ (∀ p ∈ shiftRows, ∀ (sd sa : SReg) (i : Fin 32) (s : State), s.me.sBlocked [sa.val] [sd.val] = false →
    ∃ t, exec (p.1 sd sa i) s = .next t ∧ t.me.rs sd.val = written sd.val (p.2 (s.me.rs sa.val) i.val)
      ∧ t.me.pc = s.me.pc + 4 ∧ s.WritesScalar t [sd.val])
  ∧ (∀ p ∈ constRows, ∀ (sd : SReg) (i : Fin 524288) (s : State), s.me.sBlocked [] [sd.val] = false →
    ∃ t, exec (p.1 sd i) s = .next t ∧ t.me.rs sd.val = written sd.val (p.2 i.val)
      ∧ t.me.pc = s.me.pc + 4 ∧ s.WritesScalar t [sd.val])
  ∧ ∀ (sa : SReg) (i : Fin 4096) (s : State), s.me.sBlocked [sa.val] [] = false →
    ∃ t, exec (.scmpi sa i) s = .next t ∧ t.me.cc = codesOf (s.me.rs sa.val) (sext32 12 i.val)
      ∧ t.me.pc = s.me.pc + 4 ∧ s.WritesCodes t

/-- R104, Table 2-9: a branch moves the program counter and nothing else; a test on a predicate waits for the clauses
(R90). -/
def Obligations.BranchTests : Prop :=
  ∀ (cnd : Fin 32) (inv : Bool) (off : Fin 1048576) (s : State), (cnd.val < 16 ∨ s.me.clauses = []) →
    ∃ t, exec (.sbr cnd inv off) s = .next t
      ∧ s.WritesPc t (if branchTest s.me cnd.val != inv then s.me.pc + 4 * sext32 20 off.val else s.me.pc + 4)

/-- R105, R106, R194: a call links and jumps; a jump through a register to an aligned target links and jumps, and with
sd = `s0` it leaves handler mode; a misaligned target traps with cause 0x05, nothing written. -/
def Obligations.CallsAndJumps : Prop :=
  (∀ (sd : SReg) (i : Fin 524288) (s : State), s.me.sBlocked [] [sd.val] = false →
    ∃ t, exec (.scall sd i) s = .next t ∧ t.me.rs sd.val = written sd.val (s.me.pc + 4)
      ∧ t.me.pc = s.me.pc + 4 * sext32 19 i.val ∧ s.WritesScalar t [sd.val])
  ∧ ∀ (sd sa : SReg) (i : Fin 4096) (s : State), s.me.sBlocked [sa.val] [sd.val] = false →
    let target := s.me.rs sa.val + 4 * sext32 12 i.val
    (target.toNat % 4 ≠ 0 → TakesScalarTrap (.sjr sd sa i) s 5 0 (target.setWidth 64))
    ∧ (target.toNat % 4 = 0 → ∃ t, exec (.sjr sd sa i) s = .next t ∧ t.me.rs sd.val = written sd.val (s.me.pc + 4)
      ∧ t.me.pc = target
      ∧ (∀ r, r ≠ sd.val → t.me.rs r = s.me.rs r)
      ∧ t.me.trap = (if sd.val = 0 then { s.me.trap with handler := false } else s.me.trap)
      ∧ t.me = { s.me with sreg := t.me.sreg, pc := t.me.pc, trap := t.me.trap } ∧ s.OwnGang t)

/-- R84, R107, R108: a clause enters the queue while an entry is free; it starts unchecked, with the block count that R79
uses for clauses enqueued now. -/
def Obligations.ClauseEnqueue : Prop :=
  (∀ (i : Fin 524288) (s : State), s.me.clauses.length < 4 →
    ∃ t c, exec (.lrun i) s = .next t ∧ c.off = 16 * i.val ∧ c.blocks = s.me.nextBlk ∧ c.checked = false
      ∧ c.started = false ∧ c.next = 0
      ∧ t.me = { s.me with clauses := s.me.clauses ++ [c], pc := s.me.pc + 4 } ∧ s.OwnGang t)
  ∧ ∀ (sa : SReg) (s : State), s.me.sBlocked [sa.val] [] = false → s.me.clauses.length < 4 →
    (s.me.rs sa.val).toNat % 16 = 0 →
    ∃ t c, exec (.lrunr sa) s = .next t ∧ c.off = (s.me.rs sa.val).toNat ∧ c.blocks = s.me.nextBlk ∧ c.checked = false
      ∧ c.started = false ∧ c.next = 0
      ∧ t.me = { s.me with clauses := s.me.clauses ++ [c], pc := s.me.pc + 4 } ∧ s.OwnGang t

/-- R91, R109, R110, R118: waits that have nothing to wait for, and `syield`, pass in one turn. A yield only counts the
gang as the latest to have issued on both ports. -/
def Obligations.WaitsThatPass : Prop :=
  (∀ s : State, s.me.clauses = [] → ∃ t, exec .lsync s = .next t ∧ s.WritesPc t (s.me.pc + 4))
  ∧ (∀ (m : Fin 4096) (s : State),
      (∀ i < 12, m.val.testBit i = true → (s.me.flag i).busy = false
        ∧ ∀ c ∈ s.me.clauses, c.setA ≠ i ∧ c.setB ≠ i) →
      ∃ t, exec (.swaitf m) s = .next t ∧ s.WritesPc t (s.me.pc + 4))
  ∧ ∀ s : State, ∃ t, exec .syield s = .next t ∧ s.OwnGang t
      ∧ t.me = { s.me with pc := s.me.pc + 8, lastS := t.me.lastS, lastL := t.me.lastL }
      ∧ ∀ k lane, k / 4096 % 4 = s.cur / 4096 % 4 →
          ((s.issueOn lane k).gang k).lastS ≤ max t.me.lastS (s.gang k).lastS
          ∧ ((s.issueOn lane k).gang k).lastL ≤ max t.me.lastL (s.gang k).lastL

/-- R112, Tables 5-5 and 9-2: `srd` writes the register's value, and `swr` writes the condition codes, the one register
that is writable.
R113: `sgetf` reads the six sticky flags and `sclrf` clears those of its mask; neither waits for the lane stream. -/
def Obligations.SpecialAndStickyRegisters : Prop :=
  ((∀ (sd : SReg) (n : Fin 1024) (s : State) (v : Nat), (n.val, v) ∈ special32 s → s.me.sBlocked [] [sd.val] = false →
    ∃ t, exec (.srd sd n) s = .next t ∧ t.me.rs sd.val = written sd.val (BitVec.ofNat 32 v)
      ∧ t.me.pc = s.me.pc + 8 ∧ s.WritesScalar t [sd.val])
  ∧ (∀ (p : Pair) (sd : SReg) (n : Fin 1024) (s : State) (v : Nat), sd.val = 2 * p.val → (n.val, v) ∈ special64 s →
    s.me.sBlocked [] (pr p) = false →
    ∃ t, exec (.srd sd n) s = .next t ∧ t.me.rp sd.val = writtenPair p (BitVec.ofNat 64 v)
      ∧ t.me.pc = s.me.pc + 8 ∧ s.WritesScalar t (pr p))
  ∧ ∀ (sa : SReg) (n : Fin 1024) (s : State), (Instr.swr sa n).wf = true → s.me.sBlocked [sa.val] [] = false →
    ∃ t, exec (.swr sa n) s = .next t
      ∧ t.me.cc = ⟨(s.me.rs sa.val).getLsbD 3, (s.me.rs sa.val).getLsbD 2, (s.me.rs sa.val).getLsbD 1,
                   (s.me.rs sa.val).getLsbD 0⟩
      ∧ t.me.pc = s.me.pc + 8 ∧ s.WritesCodes t)
  ∧ ((∀ (sd : SReg) (s : State), s.me.sBlocked [] [sd.val] = false →
    ∃ t, exec (.sgetf sd) s = .next t ∧ t.me.rs sd.val = written sd.val (s.me.sticky.setWidth 32)
      ∧ t.me.pc = s.me.pc + 8 ∧ s.WritesScalar t [sd.val])
  ∧ ∀ (m : Fin 64) (s : State), s.me.sBlocked [] [] = false →
    ∃ t, exec (.sclrf m) s = .next t ∧ s.OwnGang t
      ∧ (∀ i < 6, t.me.sticky.getLsbD i = (s.me.sticky.getLsbD i && !m.val.testBit i))
      ∧ t.me = { s.me with sticky := t.me.sticky, pc := s.me.pc + 8 })

/-- R78, R114, R115: a gang asks for extended blocks. Held blocks satisfy it at once; `.try` takes free blocks or fails; a
plain request joins the tail of the quadrant's queue. Granted registers read zero with the tag raw32. The gang's earlier
releases have returned their blocks (R115). -/
def Obligations.BlockRequests : Prop :=
  ∀ (tr : Bool) (sd : SReg) (n : Fin 4) (s : State), s.me.clauses = [] → s.me.rels = [] →
    s.me.sBlocked [] (if tr then [sd.val] else []) = false →
    let q := s.cur / 16
    ∃ t, exec (.vacq tr sd n) s = .next t ∧ t.me.pc = s.me.pc + 8 ∧ s.SameBytes t
      ∧ (∀ k, k ≠ s.cur → t.gang k = s.gang k) ∧ (∀ r, r ≠ sd.val → t.me.rs r = s.me.rs r)
      ∧ if n.val ≤ s.me.blocks then
          t.me.rs sd.val = (if tr then written sd.val 1 else s.me.rs sd.val)
          ∧ t.me = { s.me with sreg := t.me.sreg, pc := t.me.pc } ∧ t.vacqQ = s.vacqQ
        else if tr then
          t.vacqQ = s.vacqQ ∧
          if Map.get [] s.vacqQ q = [] ∧ n.val - s.me.blocks ≤ s.freeBlocks q then
            t.me.rs sd.val = written sd.val 1 ∧ t.me.blocks = n.val ∧ t.me.nextBlk = n.val
            ∧ (∀ r l, l < 32 → t.me.rv r l = if 64 + 64 * s.me.blocks ≤ r then 0 else s.me.rv r l)
            ∧ (∀ r, t.me.tag r = if 64 + 64 * s.me.blocks ≤ r then .raw32 else s.me.tag r)
            ∧ t.me = { s.me with sreg := t.me.sreg, pc := t.me.pc, blocks := n.val, nextBlk := n.val,
                                 vreg := t.me.vreg, vtag := t.me.vtag }
          else t.me.rs sd.val = written sd.val 0 ∧ t.me = { s.me with sreg := t.me.sreg, pc := t.me.pc }
        else
          Map.get [] t.vacqQ q = Map.get [] s.vacqQ q ++ [(s.cur, n.val)]
          ∧ t.me = { s.me with wait := .vacq n.val, pc := t.me.pc }

/-- R114: the request at the head of a quadrant's queue is granted once enough blocks are free.
R80, R115: a release lowers the count for clauses enqueued after it; the blocks of a release return once no earlier clause
is left and no operation writes or reads their registers, whatever later releases still wait for, and the registers below
them keep their contents. -/
def Obligations.BlockGrantsAndReleases : Prop :=
  (∀ (q k n : Nat) (rest : List (Nat × Nat)) (s : State), Map.get [] s.vacqQ q = (k, n) :: rest → s.live k = true →
    n - (s.gang k).blocks ≤ s.freeBlocks q →
    ∃ t, exec (.vacqGrant q) s = .next t ∧ Map.get [] t.vacqQ q = rest ∧ s.SameBytes t
      ∧ (t.gang k).blocks = n ∧ (t.gang k).nextBlk = n ∧ (t.gang k).wait = .none
      ∧ (∀ r l, l < 32 → (t.gang k).rv r l = if 64 + 64 * (s.gang k).blocks ≤ r then 0 else (s.gang k).rv r l)
      ∧ (∀ r, (t.gang k).tag r = if 64 + 64 * (s.gang k).blocks ≤ r then .raw32 else (s.gang k).tag r)
      ∧ ∀ j, j ≠ k → t.gang j = s.gang j)
  ∧ ((∀ (n : Fin 4) (s : State), s.me.sBlocked [] [] = false → ∃ t, exec (.vrel n) s = .next t ∧ s.OwnGang t
      ∧ t.me = { s.me with nextBlk := min s.me.nextBlk n.val, pc := s.me.pc + 8,
                           rels := if n.val < s.me.nextBlk then s.me.rels ++ [n.val] else s.me.rels })
  ∧ ∀ (k n : Nat) (pre post : List Nat) (s : State), (s.gang k).rels = pre ++ n :: post → n < (s.gang k).blocks →
    (∀ m ∈ post, m < n ∧ s.relReady k m = false) →
    (∀ c ∈ (s.gang k).clauses, c.blocks ≤ n) →
    (∀ r ∈ (s.gang k).vpend, r < 64 + 64 * n) →
    (∀ h ∈ s.hops, (∃ p ∈ h.parts, p.gang = k) → ∀ r ∈ asyncReads h.instr, r < 64 + 64 * n) →
    ∃ t, exec (.blockReturn k) s = .next t ∧ (t.gang k).blocks = n ∧ (∀ m ∈ post, m ∈ (t.gang k).rels)
      ∧ (t.gang k).nextBlk = (s.gang k).nextBlk ∧ s.SameBytes t
      ∧ (∀ r l, l < 32 → r < 64 + 64 * (t.gang k).blocks → (t.gang k).rv r l = (s.gang k).rv r l)
      ∧ (∀ r, r < 64 + 64 * (t.gang k).blocks → (t.gang k).tag r = (s.gang k).tag r)
      ∧ ∀ j, j ≠ k → t.gang j = s.gang j)

/-- R172: a gang arrives at a hardware barrier. An arrival that completes the generation frees every gang that waits in
it; one after which the gangs that are left can no longer reach an explicit count traps every gang of the generation with
cause 0x10; any other arrival waits. The crew's barrier holds the count and the arrivals. -/
def Obligations.HardwareBarrier : Prop :=
  ∀ (id : Fin 16) (sa : SReg) (s : State), s.me.clauses = [] →
    s.olderDone s.cur s.nextOp .crew (BitVec.allOnes 8) = true → s.me.sBlocked [sa.val] [] = false →
    s.cur ∈ s.myCrew.slots →
    let n := if sa.val = 0 then 0 else (s.me.rs sa.val).toNat
    let b := s.myCrew.bar id.val
    (sa.val ≠ 0 → 0 < n ∧ n ≤ s.myCrew.ngangs) → (b.arrived ≠ [] → b.n = n) →
    let full := if n = 0 then s.myCrew.ngangs - s.exited s.myCrew else n
    ((full ≤ b.arrived.length + 1) →
      ∃ t, exec (.sbar id sa) s = .next t ∧ t.me = { s.me with pc := s.me.pc + 8, wait := .none }
        ∧ t.myCrew.bar id.val = ⟨0, []⟩ ∧ s.SameBytes t
        ∧ ∀ k ∈ s.myCrew.slots, k ≠ s.cur →
            t.gang k = match (s.gang k).wait with
              | .bar j _ => if j = id.val then { s.gang k with wait := .none } else s.gang k
              | _ => s.gang k)
    ∧ (b.arrived.length + 1 < full →
      (n = 0 ∨ n ≤ b.arrived.length + 1 + (s.myCrew.slots.filter (fun k =>
        (s.gang k).phase == .running && !(b.arrived ++ [s.me.num]).contains (s.gang k).num)).length) →
      ∃ t, exec (.sbar id sa) s = .next t
        ∧ t.me = { s.me with pc := s.me.pc + 8, wait := .bar id.val s.me.pc }
        ∧ t.myCrew.bar id.val = ⟨n, b.arrived ++ [s.me.num]⟩ ∧ s.SameBytes t
        ∧ ∀ k, k ≠ s.cur → t.gang k = s.gang k)
    ∧ (n ≠ 0 → b.arrived.length + 1 + (s.myCrew.slots.filter (fun k =>
        (s.gang k).phase == .running && !(b.arrived ++ [s.me.num]).contains (s.gang k).num)).length < n →
      ∃ t, exec (.sbar id sa) s = .next t ∧ t.myCrew.bar id.val = ⟨0, []⟩
        ∧ ∀ k ∈ s.myCrew.slots, (k = s.cur ∨ ∃ pc, (s.gang k).wait = .bar id.val pc) → ∀ hd,
            (s.crew (s.gang k).crew).handler = some hd → (s.gang k).trap.handler = false →
            (t.gang k).wait = .none ∧ (t.gang k).trap.tcause = 0x10 ∧ (t.gang k).pc = BitVec.ofNat 32 hd)

/-- R173: a gang arrives at a barrier object: the object's arrivals or its generation move, sd receives the generation,
and no other byte changes. The gang waits unless it only arrives or completes the generation. -/
def Obligations.BarrierObject : Prop :=
  ∀ (arrive : Bool) (sd sa : SReg) (s : State), s.me.clauses = [] →
    s.olderDone s.cur s.nextOp .crew (BitVec.allOnes 8) = true → s.me.sBlocked [sa.val] [sd.val] = false →
    s.cur ∈ s.myCrew.slots →
    let off := (s.me.rs sa.val).toNat
    let word := leNat (s.myCrew.readScr off 8)
    let gen := word / 2 ^ 48 % 2 ^ 16
    let ex := word / 2 ^ 32 % 2 ^ 16
    let arr := word % 2 ^ 32 + 1
    off % 8 = 0 → off + 8 ≤ s.myCrew.scrSize → arr ≤ ex →
    ∃ t, exec (.sbarw arrive sd sa) s = .next t ∧ t.me.pc = s.me.pc + 8
      ∧ t.me.rs sd.val = written sd.val (BitVec.ofNat 32 gen) ∧ (∀ r, r ≠ sd.val → t.me.rs r = s.me.rs r)
      ∧ t.me.wait = (if arrive || arr == ex then .none else .barw off gen s.me.pc)
      ∧ leNat (t.myCrew.readScr off 8)
          = (if arr = ex then (gen + 1) % 2 ^ 16 * 2 ^ 48 + ex * 2 ^ 32 else gen * 2 ^ 48 + ex * 2 ^ 32 + arr)
      ∧ (∀ a, a < off ∨ off + 8 ≤ a → t.myCrew.readScr a 1 = s.myCrew.readScr a 1)
      ∧ (∀ c, c ≠ s.me.crew → t.crew c = s.crew c)
      ∧ ∀ a, t.readPhys a 1 = s.readPhys a 1 ∧ t.readHost a 1 = s.readHost a 1 ∧ t.readPeer a 1 = s.readPeer a 1

/-- R117, R192, R193, R196: `strap` and `sbrk` take their trap, with the code in `tinfo`.
R106, R108, R158, R191: precise traps of the scalar stream: a misaligned jump target or clause offset, and an address
of a load, store, atomic, wait or signal that is misaligned or names no place of Table 1-4.
R172, R173: an arrival at a barrier that names a count that cannot be reached, or another one than the generation's first arrival, and one
at a barrier object whose expected count is zero or already reached, have cause 0x10; an object that is misaligned or beyond the
scratchpad has cause 0x05 or 0x06. Where two operands of one instruction
both fail, cause and `taddr` are those of the one that the model looks at first: the payload before the counter of an `ssendsig`, a
prefix request's tree before its record, the stamp's home of an `sredeem` before its offset. That order is the model's choice
(log 36). -/
def Obligations.ScalarStreamTraps : Prop :=
  ∀ (s : State) (i : Instr) (cause : Nat) (info : Word) (a : Dword), Traps s i cause info a → TakesScalarTrap i s cause info a

/-- R193: without a handler, or in handler mode, a trap stops the crew: the trap state is written, the program counter
stays, and the crew is stopping.
R192: while clauses enqueued before it have not retired, a precise scalar trap waits, and nothing else changes.
Where two operands of one instruction both fail, which of them names the cause and `taddr` is the model's choice (log 36), as it is
in `ScalarStreamTraps`. -/
def Obligations.TrapStopsCrewOrWaits : Prop :=
  ∀ (s : State) (i : Instr) (cause : Nat) (info : Word) (a : Dword), Traps s i cause info a →
    (s.me.clauses = [] → s.myCrew.phase = .resident → (s.myCrew.handler = none ∨ s.me.trap.handler = true) →
      ∃ t st, exec i s = .next t ∧ t.myCrew.phase = .stopping ∧ s.SameBytes t
        ∧ t.myCrew.stop = some st ∧ st.gang = s.cur ∧ st.trap.cause = cause ∧ st.record = true ∧ st.error = true
        ∧ t.me = { s.me with trap := scalarTrapState s.me.trap cause s.me.pc info a, trapWait := none }
        ∧ ∀ k, k ≠ s.cur → t.gang k = s.gang k)
    ∧ (s.me.clauses ≠ [] →
      ∃ t tr, exec i s = .next t ∧ s.OwnGang t ∧ t.me = { s.me with trapWait := some tr }
        ∧ tr.cause = cause ∧ tr.pc = s.me.pc ∧ tr.info = info ∧ tr.addr = a)

/-- R119: a gang whose clauses have retired and whose flags are clear exits: it gives back blocks, tiles and lists, issues
no further, and its store queue goes on draining. -/
def Obligations.GangExits : Prop :=
  ∀ s : State, s.me.clauses = [] → (∀ i < 12, (s.me.flag i).busy = false) → s.me.phase = .running →
    ∃ t, exec .sexit s = .next t ∧ t.me.phase = .exited ∧ t.me.blocks = 0 ∧ t.me.ntiles = 0 ∧ t.me.nlists = 0
      ∧ t.ops = s.ops ∧ s.SameBytes t ∧ t.scalarReady s.cur = false ∧ t.laneReady s.cur = false

/-- R165: a fence takes its place in issue order and stands exactly while an older access that it covers is still to be done;
a satisfied acquire half at die scope or wider empties the L1 of the core (R153). While its acquire half stands no later
access of the gang is performed at a slice, a window or the host, no later queue entry leaves the core, and a lane instruction
of a clause enqueued later changes nothing but whether its gang is parked; a redeem of such a clause issues as it does elsewhere (R312).
While its release half stands no later queue entry leaves. The return of the last access that it covers takes it away. -/
def Obligations.FenceHoldsLaterAccesses : Prop :=
  (∀ (sc : Scope) (kind : FenceKind) (mask : Fin 256) (s : State), s.me.fences = [] →
    let acq := kind != .rel && s.unreturned s.cur s.nextOp
    let rel := kind != .acq && !(s.acqDone s.cur s.nextOp && s.olderDone s.cur s.nextOp sc (BitVec.ofNat 8 mask.val)
      && s.cumulative (s.coreOfGang s.cur) s.nextOp sc)
    ∃ t, exec (.sfence sc kind mask) s = .next t ∧ s.nextOp < t.nextOp ∧ s.SameBytes t
      ∧ t.me.fences = (if acq || rel then [⟨s.nextOp, acq, rel, sc, BitVec.ofNat 8 mask.val, s.nextOp⟩] else [])
      ∧ t.me = { s.me with fences := t.me.fences, pc := s.me.pc + 8, parked := t.me.parked }
      ∧ (kind ≠ .rel → acq = false → 3 ≤ sc.code → ∀ l ∈ t.l1, l.core ≠ s.coreOfGang s.cur)
      ∧ ∀ k, k ≠ s.cur → t.gang k = { s.gang k with fences := (t.gang k).fences })
  ∧ (∀ (f : Fence) (o : Op) (i : Nat) (ch : Choice) (s : State), f ∈ (s.gang o.gang).fences → f.acq = true → f.id < o.id →
    s.op o.id = some o → o.kind ≠ .prf → (∀ w ∈ s.quay.waits ++ s.quay.paid, w.who ≠ o.id) →
    exec (.sliceAccess o.id i ch) s = .next s ∧ exec (.windowAccess o.id i) s = .next s
    ∧ ∀ r, exec (.hostAccessCompletion o.id i r) s = .next s)
  ∧ (∀ (f : Fence) (k : Nat) (o : Op) (rest : List Op) (s : State), f ∈ (s.gang k).fences → (f.acq = true ∨ f.rel = true) →
    s.queue k = o :: rest → f.id < o.id → exec (.storeQueueEntryLeave k) s = .next s)
  ∧ (∀ (f : Fence) (i : Instr) (s : State), f ∈ s.me.fences → f.acq = true → f.id < s.me.laneSeq → i.laneParts.isSome = true →
    (∀ w, i ≠ .vredeem w ∧ i ≠ .vredeemRemote w) → ∃ b, exec i s = .next (s.setMe { s.me with parked := b }))
  ∧ (∀ (f : Fence) (w : LaneWord) (remote : Bool) (s : State), f ∈ s.me.fences → f.acq = true → f.id < s.me.laneSeq →
    let i := if remote then Instr.vredeemRemote w else .vredeem w
    let pair := w.x 6 0
    i.wf = true →
    LaneReady s ⟨[], (if remote then [] else regs w.vd.val 4) ++ (if w.opx34 then [w.vc.val] else []),
      [w.vb.val, w.vb.val + 1] ++ (if remote then [pair, pair + 1] else []), [], []⟩ →
    (remote = true → remoteBad (s.me.rp pair).toNat = false) →
    ∃ t o, exec i s = .next t ∧ t.ops = s.ops ++ [o] ∧ o.id = s.nextOp ∧ o.kind = .vredeem w.opx34 remote ∧ o.stage = .sent
      ∧ t.me.clauses = s.me.laneNext.clauses)
  ∧ ∀ (f : Fence) (o : Op) (_ : List Op) (s : State), (s.gang o.gang).fences = [f] → s.ops = [o] → o.id < f.id →
    o.gang < 16384 → o.lane = false → o.kind = .load → o.dst ≠ .none → o.stage = .ready → (s.gang o.gang).landing = [] →
    ∃ t, exec (.scalarResultReturn o.id) s = .next t ∧ (t.gang o.gang).fences = []

/-- R156, R158, R159, R164, R166, R175: the scalar loads, stores and atomics as they issue: a load is sent, a store or
an atomic enters the store queue, each with its address and bytes; a full queue or a bad address is another matter.
One whose core has all its requests out issues too and waits in the core (the model's choice, log 36). -/
def Obligations.ScalarAccessesIssue : Prop :=
  ∀ (s : State) (sa : Pair),
    let base := s.me.rp (ev sa)
    (∀ (sd : SReg) (i : Fin 4096), s.me.sBlocked (pr sa) [sd.val] = false →
      let a := base + (BitVec.ofNat 12 i.val).signExtend 64
      addrCause 4 a = none →
      Issues (.sld sd sa i) s 4 [sd.val] { s.baseOp with width := 4, els := [element 0 a []], dst := .sreg sd.val })
    ∧ (∀ (sd : Pair) (i : Fin 4096), s.me.sBlocked (pr sa) (pr sd) = false →
      let a := base + (BitVec.ofNat 12 i.val).signExtend 64
      addrCause 8 a = none →
      Issues (.sldD sd sa i) s 4 (pr sd) { s.baseOp with width := 8, els := [element 0 a []], dst := .pair (ev sd) })
    ∧ (∀ (wide : Bool) (sc : Scope) (sd : SReg), s.me.sBlocked (pr sa) (widthRegs wide sd.val) = false →
      addrCause (widthBytes wide) base = none →
      Issues (.sldAcq wide sc sd sa) s 8 (widthRegs wide sd.val)
        { s.baseOp with scope := sc, ord := .acq, width := widthBytes wide, els := [element 0 base []],
                        dst := widthDst wide sd.val })
    ∧ (s.queueFull s.cur = false →
      (∀ (sd : SReg) (col : Fin 8) (w : Fin 512), s.me.sBlocked (pr sa ++ [sd.val]) [] = false →
        let a := base + BitVec.ofNat 64 (4 * w.val)
        addrCause 4 a = none →
        Issues (.sst sd sa col w) s 4 []
          (entryOf s .store .core .rlx 0 col.val 4 [element 0 a (regBytes s.me false sd.val)] .none))
      ∧ (∀ (sd : Pair) (col : Fin 8) (w : Fin 512), s.me.sBlocked (pr sa ++ pr sd) [] = false →
        let a := base + BitVec.ofNat 64 (4 * w.val)
        addrCause 8 a = none →
        Issues (.sstD sd sa col w) s 4 []
          (entryOf s .store .core .rlx 0 col.val 8 [element 0 a (regBytes s.me true (ev sd))] .none))
      ∧ (∀ (wide : Bool) (sc : Scope) (m : Fin 256) (col : Fin 8) (sd : SReg),
        s.me.sBlocked (pr sa ++ widthRegs wide sd.val) [] = false → addrCause (widthBytes wide) base = none →
        Issues (.sstRel wide sc m col sd sa) s 8 []
          (entryOf s .store sc (if m.val = 0 then .rlx else .rel) (BitVec.ofNat 8 m.val) col.val (widthBytes wide)
            [element 0 base (regBytes s.me wide sd.val)] .none))
      ∧ (∀ (op : AtomOp) (wide : Bool) (sc : Scope) (ord : Order) (col : Fin 8) (sd sb : SReg),
        s.me.sBlocked (pr sa ++ widthRegs wide sb.val) (widthRegs wide sd.val) = false →
        atomCause (widthBytes wide) base = none →
        Issues (.satom op wide sc ord col sd sa sb) s 8 (widthRegs wide sd.val)
          (entryOf s (.atom op wide) sc ord (if ord.releases then BitVec.allOnes 8 else 0) col.val (widthBytes wide)
            [element 0 base (regBytes s.me wide sb.val)] (widthDst wide sd.val)))
      ∧ (∀ (wide : Bool) (sc : Scope) (ord : Order) (col : Fin 8) (sd sb : SReg),
        s.me.sBlocked (pr sa ++ widthRegs wide sb.val ++ widthRegs wide sd.val) (widthRegs wide sd.val) = false →
        atomCause (widthBytes wide) base = none →
        Issues (.scas wide sc ord col sd sa sb) s 8 (widthRegs wide sd.val)
          (entryOf s (.cas wide) sc ord (if ord.releases then BitVec.allOnes 8 else 0) col.val (widthBytes wide)
            [element 0 base (regBytes s.me wide sb.val ++ regBytes s.me wide sd.val)] (widthDst wide sd.val)))
      ∧ (∀ (sc : Scope) (m inc : Fin 256) (col : Fin 8) (sd sb : Pair),
        s.me.sBlocked (pr sd ++ pr sa ++ pr sb) [] = false → addrCause 8 base = none →
        atomCause 8 (s.me.rp (ev sb)) = none →
        Issues (.ssendsig sc m inc col sd sa sb) s 8 []
          (entryOf s (.sendsig inc.val) sc .rel (BitVec.ofNat 8 m.val) col.val 8
            [element 0 base (regBytes s.me true (ev sd)),
             element 1 (s.me.rp (ev sb)) (natLE 8 inc.val)] .none)))

/-- R171: `mwait` issues its read with an acquire at its scope, and the gang waits for it. R286, R303, R306, R308,
R309, R327, R344, R348: the long operations on tickets, frames, the prefix engine and the harbour master as they
issue: each reads its operands, leaves its destination pending and is in flight. One whose core has all its requests
out issues too and waits in the core (the model's choice, log 36). -/
def Obligations.WaitsAndLongOperationsIssue : Prop :=
  (∀ (sd : SReg) (sa sb : Pair) (sc : Scope) (cmp : WaitCmp) (s : State),
    s.me.sBlocked (pr sa ++ pr sb) [sd.val] = false → addrCause 8 (s.me.rp (ev sa)) = none →
    ∃ t h, exec (.mwait sd sa sb sc cmp) s = .next t
      ∧ t.ops = s.ops ++ [{ s.baseOp with
          id := s.nextOp, head := h, kind := .mwait cmp, scope := sc, ord := .acq, width := 8,
          els := [element 0 (s.me.rp (ev sa)) []], dst := .sreg sd.val,
          arg := [s.me.rs (ev sb), s.me.rs (ev sb + 1)] }]
      ∧ t.me = { s.me with wait := .mwait s.nextOp, pc := s.me.pc + 4 } ∧ t.scalarReady s.cur = false
      ∧ s.SameBytes t ∧ ∀ k, k ≠ s.cur → t.gang k = s.gang k)
  ∧ (∀ (s : State) (sa : Pair),
    let a := s.me.rp (ev sa)
    (s.me.sBlocked (pr sa) [] = false → Issues (.kdrop sa) s 8 [] { s.baseOp with kind := .kdrop, els := [element 0 a []] })
    ∧ (∀ sd : SReg, s.me.sBlocked (pr sa) [sd.val] = false →
      Issues (.kstat sd sa) s 8 [sd.val] { s.baseOp with kind := .kstat, els := [element 0 a []], dst := .sreg sd.val })
    ∧ (∀ (tr : Bool) (sc : Scope) (sd off : SReg) (sb : Pair),
      s.me.sBlocked (pr sa ++ pr sb ++ [off.val]) (if tr then [sd.val] else []) = false →
      (s.me.rs off.val).toNat % 32 = 0 → (s.me.rs off.val).toNat + tkLen a.toNat ≤ s.myCrew.scrSize →
      addrCause 8 (s.me.rp (ev sb)) = none →
      Issues (.sredeem tr sc sd off sa sb) s 8 (if tr then [sd.val] else [])
        { s.baseOp with kind := .sredeem tr, scope := sc, width := 8, arg := [s.me.rs off.val],
                        els := [element 0 a [], element 1 (s.me.rp (ev sb)) (regBytes s.me true (ev sa))],
                        dst := if tr then .sreg sd.val else .none })
    ∧ (∀ (l : Level) (sc : Scope) (sd : Pair) (r : SReg), s.me.sBlocked [r.val] (pr sd) = false →
      Issues (.jcount l sc sd r) s 8 (pr sd)
        { s.baseOp with kind := .jcount l, scope := sc, ord := .acq, dst := .pair (ev sd), arg := [s.me.rs r.val] })
    ∧ (∀ (l : Level) (sd r : SReg), s.me.sBlocked [r.val] [sd.val] = false →
      Issues (.jcancel l sd r) s 8 [sd.val]
        { s.baseOp with kind := .jcancel l, els := [element 0 0 []], dst := .sreg sd.val, arg := [s.me.rs r.val] })
    ∧ (∀ (p : Pair) (sd : SReg) (n : Fin 1024), n.val = 0x028 → sd.val = 2 * p.val → s.me.sBlocked [] (pr p) = false →
      Issues (.srd sd n) s 8 (pr p) { s.baseOp with kind := .orphans, dst := .pair sd.val })
    ∧ (s.queueFull s.cur = false →
      (∀ (tr : Bool) (n : Fin 16) (l : Level) (sd : Pair), s.me.sBlocked (pr sa) (pr sd) = false → atDie a →
        a.toNat % 32 = 0 → a.toNat % 512 + 32 * (n.val + 1) ≤ 512 →
        Issues (.fetchk tr n l sd sa) s 8 (pr sd)
          (entryOf s (.fetchk tr n.val l) .core .rlx 0 0 (32 * (n.val + 1)) [element 0 a []] (.pair (ev sd))))
      ∧ (∀ (tr : Bool) (sd : SReg), s.me.sBlocked (pr sa) [sd.val] = false → atPage a →
        Issues (.pcommit tr sd sa) s 8 [sd.val] (entryOf s (.pcommit tr) .die .rlx 0 0 4 [element 0 a []] (.sreg sd.val)))
      ∧ (∀ sd : SReg, s.me.sBlocked (pr sa) [sd.val] = false → atPage a →
        Issues (.pdecommit sd sa) s 8 [sd.val]
          (entryOf s .pdecommit .die .rel (BitVec.allOnes 8) 0 4 [element 0 a []] (.sreg sd.val)))
      ∧ (∀ (pool : Bool) (sd : Pair), s.me.sBlocked (pr sa) (pr sd) = false → atPage a →
        Issues (.pquery pool sd sa) s 8 (pr sd)
          (entryOf s (.pquery pool) .die .rlx 0 0 4 [element 0 a []] (.pair (ev sd))))
      ∧ (∀ (tr : Bool) (q : Fin 8) (sd : SReg), s.me.sBlocked (pr sa) [sd.val] = false → atDie a → a.toNat % 64 = 0 →
        Issues (.slaunch tr q sd sa) s 8 [sd.val]
          (entryOf s (.slaunch tr q.val) .dev .rel (BitVec.allOnes 8) 0 64 [element 0 a []] (.sreg sd.val)))
      ∧ ∀ p ∈ [(Instr.pfxwalk, 0, [0, 1, 2, 3, 4, 5, 6, 7]), (.pfxins, 1, [0, 1, 2, 3, 4, 6, 7]),
               (.pfxrel, 2, [0, 1, 4, 5, 6, 7]), (.pfxevict, 3, [0, 1, 4])],
        ∀ (sc : Scope) (sd : Pair) (blk : Fin 16),
        let n := 8 * blk.val
        s.me.sBlocked (p.2.2.map (n + ·) ++ pr sa) (pr sd) = false → atDie a → a.toNat % 32 = 0 → atDie (s.me.rp n) →
        (s.me.rp n).toNat % 64 = 0 →
        Issues (p.1 sc sd blk sa) s 8 (pr sd)
          { entryOf s (.pfx p.2.1) .dev .rel (BitVec.allOnes 8) 0 4 [element 0 (s.me.rp n) []] (.pair (ev sd)) with
            arg := (List.range 8).map (fun i => if i ∈ p.2.2 then s.me.rs (n + i) else 0)
              ++ [s.me.rs (ev sa), s.me.rs (ev sa + 1), BitVec.ofNat 32 sc.code] }))

/-- R37, R120, R126: integer lane arithmetic, element by element: the exact result, wrapped to the element's width or, with
`.sat`, clamped to its range; SA is raised exactly when a clamp changes an element of an acting lane. -/
def Obligations.LaneIntegerArithmetic : Prop :=
  ∀ p ∈ intRows, ∀ (f : LaneWord) (t : Ty) (s : State), (p.1 f).wf = true → Ty.ofCode f.typ.val = some t →
    LaneRuns s (elemUse f t p.2.1 p.2.2.1) →
    let w := t.width
    let sat := f.mode.val % 2 = 1
    let exact (l i : Nat) : Int := p.2.2.2 (elemVal t (elt w (s.me.rv f.va.val l) i)) (elemVal t (elt w (s.me.b f l) i))
      (elemVal t (elt w (s.me.rv f.vc.val l) i))
    LaneResult (p.1 f) f s t
      (fun l v => ∀ i < t.elems, elt w v i
        = ((if sat then max (elemMin t) (min (elemMax t) (exact l i)) else exact l i) % 2 ^ w).toNat)
      (if sat ∧ (List.range 32).any (fun l => (s.me.act f).getLsbD l && (List.range t.elems).any (fun i =>
          decide (exact l i < elemMin t) || decide (elemMax t < exact l i))) = true then 32 else 0)

/-- R120, R126: minimum, maximum, high product, shifts and bit counts of elements; with raw32 a shift keeps va's tag. -/
def Obligations.LaneIntegerElements : Prop :=
  (∀ p ∈ eltRows, ∀ (f : LaneWord) (t : Ty) (s : State), (p.1 f).wf = true → Ty.ofCode f.typ.val = some t →
    LaneRuns s (elemUse f t p.2.1 false) →
    LaneResult (p.1 f) f s t
      (fun l v => ∀ i < t.elems, elt t.width v i
        = p.2.2 t (elt t.width (s.me.rv f.va.val l) i) (elt t.width (s.me.b f l) i)) 0)
  ∧ ∀ p ∈ shiftEltRows, ∀ (f : LaneWord) (t : Ty) (s : State), (p.1 f).wf = true → Ty.ofCode f.typ.val = some t →
    LaneRuns s (elemUse f t true false) →
    LaneResult (p.1 f) f s (if t = .raw32 then s.me.tag f.va.val else t)
      (fun l v => ∀ i < t.elems, elt t.width v i
        = p.2 t (elt t.width (s.me.rv f.va.val l) i) (elt t.width (s.me.b f l) i)) 0

/-- R126, R132, R128, R141, R149, R150: the lane instructions on whole words: bitwise rows (no tag is checked, the result
takes the tag of vb, or of va), moves, constants, selection, tag instructions, the counter-based hash and lane numbers. -/
def Obligations.LaneWholeWords : Prop :=
  ∀ (f : LaneWord) (s : State),
    (∀ p ∈ bitRows, (p.1 f).wf = true → LaneRuns s ⟨f.va.val :: bRegs f, [f.vd.val], bScalar f, [], []⟩ →
      LaneResult (p.1 f) f s (s.me.tag (if f.bsrc.val = 0 then f.vb.val else f.va.val))
        (fun l v => v = p.2 (s.me.rv f.va.val l) (s.me.b f l)) 0)
    ∧ (∀ t, (Instr.vmov f).wf = true → Ty.ofCode f.typ.val = some t →
      LaneRuns s ⟨bRegs f, [f.vd.val], bScalar f, [], bTag f t⟩ →
      LaneResult (.vmov f) f s (if t = .raw32 ∧ f.bsrc.val = 0 then s.me.tag f.vb.val else t)
        (fun l v => v = s.me.b f l) 0)
    ∧ (∀ t, (Instr.vli f).wf = true → Ty.ofCode f.typ.val = some t → LaneRuns s ⟨[], [f.vd.val], [], [], []⟩ →
      LaneResult (.vli f) f s t
        (fun l v => v = f.ext + BitVec.ofNat 32 l * (BitVec.ofNat 8 f.vc.val).signExtend 32) 0)
    ∧ (∀ t, (Instr.vsel f).wf = true → Ty.ofCode f.typ.val = some t → LaneRuns s (elemUse f t true false) →
      LaneResult (.vsel f) f s (if t = .raw32 then s.me.tag f.va.val else t)
        (fun l v => v = if (s.me.pred f.pd.val).getLsbD l then s.me.rv f.va.val l else s.me.b f l) 0)
    ∧ (∀ t, (Instr.vtag f).wf = true → Ty.ofCode f.typ.val = some t →
      LaneRuns s ⟨[f.va.val], [f.vd.val], [], [], []⟩ →
      LaneResult (.vtag f) f s t (fun l v => v = s.me.rv f.va.val l) 0)
    ∧ ((Instr.vtagq f).wf = true → LaneRuns s ⟨[f.va.val], [f.vd.val], [], [], []⟩ →
      LaneResult (.vtagq f) f s .n32 (fun _ v => v = BitVec.ofNat 32 (s.me.tag f.va.val).code) 0)
    ∧ ((Instr.vrng f).wf = true → LaneRuns s (elemUse f .n32 true false) →
      LaneResult (.vrng f) f s .n32 (fun l v =>
        let x := (s.me.b f l ^^^ s.me.rv f.va.val l ^^^ BitVec.ofNat 32 (l * 0x9E3779B1)) * 0x85EBCA77#32
        let y := (x ^^^ x >>> 15) * 0xC2B2AE3D#32
        v = y ^^^ y >>> 13) 0)
    ∧ ((Instr.vlane f).wf = true → LaneRuns s ⟨[], [f.vd.val], [], [], []⟩ →
      LaneResult (.vlane f) f s .n32 (fun l v => v = BitVec.ofNat 32 (l + 32 *
        (if f.opx.val = 0 then 0 else if f.opx.val = 1 then s.me.num
         else s.myCrew.num * s.myCrew.ngangs + s.me.num))) 0)
    ∧ ((Instr.vnop f).wf = true → LaneRuns s ⟨[], [], [], [], []⟩ →
      ∃ t, exec (.vnop f) s = .next t ∧ t.me = s.me.laneNext ∧ LaneOwn s t)

/-- R129: bit-field extraction and insertion.
R130, R131: addition with carry in predicates, and the four-element dot product, which wraps and raises OF, or with
`.sat` clamps and raises SA as well. -/
def Obligations.LaneBitFieldsCarryAndDot : Prop :=
  (∀ (f : LaneWord) (t : Ty) (s : State), Ty.ofCode f.typ.val = some t →
    let pos (l : Nat) : Nat := (s.me.b f l).toNat % 32
    let len (l : Nat) : Nat := min ((s.me.b f l).toNat / 256 % 64) 32
    ((Instr.vbfx f).wf = true → LaneRuns s (elemUse f t true false) →
      LaneResult (.vbfx f) f s t (fun l v => ∀ i < 32, v.getLsbD i =
        (let a := s.me.rv f.va.val l
         let bit (j : Nat) : Bool := if j < 32 then a.getLsbD j else t == .s32 && a.getLsbD 31
         if len l = 0 then false
         else if i < len l then bit (pos l + i)
         else t == .s32 && bit (pos l + len l - 1))) 0)
    ∧ ((Instr.vbfi f).wf = true → LaneRuns s (elemUse f t true true) →
      LaneResult (.vbfi f) f s (if t = .raw32 then s.me.tag f.vc.val else t) (fun l v => ∀ i < 32, v.getLsbD i =
        if pos l ≤ i ∧ i < pos l + len l then (s.me.rv f.va.val l).getLsbD (i - pos l)
        else (s.me.rv f.vc.val l).getLsbD i) 0))
  ∧ (∀ (f : LaneWord) (s : State),
    ((Instr.vaddc f).wf = true → LaneRuns s (elemUse f .n32 true false) →
      let sum (l : Nat) : Nat := (s.me.rv f.va.val l).toNat + (s.me.b f l).toNat
        + ((s.me.pred f.vc.val).getLsbD l).toNat
      ∃ t, exec (.vaddc f) s = .next t ∧ LaneOwn s t
        ∧ (∀ r, ∀ l < 32, t.me.rv r l
            = if r = f.vd.val ∧ (s.me.act f).getLsbD l = true then BitVec.ofNat 32 (sum l) else s.me.rv r l)
        ∧ (∀ l < 32, (s.me.act f).getLsbD l = true → (t.me.pred f.pd.val).getLsbD l = decide (2 ^ 32 ≤ sum l))
        ∧ (∀ p, p ≠ f.pd.val → t.me.pred p = s.me.pred p) ∧ t.me.sticky = s.me.sticky)
    ∧ ∀ t, (Instr.vdp4 f).wf = true → Ty.ofCode f.typ.val = some t →
      LaneRuns s ⟨f.va.val :: f.vc.val :: bRegs f, [f.vd.val], bScalar f, [],
        tagged f.va.val 1 t ++ bTag f t ++ [(f.vc.val, .s32)]⟩ →
      let exact (l : Nat) : Int := (s.me.rv f.vc.val l).toInt + ((List.range 4).map (fun i =>
        elemVal t (elt 8 (s.me.rv f.va.val l) i) * elemVal t (elt 8 (s.me.b f l) i))).sum
      let sat := f.mode.val % 2 = 1
      LaneResult (.vdp4 f) f s .s32
        (fun l v => v = BitVec.ofInt 32 (if sat then max (-2 ^ 31) (min (2 ^ 31 - 1) (exact l)) else exact l))
        (if (List.range 32).any (fun l => (s.me.act f).getLsbD l
            && (decide (exact l < -2 ^ 31) || decide (2 ^ 31 ≤ exact l))) = true
         then (if sat then 36 else 4) else 0))

/-- R127, R136, R142: the compares and the predicate instructions. -/
def Obligations.LanePredicates : Prop :=
  ∀ (f : LaneWord) (s : State),
    (∀ t c, (Instr.vcmp f).wf = true → Ty.ofCode f.typ.val = some t → ordTests[f.opx.val]? = some c →
      LaneRuns s ⟨f.va.val :: bRegs f, [], bScalar f, [], tagged f.va.val 1 t ++ bTag f t⟩ →
      PredResult (.vcmp f) f s (fun l => c (compare (elemVal t (s.me.rv f.va.val l).toNat)
        (elemVal t (s.me.b f l).toNat))) 0)
    ∧ (∀ p ∈ predRows, (p.1 f).wf = true → LaneRuns s ⟨[], [], [], [], []⟩ →
      PredResult (p.1 f) f s (fun l => p.2 ((s.me.pred f.va.val).getLsbD l) ((s.me.pred f.vb.val).getLsbD l)
        (f.ext.getLsbD l)) 0)
    ∧ ∀ p ∈ [(Instr.pget, fun m : BitVec 32 => m),
             (.pcnt, fun m => BitVec.ofNat 32 ((List.range 32).filter (fun i => m.getLsbD i)).length)],
      (p.1 f).wf = true → LaneRuns s ⟨[], [], [], [f.vd.val], []⟩ →
      ∃ t, exec (p.1 f) s = .next t ∧ LaneOwn s t
        ∧ t.me.rs f.vd.val = written f.vd.val (p.2 (s.me.pred f.va.val &&& s.me.act f))
        ∧ (∀ r, r ≠ f.vd.val → t.me.rs r = s.me.rs r) ∧ t.me = { s.me.laneNext with sreg := t.me.sreg }

/-- R120, R133, R134, R135: a float instruction on elements acts element by element, in the format of its type and with its
rounding mode and saturation: the exact sum, product or fused product of Table 6-2, rounded once, the smaller or larger
element, the reciprocal, root, logarithm, power of two or integral value, as the model's operations of section 03 give it,
with their flags. An arithmetic result for a NaN operand is the default NaN (R61). The rounding of section 03 is that of R57, with the
flags and the overflow of R59 and R60, and a sum, product and fused product of finite values that is not zero is that rounding of the
exact rational. That an inexact tiny result which is delivered as zero sets UF and NX too is the model's choice (log 36). -/
def Obligations.LaneFloatElements : Prop :=
  ∀ p ∈ floatRows,
    (∀ (f : LaneWord) (t : Ty) (m : Fmt) (s : State), (p.1 f).wf = true → Ty.ofCode f.typ.val = some t → tyFmt t = some m →
      LaneRuns s (elemUse f t p.2.1 p.2.2.1) →
      let r (l i : Nat) := p.2.2.2 f m (elt t.width (s.me.rv f.va.val l) i) (elt t.width (s.me.b f l) i)
        (elt t.width (s.me.rv f.vc.val l) i)
      LaneResult (p.1 f) f s t (fun l v => ∀ i < t.elems, elt t.width v i = (r l i).1 % 2 ^ t.width)
        (laneFlags (s.me.act f) (fun l => (List.range t.elems).foldr (fun i y => (r l i).2 ||| y) 0)))
    ∧ (∀ (f : LaneWord) (a b c : Nat), a < 2 ^ 32 → 0x7F800000 < a % 2 ^ 31 → ¬(p.1 = .vfmin ∨ p.1 = .vfmax) →
      (p.2.2.2 f .f32 a b c).1 = 0x7FC00000)
    ∧ ∀ (m : Fmt) (md : Rnd) (sat : Bool),
      (∀ (neg : Bool) (num den : Nat), 0 < den → (m = .e3m5 → neg = false) → RoundsExactly m md sat neg num den)
      ∧ ∀ (x y z : Bool) (i j k : Nat),
        (realOf m x i + realOf m y j ≠ 0 →
          IsRounding m md sat (realOf m x i + realOf m y j) (m.add md sat (.fin x i) (.fin y j)))
        ∧ (realOf m x i * realOf m y j ≠ 0 →
          IsRounding m md sat (realOf m x i * realOf m y j) (m.mul md sat (.fin x i) (.fin y j)))
        ∧ (realOf m x i * realOf m y j + realOf m z k ≠ 0 →
          IsRounding m md sat (realOf m x i * realOf m y j + realOf m z k) (m.fma md sat (.fin x i) (.fin y j) (.fin z k)))

/-- R136, R137, Table 6-4: a float compare writes its test of the ordering of the two values (none where one is a NaN: only
tests 1 and 6 hold then, and test 7 holds elsewhere), and a signalling NaN raises IV; a class test writes the bit of its
mask for the class of the value; the two-element dot product is the step sum of R65 of the two products, accumulated in
vc's f32 value. -/
def Obligations.LaneFloatTests : Prop :=
  (∀ (f : LaneWord) (s : State), (Instr.vfcmp f).wf = true →
    LaneRuns s ⟨f.va.val :: bRegs f, [], bScalar f, [], tagged f.va.val 1 .f32 ++ bTag f .f32⟩ →
    let a (l : Nat) := Fmt.f32.decode (s.me.rv f.va.val l).toNat
    let b (l : Nat) := Fmt.f32.decode (s.me.b f l).toNat
    PredResult (.vfcmp f) f s (fun l => match FVal.cmp (a l) (b l) with
        | some o => f.opx.val == 7 || (ordTests[f.opx.val]?.map (fun c => c o)).getD false
        | none => f.opx.val == 1 || f.opx.val == 6)
      (laneFlags (s.me.act f) (fun l => snanFlag (a l) ||| snanFlag (b l))))
  ∧ (∀ (f : LaneWord) (s : State), (Instr.vfcls f).wf = true →
    LaneRuns s ⟨[f.va.val], [], [], [], [(f.va.val, .f32)]⟩ →
    PredResult (.vfcls f) f s (fun l => f.ext.getLsbD (f32Class (s.me.rv f.va.val l).toNat)) 0)
  ∧ ∀ (f : LaneWord) (t : Ty) (m : Fmt) (s : State),
    (Instr.vfdp2 f).wf = true → Ty.ofCode f.typ.val = some t → tyFmt t = some m →
    LaneRuns s ⟨f.va.val :: f.vc.val :: bRegs f, [f.vd.val], bScalar f, [],
      tagged f.va.val 1 t ++ bTag f t ++ [(f.vc.val, .f32)]⟩ →
    let two (x : Word) : List Nat := [elt 16 x 0, elt 16 x 1]
    let r (l : Nat) := stepFloat (laneSat f) m (s.me.rv f.vc.val l).toNat (two (s.me.rv f.va.val l)) (two (s.me.b f l))
    LaneResult (.vfdp2 f) f s .f32 (fun l v => v = BitVec.ofNat 32 (r l).1) (laneFlags (s.me.act f) (fun l => (r l).2))

/-- R138, R139, R140: conversions and the packing of blocks: element i of a conversion is the conversion of element i of the
sources (Table 3-6) with the mode of the word, or rounded to nearest away where opx[34] is set; an unpacked element is its
value times its scale in f32; a packed block has the scale of its largest magnitude, and its elements are rounded against
that scale. A packed block keeps the other bytes of vc (R139). Flags are those of the conversions. -/
def Obligations.LaneConversions : Prop :=
  (∀ (f : LaneWord) (d c : Ty) (s : State), (Instr.vcvt f).wf = true →
    Ty.ofCode f.typ.val = some d → Ty.ofCode (f.x 5 0) = some c →
    let n := cvtRegs d c
    LaneRuns s ⟨regs f.va.val n.1, regs f.vd.val n.2, [], [], tagged f.va.val n.1 c⟩ →
    let e (l j : Nat) := cvtElem d c (if f.opx34 then .rna else laneRnd f) (laneSat f)
      (elt c.width (s.me.rv (f.va.val + j / c.elems) l) (j % c.elems))
    WritesRegs (.vcvt f) f s f.vd.val n.2 d
      (fun l r v => ∀ i < d.elems, elt d.width v i = (e l (r * d.elems + i)).1 % 2 ^ d.width)
      (fun l r => (List.range d.elems).foldr (fun i y => (e l (r * d.elems + i)).2 ||| y) 0))
  ∧ (∀ (f : LaneWord) (s : State), (Instr.vunpkb f).wf = true →
    LaneRuns s ⟨[f.va.val, f.vc.val], regs f.vd.val 8, [], [], [(f.va.val, .e2m1x8), (f.vc.val, .e3m5x4)]⟩ →
    WritesRegs (.vunpkb f) f s f.vd.val 8 .f32
      (fun l r v => ∀ n q, Fmt.e2m1.decode (elt 4 (s.me.rv f.va.val l) r) = .fin n q →
        v = BitVec.ofNat 32 (Fmt.f32.round .rn false n
          (q * Fmt.e3m5.quanta (elt 8 (s.me.rv f.vc.val l) f.ext.toNat)) (2 ^ (Fmt.e2m1.k + Fmt.e3m5.k))).1)
      (fun _ _ => 0))
  ∧ ∀ (f : LaneWord) (s : State), (Instr.vpackb f).wf = true →
    LaneRuns s ⟨f.vc.val :: regs f.va.val 8, [f.vd.val, f.vc.val], [], [], tagged f.va.val 8 .f32⟩ →
    (f.vd ≠ f.vc →
      let r (l : Nat) := packBlock (laneRnd f) ((List.range 8).map (fun j => (s.me.rv (f.va.val + j) l).toNat))
      ∃ t, exec (.vpackb f) s = .next t ∧ LaneOwn s t
        ∧ (∀ l < 32, (s.me.act f).getLsbD l = true → t.me.rv f.vd.val l = (r l).1
            ∧ ∀ i < 4, elt 8 (t.me.rv f.vc.val l) i = if i = f.ext.toNat then (r l).2.1 else elt 8 (s.me.rv f.vc.val l) i)
        ∧ (∀ q, ∀ l < 32, ¬((q = f.vd.val ∨ q = f.vc.val) ∧ (s.me.act f).getLsbD l = true) → t.me.rv q l = s.me.rv q l)
        ∧ (∀ q, t.me.tag q = if q = f.vc.val then .e3m5x4 else if q = f.vd.val then .e2m1x8 else s.me.tag q)
        ∧ t.me.sticky = s.me.sticky ||| laneFlags (s.me.act f) (fun l => (r l).2.2)
        ∧ t.me = { s.me.laneNext with vreg := t.me.vreg, vtag := t.me.vtag, sticky := t.me.sticky })
    ∧ ∃ t, exec (.vpackb f) s = .next t
        ∧ (∀ q, ∀ l < 32, ¬((q = f.vd.val ∨ q = f.vc.val) ∧ (s.me.act f).getLsbD l = true) → t.me.rv q l = s.me.rv q l)
        ∧ (∀ q, t.me.tag q = if q = f.vc.val then .e3m5x4 else if q = f.vd.val then .e2m1x8 else s.me.tag q)
        ∧ t.me = { s.me.laneNext with vreg := t.me.vreg, vtag := t.me.vtag, sticky := t.me.sticky }
        ∧ s.SameBytes t ∧ ∀ k, k ≠ s.cur → t.gang k = s.gang k

/-- R143, R144, R145: the permutations of lanes: the source lane by the table; a source lane that is not live reads as 0. -/
def Obligations.LanePermutations : Prop :=
  ∀ p ∈ [(Instr.vshfl, fun (m l n : Nat) => ([n, l ^^^ n, if l < n then l else l - n,
             if 31 < l + n then l else l + n])[m]?.getD 0),
         (.vbcast, fun _ _ n => n), (.vrot, fun _ l n => (l + n) % 32)],
    ∀ (f : LaneWord) (s : State), (p.1 f).wf = true →
    LaneRuns s ⟨f.va.val :: bRegs f, [f.vd.val], bScalar f, [], []⟩ →
    LaneResult (p.1 f) f s (s.me.tag f.va.val) (fun l v =>
      let src := p.2 f.opx.val l ((s.me.b f l).toNat % 32)
      v = if s.me.live.getLsbD src then s.me.rv f.va.val src else 0) 0

/-- R146, R147, Table 6-6: reductions and running combinations over the acting lanes. A reduction combines the lanes in the
binary tree of R146, `.maxvi` over the packed words of R167 of the lanes whose value is no NaN; a scan combines them in
lane order. For the integer operations the result is the combination of the acting lanes in any order, and no flag is
raised; the float ones add, or take the smaller or larger, with their flags. -/
def Obligations.LaneReductions : Prop :=
  (∀ (op : Nat) (m : Rnd) (a b : Word), (h : op < redRows.length) →
    redComb op m a.toNat b.toNat = ((redRows[op].1 a b).toNat, 0) ∧ redId op = redRows[op].2.toNat)
  ∧ (∀ m a b, redComb 8 m a b = Fmt.f32.add m false (Fmt.f32.decode a) (Fmt.f32.decode b)
      ∧ redComb 9 m a b = Fmt.f32.minmax false a b ∧ redComb 10 m a b = Fmt.f32.minmax true a b
      ∧ redComb 11 m a b = (if a ≤ b then b else a, 0))
  ∧ (∀ (op : Nat) (m : Rnd) (x : Nat → Option Word), (h : op < redRows.length) →
      redTree (redComb op m) 5 ((List.range 32).map (fun l => (x l).map BitVec.toNat))
        = (match (List.range 32).filterMap x with
           | [] => none
           | w :: ws => some (ws.foldl redRows[op].1 w).toNat, 0))
  ∧ (∀ (f : LaneWord) (t : Ty) (s : State), (Instr.vred f).wf = true → Ty.ofCode f.typ.val = some t →
      let vi := f.x 3 0 = 11
      let d := f.vd.val
      let dst := if f.opx34 then (if vi then [d, d + 1] else [d]) else []
      LaneRuns s ⟨f.va.val :: (if vi then [f.vc.val] else []), if f.opx34 then [] else [d], [], dst,
        (f.va.val, t) :: (if vi then [(f.vc.val, .n32)] else [])⟩ →
      let nan (l : Nat) : Bool := (Fmt.f32.decode (s.me.rv f.va.val l).toNat).isNan
      let leaf (l : Nat) : Option Nat :=
        if (s.me.act f).getLsbD l then
          (if vi then (if nan l then none else
              some ((maxviKey (s.me.rv f.va.val l)).toNat * 2 ^ 32 + (2 ^ 32 - 1 - (s.me.rv f.vc.val l).toNat)))
            else some (s.me.rv f.va.val l).toNat)
        else none
      let r := redTree (redComb (f.x 3 0) (laneRnd f)) 5 ((List.range 32).map leaf)
      let v := r.1.getD (redId (f.x 3 0))
      let fl := (if vi then laneFlags (s.me.act f) (fun l => if nan l then 1 else 0) else 0) ||| r.2
      if f.opx34 then
        ∃ t, exec (.vred f) s = .next t ∧ LaneOwn s t
          ∧ t.me.rs d = written d (BitVec.ofNat 32 v)
          ∧ (vi → t.me.rs (d + 1) = BitVec.ofNat 32 (v / 2 ^ 32)) ∧ (∀ q, q ∉ dst → t.me.rs q = s.me.rs q)
          ∧ t.me = { s.me.laneNext with sreg := t.me.sreg, sticky := s.me.sticky ||| fl }
      else LaneResult (.vred f) f s t (fun _ w => w = BitVec.ofNat 32 v) fl)
  ∧ ∀ (f : LaneWord) (t : Ty) (s : State), (Instr.vscan f).wf = true → Ty.ofCode f.typ.val = some t →
      LaneRuns s ⟨[f.va.val], [f.vd.val], [], [], [(f.va.val, t)]⟩ →
      let run (n : Nat) : Nat × BitVec 6 := (List.range n).foldl (fun a l =>
        if (s.me.act f).getLsbD l then
          let c := redComb (f.x 3 0) (laneRnd f) a.1 (s.me.rv f.va.val l).toNat
          (c.1, a.2 ||| c.2)
        else a) (redId (f.x 3 0), 0)
      LaneResult (.vscan f) f s t (fun l v => v = BitVec.ofNat 32 (run (if f.opx34 then l else l + 1)).1) (run 32).2

/-- R148: the intersection of two ascending lists of keys in the live lanes: the matches in ascending order, the predicate
of the lanes that hold one, and by how much each list advances. -/
def Obligations.LaneIntersection : Prop :=
  ∀ (f : LaneWord) (s : State), (Instr.visect f).wf = true →
    let d := f.x 6 0
    LaneRuns s ⟨[f.va.val, f.vb.val], [f.vd.val], [], [d, d + 1], [(f.va.val, .n32), (f.vb.val, .n32)]⟩ →
    let a := keyList s.me f.va.val
    let b := keyList s.me f.vb.val
    let m := matchesOf a b
    (a.Pairwise (fun x y => x.2 < y.2) → b.Pairwise (fun x y => x.2 < y.2) →
      ∃ t, exec (.visect f) s = .next t ∧ LaneOwn s t
        ∧ (∀ l < 32, s.me.live.getLsbD l = true → t.me.rv f.vd.val l = m.getD l 0xFFFFFFFF
            ∧ (t.me.pred f.pd.val).getLsbD l = decide (l < m.length))
        ∧ t.me.rs d = written d (BitVec.ofNat 32 (advance a b)) ∧ t.me.rs (d + 1) = BitVec.ofNat 32 (advance b a)
        ∧ t.me.tag f.vd.val = .n32
        ∧ (t.me.mz.getLsbD f.pd.val = (t.me.pred f.pd.val == 0)))
    ∧ ∃ t, exec (.visect f) s = .next t
        ∧ (∀ r, ∀ l < 32, ¬(r = f.vd.val ∧ s.me.live.getLsbD l = true) → t.me.rv r l = s.me.rv r l)
        ∧ (∀ p, p ≠ f.pd.val → t.me.pred p = s.me.pred p)
        ∧ (∀ r, r ≠ d → r ≠ d + 1 → t.me.rs r = s.me.rs r)
        ∧ (∀ r, t.me.tag r = if r = f.vd.val then .n32 else s.me.tag r)
        ∧ t.me = { s.me.laneNext with vreg := t.me.vreg, vtag := t.me.vtag, preg := t.me.preg, mz := t.me.mz,
                                      sreg := t.me.sreg }
        ∧ s.SameBytes t ∧ (∀ k, k ≠ s.cur → t.gang k = s.gang k)

/-- R86, R87, R161, R169, R174: the lane accesses as they issue: one element for each acting lane, with its address
and its bytes; the destination registers become pending and the attached flag busy. A prefetch moves no register and
no byte of memory: it is in flight with the addresses that memory or a peer can hold, and moves on where there is
none. One whose core has all its requests out issues too and waits in the core (the model's choice, log 36). -/
def Obligations.LaneAccessesIssue : Prop :=
  ∀ (f : LaneWord) (s : State) (scr : Bool),
    let n := 2 ^ f.x 3 0
    let adr (l : Nat) : Dword := if scr then scrA s f l else memA s f l
    let use := if scr then scrUse f else memUse f
    let acts (l : Nat) : Prop := (s.me.act f).getLsbD l = true
    let sc := (Scope.ofCode f.mode.val).getD .gang
    (∀ p ∈ [(Instr.vld, false), (.vlds, true)], p.2 = scr → (p.1 f).wf = true →
      ∀ t, Ty.ofCode f.typ.val = some t →
      LaneRuns s { use with wr := regs f.vd.val n } →
      (∀ l < 32, acts l → (if scr then scrCause s.myCrew (4 * n) (adr l) else addrCause (4 * n) (adr l)) = none) →
      LaneIssues (p.1 f) s (regs f.vd.val n)
        { s.laneOp with scr := scr, scope := sc, width := 4 * n, els := lanesOf (s.me.act f) (fun l => element l (adr l) []),
                        dst := .vreg f.vd.val n t, flag := s.me.attached f,
                        stage := if s.me.act f = 0 then .ready else .sent })
    ∧ (∀ p ∈ [(Instr.vst, false), (.vsts, true)], p.2 = scr → (p.1 f).wf = true → s.queueFull s.cur = false →
      ∀ t, Ty.ofCode f.typ.val = some t →
      LaneRuns s { use with rd := use.rd ++ regs f.vc.val n, tags := tagged f.vc.val n t } →
      (∀ l < 32, acts l → (if scr then scrCause s.myCrew (4 * n) (adr l) else addrCause (4 * n) (adr l)) = none) →
      LaneIssues (p.1 f) s []
        { s.laneOp with kind := .store, inQ := true, stage := .queued, scr := scr, scope := sc, colour := f.x 7 5,
                        width := 4 * n, arg := [BitVec.ofNat 32 f.typ.val],
                        els := lanesOf (s.me.act f) (fun l => element l (adr l)
                          ((List.range n).flatMap (fun i => natLE 4 (s.me.rv (f.vc.val + i) l).toNat))) })
    ∧ (∀ p ∈ [(Instr.vatom, false), (.vatoms, true)], p.2 = scr → (p.1 f).wf = true → s.queueFull s.cur = false →
      ∀ op, AtomOp.ofCode (f.x 3 0) = some op →
      let wide := f.x 4 4 == 1
      let m := if wide then 2 else 1
      LaneRuns s { use with rd := use.rd ++ regs f.vc.val m, wr := if f.opx34 then regs f.vd.val m else [],
                            tags := atomTags op f.vc.val wide } →
      (∀ l < 32, acts l → (if scr then scrCause s.myCrew (4 * m) (adr l) else atomCause (4 * m) (adr l)) = none) →
      let data (l : Nat) : List Byte :=
        if op = .maxvi then natLE 8 ((maxviKey (s.me.rv f.vc.val l)).toNat * 2 ^ 32
          + (2 ^ 32 - 1 - (s.me.rv (f.vc.val + 1) l).toNat))
        else (List.range m).flatMap (fun i => natLE 4 (s.me.rv (f.vc.val + i) l).toNat)
      LaneIssues (p.1 f) s (if f.opx34 then regs f.vd.val m else [])
        { s.laneOp with kind := .atom op wide, inQ := true, stage := .queued, scr := scr, scope := sc, colour := f.x 7 5,
                        width := 4 * m, els := lanesOf (s.me.act f) (fun l => element l (adr l) (data l)),
                        dst := if f.opx34 then .vreg f.vd.val m (atomTag op (s.me.tag f.vc.val)) else .none,
                        flag := if f.opx34 then s.me.attached f else none })
    ∧ ((Instr.vprf f).wf = true → LaneRuns s (memUse f) →
      let at_ (l : Nat) : Nat := (memA s f l).toNat / 2 ^ 50
      let els := (lanesOf (s.me.act f) (fun l => element l (memA s f l) [])).filter
        (fun e => decide (at_ e.lane ≤ 3 ∨ 64 ≤ at_ e.lane ∧ at_ e.lane ≤ 127))
      (els ≠ [] → LaneIssues (.vprf f) s []
        { s.laneOp with kind := .prf, els := els, arg := [if f.opx34 then 1 else 0] })
      ∧ (els = [] → ∃ t, exec (.vprf f) s = .next t ∧ t.me = s.me.laneNext ∧ LaneOwn s t ∧ t.ops = s.ops))

/-- R268, R305: a copy by index and the two forms of a redeem as they issue. A copy with no acting lane issues
whatever its dst is: that the cause 0x05 of R268 for an unaligned dst wants an acting lane is the model's reading (log
22). One whose core has all its requests out issues too and waits in the core (the model's choice, log 36). -/
def Obligations.LaneCopiesIssue : Prop :=
  ∀ (f : LaneWord) (s : State),
    let n := f.vb.val
    ((Instr.vcpidx f).wf = true → LaneRuns s ⟨[f.va.val], [], (List.range 5).map (n + ·), [], [(f.va.val, .n32)]⟩ →
      let words := f.x 9 0 + 1
      let pitch := if words % 2 = 1 then 4 * words else 4 * words + 4
      let slot (l : Nat) : Nat := (s.me.rs (n + 4)).toNat + l * pitch
      (∀ l < 32, (s.me.act f).getLsbD l = true → slot 0 % 4 = 0 ∧ slot l + 4 * words ≤ s.myCrew.scrSize) →
      LaneIssues (.vcpidx f) s []
        { s.laneOp with
          kind := .gather f.opx34 words (if f.x 12 12 = 1 then some (f.x 11 10) else none)
          scope := (Scope.ofCode f.mode.val).getD .gang, flag := s.me.attached f
          stage := if s.me.act f = 0 then .ready else .sent
          els := lanesOf (s.me.act f) (fun l => element l
            (s.me.rp n + (s.me.rv f.va.val l).setWidth 64 * (s.me.rs (n + 2)).setWidth 64)
            (natLE 8 (slot l) ++ [if (s.me.rv f.va.val l).toNat < (s.me.rs (n + 3)).toNat then 1 else 0])) })
    ∧ ∀ remote : Bool,
      let i := if remote then Instr.vredeemRemote f else .vredeem f
      let own := if remote then [] else regs f.vd.val 4
      let wr := own ++ (if f.opx34 then [f.vc.val] else [])
      let pair := f.x 6 0
      let win : Dword := if remote then s.me.rp pair else 0
      i.wf = true → LaneReady s ⟨[], wr, [n, n + 1] ++ (if remote then [pair, pair + 1] else []), [], []⟩ →
      (remote = true → remoteBad win.toNat = false) → ∀ t, Ty.ofCode f.typ.val = some t →
      LaneIssues i s wr
        { s.laneOp with kind := .vredeem f.opx34 remote, els := [element 0 (s.me.rp n) []], flag := s.me.attached f
                        dst := .vreg f.vd.val (if remote then 0 else 4) t
                        arg := [s.me.rs n, s.me.rs (n + 1), BitVec.ofNat 32 f.vc.val, s.me.live, win.extractLsb' 0 32,
                                win.extractLsb' 32 32] }

/-- R79, R81, R191, R192, R193: an element instruction of the lane stream, on integers or floats, that names a register beyond the
gang's blocks, or a checked source with another tag, takes a precise lane trap: the clauses are discarded and counted, the registers
keep their values, and the gang enters its handler. Where both hold the cause is 0x04 (the model's choice, log 13). -/
def Obligations.LaneTraps : Prop :=
  ∀ p ∈ elementRows, ∀ (f : LaneWord) (t : Ty) (c : Clause) (cs : List Clause) (s : State) (h : Nat), (p.1 f).wf = true →
    Ty.ofCode f.typ.val = some t → s.me.clauses = c :: cs → s.me.wait = .none → s.myCrew.handler = some h →
    s.me.trap.handler = false →
    let u := elemUse f t p.2.1 p.2.2
    s.me.lBlocked u = false → s.laneHeld = false →
    let beyond := ∃ r ∈ u.rd ++ u.wr, 64 + 64 * c.blocks ≤ r
    let wrong := ∃ q ∈ u.tags, s.me.tag q.1 ≠ q.2
    (beyond ∨ wrong) → ∃ t cause, exec (p.1 f) s = .next t ∧ (beyond → cause = 4) ∧ (¬beyond → cause = 3) ∧ s.SameBytes t
      ∧ t.me.clauses = [] ∧ t.me.pc = BitVec.ofNat 32 h
      ∧ t.me.trap = ⟨BitVec.ofNat 32 (cause + 512 + 1024 * (cs.length + 1)), BitVec.ofNat 32 c.off,
          BitVec.ofNat 32 (c.next + 1), s.me.act f, 0, s.me.trap.tcount + 1, true⟩
      ∧ t.me.sreg = s.me.sreg ∧ t.me.vreg = s.me.vreg ∧ t.me.vtag = s.me.vtag ∧ t.me.preg = s.me.preg
      ∧ t.me.cc = s.me.cc ∧ t.me.sticky = s.me.sticky

/-- R221, R223, R235, R237-R251: every matrix and winner-list instruction that meets its checks issues and joins the queue
of its gang's hearth; `mxrdy` joins none. -/
def Obligations.HearthInstructionsIssue : Prop :=
  ∀ p ∈ hearthRows, ∀ (f : LaneWord) (s : State), (p.1 f).wf = true → hJoint (p.1 f) = false → hDefer (p.1 f) = none →
    HearthRuns s (p.1 f) (p.2.1 f) → p.2.2.2 s f →
    EntersHearth (p.1 f) f s (p.2.1 f).wr (if p.2.2.1 then s.me.act f else s.me.live) .queued s.myCrew.tags

/-- R225: an instruction with a deferred tag parks on an empty tag, and on a landed one enters its queue and takes a
landing.
R223, R224: the n-th joint instruction of a gang in a crew with watches: a gang that finds no n-th instruction of its watch
opens one, or, where a gang of its watch has ended before, traps at once with cause 0x0D (R223 as the model reads it, log 21); one that
finds it joins it; the fourth that matches it,
with the same word and operands, completes it, and it joins the queues of four hearths. -/
def Obligations.DeferredAndJointInstructions : Prop :=
  (∀ p ∈ hearthRows.take 3, ∀ (f : LaneWord) (s : State) (tag : Nat), (p.1 f).wf = true → hJoint (p.1 f) = false →
    hDefer (p.1 f) = some tag → HearthRuns s (p.1 f) (p.2.1 f) → p.2.2.2 s f →
    let key := (if s.myCrew.hasWatches then s.me.num / 4 else s.me.num) * 4 + tag
    let enters (st : HStage) (t : TagSt) := EntersHearth (p.1 f) f s [] s.me.live st (Map.put .empty s.myCrew.tags key t)
    (s.myCrew.tag key = .empty → enters .parked (.parked s.nextOp))
    ∧ ∀ n, s.myCrew.tag key = .landed n → enters .queued (if n ≤ 1 then .empty else .landed (n - 1)))
  ∧ (∀ p ∈ hearthRows.take 2, ∀ (f : LaneWord) (s : State), (p.1 f).wf = true → f.opx34 = true → f.deferTag = none →
    s.myCrew.hasWatches = true → HearthRuns s (p.1 f) (p.2.1 f) → p.2.2.2 s f →
    let part : HPart := ⟨s.cur, s.nextOp, s.me.lanePc, s.me.laneInfo, s.me.attached f, s.me.live⟩
    let n := s.me.joints + 1
    let issued (t : State) : Prop := s.SameBytes t ∧ (∀ k, k ≠ s.cur → t.gang k = s.gang k)
      ∧ t.me = { (s.me.flagOp (s.me.attached f) true).laneNext with joints := n }
    (s.joinable s.cur n = none → (∀ j ∈ s.watchOf s.cur, j ≠ s.cur → (s.gang j).joints < n ∧ (s.gang j).phase = .running) →
      ∃ t h, exec (p.1 f) s = .next t ∧ t.hops = s.hops ++ [h] ∧ h.stage = .joint ∧ h.instr = p.1 f ∧ h.parts = [part]
        ∧ h.crew = s.me.crew ∧ h.n = n ∧ issued t)
    ∧ (s.joinable s.cur n = none → (∃ j ∈ s.watchOf s.cur, j ≠ s.cur ∧ (s.gang j).phase ≠ .running) → s.me.phase = .running →
      ∃ t r, exec (p.1 f) s = .next t ∧ t.hops = s.hops ∧ t.me.reports = s.me.reports ++ [r] ∧ r.2.cause = 0x0D
        ∧ s.SameBytes t)
    ∧ ∀ h, s.joinable s.cur n = some h →
      (h.parts.length < 3 → ∃ t, exec (p.1 f) s = .next t ∧ issued t
        ∧ t.hops = s.hops.map (fun x => if x.id = h.id then { h with parts := h.parts ++ [part]
                                                                     bad := h.bad || bareInstr h.instr != bareInstr (p.1 f)
                                                                       || h.blk != hBlock s.me (p.1 f) f } else x))
      ∧ (h.parts.length = 3 → h.bad = false → bareInstr h.instr = bareInstr (p.1 f) → h.blk = hBlock s.me (p.1 f) f →
        hDefer h.instr = none → ∃ t, exec (p.1 f) s = .next t ∧ issued t
        ∧ t.hops = s.hops.filter (fun x => x.id != h.id)
            ++ [{ h with parts := h.parts ++ [part], stage := .queued, bad := false,
                         quads := (h.parts ++ [part]).map (fun q => q.gang / 16) }]))

/-- R208, R211-R214, R221, R234, R236, R241-R251: the hearth at the head of its queue performs its part of each instruction:
`mxclr` clears a tile to its type; `mxmac` adds to each cell of its rows the steps of the row's elements in scratchpad with
those of its line in vector registers (for s8 elements the exact products, modulo 2^32); `mxv` takes its rows from the
stream FIFO; `mxld` and `mxst` move rows between tile and scratchpad, `mxmov` between tile and vector registers;
`mxtopk` offers the cells of its rows to a list; `wlclr`, `wlcfg`, `wlins`, `wlld`, `wlmrg` change a list, `wlst`, `wlget` and
`wlthr` read it. Beyond what is said of it, no form changes anything of a gang but the tiles and their tags, the lists, or the vector
registers and their tags that it writes, and the sticky flags; a store to scratchpad may also end waits at a barrier object there (R173).
That a hearth performs its part in one event is the model's choice (log 21), and so are the flags and the infinite bound of an
`mxtopk` whose bound overflows (log 36). -/
def Obligations.HearthWork : Prop :=
  ∀ (q : Nat) (h : HOp) (p : HPart) (s : State), s.hHead q = some h →
    h.parts.find? (fun p => slotQuad p.gang == q) = some p →
    let g := s.gang p.gang
    let w := s.crew h.crew
    let only (t : State) : Prop := (∀ k, k ≠ p.gang → t.gang k = s.gang k) ∧ t.ops = s.ops ∧ s.SameBytes t
    let runs (P : State → Prop) : Prop := ∃ t, exec (.hearthStart q) s = .next t ∧ P t
    let stores (t : State) (P : Nat → Prop) : Prop :=
      (∀ a, ¬P a → (t.crew h.crew).readScr a 1 = w.readScr a 1) ∧ (∀ c, c ≠ h.crew → t.crew c = s.crew c)
      ∧ ∀ a, t.readPhys a 1 = s.readPhys a 1 ∧ t.readHost a 1 = s.readHost a 1 ∧ t.readPeer a 1 = s.readPeer a 1
    let tiles (t : State) (v : Nat → Nat → Nat → Word) : Prop :=
      ∀ c i j, i < 64 → j < 64 → (t.gang p.gang).rt c i j = v c i j
    let lists (t : State) (l : Nat) (x : WList) : Prop := (∀ m, (t.gang p.gang).list m = if m = l then x else g.list m)
      ∧ t.gang p.gang = { g with wl := (t.gang p.gang).wl, sticky := (t.gang p.gang).sticky }
    let onTiles (t : State) : Prop := t.gang p.gang =
      { g with tile := (t.gang p.gang).tile, tileTag := (t.gang p.gang).tileTag, sticky := (t.gang p.gang).sticky }
    let onVectors (t : State) : Prop := t.gang p.gang = { g with vreg := (t.gang p.gang).vreg, vtag := (t.gang p.gang).vtag }
    let onStores (t : State) : Prop := (∀ k, k ≠ p.gang → t.gang k = { s.gang k with wait := (t.gang k).wait })
      ∧ t.gang p.gang = { g with wait := (t.gang p.gang).wait, sticky := (t.gang p.gang).sticky } ∧ t.ops = s.ops
    (∀ f, h.instr = .mxclr f → runs (fun t => only t ∧ onTiles t
      ∧ tiles t (fun c i j => if c = f.x 23 21 then 0 else g.rt c i j)
      ∧ ∀ c, (t.gang p.gang).ttag c = if c = f.x 23 21 then laneTy f else g.ttag c))
    ∧ (∀ f, h.instr = .wlclr f → runs (fun t => only t ∧ lists t (f.x 23 23) { g.list (f.x 23 23) with ent := [] }))
    ∧ (∀ f, h.instr = .wlcfg f → runs (fun t => only t
      ∧ lists t (f.x 23 23) ⟨f.x 22 21, f.x 20 15 + 1, f.typ.val == 1, h.blk.getD 0 0, []⟩))
    ∧ (∀ f, h.instr = .mxmac f → (Instr.mxmac f).wf = true → bw h.blk 2 ≤ 64 → runs (fun t => only t ∧ onTiles t
      ∧ tiles t (fun c i j => if c = f.x 23 21 ∧ i < bw h.blk 2 ∧ s.lineLost h f j = false
          then BitVec.ofNat 32 (hRun f (s.sOperand h f ((if f.opx34 then g.num % 4 * bw h.blk 2 else 0) + i))
            (s.rOperand h f j) f.steps 0 (g.rt c i j).toNat).1
          else g.rt c i j)))
    ∧ (∀ f, h.instr = .mxmac f → (Instr.mxmac f).wf = true → f.typ.val = 9 → f.mode.val = 0 → f.opx34 = false →
      h.taint = [] → h.parts = [p] → bw h.blk 2 ≤ 64 →
      let word (a : Nat) : Int := (w.readScr a 1).foldl (fun _ b => b.toInt) 0
      let rowEl (i x : Nat) : Int := word (bw h.blk 0 + i * bw h.blk 1 + x)
      let lineEl (j x : Nat) : Int := if g.live.getLsbD (j % 32) then
        (BitVec.ofNat 8 (elt 8 (g.rv (f.va.val + j / 32 * f.lineWords + x / 4) (j % 32)) (x % 4))).toInt else 0
      runs (fun t => tiles t (fun c i j => if c = f.x 23 21 ∧ i < bw h.blk 2 then BitVec.ofInt 32 ((g.rt c i j).toInt
              + ((List.range (f.steps * f.kstep)).map (fun x => rowEl i x * lineEl j x)).sum)
            else g.rt c i j)))
    ∧ (∀ f, h.instr = .mxv f → h.blk.length = 10 →
      let key := h.crew * 4 + q % 4
      let n := bw h.blk 0
      let need := n * f.lineWords
      let ws := wordsOf need (s.fifoOf key)
      ((s.fifoOf key).length / 4 < need → runs (fun t => only t ∧ t.gangs = s.gangs
        ∧ t.hop h.id = some { h with blk := h.blk ++ wordsOf ((s.fifoOf key).length / 4) (s.fifoOf key) }
        ∧ t.fifoOf key = (s.fifoOf key).drop (4 * ((s.fifoOf key).length / 4))))
      ∧ (4 * need ≤ (s.fifoOf key).length → (Instr.mxv f).wf = true → n ≤ 512 → h.taint = [] → runs (fun t => only t ∧ onTiles t
        ∧ t.fifoOf key = (s.fifoOf key).drop (4 * need)
        ∧ tiles t (fun c i j =>
            let r := i + 64 * (j / 8)
            if c = f.x 23 21 ∧ r < n ∧ j % 8 ≤ f.x 20 18
            then BitVec.ofNat 32 (hRun f ⟨lineElems f ((ws.drop (f.lineWords * r)).take f.lineWords), []⟩
              ⟨lineElems f (s.rLine h f (j % 8)), []⟩ f.steps 0 (g.rt c i j).toNat).1
            else g.rt c i j))))
    ∧ (∀ f, h.instr = .mxld f → bw h.blk 2 ≤ 64 → runs (fun t => only t ∧ onTiles t
      ∧ tiles t (fun c i j => if c = f.x 23 21 ∧ i < bw h.blk 2
          then BitVec.ofNat 32 (leNat (w.readScr (bw h.blk 0 + i * bw h.blk 1 + 4 * j) 4)) else g.rt c i j)
      ∧ ∀ c, (t.gang p.gang).ttag c = if c = f.x 23 21 then laneTy f else g.ttag c))
    ∧ (∀ f, h.instr = .mxst f →
      let len := 256 / (laneTy f).elems
      let row (i : Nat) := stRow f h.blk (g.ttag (f.x 23 21)) ((List.range 64).map (fun j => (g.rt (f.x 23 21) i j).toNat))
      len ≤ bw h.blk 1 → runs (fun t =>
        (∀ i < bw h.blk 2, (t.crew h.crew).readScr (bw h.blk 0 + i * bw h.blk 1) len = (row i).1)
        ∧ stores t (fun a => ∃ i < bw h.blk 2, bw h.blk 0 + i * bw h.blk 1 ≤ a ∧ a < bw h.blk 0 + i * bw h.blk 1 + len)
        ∧ onStores t))
    ∧ (∀ f, h.instr = .mxmovToTile f → f.x 20 15 + f.x 14 9 < 64 → h.taint = [] → runs (fun t => only t ∧ onTiles t
      ∧ tiles t (fun c i j => if c = f.x 23 21 ∧ f.x 20 15 ≤ i ∧ i ≤ f.x 20 15 + f.x 14 9 ∧ p.act.getLsbD (j % 32) = true
          then g.rv (f.va.val + 2 * (i - f.x 20 15) + j / 32) (j % 32) else g.rt c i j)
      ∧ ∀ c, (t.gang p.gang).ttag c = if c = f.x 23 21 then laneTy f else g.ttag c))
    ∧ (∀ f, h.instr = .mxmovToVector f → runs (fun t => only t ∧ onVectors t
      ∧ (∀ r, ∀ l < 32, (t.gang p.gang).rv r l =
          if f.vd.val ≤ r ∧ r < f.vd.val + 2 * (f.x 14 9 + 1) ∧ p.act.getLsbD l = true
          then g.rt (f.x 23 21) (f.x 20 15 + (r - f.vd.val) / 2) (32 * ((r - f.vd.val) % 2) + l) else g.rv r l)
      ∧ ∀ r, (t.gang p.gang).tag r =
          if f.vd.val ≤ r ∧ r < f.vd.val + 2 * (f.x 14 9 + 1) then laneTy f else g.tag r))
    ∧ (∀ f, h.instr = .mxtopk f → h.taint = [] →
      let l := g.list (f.x 23 23)
      let n := bw h.blk 2
      let base := if f.opx34 then g.num % 4 * n else 0
      let scored := scoredRows h l
      let tab (off r : Nat) : List Nat := if f.steps = 1 then [] else s.boundRow h.crew f off r
      let rows := if scored = [] then [] else
        (List.range n).map (fun i => (s.sOperand h f (base + i), tab (bw h.blk 6) (base + i)))
      let lines := if scored = [] then [] else
        (List.range 64).map (fun i => (i, s.rOperand h f i, tab (bw h.blk 5) i))
      let r := groupsGo f (lines.filter (fun x => scored.contains x.1)) (n / 64 + 1) rows
        (h.blk.getD 7 0 + BitVec.ofNat 32 base) ⟨l, l, 0, 0, 0⟩
      f.steps = 1 ∨ (tableBad f (lines.map (·.2.1)) (lines.map (·.2.2)) = false
        ∧ tableBad f (rows.map (·.1)) (rows.map (·.2)) = false) →
      runs (fun t => only t ∧ lists t (f.x 23 23) r.list ∧ (t.gang p.gang).sticky = g.sticky ||| r.flags
        ∧ ∃ u, t.hop h.id = some u
          ∧ u.counts = h.counts ++ [(p.gang, BitVec.ofNat 32 r.abandoned, BitVec.ofNat 32 r.skipped)]))
    ∧ (∀ f, h.instr = .wlins f →
      let r := (List.range 32).foldl (fun (x : WList × BitVec 6) i => if p.act.getLsbD i then
          let o := x.1.offer (bw h.blk (42 + i)) (h.blk.getD (10 + i) 0, h.blk.getD (74 + i) 0)
          (o.1, x.2 ||| o.2) else x) (g.list (f.x 23 23), 0)
      runs (fun t => only t ∧ lists t (f.x 23 23) r.1 ∧ (t.gang p.gang).sticky = g.sticky ||| r.2))
    ∧ (∀ f, h.instr = .wlst f → runs (fun t =>
      (t.crew h.crew).readScr (bw h.blk 0) 4176 = (g.list (f.x 23 23)).image
      ∧ stores t (fun a => bw h.blk 0 ≤ a ∧ a < bw h.blk 0 + 4176) ∧ onStores t))
    ∧ (∀ f img, h.instr = .wlld f → img = { headList h.blk with
          ent := entriesMap (imageEntries (w.readScr (bw h.blk 0) 4176)) } → img.orderly = true →
      runs (fun t => only t ∧ lists t (f.x 23 23) img))
    ∧ (∀ f img, h.instr = .wlmrg f → img = (⟨bits (bw h.blk 10) 1 0, bits (bw h.blk 10) 7 2 + 1, (bw h.blk 10).testBit 8,
          h.blk.getD 11 0, entriesMap (imageEntries (w.readScr (bw h.blk 0) 4176))⟩ : WList) → img.orderly = true →
      let r := (g.list (f.x 23 23)).merge (h.blk.getD 11 0) (imageEntries (w.readScr (bw h.blk 0) 4176))
      runs (fun t => only t ∧ lists t (f.x 23 23) r.1 ∧ (t.gang p.gang).sticky = g.sticky ||| r.2))
    ∧ (∀ f, h.instr = .wlget f →
      let l := g.list (f.x 23 23)
      let e (i : Nat) : Option (Word × Word) :=
        let j := 32 * f.x 15 15 + i
        let at_ := if f.x 22 22 = 1 then (f.x 21 16, j) else (j, f.x 21 16)
        if at_.1 < l.rows ∧ at_.2 < l.len then l.entry (at_.1 * l.len + at_.2) else none
      runs (fun t => only t ∧ onVectors t
        ∧ (∀ r, ∀ i < 32, ¬(f.vd.val ≤ r ∧ r < f.vd.val + 3 ∧ p.act.getLsbD i = true) → (t.gang p.gang).rv r i = g.rv r i)
        ∧ (∀ r, (t.gang p.gang).tag r = if r = f.vd.val then (if l.isInt then .s32 else .f32)
            else if r = f.vd.val + 1 ∨ r = f.vd.val + 2 then .n32 else g.tag r)
        ∧ ∀ i < 32, p.act.getLsbD i = true →
        (t.gang p.gang).rv f.vd.val i = ((e i).map (·.1)).getD (if l.isInt then 0x80000000 else 0xFF800000)
        ∧ (t.gang p.gang).rv (f.vd.val + 1) i = ((e i).map (fun x => l.base + x.2)).getD 0xFFFFFFFF
        ∧ (t.gang p.gang).rv (f.vd.val + 2) i = if (e i).isSome then 1 else 0))
    ∧ ∀ f, h.instr = .wlthr f →
      let l := g.list (f.x 23 23)
      let none_ : Word := if l.isInt then 0x80000000 else 0xFF800000
      runs (fun t => only t ∧ onVectors t
        ∧ (∀ r, ∀ i < 32, ¬(f.vd.val ≤ r ∧ r < f.vd.val + 2 ∧ p.act.getLsbD i = true) → (t.gang p.gang).rv r i = g.rv r i)
        ∧ (∀ r, (t.gang p.gang).tag r = if r = f.vd.val then (if l.isInt then .s32 else .f32)
            else if r = f.vd.val + 1 then .n32 else g.tag r)
        ∧ ∀ i < 32, p.act.getLsbD i = true →
        let row := 32 * f.x 15 15 + i
        (t.gang p.gang).rv f.vd.val i = (if row < l.rows then (((l.row row)[l.k - 1]?).map (·.1)).getD none_ else none_)
        ∧ (t.gang p.gang).rv (f.vd.val + 1) i = if row < l.rows then BitVec.ofNat 32 (l.row row).length else 0)

/-- R47, R48, R84, R85, R86: a clause is checked, starts once its wait flags are clear and its set-flags are busy from then
on, and retires when its last instruction has issued; a clause that fails its check traps: with cause 0x06 where it does
not lie in the lane section, with 0x02 where it has no header, and with 0x01 at a word of a reserved encoding (R191). -/
def Obligations.ClauseEvents : Prop :=
  ∀ (k : Nat) (c : Clause) (cs : List Clause) (s : State), (s.gang k).clauses = c :: cs → s.live k = true →
    let g := s.gang k
    let only (t : State) : Prop := (∀ j, j ≠ k → t.gang j = s.gang j) ∧ t = { s with gangs := t.gangs }
    let w := s.crew g.crew
    let traps (cause i : Nat) : Prop := ∀ hd, w.handler = some hd → g.trap.handler = false → g.wait = .none →
      ∃ t, exec (.clauseCheck k) s = .next t ∧ (t.gang k).clauses = [] ∧ (t.gang k).pc = BitVec.ofNat 32 hd
        ∧ (t.gang k).trap = ⟨BitVec.ofNat 32 (cause + 512 + 1024 * (cs.length + 1)), BitVec.ofNat 32 c.off,
            BitVec.ofNat 32 i, 0, 0, g.trap.tcount + 1, true⟩ ∧ s.SameBytes t
    (c.checked = false → ∀ h body, s.readClause w c.off = .ok h body →
      ∃ t, exec (.clauseCheck k) s = .next t ∧ only t
        ∧ t.gang k = { g with clauses :=
            { c with checked := true, wait := h.wait, setA := h.setA, setB := h.setB, body := body } :: cs })
    ∧ (c.checked = false → ∀ cause i, s.readClause w c.off = .trap cause i → traps cause i)
    ∧ (c.checked = false → w.laneSize < c.off + 12 → traps 6 0)
    ∧ (c.checked = false → c.off + 12 ≤ w.laneSize → ∀ hb, s.readV w.asid (w.laneBase + c.off) 12 = some hb →
      let n := leNat hb / 2 ^ 62 % 64 + 1
      (leNat hb / 2 ^ 88 ≠ 0xFF → traps 2 0)
      ∧ (leNat hb / 2 ^ 88 = 0xFF → c.off + 12 + 12 * n ≤ w.laneSize → ∀ h bb i word, decodeHeader (leNat hb) = some h →
        s.readV w.asid (w.laneBase + c.off + 12) (12 * n) = some bb → (∀ x ∈ laneWords n bb, item3 h x = false) →
        (laneWords n bb)[i]? = some word → (∀ e, decodeLane word ≠ .ok e) →
        (∀ j < i, ∀ x, (laneWords n bb)[j]? = some x → ∃ e, decodeLane x = .ok e) → traps 1 (i + 1)))
    ∧ (c.checked = true → c.started = false → (∀ i < 12, c.wait.getLsbD i = true → (g.flag i).busy = false) →
      ∃ t, exec (.clauseStart k) s = .next t ∧ only t
        ∧ t.gang k = { g with clauses := { c with started := true } :: cs, flags := (t.gang k).flags }
        ∧ ∀ i < 12, ((t.gang k).flag i).busy = ((g.flag i).busy || i == c.setA || i == c.setB))
    ∧ (c.started = true → c.body.length ≤ c.next → g.trapWait = none →
      ∃ t, exec (.clauseRetire k) s = .next t ∧ only t
        ∧ t.gang k = { g with clauses := cs, flags := (t.gang k).flags, sWait := (t.gang k).sWait }
        ∧ ∀ i < 12, (t.gang k).flag i = if c.setA = c.setB then (t.gang k).flag i
            else { g.flag i with clauses := (g.flag i).clauses - if i = c.setA ∨ i = c.setB then 1 else 0 })

/-- R154, R156, R176: the head of a store queue that may leave goes out with the next number; a scratchpad store, and one
through a window of its own core, is performed at the bank as it leaves; no other byte changes. -/
def Obligations.QueueEntriesLeave : Prop :=
  ∀ (k : Nat) (o : Op) (rest : List Op) (s : State), s.queue k = o :: rest → s.mayLeave k o = true →
    let bank (c off : Nat) (data : List Byte) : Prop := ∃ t, exec (.storeQueueEntryLeave k) s = .next t
      ∧ (∀ a, (t.crew c).readScr a 1 = if off ≤ a ∧ a < off + data.length then [data.getD (a - off) 0]
          else (s.crew c).readScr a 1)
      ∧ (∀ d, d ≠ c → t.crew d = s.crew d)
      ∧ ∀ a, t.readPhys a 1 = s.readPhys a 1 ∧ t.readHost a 1 = s.readHost a 1 ∧ t.readPeer a 1 = s.readPeer a 1
    (o.scr = false → o.els ≠ [] → (∀ e ∈ o.els, o.kind.memory = true → ownWin o e = false) →
      ∃ t, exec (.storeQueueEntryLeave k) s = .next t
        ∧ t.op o.id = some
          { o with stage := .sent, left := s.nextOp, seen := if o.seen = 0 then s.nextOp else o.seen,
                   leftCores := slotCore k :: o.leftCores.filter (fun x => x != slotCore k) }
        ∧ s.SameBytes t)
    ∧ (o.scr = true → o.kind = .store → ∀ e, o.els = [e] → e.open_ = true → bank o.crew e.addr.toNat e.data)
    ∧ (o.scr = false → o.kind = .store → ∀ e, o.els = [e] → e.st = .todo → ownWin o e = true → s.windowCause o e = none →
      bank (s.gang (winSlot e.addr.toNat)).crew (bits e.addr.toNat 20 0) e.data)

/-- R166, R168, R169, R175, R176, R278-R280, R291, R292: an access of one element at a slice of this device, admitted and
translated: a load returns the bytes that lie there, a store replaces them, an atomic returns the old value and leaves the
one of its row of Table 7-4, a compare-and-swap writes where it matches, a signal writes its payload and then adds to its
counter. A write to a shared page, or to a page that is busy with one, parks; an absent page faults with cause 0x08 and
registers its crew; a page that does not permit the access traps with 0x07. A prefetch brings the line of an address that
translates, with opx[34] clear into the L1 of its core (R174). -/
def Obligations.SliceAccesses : Prop :=
  (∀ p ∈ atomRows, ∀ a b : Word, atomNew p.1 32 a.toNat b.toNat = ((p.2 a b).toNat, 0))
  ∧ (∀ (op i d n : Nat) (o : Op) (e : El) (ch : Choice) (s s1 : State), s.elAt op i = some (o, e) →
    o.els.length = (match o.kind with | .sendsig _ => 2 | _ => 1) → 0 < o.width → homeOf e.addr.toNat = some (.die d) →
    let va := e.addr.toNat
    let off := va % 2 ^ 50
    let key := busyKey o.asid d off
    let w0 := waiterOf o (s.group o i) (d * 64 + sliceOf va)
    s.admit1 w0 = (some n, s1) →
    let tr (write : Bool) := ((s1.pass w0).slicePte d (sliceOf va) o.asid off write ch.tlbHit ch.tlbFill).1.tr off write
    let runs (P : State → Prop) : Prop := ∃ t, exec (.sliceAccess op i ch) s = .next t ∧ P t
    let faults (b z : Nat) (t : State) : Prop := s.SameBytes t ∧ (∃ p x, t.op op = some p ∧ p.els[i]? = some x ∧ x.st = .faulted)
      ∧ ⟨o.crew, .page o.asid d b z⟩ ∈ t.quay.regs
    let traps (t : State) : Prop := s.SameBytes t ∧ ∃ r, (t.gang o.gang).reports = (s.gang o.gang).reports ++ [r] ∧ r.2.cause = 7
      ∧ r.2.deferred = true ∧ r.2.addr = e.addr
    (o.kind = .load → s1.parkedOver key va o.width n = false → (o.scope.code ≤ 2 → s.leftStore o e = false) →
      (if s.arrived op [i] then ∀ x ∈ s.fwdOf o e, x = .none
       else (∀ x ∈ s.forward o e, x = .none) ∧ s.l1Serve o e ch.l1Hit = none ∧ s.noRoom (s.coreOf o) 1 = false) →
      (∀ pa kd, tr false = .ok pa kd → runs (fun t => Returned t op (s.readPhys pa o.width) ∧ s.SameBytes t))
      ∧ (∀ b z, tr false = .absent b z → (s.crew o.crew).phase ≠ .ended → runs (faults b z))
      ∧ (tr false = .perm → (s.gang o.gang).phase = .running → runs traps))
    ∧ (o.kind.isLoad = false → s1.fetching o.asid va o.width = false → s1.counterCause o i = none → o.frameAt va = none →
      let w : ParkedWrite := ⟨o.crew, op, i, va, natLE o.width 0, false, false, 0, s1.arrival⟩
      let parks (b : Busy) (t : State) : Prop := s.SameBytes t ∧ t.busyPage key = some b
        ∧ t.op op = some { o with els := o.els.set i { e with st := .parked } }
      (∀ b, s1.busyPage key = some b → runs (parks { b with writes := b.writes ++ [w] }))
      ∧ (s1.busyPage key = none →
        (∀ pa, tr true = .ok pa kCow → runs (parks ⟨key, false, [w]⟩))
        ∧ (∀ b z, tr true = .absent b z → o.els.length = 1 → (s.crew o.crew).phase ≠ .ended → runs (faults b z))
        ∧ (tr true = .perm → o.els.length = 1 → (s.gang o.gang).phase = .running → runs traps)
        ∧ ∀ pa kd, tr true = .ok pa kd → kd ≠ kCow →
          (o.kind = .store → runs (fun t => WritesBytes s t pa e.data))
          ∧ (∀ aop wide, o.kind = .atom aop wide → o.width = widthBytes wide →
            let r := atomNew aop (8 * o.width) (leNat (s.readPhys pa o.width)) (leNat e.data)
            runs (fun t => Returned t op (s.readPhys pa o.width) ∧ WritesBytes s t pa (natLE o.width r.1)
              ∧ ((s.gang o.gang).phase ≠ .absent → (t.gang o.gang).sticky = (s.gang o.gang).sticky ||| r.2)))
          ∧ (∀ wide (x y : Dword), o.kind = .cas wide → o.width = widthBytes wide →
            e.data = natLE o.width x.toNat ++ natLE o.width y.toNat →
            runs (fun t => Returned t op (s.readPhys pa o.width) ∧ WritesBytes s t pa
              (if leNat (s.readPhys pa o.width) = x.toNat % 2 ^ (8 * o.width) then natLE o.width y.toNat
               else s.readPhys pa o.width)))
          ∧ ∀ inc, o.kind = .sendsig inc → o.width = 8 →
            (e.lane = 0 → runs (fun t => WritesBytes s t pa e.data))
            ∧ (e.lane ≠ 0 → runs (fun t => WritesBytes s t pa (natLE 8 ((leNat (s.readPhys pa 8) + inc) % 2 ^ 64)))))))
  ∧ ∀ (op i d pa kd : Nat) (o : Op) (e : El) (ch : Choice) (s s1 : State), s.op op = some o → o.kind = .prf → o.stage = .sent →
    o.scope.code ≤ 2 → o.els[i]? = some e → e.st = .todo → homeOf e.addr.toNat = some (.die d) → (∀ k, (s.gang k).fences = []) → s.goesOut o [i] = true →
    s.admitted ⟨d * 64 + sliceOf e.addr.toNat, o.asid, op, 0, i, 2, 0⟩ = (true, s1) →
    s1.look o.asid d e.addr.toNat false = .ok pa kd →
    ∃ t, exec (.sliceAccess op i ch) s = .next t ∧ s.SameBytes t
      ∧ (o.arg.headD 0 = 0 → ∃ x ∈ t.l1, x.core = s.coreOf o ∧ x.asid = o.asid ∧ x.line = e.addr.toNat / 128 * 128)
      ∧ (o.arg.headD 0 ≠ 0 → t.l1 = s.l1)

/-- R154, R155, R170, R367: an access of one element through a window and at the host: the host's add and exchange are
performed, and every other atomic, and an access that the host refuses, traps with cause 0x07. -/
def Obligations.WindowAndHostAccesses : Prop :=
  ∀ (op : Nat) (o : Op) (e : El) (s : State), s.elAt op 0 = some (o, e) → o.els = [e] →
    (∀ x ∈ s.forward o e, x = .none) →
    let va := e.addr.toNat
    let k := winSlot va
    let c := (s.gang k).crew
    let off := bits va 20 0
    let traps (t : State) : Prop := s.SameBytes t ∧ ∃ r, (t.gang o.gang).reports = (s.gang o.gang).reports ++ [r] ∧ r.2.cause = 7
    let goes : Prop := if homeOf va = some .window ∧ ownWin o e = true then s.olderCore o = false else s.noRoom (s.coreOf o) 1 = false
    (homeOf va = some .window → s.windowCause o e = none → va.testBit 35 = true →
      (o.kind = .load → goes →
        ∃ t, exec (.windowAccess op 0) s = .next t ∧ Returned t op ((s.crew c).readScr off o.width)
        ∧ s.SameBytes t)
      ∧ (o.kind = .store → ∃ t, exec (.windowAccess op 0) s = .next t
        ∧ (∀ a, (t.crew c).readScr a 1 = if off ≤ a ∧ a < off + e.data.length then [e.data.getD (a - off) 0]
            else (s.crew c).readScr a 1) ∧ ∀ j, j ≠ c → t.crew j = s.crew j))
    ∧ (homeOf va = some .window → s.windowCause o e = none → va.testBit 35 = false → bits va 4 0 = 0 →
      (o.kind = .load → o.width = 4 → goes → ∃ t, exec (.windowAccess op 0) s = .next t
        ∧ Returned t op (natLE 4 ((s.gang k).rv (bits va 17 10) (bits va 9 5)).toNat) ∧ s.SameBytes t)
      ∧ (o.kind = .store → e.data.length = 4 → ∃ t, exec (.windowAccess op 0) s = .next t ∧ s.SameBytes t
        ∧ ∀ r, ∀ l < 32, (t.gang k).rv r l = if r = bits va 17 10 ∧ l = bits va 9 5
            then BitVec.ofNat 32 (leNat e.data) else (s.gang k).rv r l))
    ∧ (∀ cause, homeOf va = some .window → s.windowCause o e = some cause → o.kind = .load ∨ o.kind = .store →
      (o.kind = .load → goes) → (s.gang o.gang).phase = .running →
      ∃ t r, exec (.windowAccess op 0) s = .next t ∧ s.SameBytes t
        ∧ (t.gang o.gang).reports = (s.gang o.gang).reports ++ [r] ∧ r.2.cause = cause)
    ∧ (homeOf va = some .host →
      let host (t : State) (bs : List Byte) : Prop :=
        (∀ a, t.readHost a 1 = if va % 2 ^ 50 ≤ a ∧ a < va % 2 ^ 50 + bs.length
            then [bs.getD (a - va % 2 ^ 50) 0] else s.readHost a 1)
        ∧ ∀ a, t.readPhys a 1 = s.readPhys a 1 ∧ t.readPeer a 1 = s.readPeer a 1
      (o.kind = .load → goes → ∃ t, exec (.hostAccessCompletion op 0 false) s = .next t
        ∧ Returned t op (s.readHost (va % 2 ^ 50) o.width) ∧ s.SameBytes t)
      ∧ (o.kind = .store → ∃ t, exec (.hostAccessCompletion op 0 false) s = .next t ∧ host t e.data)
      ∧ (∀ aop wide, o.kind = .atom aop wide → o.width = widthBytes wide → aop = .add ∨ aop = .xchg →
        ∃ t, exec (.hostAccessCompletion op 0 false) s = .next t ∧ Returned t op (s.readHost (va % 2 ^ 50) o.width)
          ∧ host t (natLE o.width (atomNew aop (8 * o.width) (leNat (s.readHost (va % 2 ^ 50) o.width)) (leNat e.data)).1))
      ∧ (∀ refused, (s.gang o.gang).phase = .running → o.kind = .load ∨ o.kind = .store ∨ (∃ aop wide, o.kind = .atom aop wide) →
        refused = true ∨ (∃ aop wide, o.kind = .atom aop wide ∧ aop ≠ .add ∧ aop ≠ .xchg) → (o.kind = .load → goes) →
        ∃ t, exec (.hostAccessCompletion op 0 refused) s = .next t ∧ traps t))

/-- R83, R86, R87, R156, R157, R171, R220, R347: results return: a scalar register or a pair is written and is pending no
longer, a store's acknowledgement ends it, a lane load writes the lanes that it read with its tag and frees its registers,
one from scratchpad reads the bank as it completes, a hearth instruction frees its own, and a sleeping `mwait` whose word has changed, or
that waits on host memory, reads again. The counts of an `mxtopk` reach their registers in the turn in which its attached flag is
clear, unless those of one that its gang issued later stand there (Table 5-5). A load at core scope returns once the older loads of its
stream at that scope have been performed (the model's reading of R179, log 12). -/
def Obligations.ResultsReturn : Prop :=
  (∀ (op : Nat) (o : Op) (s : State), s.op op = some o →
    let g := s.gang o.gang
    let bare (l : List Op) : List Op := l.map (fun (p : Op) => { p with head := 0 })
    let gone (t : State) : Prop := bare t.ops = bare (s.ops.filter (fun p => p.id != op)) ∧ s.SameBytes t
    let loads (l : List Op) : List Op := (bare l).map (fun (p : Op) => if p.kind = .load then { p with status := 0 } else p)
    (∀ r bs, o.lane = false → o.dst = .sreg r → o.stage = .ready → (∀ c, o.kind ≠ .mwait c) → s.answer o = none →
      s.resultWaits o = false → o.value = some bs → ∃ t, exec (.scalarResultReturn op) s = .next t ∧ gone t
        ∧ (∀ x, (t.gang o.gang).rs x = if x = r then written r (BitVec.ofNat 32 (leNat bs)) else g.rs x)
        ∧ (t.gang o.gang).spend = g.spend.filter (· != r))
    ∧ (∀ r bs, o.lane = false → o.dst = .pair r → r ≠ 0 → o.stage = .ready → (∀ c, o.kind ≠ .mwait c) → s.answer o = none →
      s.resultWaits o = false → o.value = some bs → ∃ t, exec (.scalarResultReturn op) s = .next t ∧ gone t
        ∧ (t.gang o.gang).rp r = BitVec.ofNat 64 (leNat bs)
        ∧ (∀ x, x ≠ r → x ≠ r + 1 → (t.gang o.gang).rs x = g.rs x)
        ∧ (t.gang o.gang).spend = g.spend.filter (fun x => x != r && x != r + 1))
    ∧ (∀ l r id, o.lane = false → o.kind = .jcount l → o.dst = .pair r → r ≠ 0 → (o.arg.getD 0 0).toNat = id → id < 65536 →
      s.acqDone o.gang o.id = true → ∃ t, exec (.scalarResultReturn op) s = .next t ∧ gone t
        ∧ (t.gang o.gang).rp r = BitVec.ofNat 64 (s.counter o.asid l.code id))
    ∧ (o.inQ = true → o.stage = .ready → o.dst = .none → ∃ t, exec (.storeAck op) s = .next t ∧ gone t
        ∧ ∀ k, t.gang k = { s.gang k with fences := (t.gang k).fences, parked := (t.gang k).parked })
    ∧ (∀ r n ty, o.lane = true → o.scr = false → o.kind = .load → o.dst = .vreg r n ty → o.stage = .ready →
      s.resultWaits o = false → (∀ e ∈ o.els, e.st = .done) → ∃ t, exec (.laneOpComplete op) s = .next t ∧ gone t
        ∧ (∀ x, ∀ l < 32, (t.gang o.gang).rv x l =
            match (if r ≤ x ∧ x < r + n then o.els.find? (fun e => e.lane == l) else none) with
            | some e => BitVec.ofNat 32 (leNat ((e.res.drop (4 * (x - r))).take 4))
            | none => g.rv x l)
        ∧ (∀ x, (t.gang o.gang).tag x = if r ≤ x ∧ x < r + n then ty else g.tag x)
        ∧ ∀ x ∈ (t.gang o.gang).vpend, ¬(r ≤ x ∧ x < r + n))
    ∧ (∀ r n ty, o.lane = true → o.scr = true → o.kind = .load → o.dst = .vreg r n ty → s.scrReady o = true →
      s.resultWaits o = false → o.width = 4 * n → (∀ e ∈ o.els, ∀ x ∈ s.forward o e, x = .none) →
      ∃ t, exec (.laneOpComplete op) s = .next t ∧ loads t.ops = loads (s.ops.filter (fun p => p.id != op)) ∧ s.SameBytes t
        ∧ ∀ x, ∀ l < 32, (t.gang o.gang).rv x l =
            match (if r ≤ x ∧ x < r + n then o.els.find? (fun e => e.lane == l) else none) with
            | some e => BitVec.ofNat 32 (leNat ((s.crew o.crew).readScr (e.addr.toNat + 4 * (x - r)) 4))
            | none => g.rv x l))
  ∧ (∀ (op : Nat) (h : HOp) (s : State), s.op op = none → s.hop op = some h → h.stage = .over → s.hLater h = false →
      h.lost = [] → ∃ t, exec (.laneOpComplete op) s = .next t ∧ t.hops = s.hops.filter (fun x => x.id != h.id) ∧ s.SameBytes t
        ∧ (∀ p ∈ h.parts, ∀ x ∈ (t.gang p.gang).vpend, x ∉ h.dsts)
        ∧ ∀ f p c, h.instr = .mxtopk f → h.parts = [p] → h.taint = [] → h.counts = [(p.gang, c)] →
          t.tails = s.tails ++ [⟨h, p, []⟩] ∧ (t.gang p.gang).abandoned = (s.gang p.gang).abandoned
            ∧ (t.gang p.gang).skipped = (s.gang p.gang).skipped)
  ∧ (∀ (h : HOp) (f : LaneWord) (p : HPart) (c : Word × Word) (s : State), s.tails = [⟨h, p, []⟩] → h.instr = .mxtopk f →
      h.taint = [] → h.counts = [(p.gang, c)] →
      let g := s.gang p.gang
      ((∃ i, p.flag = some i ∧ (g.flag i).busy = true) → (settled (.next s) : Res) = .next s)
      ∧ ((∀ i, p.flag = some i → (g.flag i).busy = false) → ∃ t, (settled (.next s) : Res) = .next t ∧ t.tails = []
        ∧ t = { s with tails := [], gangs := t.gangs } ∧ (∀ k, k ≠ p.gang → t.gang k = s.gang k)
        ∧ t.gang p.gang = if g.topkAt ≤ p.seq then { g with abandoned := c.1, skipped := c.2, topkAt := p.seq } else g))
  ∧ ∀ (k : Nat) (o : Op) (e : El) (s : State), s.asleep k = some (o, e) →
      let again (i : Instr) : Prop := ∃ t, exec i s = .next t ∧ s.SameBytes t
        ∧ t.op o.id = some { o with stage := .sent, head := s.nextOp, els := o.els.map (fun (x : El) => { x with st := .todo, data := [] }) }
      (s.peek o.asid e.addr.toNat 8 ≠ some e.res → again (.mwaitRecheck k))
      ∧ (homeOf e.addr.toNat = some .host → again (.mwaitPollTimeout k))

/-- R119, R191-R196, R201, R223, R231, R352: a gang takes a deferred trap, of those that reached it in the first cycle the one whose
instruction issued first, and once that cycle has ended (the model's choice, log 11); it leaves the destinations of its hearth
instructions that have begun undefined. Its `taddr` is zero but for the causes of Table 9-2, and for the offset of a bad layout
record of the crane (R265 as the model reads it, log 14). A stopped crew leaves nothing behind but its puts to peers, what acts outside it
and writes parked at pages that get a frame; its stop record waits to be posted and its launch counts it as ended. The slot of an
exited gang is freed once its store queue has drained; what it has issued beside its queue goes on under a key of no slot (the
model's choice, log 25). A crew of which nothing is left ends. -/
def Obligations.TrapsAndEnds : Prop :=
  (∀ (k hd : Nat) (r0 rp : Nat × TrapInfo) (rs : List (Nat × TrapInfo)) (s : State),
    let g := s.gang k
    let r := rp.2
    let same := (r0 :: rs).takeWhile (fun x => x.1 == r0.1)
    g.reports = r0 :: rs → rp ∈ same →
    (r.issue ≠ 0 ∧ (∀ x ∈ same, x = rp ∨ x.2.issue = 0 ∨ r.issue < x.2.issue) ∨ rp = r0 ∧ ∀ x ∈ same, x.2.issue = 0) →
    r0.1 ≠ Map.get 0 s.cycles (slotDie k) → g.phase = .running → g.wait = .none → (s.crew g.crew).alive = true →
    (s.crew g.crew).handler = some hd → g.trap.handler = false →
    ∃ t, exec (.deferredTrapTake k) s = .next t ∧ (t.gang k).reports = [] ∧ (t.gang k).clauses = []
      ∧ (t.gang k).pc = BitVec.ofNat 32 hd ∧ (t.gang k).parked = false ∧ s.SameBytes t
      ∧ (t.gang k).trap = ⟨BitVec.ofNat 32 (r.cause + (if r.deferred then 256 else 0) + (if r.lane then 512 else 0)
          + 1024 * g.clauses.length), r.pc, r.info, r.lanes,
          if r.cause ∈ [5, 6, 7, 9, 0x0A, 0x0B, 0x0C, 0x14] ∨ r.cause = 1 ∧ r.source % 8 = 3 then r.addr else 0,
          g.trap.tcount + 1, true⟩
      ∧ (t.gang k).sreg = g.sreg ∧ (t.gang k).vreg = g.vreg ∧ (t.gang k).preg = g.preg ∧ (t.gang k).cc = g.cc
      ∧ (r.deferred = true → ∀ h ∈ s.hops, h.begun = true → (∃ p ∈ h.parts, p.gang = k) →
          { h with lost := h.lost ++ [k] } ∈ t.hops))
  ∧ (∀ (c : Nat) (i : StopInfo) (s : State),
    let w := s.crew c
    w.stop = some i → w.phase = .stopping → (∀ o ∈ s.ops, o.crew = c → s.opRests o = true) →
    (∀ h ∈ s.hops, h.crew ≠ c) → w.ring.cmds = [] →
    ∃ t, exec (.crewStop c) s = .next t ∧ t.crew c = { Crew.empty with core := (t.crew c).core } ∧ (∀ k ∈ w.slots, t.gang k = Gang.empty)
      ∧ (t.ring w.asid).pending.length = (s.ring w.asid).pending.length + (if i.record then 1 else 0)
      ∧ (∀ o ∈ t.ops, o.crew = c → s.isPut o.id = true ∨ o.kind = .kdrop ∨ (∃ l, o.kind = .jcancel l)
          ∨ o.dst = .none ∧ ∀ i e, o.els[i]? = some e → e.st = .dropped
            ∨ ∃ b ∈ s.quay.busy, b.waiting = false ∧ ∃ x ∈ b.writes, x.op = o.id ∧ x.el = i)
      ∧ ∀ l, s.launch w.launch = some l → ∃ m, t.launch w.launch = some m ∧ m.ended = l.ended + 1
          ∧ (i.error = true → m.error = true))
  ∧ (∀ (k : Nat) (s : State),
    let g := s.gang k
    let w := s.crew g.crew
    let far (e : El) : Prop := ∃ p, homeOf e.addr.toNat = some (.peer p)
    let put (o : Op) : Prop := w.d 497 497 = 0 ∧ (o.stage = .sent ∨ o.stage = .ready) ∧ (∃ e ∈ o.els, far e)
      ∧ ∀ e ∈ o.els, e.st ≠ .faulted ∧ (far e ∨ e.st = .done ∨ e.st = .dropped)
    k < 16384 → g.phase = .exited → w.alive = true → (∀ o ∈ s.ops, o.gang = k → o.inQ = true → put o) →
    ∃ t key, exec (.gangSlotFree k) s = .next t ∧ t.gang k = Gang.empty ∧ k ∉ (t.crew g.crew).slots
      ∧ (∀ o ∈ t.ops, o.gang ≠ k) ∧ (∀ h ∈ t.hops, ∀ p ∈ h.parts, p.gang ≠ k)
      ∧ 16384 ≤ key ∧ (∀ o ∈ s.ops, o.gang = k → o.inQ = false → { o with gang := key } ∈ t.ops) ∧ s.SameBytes t
      ∧ ∀ o ∈ s.ops, o.gang = k → o.inQ = true → (o.id, levelKey w.asid 3 (w.d 495 480)) ∈ t.puts)
  ∧ ∀ (c : Nat) (l : Launch) (s : State),
    let w := s.crew c
    w.alive = true → (∀ k ∈ w.slots, (s.gang k).phase = .absent) → w.ring.cmds = [] →
    (w.ringLen = 0 ∨ w.ring.notify ≤ w.ring.consumed) → s.launch w.launch = some l →
    ∃ t, exec (.crewEnd c) s = .next t ∧ t.crew c = { Crew.empty with core := (t.crew c).core }
      ∧ t.launch w.launch = some { l with ended := l.ended + 1 }

/-- R11, R197, R199, R200, R202-R206, R365, Table 9-4: a faulted operation is logged in its gang with its destinations marked,
and its records wait to be posted, also while the log is full; with no page missing the logs are replayed in place, in log order
and one entry at a time; a record is posted to the fault ring at its place, then its stamp with its cause entry; a crew that is halted and
at rest leaves its core, its scratchpad and scalar registers in its save image, and one that is out takes the core that is chosen for
it, with an empty L1. That an entry of a log waits until the one before it has been performed, and that the save image is kept aside and no
byte of device memory changes, is the model's reading (log 27). -/
def Obligations.FaultsAndReplay : Prop :=
  (∀ (op : Nat) (o : Op) (s : State), s.op op = some o → o.faulted = true → s.tried o = true → o.stage = .sent →
    o.kind.gathers = false → (s.gang o.gang).logged op = false → s.logUse (o.gang / 16) < 64 →
    ∃ t, exec (.faultReport op) s = .next t ∧ (t.gang o.gang).log = (s.gang o.gang).log ++ [op]
      ∧ (t.gang o.gang).vfault = (s.gang o.gang).vfault ++ o.vregs
      ∧ (t.gang o.gang).sfault = (s.gang o.gang).sfault ++ o.dst.sregs.filter (· != 0) ∧ s.SameBytes t
      ∧ t.op op = some { o with stage := if o.inQ then .queued else .sent, left := if o.inQ then 0 else o.left,
                                frames := if o.inQ then [] else o.frames,
                                els := o.els.map (fun (e : El) => if e.st == .faulted then { e with res := e.res.take 2 } else e) }
      ∧ (t.ring o.asid).pending.length = (s.ring o.asid).pending.length + (o.els.filter El.unposted).length
      ∧ ∀ k, k ≠ o.gang → t.gang k = s.gang k)
  ∧ (∀ (op : Nat) (o : Op) (s : State), s.op op = some o → o.faulted = true → s.tried o = true → o.stage = .sent →
    o.kind.gathers = false → (s.gang o.gang).logged op = false → 64 ≤ s.logUse (o.gang / 16) →
    ∃ t, exec (.faultReport op) s = .next t ∧ t.gangs = s.gangs ∧ s.SameBytes t
      ∧ t.op op = some { o with els := o.els.map (fun (e : El) => if e.st == .faulted then { e with res := e.res.take 2 } else e) }
      ∧ (t.ring o.asid).pending.length = (s.ring o.asid).pending.length + (o.els.filter El.unposted).length)
  ∧ (∀ (c : Nat) (s : State),
    let w := s.crew c
    w.phase = .resident →
    (s.missing c = 0 → (∃ k ∈ s.gangsOf c, (s.gang k).log ≠ []) → (∀ k ∈ s.gangsOf c, (s.gang k).replay = []) → w.slots.Nodup →
      ∃ t, exec (.replayInPlace c) s = .next t ∧ s.SameBytes t
        ∧ ∀ k ∈ s.gangsOf c, (t.gang k).log = [] ∧ (t.gang k).parked = false ∧ (t.gang k).replay = (s.gang k).log
          ∧ ∀ id l o, (s.gang k).log = id :: l → s.op id = some o → o.faulted = true →
              ∃ h, t.op id = some { o with
                stage := if o.inQ then .queued else .sent, head := h, left := if o.inQ then 0 else o.left
                frames := if o.inQ then [] else o.frames
                els := o.els.map (fun (e : El) =>
                  let f : El := if e.st == .faulted then { e with st := .todo, res := [] } else e
                  if !o.inQ && o.kind.isLoad && f.st == .todo then { f with data := [] } else f) })
    ∧ ∀ k id l, s.gangsOf c = [k] → (s.gang k).replay = id :: l →
      ∃ t, exec (.replayInPlace c) s = .next t ∧ s.SameBytes t
        ∧ (t.gang k).replay = (if s.replayed k id then l else id :: l))
  ∧ (∀ (asid : Nat) (r : BitVec 256) (rs : List (BitVec 256)) (s : State),
    let q := (s.ring asid).seq + 1
    let n := 2 ^ (s.ctxField asid 93 90 + 6)
    let a := (s.ctxField asid 255 192 + 32 * (q % n)) % 2 ^ 64
    (s.ring asid).pending = r :: rs →
    (∀ bs s1, (s.ring asid).wrote = false → s.engRead (deviceWriter asid) (s.ctxField asid 383 320) 8 = (.done, bs, s1) →
      (q + 2 ^ 64 - leNat bs) % 2 ^ 64 < n →
      Puts s asid a (natLE 32 r.toNat) (fun _ => True) (fun _ => False) (exec (.faultRingPost asid) s)
        (fun t => t.ring asid = ⟨q - 1, r :: rs, true⟩))
    ∧ ((s.ring asid).wrote = true → s.spanParked asid a 32 = false →
      Puts s asid (s.ctxField asid 319 256) (natLE 8 q) (fun _ => True) (causeByte s) (exec (.faultRingPost asid) s)
        (fun t => t.ring asid = ⟨q, rs, false⟩
          ∧ CauseWritten s t (if r.toNat / 2 ^ 85 % 4 = 1 then 3 else 2) 0 asid q)))
  ∧ (∀ (c : Nat) (s : State),
    let w := s.crew c
    w.phase = .halting → (∀ k ∈ w.slots, s.takes k = false) → (∀ o ∈ s.ops, o.crew = c → s.opRests o = true) →
    (∀ h ∈ s.hops, h.crew ≠ c) → w.ring.cmds = [] → s.coreReleased c w.core = true →
    ∃ t, exec (.crewSwitchOut c) s = .next t ∧ (t.crew c).phase = .out ∧ s.SameBytes t
      ∧ (∀ k ∈ w.slots, k < 16384 → (t.gang k).phase = .absent)
      ∧ (Memory.wf w.scratch = true → ∀ a < w.scrSize,
          Map.getList 0 (Map.get [] t.images c) (0x20000 + a) 1 = w.readScr a 1)
      ∧ ∀ i k r, w.slots[i]? = some k → (s.gang k).phase ≠ .absent → Map.wf (0 : Word) (s.gang k).sreg = true →
          r < 128 → (s.gang k).rs r ≠ 0 →
          Map.getList 0 (Map.get [] t.images c) (0x20000 + w.scrSize + 0x3B000 * i + 0x400 + 4 * r) 4
            = natLE 4 ((s.gang k).rs r).toNat)
  ∧ ∀ (c : Nat) (x : Nat × List Nat × Nat) (s s1 : State),
    let w := s.crew c
    let part := w.d 379 376
    w.phase = .out → (s.nextItem part).bind Item.out = some c →
    s.choose part (s.pinned w.asid) (s.outShape w) = some (x, s1) →
    ∃ t, exec (.crewRestore c) s = .next t ∧ (t.crew c).phase = .resident ∧ (t.crew c).core = x.1
      ∧ (t.crew c).scratchBase = x.2.2 ∧ (∀ l ∈ t.l1, l.core ≠ x.1) ∧ Map.get [] t.images c = [] ∧ s.SameBytes t

/-- R206, R353, R371: the pre-emption ladder of a context of a device that serves its host: it starts, the grace timer of a die
halts the context's crews there, the kill timer of a die, which runs from then, kills the context, and a resume ends the ladder. A kill cancels every launch that
is not complete and sets its error bit. A device that does not serve its host takes none of these commands. -/
def Obligations.PreemptionLadder : Prop :=
  ∀ (asid : Nat) (s : State),
    (s.served = false → exec (.startLadder asid) s = .next s ∧ exec (.resume asid) s = .next s ∧ exec (.kill asid) s = .next s)
    ∧ (s.served = true →
      (s.onLadder asid = false → ∃ t, exec (.startLadder asid) s = .next t ∧ (t.ladderOf asid).step = 1
        ∧ (∀ d < 4, Map.get 0 (t.ladderOf asid).starts d = s.now d) ∧ t.gangs = s.gangs ∧ t.crews = s.crews
        ∧ CauseWritten s t 4 1 asid 0)
      ∧ (∃ t, exec (.resume asid) s = .next t ∧ t.ladderOf asid = ⟨0, [], [], []⟩ ∧ t = { s with harb := t.harb })
      ∧ (∃ t, exec (.kill asid) s = .next t ∧ t.ladderOf asid = ⟨0, [], [], []⟩
        ∧ ∀ id l, id < 65536 → s.launch (launchKey asid id) = some l → l.isComplete = false →
            ∃ m, t.launch (launchKey asid id) = some m ∧ m.cancelled = true ∧ m.error = true))
    ∧ ∀ die < 4,
      let l := s.ladderOf asid
      (l.step ≠ 0 → die ∉ l.dies → 2 ^ s.ctxField asid 99 94 ≤ s.since l die →
        ∃ t, exec (.graceTimerExpire asid die) s = .next t ∧ (t.ladderOf asid).step = 2
          ∧ (t.ladderOf asid).dies = l.dies ++ [die] ∧ Map.get 0 (t.ladderOf asid).grace die = s.now die
          ∧ ∀ c ∈ s.crewsAt asid die, (s.crew c).phase = .resident → (t.crew c).phase = .halting)
      ∧ (die ∈ l.dies → s.crewsAt asid die ≠ [] →
        2 ^ s.ctxField asid 105 100 ≤ (s.now die + 2 ^ 64 - Map.get 0 l.grace die) % 2 ^ 64 →
        ∃ t, exec (.killTimerExpire asid die) s = .next t ∧ t.ladderOf asid = ⟨0, [], [], []⟩
          ∧ (s.served = true → exec (.kill asid) s = .next t))

/-- R277, R283, R284, R287, R288, R289, R293: the frame instructions at their slice and the units of the quay: a sparse page
takes the first free frame of its context's pool, a page that has its frame already is left as it is, and with an empty pool the
commit says so or faults; a pooled page becomes sparse and its frame is let go; a query gives the page's word or counts the pool;
a scrubbed frame reads as zero and is free; a shared page is copied before the write that waits is performed in the copy. -/
def Obligations.PagesAndFrames : Prop :=
  (∀ (op d n l e at_ : Nat) (o : Op) (el : El) (s s1 : State), s.op op = some o → o.els = [el] → s.pageTurn o el = true →
    let va := el.addr.toNat
    let key := busyKey o.asid d (va % 2 ^ 50)
    let free := s1.pageWaits key n false = false
    let w : Waiter := ⟨ctlSlice d va, o.asid, o.id, 0, 0, 1, 0⟩
    homeOf va = some (.die d) → s.admit1 w = (some n, s1) →
    s1.walk o.asid d (va % 2 ^ 50) = .leaf l e at_ →
    (∀ tr, o.kind = .pcommit tr → free → l = 3 →
      (pteKind e = kSparse →
        (∀ f s2, (s1.pass w).popFrame o.asid d = some (f, s2) →
          ∃ t, exec (.pageCommit op) s = .next t ∧ Returned t op (natLE 4 0)
            ∧ WritesBytes s t at_ (natLE 8 (mkLeaf kPooled true true f)))
        ∧ ((s1.pass w).popFrame o.asid d = none →
          (tr = true → ∃ t, exec (.pageCommit op) s = .next t ∧ Returned t op (natLE 4 2) ∧ s.SameBytes t)
          ∧ (tr = false → (s.crew o.crew).phase ≠ .ended → ∃ t o1, exec (.pageCommit op) s = .next t ∧ t.op op = some o1 ∧ o1.faulted = true ∧ s.SameBytes t
            ∧ (∃ r ∈ t.quay.regs, r = ⟨o.crew, .pool o.asid d⟩))))
      ∧ (pteKind e = kNormal ∨ pteKind e = kPooled →
        ∃ t, exec (.pageCommit op) s = .next t ∧ Returned t op (natLE 4 1) ∧ s.SameBytes t))
    ∧ (o.kind = .pdecommit → free → l = 3 →
      (pteKind e = kPooled → ∃ t, exec (.pageDecommit op) s = .next t
        ∧ Returned t op (natLE 4 (if (s.frame (pteFrame e)).count ≤ 1 then 0 else 4))
        ∧ WritesBytes s t at_ (natLE 8 (mkLeaf kSparse (pteR e) (pteW e) 0)))
      ∧ (pteKind e = kSparse → ∃ t, exec (.pageDecommit op) s = .next t ∧ Returned t op (natLE 4 1) ∧ s.SameBytes t))
    ∧ (o.kind = .pquery true → s1.pageWaits key n true = false → ∃ t, exec (.pageQuery op) s = .next t ∧ s.SameBytes t
        ∧ Returned t op (natLE 8 ((s.pool o.asid d).free.length + (s.pool o.asid d).scrub.length * 2 ^ 24)))
    ∧ (o.kind = .pquery false → s1.pageWaits key n true = false → ∃ t, exec (.pageQuery op) s = .next t ∧ s.SameBytes t
        ∧ Returned t op (natLE 8 ((if pteKind e = kSparse then 0 else pteFrame e * 2 ^ 40 + (s.frame (pteFrame e)).count * 2 ^ 16)
            + (3 - l) * 2 ^ 14 + pteKind e * 2 ^ 12 + 2 ^ 11 + (pteR e).toNat * 2 ^ 10 + (pteW e).toNat * 2 ^ 9
            + (if s.busyPage (busyKey o.asid d (va % 2 ^ 50)) = none then 0 else 2 ^ 8)))))
  ∧ (∀ (asid die f : Nat) (rest : List Nat) (s : State), die < 4 → (s.pool asid die).scrub = f :: rest →
    ∃ t, exec (.frameScrubDone asid die) s = .next t
      ∧ (t.pool asid die).free = (s.pool asid die).free ++ [f] ∧ (t.pool asid die).scrub = rest
      ∧ t.frame f = ⟨0, asid, 0, 0⟩
      ∧ ∀ a, t.readPhys a 1 = if f * 65536 ≤ a ∧ a < f * 65536 + 65536 then [0] else s.readPhys a 1)
  ∧ ∀ (page e at_ f : Nat) (b : Busy) (w : ParkedWrite) (s s1 : State), Memory.wf s.quay.mem = true →
    s.busyPage page = some b → s.midAtomic page = false → s.pageBefore page b.place = false →
    let asid := page / 2 ^ 34 / 4
    let d := page / 2 ^ 34 % 4
    let off := page % 2 ^ 34 * 65536
    s.quay.busy.find? (fun x => !x.waiting && x.key / 2 ^ 34 % 4 == d) = some b →
    s.walk asid d off = .leaf 3 e at_ → pteKind e = kCow → (s.frame (pteFrame e)).count ≠ 1 →
    s.popFrame asid d = some (f, s1) → b.writes = [w] → w.op = 0 → w.add = false →
    (at_ + 8 ≤ f * 65536 ∨ f * 65536 + 65536 ≤ at_) → w.va % 65536 + w.data.length ≤ 65536 →
    ∃ t, exec (.copyOnWrite page) s = .next t ∧ t.busyPage page = none
      ∧ t.readPhys at_ 8 = natLE 8 (mkLeaf kPooled true true f)
      ∧ ∀ x < 65536, t.readPhys (f * 65536 + x) 1 =
          if w.va % 65536 ≤ x ∧ x < w.va % 65536 + w.data.length then [w.data.getD (x - w.va % 65536) 0]
          else s.readPhys (pteFrame e * 65536 + x) 1

/-- R299-R309, R311, R312, R314: the life of a berth: a fetch takes a free berth and returns its ticket; the data land, or the
fetch faults; a redeem claims the berth or takes its data, or becomes a faulted access on it; the data are delivered to
registers, own or of another gang, or to scratchpad; a drop lets a landed berth go, and a status reads it. -/
def Obligations.Berths : Prop :=
  (∀ (op n n1 key : Nat) (tr : Bool) (life : Level) (o : Op) (e : El) (s s1 : State), s.op op = some o →
    o.kind = .fetchk tr n life → o.els = [e] → o.stage = .sent → e.st = .todo → s.acqDone o.gang o.id = true →
    s.fifoBlocked o e o.left = false →
    let sl := slOf e.addr.toNat
    s.admit1 ⟨sl, o.asid, o.id, 0, 0, units e.addr.toNat o.width, 0⟩ = (some n1, s1) →
    s1.quotaOk sl o.asid = true → s1.fetchBefore o sl = false → s1.freeSlot sl = some key →
    ∃ t, exec (.berthAccept op) s = .next t ∧ s.SameBytes t
      ∧ Returned t op (natLE 8 (s.ticket key (s.berth key).gen o.asid n life.code))
      ∧ (t.berth key).st = .pending ∧ (t.berth key).claim = .none ∧ (t.berth key).gen = (s.berth key).gen
      ∧ (t.berth key).asid = o.asid ∧ (t.berth key).addr = e.addr.toNat ∧ (t.berth key).len = o.width ∧ (t.berth key).seen = n1
      ∧ (t.gang o.gang).landing = (s.gang o.gang).landing ++ [(o.id, key, (s.berth key).gen)])
  ∧ (∀ (key n : Nat) (s s1 : State),
    let b := s.berth key
    let w : Waiter := ⟨key / 2048, b.asid, key, retryCmd, 0, units b.addr b.len, 0⟩
    b.st = .pending → b.dropped = false → b.claim = .none →
    (if b.retry then s.admit1 w = (some n, s1) else s1 = s ∧ n = b.seen) →
    s1.parkedOver (busyKey b.asid (b.addr / 2 ^ 50) (b.addr % 2 ^ 50)) b.addr b.len n = false →
    (∀ pa kd, s1.look b.asid (b.addr / 2 ^ 50) b.addr false = .ok pa kd →
      ∃ t, exec (.fetchLand key) s = .next t
        ∧ t.berth key = { b with st := .landed, data := s.readPhys pa b.len, retry := false } ∧ s.SameBytes t)
    ∧ (∀ base z, s1.look b.asid (b.addr / 2 ^ 50) b.addr false = .absent base z →
      ∃ t, exec (.fetchFault key) s = .next t ∧ (t.berth key).st = .faulted ∧ (t.berth key).cause = 8
        ∧ (t.berth key).page = (base, z) ∧ s.SameBytes t)
    ∧ (s1.look b.asid (b.addr / 2 ^ 50) b.addr false = .perm →
      ∃ t, exec (.fetchFault key) s = .next t ∧ (t.berth key).st = .faulted ∧ (t.berth key).cause = 7 ∧ s.SameBytes t))
  ∧ (∀ (op tk : Nat) (o : Op) (s s1 : State),
    let b := s1.berth (tkKey tk)
    s.goesOut o [0] = true → s.admitted (tkWaiter o tk) = (true, s1) → s1.tkInvalid tk = false → tkAsid tk = o.asid →
    (s.atSlice op (· == .kstat) = some (o, tk) → o.els.length = 1 →
      ∃ t, exec (.berthStatus op) s = .next t ∧ t.quay = s1.quay
        ∧ Returned t op (natLE 4 (if b.stale tk then 0 else (match b.st with
          | .free => 0 | .pending => 1 | .landed => 2 | .faulted => 3 + b.cause * 256)
            + (if b.claim = .none then 0 else 8))))
    ∧ (s.atSlice op (· == .kdrop) = some (o, tk) → o.els.length = 1 →
      ∃ t, exec (.berthDrop op) s = .next t ∧ Returned t op [] ∧ s.SameBytes t
        ∧ (b.stale tk = false → b.claim = .none → b.st = .landed → (t.berth (tkKey tk)).st = .free)
        ∧ (b.stale tk = true ∨ b.claim ≠ .none → t.berth (tkKey tk) = b))
    ∧ (s.atSlice op OpKind.isRedeem = some (o, tk) → (s.berth (tkKey tk)).claim ≠ .waiting op → b.stale tk = false → b.claim = .none →
      (b.st = .pending → ∃ t, exec (.redeemAtSlice op) s = .next t
        ∧ t.berth (tkKey tk) = { b with claim := .waiting op } ∧ t.ops = s.ops ∧ s.SameBytes t)
      ∧ (b.st = .landed → ∃ t h, exec (.redeemAtSlice op) s = .next t ∧ (t.berth (tkKey tk)).st = .free
        ∧ (t.berth (tkKey tk)).gen = (if b.gen = 65535 then 1 else b.gen + 1) ∧ s.SameBytes t
        ∧ t.op op = some { o with head := h, els := o.els.map (fun (e : El) => if e.lane = 0 then { e with data := b.data } else e) })
      ∧ (b.st = .faulted → b.cause = 8 → o.kind.isTry = false → (s.crew o.crew).phase ≠ .ended → ∃ t, exec (.redeemAtSlice op) s = .next t
        ∧ t.berth (tkKey tk) = { b with claim := .faulted op } ∧ s.SameBytes t
        ∧ ∃ r ∈ t.quay.regs, r = ⟨o.crew, .berth (tkKey tk)⟩)))
  ∧ ∀ (op : Nat) (o : Op) (e : El) (s : State), s.op op = some o → o.stage = .sent → e.st = .todo → e.data ≠ [] →
    let word (j l : Nat) : Word := BitVec.ofNat 32 (leNat ((e.data.drop (128 * j + 4 * l)).take 4))
    (∀ r n ty, o.kind = .vredeem false false → o.els = [e] → o.dst = .vreg r n ty → (s.crew o.crew).phase ≠ .ended →
      ∃ t, exec (.redeemDelivery op) s = .next t ∧ s.SameBytes t
        ∧ (∀ x, ∀ l < 32, (t.gang o.gang).rv x l = if r ≤ x ∧ x < r + 4 ∧ (s.gang o.gang).live.getLsbD l = true
            then word (x - r) l else (s.gang o.gang).rv x l)
        ∧ ∀ x, (t.gang o.gang).tag x = if r ≤ x ∧ x < r + 4 then ty else (s.gang o.gang).tag x)
    ∧ (∀ r n ty, o.kind = .vredeem false true → o.els = [e] → o.dst = .vreg r n ty → s.remoteCause o ty = none →
      let va := (o.arg.getD 4 0).toNat + 2 ^ 32 * (o.arg.getD 5 0).toNat
      let k := va / 2 ^ 36 % 2 ^ 14
      let v := va / 2 ^ 10 % 256
      ∃ t, exec (.redeemDelivery op) s = .next t ∧ s.SameBytes t
        ∧ ∀ x, ∀ l < 32, (t.gang k).rv x l = if v ≤ x ∧ x < v + 4 ∧ (s.gang k).live.getLsbD l = true
            then word (x - v) l else (s.gang k).rv x l)
    ∧ ∀ tr f, o.kind = .sredeem tr → o.els = [e, f] → (s.crew o.crew).phase ≠ .ended →
      let off := (o.arg.getD 0 0).toNat
      ∃ t, exec (.redeemDelivery op) s = .next t
        ∧ ∀ a, (t.crew o.crew).readScr a 1 = if off ≤ a ∧ a < off + e.data.length then [e.data.getD (a - off) 0]
            else (s.crew o.crew).readScr a 1

/-- R310, R344-R348, R352: launches and levels: an accepted descriptor takes the next launch id of its context and the tail of
its slipway queue, a refused one returns its status; the head of a queue becomes eligible with its crew count; a level that is
due reclaims its orphans, which its context counts, and completes; a cancel marks its level and every launch inside it. -/
def Obligations.LaunchesAndLevels : Prop :=
  (∀ (op q : Nat) (tr : Bool) (o : Op) (e : El) (bs : List Byte) (s s1 : State), s.op op = some o →
    o.kind = .slaunch tr q → o.els = [e] → o.stage = .sent → e.st = .todo → s.fifoBlocked o e o.left = false →
    s.readDesc o e = (some bs, s1) → bs.length = 64 →
    let key := s1.slipOf o.asid q
    let d := BitVec.ofNat 512 (leNat bs)
    let id := Map.get 1 s1.harb.nextId o.asid
    ((s1.slipQ key).length < 64 →
      (s1.launchStatus o.asid d = 0 → ∃ t l, exec (.slipwayPost op) s = .next t ∧ Returned t op (natLE 4 id)
        ∧ t.slipQ key = s1.slipQ key ++ [launchKey o.asid id] ∧ t.launch (launchKey o.asid id) = some l ∧ l.desc = d
        ∧ l.st = .queued ∧ Map.get 1 t.harb.nextId o.asid = (if id = 65535 then 1 else id + 1))
      ∧ (s1.launchStatus o.asid d ≠ 0 → ∃ t, exec (.slipwayPost op) s = .next t ∧ t.harb = s1.harb
        ∧ Returned t op (natLE 4 (s1.launchStatus o.asid d * 65536))))
    ∧ (64 ≤ (s1.slipQ key).length → tr = true → ∃ t, exec (.slipwayPost op) s = .next t ∧ t.harb = s1.harb
        ∧ Returned t op (natLE 4 0x10000)))
  ∧ (∀ (q key : Nat) (rest : List Nat) (l : Launch) (s : State), s.slipQ q = key :: rest → s.launch key = some l →
    s.predsDone (key / 65536) l = true → s.phaseWaits (key / 65536) l = false → dCm l.desc = false →
    s.countBad l (some (dCrews l.desc)) = false →
    ∃ t m, exec (.launchEligible q) s = .next t ∧ t.slipQ q = rest ∧ t.launch key = some m
      ∧ m.st = .eligible ∧ m.fixed = true ∧ m.ncrews = dCrews l.desc ∧ m.order = s.harb.orders ∧ m.error = l.error)
  ∧ (∀ (asid lvl id : Nat) (s : State), s.levelDue asid lvl id = true →
    (∃ t, exec (.levelReclaim asid lvl id) s = .next t ∧ s.SameBytes t
      ∧ t.ctxField asid 447 384 = (s.ctxField asid 447 384 + (s.orphanKeys asid lvl id).length) % 2 ^ 64)
    ∧ (s.orphanKeys asid lvl id = [] →
      (lvl ≠ 0 → ∃ t i, exec (.levelComplete asid lvl id) s = .next t ∧ t.level (levelKey asid lvl id) = some i
        ∧ i.complete = true)
      ∧ ∀ l, lvl = 0 → s.launch (launchKey asid id) = some l → dStamp l.desc = 0 →
        ∃ t m, exec (.levelComplete asid 0 id) s = .next t ∧ t.launch (launchKey asid id) = some m ∧ m.st = .complete))
  ∧ ∀ (op : Nat) (lv : Level) (o : Op) (e : El) (s : State), s.op op = some o → o.kind = .jcancel lv → o.els = [e] →
    o.stage = .sent → e.st = .todo →
    let id := (o.arg.getD 0 0).toNat
    id < 65536 →
    (s.cancelCode o.asid lv.code id ≠ 0 → ∃ t, exec (.levelCancel op) s = .next t ∧ t.harb = s.harb
      ∧ Returned t op (natLE 4 (s.cancelCode o.asid lv.code id)))
    ∧ (s.cancelCode o.asid lv.code id = 0 → ∃ t, exec (.levelCancel op) s = .next t
      ∧ (lv.code = 0 → ∃ m, t.launch (launchKey o.asid id) = some m ∧ m.cancelled = true)
      ∧ (∀ i, lv.code ≠ 0 → s.level (levelKey o.asid lv.code id) = some i →
          (∃ j, t.level (levelKey o.asid lv.code id) = some j ∧ j.cancelled = true)
          ∧ ∀ n l, n < 65536 → s.launch (launchKey o.asid n) = some l → descLevel l.desc lv.code = id → i.opened ≤ l.opened →
              ∃ m, t.launch (launchKey o.asid n) = some m ∧ m.cancelled = true))

/-- R76, R343, R350, R351, Table 4-1: the next crew of a partition is placed on the core that is chosen for it: a gang starts
at its launch's entry, with the argument address in s2:s3 and its crew's number in s4, and every other register zero. -/
def Obligations.CrewsArePlaced : Prop :=
  ∀ (part k base : Nat) (it : Item) (l : Launch) (core : Nat) (s s1 : State), s.nextItem part = some it → it.out = none →
    s.launch it.key = some l → l.recorded = true → dCores l.desc = false →
    s.choose l.part (s.pinned (it.key / 65536)) (dShape l.desc) = some ((core, [k], base), s1) →
    ∃ t, exec (.crewPlace part) s = .next t ∧ t.launch it.key = some { l with placed := l.placed + 1 }
      ∧ (t.crew s.nextCrew).phase = .resident ∧ (t.crew s.nextCrew).core = core ∧ (t.crew s.nextCrew).slots = [k]
      ∧ (t.crew s.nextCrew).desc = l.desc ∧ (t.crew s.nextCrew).num = l.placed
      ∧ (t.gang k).phase = .running ∧ (t.gang k).crew = s.nextCrew
      ∧ (t.gang k).pc = BitVec.ofNat 32 (descF l.desc 223 192)
      ∧ (t.gang k).rp 2 = BitVec.ofNat 64 (descF l.desc 127 64) ∧ (t.gang k).rs 4 = BitVec.ofNat 32 l.placed
      ∧ (∀ r, r ∉ [2, 3, 4] → (t.gang k).rs r = 0) ∧ (∀ r x, (t.gang k).rv r x = 0) ∧ (t.gang k).clauses = []
      ∧ (∀ x ∈ t.l1, x.core ≠ core)
      ∧ ∀ a, t.readPhys a 1 = s.readPhys a 1 ∧ t.readHost a 1 = s.readHost a 1 ∧ t.readPeer a 1 = s.readPeer a 1

/-- R256, R257, R259, R260, R263, R264, R266, R267, R269: what a crane does, where no store of its core is still under way to the bytes
(R256), nor, for a stamp or counter of scope 3 or wider, one that had left the core as the entry was read (R183; log 22): it reads an entry and says so in the ring's header; an element of a copy lands in scratchpad, one of a fill
lands its pattern, one that goes out is written to memory; an element that fails drops its command and traps its poster, one whose
page is absent is held and performed later; a stream fills its FIFO; a put adds to its counter and a stamp writes its sequence
number; a command whose elements have moved ends, with its landing. -/
def Obligations.CraneCommands : Prop :=
  ∀ (c : Nat) (s : State),
    let w := s.crew c
    let memSame (t : State) : Prop := ∀ a, t.readPhys a 1 = s.readPhys a 1 ∧ t.readHost a 1 = s.readHost a 1
      ∧ t.readPeer a 1 = s.readPeer a 1
    let lands (t : State) (off : Nat) (bs : List Byte) : Prop := memSame t ∧ ∀ a, (t.crew c).readScr a 1 =
      if off ≤ a ∧ a < off + bs.length then [bs.getD (a - off) 0] else w.readScr a 1
    let pays (x : CraneCmd) (va n sl : Nat) : Prop :=
      ∃ k s1, s.admit1 ⟨sl, w.asid, c, x.pos + 1, va, units va n, 0⟩ = (some k, s1)
    let clear (x : CraneCmd) (va n : Nat) : Prop := s.crewStore (writerOf w c x 0 va) va n = false
    let none_ (_ : Nat) : Prop := False
    (let p := w.ring.consumed
      let x := { w.startCmd p (leNat (w.readScr (w.ringOff + 64 + 32 * (p % w.ringLen)) 32)) with rel := s.nextOp }
      w.phase = .resident → w.ringLen ≠ 0 → p < w.ring.notify → w.ring.cmds.length < 8 → s.entryBad w x = none →
      (x.kind ≤ 3 → recBad w x x.layout = none) →
      ∃ t, exec (.entryRead c) s = .next t ∧ (t.crew c).ring.consumed = p + 1
        ∧ (t.crew c).ring.cmds = w.ring.cmds ++ [x] ∧ lands t (w.ringOff + 8) (natLE 8 (p + 1)))
    ∧ ∀ (pos : Nat) (x : CraneCmd), w.cmd pos = some x → w.craneRuns = true →
      (∀ n, x.next ≤ n → n < x.total → n ∉ x.ahead →
        let e := x.elem n
        let sz := recElem x.layout
        let off := e.saddr.toNat
        let pattern := (List.range sz).map (fun j => (natLE 4 x.aux).getD (j % 4) 0)
        let inside := 0 ≤ e.saddr ∧ e.saddr + sz ≤ w.scrSize
        let moved (t : State) : Prop := (t.crew c).cmd pos = some (x.move n)
        (x.kind = 2 → x.out = false → inside → ∃ t, exec (.fill c pos n) s = .next t ∧ lands t off pattern ∧ moved t)
        ∧ (∀ p ∈ [(Instr.copy, 0), (.indexListCopy, 1)], x.kind = p.2 → x.out = false → inside → e.inside = true → e.oob = false →
          memCause e.maddr sz = none →
          (∀ bs s1, s.engRead (writerOf w c x n e.maddr) e.maddr sz = (.done, bs, s1) →
            ∃ t, exec (p.1 c pos n) s = .next t ∧ lands t off bs ∧ moved t)
          ∧ ∀ d b z bs s1, s.engRead (writerOf w c x n e.maddr) e.maddr sz = (.absent d b z, bs, s1) →
            ∃ t, exec (p.1 c pos n) s = .next t ∧ memSame t
              ∧ (t.crew c).cmd pos = some { x.move n with held := x.held ++ [n] }
              ∧ ∃ r ∈ t.quay.regs, r = ⟨c, .page w.asid d b z⟩)
        ∧ (∀ p ∈ [(Instr.copy, 0), (.indexListCopy, 1), (.fill, 2), (.putsig, 3)], x.kind = p.2 → x.out = true →
          (x.kind ≠ 2 → inside) → e.inside = true → e.maddr % sz = 0 → clear x e.maddr sz →
          Puts s w.asid e.maddr (if x.kind = 2 then pattern else w.readScr off sz) (pays x e.maddr sz) none_ (exec (p.1 c pos n) s)
            moved)
        ∧ (∀ p ∈ [(Instr.copy, 0), (.indexListCopy, 1), (.fill, 2), (.putsig, 3)], x.kind = p.2 →
          ∀ k a, (s.elemCause c x n).isSome = true → s.lowestFail c x n = some (k, a) →
          ∃ t, exec (p.1 c pos n) s = .next t ∧ memSame t ∧ (t.crew c).cmd pos = none
            ∧ (t.crew c).ring.drops = w.ring.drops ++ [pos]
            ∧ ∀ g, s.posterSlot w x = some g → (s.gang g).phase = .running →
                ∃ r, (t.gang g).reports = (s.gang g).reports ++ [r] ∧ r.2.cause = k ∧ r.2.addr = BitVec.ofNat 64 a)
        ∧ (x.kind = 0 → x.out = false → x.stamped = false → x.held = [n] → inside → e.inside = true → e.oob = false →
          memCause e.maddr sz = none → ∀ bs s1, s.engRead (writerOf w c x n e.maddr) e.maddr sz = (.done, bs, s1) →
          ∃ t, exec (.heldElementPerform c pos) s = .next t ∧ lands t off bs
            ∧ (t.crew c).cmd pos = some { x with held := [] }))
      ∧ (let q := c * 4 + x.quad % 4
        let va := (x.mem + x.next) % 2 ^ 64
        let n := min (min (512 - (s.fifoOf q).length) (x.total - x.next)) (64 - va % 64)
        x.kind = 4 → (∀ y ∈ w.ring.cmds, y.kind = 4 → y.quad = x.quad → pos ≤ y.pos) → x.held = [] → n ≠ 0 →
        ∀ bs s1, s.engRead (writerOf w c x x.next va) va n = (.done, bs, s1) →
        ∃ t, exec (.streamToHearth c pos) s = .next t ∧ memSame t ∧ t.fifoOf q = s.fifoOf q ++ bs
          ∧ (t.crew c).cmd pos = some { x with next := x.next + n })
      ∧ (x.stamped = false → x.counted = false → s.cmdParked c pos = false → clear x x.addr 8 →
        let gone (t : State) : Prop := (t.crew c).cmd pos = none
        let stamps (i : Instr) : Prop := s.stampHeld c x = false → Puts s w.asid x.addr (natLE 8 (pos + 1)) (pays x x.addr 8) none_ (exec i s) gone
        (x.kind = 5 → x.stamp = true → (∀ y ∈ w.ring.cmds, pos ≤ y.pos) →
          ((∀ d ∈ w.ring.drops, ¬(x.total ≤ d ∧ d < pos)) → stamps (.stamp c pos))
          ∧ ((∃ d ∈ w.ring.drops, x.total ≤ d ∧ d < pos) → ∃ t, exec (.stamp c pos) s = .next t ∧ gone t ∧ memSame t))
        ∧ (x.kind ≠ 5 → x.moved = true →
          (x.kind ≠ 3 → x.stamp = true → x.defer = false → stamps (.commandComplete c pos))
          ∧ (x.kind ≠ 3 → x.stamp = false → x.defer = false →
            ∃ t, exec (.commandComplete c pos) s = .next t ∧ gone t ∧ memSame t)
          ∧ (x.kind ≠ 3 → x.stamp = false → x.lands = true → x.defer = true → w.tag (x.target * 4 + x.tag) = .empty →
            ∃ t, exec (.commandComplete c pos) s = .next t ∧ gone t ∧ (t.crew c).tag (x.target * 4 + x.tag) = .landed 1)
          ∧ (x.kind = 3 → s.stampHeld c x = false → homeOf x.addr = some .host → s.refused w.asid x.addr 8 = false →
            ∃ t, exec (.commandComplete c pos) s = .next t ∧ (t.crew c).cmd pos = some { x with counted := true }
              ∧ t.readHost (x.addr % 2 ^ 50) 8 = natLE 8 ((leNat (s.readHost (x.addr % 2 ^ 50) 8) + x.aux) % 2 ^ 64))))

/-- R328-R334, Tables 18-5 and 18-6: an engine refuses a request, which returns 0 and traps, or accepts it with the next number
of its tree; it then does the work of the request, writes its record and after it its stamp; a request that ends with a status of
2 or above changes nothing else, and its gang traps. A walk follows the longest matching runs, counts the tree's walks, and maps
the path's frames copy-on-write, one reference more for each; an insert covers pages in order, a reference more for each node
that it makes; a release makes pages sparse and lets their frames go; an eviction removes the oldest leaves. Where several
statuses of Table 18-6 apply, a malformed header or root (4) comes before the operands (5), those before the token array (6), and
that before what the request finds on its way, and a release reads no header: the model's choice (log 28). -/
def Obligations.PrefixRequests : Prop :=
  (∀ p ∈ [(Instr.prefixWalk, 0), (.prefixInsert, 1), (.prefixRelease, 2), (.prefixEvict, 3)], ∀ (die : Nat) (s : State),
    (∀ (o : Op) (e : El), s.quay.pfx.find? (fun j => j.die == die) = none → s.pfxHead die = some o → o.kind = .pfx p.2 →
      s.op o.id = some o → o.els = [e] →
      (s.pfxAccepts p.2 o.pfx = none → ∃ t, exec (p.1 die) s = .next t ∧ Returned t o.id (natLE 8 0) ∧ s.SameBytes t
        ∧ t.quay.pfx = s.quay.pfx
        ∧ ((s.gang o.gang).phase = .running → (s.gang o.gang).crew = o.crew →
            ∃ r, (t.gang o.gang).reports = (s.gang o.gang).reports ++ [r] ∧ r.2.cause = 0x15 ∧ r.2.deferred = true))
      ∧ ∀ h, s.pfxAccepts p.2 o.pfx = some h → s.markFetched o.pfx h = false →
        let q := (h / 2 ^ 128 % 2 ^ 64 + 1) % 2 ^ 64
        ∃ t, exec (p.1 die) s = .next t ∧ Returned t o.id (natLE 8 q) ∧ t.quay.pfx = s.quay.pfx ++ [⟨die, h, q, o⟩]
          ∧ ∀ d pa kd, treeOf o.asid o.pfx.t h = none → o.pfx.t % 64 = 0 → homeOf (o.pfx.t + 16) = some (.die d) →
              s.look o.asid d (o.pfx.t + 16) true = .ok pa kd → WritesBytes s t pa (natLE 8 q))
    ∧ ∀ j : PfxJob, s.quay.pfx.find? (fun j => j.die == die) = some j → j.op.kind = .pfx p.2 →
      s.pfxWaits p.2 j.op.pfx (8 * 2 ^ (j.head % 4)) = false → s.nodesFetched p.2 j.op.pfx j.head = false →
      let r := j.op.pfx
      let l1 := if r.near then some (j.op.leftCores.headD (s.coreOf j.op)) else none
      let s1 : State := { s with quay := { s.quay with pfx := s.quay.pfx.erase j } }
      (∃ t, exec (p.1 die) s = .next t ∧ t.quay.pfx = s.quay.pfx.erase j)
      ∧ (∀ out s2, s1.pfxRun p.2 r j.head = .ok (out, s2) → out.status ≤ 1 ∧
        exec (p.1 die) s = .next ((s2.putV r.asid (r.rec_ + 8) (natLE 4 out.status ++ natLE 4 out.a ++ natLE 4 out.b
          ++ natLE 4 out.c ++ natLE 8 out.d ++ out.frames.flatMap (natLE 4)) l1).putV r.asid r.rec_ (natLE 8 j.q) l1))
      ∧ ∀ st, s1.pfxRun p.2 r j.head = .error st → 2 ≤ st ∧ st ≤ 6 ∧
        let s2 := (s1.putV r.asid (r.rec_ + 8) (natLE 4 st ++ List.replicate 20 0) l1).putV r.asid r.rec_ (natLE 8 j.q) l1
        ∃ t, exec (p.1 die) s = .next t ∧ t = { s2 with gangs := t.gangs }
          ∧ ((s.gang j.op.gang).phase = .running → (s.gang j.op.gang).crew = j.op.crew →
              ∃ x, (t.gang j.op.gang).reports = (s.gang j.op.gang).reports ++ [x] ∧ x.2.cause = 0x15 ∧ x.2.deferred = true))
  ∧ (∀ (asid va d pa kd : Nat) (bs : List Byte) (core : Option Nat) (s : State), homeOf va = some (.die d) →
      va % 512 + bs.length ≤ 512 → s.look asid d va true = .ok pa kd → WritesBytes s (s.putV asid va bs core) pa bs)
  ∧ ∀ (kind h : Nat) (r : PfxReq) (s : State),
    let badTokens (tr : Tree) : Prop := 4096 * tr.p < r.n ∨ r.a % 4 ≠ 0 ∨ 2 ^ 52 ≤ r.a
    let badWindow : Prop := r.win % 65536 ≠ 0 ∨ r.win / 2 ^ 50 ≠ r.t / 2 ^ 50
    (kind ≠ 2 → treeOf r.asid r.t h = none → s.pfxRun kind r h = .error 4)
    ∧ (kind = 2 → badWindow ∨ 4096 < r.n ∨ 65536 < r.w + r.n → s.pfxRun 2 r h = .error 5)
    ∧ (∀ tr x, treeOf r.asid r.t h = some tr → s.node tr 0 = some x →
      (badWindow ∨ badTokens tr ∨ 4096 < r.w → s.pfxRun 0 r h = .error 5)
      ∧ (badWindow ∨ badTokens tr → s.pfxRun 1 r h = .error 5)
      ∧ (∀ out s2, s.pfxRun 0 r h = .ok (out, s2) → ∃ toks path, s.tokens r = .ok toks ∧ WalksTo s tr toks r.w 0 0 path
        ∧ out.status = 0 ∧ out.a = (path.map (fun x => x.2.run)).sum ∧ out.b = path.length ∧ out.c = 0
        ∧ out.d = (tr.walks + 1) % 2 ^ 64 ∧ out.frames = path.map (fun x => x.2.frame)
        ∧ (∀ f, (s2.frame f).count = (s.frame f).count + out.frames.count f)
        ∧ (∀ k < path.length, ∃ e a, s.winLeaf r.asid (r.win + k * 65536) = some (e, a) ∧ pteKind e = kSparse)
        ∧ ∀ f e a, out.frames = [f] → (s.putTree { tr with walks := out.d }).winLeaf r.asid r.win = some (e, a) →
            s2.readPhys a 8 = natLE 8 (mkLeaf kCow true true f))
      ∧ (∀ out s2, s.pfxRun 1 r h = .ok (out, s2) →
        let pages := (r.n + tr.p - 1) / tr.p
        out.b = out.frames.length ∧ out.b ≤ pages ∧ out.a = min (out.b * tr.p) r.n ∧ out.c ≤ out.b ∧ out.d = 0
        ∧ out.status = (if out.b = pages then 0 else 1)
        ∧ (∃ new : List Nat, new.length = out.c ∧ new.Sublist out.frames
            ∧ ∀ f, (s2.frame f).count = (s.frame f).count + new.count f)
        ∧ ∀ k < pages, ∃ e a, s.winLeaf r.asid (r.win + k * 65536) = some (e, a)
            ∧ (pteKind e = kPooled ∨ pteKind e = kCow) ∧ pteFrame e / 2 ^ 22 = r.t / 2 ^ 50
            ∧ (s.frame (pteFrame e)).asid = r.asid)
      ∧ ∀ out s2, s.pfxRun 3 r h = .ok (out, s2) → out.status = 0 ∧ out.a ≤ out.b ∧ out.frames = []
        ∧ (r.n = 0 → out.b = 0) ∧ (∀ l, s.liveNodes tr = some l → (∀ x ∈ l, x.2.child ≠ 0) → out.b = 0)
        ∧ (∀ l i x, s.liveNodes tr = some l → oldestLeaf l = some (i, x) → r.n ≠ 0 → 1 ≤ out.b)
        ∧ ∀ l i x, s.liveNodes tr = some l → oldestLeaf l = some (i, x) → out.b = 1 → FrameLetGo s s2 x.frame)
    ∧ (¬badWindow → 65536 ≥ r.w + r.n →
      (r.n = 0 → ∃ out, s.pfxRun 2 r h = .ok (out, s) ∧ out.a = 0 ∧ out.b = 0 ∧ out.status = 0)
      ∧ (∀ e a, r.n = 1 → s.winLeaf r.asid (r.win + r.w * 65536) = some (e, a) →
        (pteKind e = kNormal → s.pfxRun 2 r h = .error 3)
        ∧ (pteKind e = kSparse → ∃ out, s.pfxRun 2 r h = .ok (out, s) ∧ out.a = 0 ∧ out.b = 1 ∧ out.status = 0)
        ∧ (pteKind e = kPooled ∨ pteKind e = kCow → ∃ out s2, s.pfxRun 2 r h = .ok (out, s2) ∧ out.a = 1 ∧ out.b = 0
          ∧ out.status = 0 ∧ WritesBytes s s2 a (natLE 8 (mkLeaf kSparse (pteR e) (pteW e) 0)) ∧ FrameLetGo s s2 (pteFrame e)))
      ∧ (r.n = 1 → s.winLeaf r.asid (r.win + r.w * 65536) = none → s.pfxRun 2 r h = .error 3))

/-- R11, R358, R362, R363, R365: queue pairs of a device that serves the host: the sequence registers take what is written; an
enable or a disable clears a pair; a submission is consumed and answered by an entry, accepted or refused; an entry that waits
is written at its place where the ring has room, with its cause entry; a function-level reset clears the sequence registers. That
an enable or a disable drops the entries that wait, while a function-level reset keeps them, is the model's choice (log 29). -/
def Obligations.HostQueues : Prop :=
  ∀ (fn q : Nat) (s : State), fn < 16 → q < 8 →
    let p := fn * 8 + q
    let x := s.pairAt p
    (s.served = true →
      (∀ v, ∃ t, exec (.sqemit fn q v) s = .next t ∧ t.pairAt p = { x with sqemit := v } ∧ t = { s with host := t.host })
      ∧ (∀ v, ∃ t, exec (.cqseen fn q v) s = .next t ∧ t.pairAt p = { x with cqseen := v } ∧ t = { s with host := t.host })
      ∧ (∀ v : Word, (v.getLsbD 31 = true → 6 ≤ v.toNat / 2 ^ 20 % 32 ∧ v.toNat / 2 ^ 20 % 32 ≤ 16 ∧ s.fnMay fn (v.toNat % 2 ^ 14) = true) →
        ∃ t, exec (.qcfg fn q v) s = .next t
          ∧ t.pairAt p = (if x.on = v.getLsbD 31 then { x with qcfg := v &&& 0x81F03FFF }
              else { x with qcfg := v &&& 0x81F03FFF, sqemit := 0, sqtaken := 0, cqemit := 0, cqseen := 0, pend := [] }))
      ∧ (let n := x.sqtaken.toNat + 1
        let key := s.slipOf x.asid q
        let d := BitVec.ofNat 512 (leNat (s.readHost ((x.qbase.toNat + 64 * ((n - 1) % x.entries)) % 2 ^ 50) 64))
        x.on = true → n ≤ x.sqemit.toNat → (s.slipQ key).length < 64 →
        (s.launchStatus x.asid d ≠ 0 → ∃ t, exec (.submissionConsume fn q) s = .next t ∧ t.harb = s.harb
          ∧ t.pairAt p = { x with sqtaken := BitVec.ofNat 64 n, pend := x.pend ++ [⟨2, s.launchStatus x.asid d, 0, n⟩] })
        ∧ (s.launchStatus x.asid d = 0 →
          let id := Map.get 1 s.harb.nextId x.asid
          ∃ t l, exec (.submissionConsume fn q) s = .next t ∧ t.launch (launchKey x.asid id) = some l ∧ l.desc = d
            ∧ l.pair = some (p, n) ∧ t.slipQ key = s.slipQ key ++ [launchKey x.asid id]
            ∧ t.pairAt p = { x with sqtaken := BitVec.ofNat 64 n, pend := x.pend ++ [⟨1, 0, launchKey x.asid id, n⟩] }))
      ∧ ∀ e st, x.on = true → x.pend.find? (fun e => !s.entryHeld e) = some e →
        x.cqemit.toNat + 1 - x.cqseen.toNat ≤ x.entries →
        (e.kind ≠ 3 → st = e.status) → (∀ l, e.kind = 3 → s.launch e.launch = some l → st = e.status % 2 + 2 * l.error.toNat) →
        (e.kind = 3 → s.launch e.launch = none → st = e.status % 2) →
        let n := x.cqemit.toNat
        let a := (x.cbase.toNat + 32 * (n % x.entries)) % 2 ^ 50
        let bs := natLE 32 ((n + 1) % 2 ^ 64 * 2 ^ 192 + e.sseq % 2 ^ 64 * 2 ^ 128 + e.kind * 2 ^ 72 + st * 2 ^ 64
          + e.launch % 65536 * 2 ^ 48)
        ∃ t, exec (.completionEntryWrite fn q) s = .next t
          ∧ t.pairAt p = { x with cqemit := BitVec.ofNat 64 (n + 1), pend := x.pend.erase e }
          ∧ CauseWritten s t 1 p x.asid (n + 1)
          ∧ (∀ y, ¬causeByte s y → t.readHost y 1 = if a ≤ y ∧ y < a + 32 then [bs.getD (y - a) 0] else s.readHost y 1)
          ∧ ∀ y, t.readPhys y 1 = s.readPhys y 1 ∧ t.readPeer y 1 = s.readPeer y 1)
    ∧ ∃ t, exec (.functionLevelReset fn) s = .next t ∧ t = { s with host := t.host }
      ∧ t.pairAt p = { x with sqemit := 0, sqtaken := 0, cqemit := 0, cqseen := 0 }

/-- R340, R358, R359, R360, R365, R366, R368, R370, R373, R374, R375: the registers and tables of the host interface: what a
write leaves in them and what a read returns, splits and maps that take effect on an empty core, a context record, ports, routes
that requests on their way keep, clocks, port states and errors with their cause entries, and a record, written behind the records
before it. What a split register reads below bit 31 while a written value waits, the code of a port's state in its cause entry and
the layout of a record's header are the model's choice (log 19). -/
def Obligations.HostRegisters : Prop :=
  ∀ s : State,
    (∀ st p, p < 12 → s.powered = true → s.port p ≠ st →
      ∃ t, exec (.portStateChange p st) s = .next t ∧ t.port p = st ∧ (∀ q, q ≠ p → t.port q = s.port q)
        ∧ ∃ code, DeviceCause s t 6 p code)
    ∧ (∀ stack, stack < 12 → s.powered = true →
      ∃ t, exec (.memoryError stack) s = .next t ∧ DeviceCause s t 5 stack 0)
    ∧ (∀ core, ∃ t, exec (.splitApply core) s = .next t ∧ t = { s with harb := t.harb }
      ∧ ∀ v, Map.get none s.harb.splitP (coreKey core) = some v → s.crewsOn (coreKey core) = [] →
        Map.get 0 t.harb.split (coreKey core) = v ∧ Map.get none t.harb.splitP (coreKey core) = none)
    ∧ (∀ r rest rs, s.host.recs = r :: rest → s.records = true → (r.launch = 0 → rs = []) →
      (r.launch ≠ 0 → s.recordReady r = true
        ∧ s.regionCopies (r.launch / 65536) 0 ((descF r.desc 127 64, 4096) :: r.regions) = some rs) →
      let bs := natLE 64 (Config.recordHeader (r.pair / 8) (r.pair % 8) r.sseq (r.launch % 65536) (rs.map List.length)).toNat
        ++ natLE 64 r.desc.toNat ++ rs.flatten
      let a := ((s.barReg 0 0x1100).toNat + s.host.recpos) % 2 ^ 50
      s.host.recpos + bs.length ≤ 2 ^ 20 * 2 ^ ((s.barReg 0 0x1108).toNat / 2 ^ 20 % 32) →
      ∃ t, exec .recordAppend s = .next t ∧ t.host.recs = rest ∧ t.host.recpos = s.host.recpos + bs.length
        ∧ (∀ l, s.launch r.launch = some l → t.launch r.launch = some { l with recorded := true })
        ∧ ∀ y, t.readHost y 1 = if a ≤ y ∧ y < a + bs.length then [bs.getD (y - a) 0] else s.readHost y 1)
    ∧ (∀ fn < 16, s.powered = true → s.barRead fn 0 = BitVec.ofNat 64 (0x7412 * 65536 + s.host.stepping % 256 * 256 + fn)
      ∧ s.barRead fn 8 = BitVec.ofNat 64 (s.host.step % 16 + 16 * s.host.ready.toNat + 32 * s.host.recovery.toNat)
      ∧ ∀ off, 0x310 ≤ off → off < 0x1000 → s.barRead fn off = 0)
    ∧ (s.served = true →
      (∀ fn off m v, fn < 16 → off < 0x100 ∨ 0x300 ≤ off → plainMask fn off = some m →
        ∃ t, exec (.registerWrite fn off v) s = .next t ∧ t.barReg fn off = v &&& BitVec.ofNat 64 m
          ∧ t = { s with host := t.host })
      ∧ (∀ v, ∃ t, exec (.causeseen v) s = .next t ∧ t.host.causeseen = v.toNat)
      ∧ (∀ asid (rec : BitVec 512), asid < 2 ^ 14 → recordBad asid rec.toNat = false →
        ∃ t, exec (.contextRecord asid rec) s = .next t ∧ t = { s with harb := t.harb, quay := t.quay }
          ∧ t.quay = { s.quay with buckets := t.quay.buckets, spare := t.quay.spare }
          ∧ (∀ hi lo, lo ≤ hi → hi < 384 → t.ctxField asid hi lo = bits rec.toNat hi lo)
          ∧ t.ctxField asid 447 384 = s.ctxField asid 447 384)
      ∧ (∀ core (v : Word), core < 192 → v.toNat % 8 ≤ 4 →
        (s.crewsOn (coreKey core) = [] → ∃ t, exec (.coresplit core v) s = .next t
          ∧ Map.get 0 t.harb.split (coreKey core) = v.toNat % 8 ∧ t.barRead 0 (0x2000 + 4 * core) = BitVec.ofNat 64 (v.toNat % 8))
        ∧ (s.crewsOn (coreKey core) ≠ [] → ∃ t, exec (.coresplit core v) s = .next t
          ∧ Map.get 0 t.harb.split (coreKey core) = Map.get 0 s.harb.split (coreKey core)
          ∧ t.barRead 0 (0x2000 + 4 * core) = BitVec.ofNat 64 (Map.get 0 s.harb.split (coreKey core) + 2 ^ 31)))
      ∧ (∀ core (v : Word), core < 192 → s.crewsOn (coreKey core) = [] → (∀ i < 64, (s.gang (coreKey core * 64 + i)).phase = .absent) →
        ∃ t, exec (.quadmap core v) s = .next t ∧ Map.get 0 t.harb.qmap (coreKey core) = v.toNat % 2 ^ 20)
      ∧ (∀ peer v, peer < 64 → ∃ t, exec (.route peer v) s = .next t
        ∧ t.routeReg peer = (v &&& 0x10FFF#64).toNat ∧ t = { s with host := t.host }
        ∧ (s.goingTo peer = [] → Map.get [] t.host.routeOld peer = [])
        ∧ (s.goingTo peer ≠ [] → (Map.get [] t.host.routeOld peer).getLast? = some (s.routeReg peer, s.goingTo peer)))
      ∧ ∀ die mhz, die < 4 → mhz < s.clockOf die → 700 ≤ mhz → (s.clockOf die - mhz) % 50 = 0 →
        ∃ t, exec (.thermalLimit die mhz) s = .next t ∧ t.clockOf die = mhz ∧ (∀ d, d ≠ die → t.clockOf d = s.clockOf d)
          ∧ DeviceCause s t 7 die mhz)

/-- R282, R361: the commands of the management mailbox, each with its code in `mgcmd` and its result 0 in `mgstat`; a code that
is not listed has result 1. -/
def Obligations.ManagementCommands : Prop :=
  ∀ s : State, s.served = true →
    let ok (t : State) (c v : Nat) : Prop := t.host.mgstat = BitVec.ofNat 64 (v * 65536) ∧ t.host.mgcmd = BitVec.ofNat 64 c
    let asid := s.mgarg 0 % 2 ^ 14
    let die := s.mgarg 0 / 2 ^ 16 % 4
    (s.mgarg 1 % 16384 = 0 → paOk (s.mgarg 1) = true → ∃ t, exec .setRoot s = .next t ∧ ok t 1 0
      ∧ Map.get none t.quay.roots (asid * 4 + die) = (if s.mgarg 1 = 0 then none else some (s.mgarg 1)))
    ∧ (s.mgarg 0 % 8 = 0 → paOk (s.mgarg 0) = true →
      (s.physFetching (s.mgarg 0) 8 = false → ∃ t, exec .writePhysical s = .next t ∧ ok t 2 0 ∧ WritesBytes s t (s.mgarg 0) (natLE 8 (s.mgarg 1)))
      ∧ ∃ t, exec .readPhysical s = .next t ∧ ok t 3 0 ∧ s.SameBytes t
        ∧ t.mgarg 1 = leNat (s.readPhys (s.mgarg 0) 8))
    ∧ (homeOf (s.mgarg 0) = some .host → s.mgarg 2 % 64 = 0 → s.mgarg 2 ≤ 2 ^ 20 → paOk (s.mgarg 1) = true →
      paOk (s.mgarg 1 + s.mgarg 2 - 1) = true →
      (s.physFetching (s.mgarg 1) (s.mgarg 2) = false → ∃ t, exec (.copyIn false) s = .next t ∧ ok t 4 0
        ∧ WritesBytes s t (s.mgarg 1) (s.readHost (s.mgarg 0 % 2 ^ 50) (s.mgarg 2)))
      ∧ ∃ t, exec (.copyIn true) s = .next t ∧ t.host.mgstat = 768 ∧ s.SameBytes t)
    ∧ (homeOf (s.mgarg 1) = some (.die die) →
      let size := [2 ^ 16, 2 ^ 21, 2 ^ 30, 2 ^ 39].getD (s.mgarg 0 / 2 ^ 20 % 4) 0
      let base := s.mgarg 1 % 2 ^ 50 / size * size
      s.midAtomicIn (fun key => key / 2 ^ 34 == poolKey asid die && spansMeet (key % 2 ^ 34 * 65536) 65536 base size) = false →
      ∃ t, exec .shootdown s = .next t ∧ ok t 5 0 ∧ s.SameBytes t
        ∧ ∀ e ∈ t.quay.tlb, ¬(e.die = die ∧ e.asid = asid ∧ e.base < base + size ∧ base < e.base + lvlSize e.level))
    ∧ (let f := s.mgarg 1
      frameOk f = true → f / 2 ^ 22 = die → (s.frame f).state = 2 → (s.frame f).count = 0 →
      ∃ t, exec .poolPush s = .next t ∧ ok t 6 0 ∧ (t.frame f).state = 1 ∧ (t.frame f).asid = asid
        ∧ (t.pool asid die).scrub = (s.pool asid die).scrub ++ [f])
    ∧ (∀ f rest, (s.pool asid die).free = f :: rest → ∃ t, exec .poolTake s = .next t ∧ ok t 7 f
        ∧ t.frame f = ⟨2, 0, 0, 0⟩ ∧ (t.pool asid die).free = rest)
    ∧ (let f := s.mgarg 0
      let n := (s.frame f).count + (BitVec.ofNat 64 (s.mgarg 1)).toInt
      frameOk f = true → (s.frame f).state = 2 → 0 < n → n ≤ 0xFFFFFF →
      ∃ t, exec .frameReference s = .next t ∧ ok t 8 0 ∧ t.frame f = { s.frame f with count := n.toNat })
    ∧ ∀ code, (code = 0 ∨ 9 ≤ code) → ∃ t, exec (.mgcmdReserved code) s = .next t ∧ t.host.mgstat = 256
      ∧ t = { s with host := t.host }

/-- R364, R371, R372, R375: the aperture reads and writes the memory of the context that it names, at the host and at the
device's own homes, and nothing that its function may not name; firmware is read, checked and stored; a reset or a wake starts
the bring-up, which goes on with the cycles of die 0, through its six steps or to recovery mode (one step a cycle is the model's
choice, log 4); and a power-down leaves nothing running. -/
def Obligations.ApertureFirmwarePower : Prop :=
  ∀ s : State,
    (∀ fn off n, fn < 16 → s.served = true → 0 < n → off + n ≤ 2 ^ 32 →
      let va := s.apVa fn off
      let asid := s.apAsid fn
      (s.fnMay fn asid = false → (∃ t, exec (.bar2Read fn off n) s = .next t ∧ t.host.reads = s.host.reads ++ [none])
        ∧ ∀ data : List Byte, data.length = n → exec (.bar2Write fn off data) s = .next s)
      ∧ (s.fnMay fn asid = true →
        (homeOf va = some .host → va % 65536 + n ≤ 65536 → s.refused asid va n = false →
          (∃ t, exec (.bar2Read fn off n) s = .next t ∧ s.SameBytes t
            ∧ t.host.reads = s.host.reads ++ [some (s.readHost (va % 2 ^ 50) n)])
          ∧ ∀ data : List Byte, data.length = n → ∃ t, exec (.bar2Write fn off data) s = .next t
            ∧ ∀ a, t.readHost a 1 = if va % 2 ^ 50 ≤ a ∧ a < va % 2 ^ 50 + n then [data.getD (a - va % 2 ^ 50) 0] else s.readHost a 1)
        ∧ (∀ d, homeOf va = some (.die d) → va % 512 + n ≤ 512 →
          (∀ pa kd, s.parkedOver (busyKey asid d (va % 2 ^ 50)) va n s.arrival = false → s.look asid d va false = .ok pa kd →
            ∃ t, exec (.bar2Read fn off n) s = .next t ∧ s.SameBytes t ∧ t.host.reads = s.host.reads ++ [some (s.readPhys pa n)])
          ∧ ∀ (data : List Byte), data.length = n → s.fetching asid va n = false → s.busyPage (busyKey asid d (va % 2 ^ 50)) = none →
            (∀ pa kd, s.look asid d va true = .ok pa kd → ∃ t, exec (.bar2Write fn off data) s = .next t
              ∧ (kd ≠ kCow → WritesBytes s t pa data)
              ∧ (kd = kCow → s.SameBytes t
                ∧ t.busyPage (busyKey asid d (va % 2 ^ 50)) = some ⟨busyKey asid d (va % 2 ^ 50), false, [⟨0, 0, 0, va, data, false, true, 0, s.arrival⟩]⟩))
            ∧ ((∀ pa kd, s.look asid d va true ≠ .ok pa kd) → exec (.bar2Write fn off data) s = .next s))))
    ∧ (s.served = true → s.host.fwstat ≠ 1 → s.host.fwstat ≠ 2 → ∃ t, exec (.fwgo 1) s = .next t ∧ t.host.fwstat = 1
      ∧ t = { s with host := t.host })
    ∧ (let a := (s.barReg 0 0x10).toNat
      let n := (s.barReg 0 0x18).toNat
      s.host.fwstat = 1 → homeOf a = some .host → n % 4096 = 0 → n ≤ 2 ^ 26 →
      ∃ t, exec (.firmwareCheck false) s = .next t ∧ t.host.fwstat = 2 ∧ t.host.fwimage = s.readHost (a % 2 ^ 50) n)
    ∧ (let up (t : State) (flash : List Byte) : Prop := t.powered = true ∧ t.gangs = [] ∧ t.crews = [] ∧ t.ops = []
        ∧ t.harb = Harbour.reset ∧ t.quay = Quay.reset ∧ t.host.flash = flash ∧ t.resets = s.resets + 1
        ∧ t.host.step = 1 ∧ t.host.ready = false ∧ t.host.recovery = false ∧ t.host.fusedVer = s.host.fusedVer
      (s.host.fwstat = 2 → ∃ t, exec (.firmwareCheck false) s = .next t
        ∧ (firmwareOk s.host.fwimage s.host.fusedVer = true → s.host.recovery = false →
            t = { s with host := t.host } ∧ t.host.fwstat = 3 ∧ t.host.flash = s.host.fwimage)
        ∧ (firmwareOk s.host.fwimage s.host.fusedVer = true → s.host.recovery = true → s.powered = true → up t s.host.fwimage)
        ∧ (firmwareOk s.host.fwimage s.host.fusedVer = false → t = { s with host := t.host }
            ∧ (t.host.fwstat = 4 ∨ t.host.fwstat = 5) ∧ t.host.flash = s.host.flash))
      ∧ (s.powered = true → ∃ t, exec .deviceReset s = .next t ∧ up t s.host.flash)
      ∧ (s.powered = false → ∃ t, exec .powerWake s = .next t ∧ up t s.host.flash)
      ∧ ∃ t, exec .powerDown s = .next t ∧ t.powered = false ∧ t.gangs = [] ∧ t.crews = [] ∧ t.ops = []
        ∧ t.quay = Quay.reset ∧ t.served = false ∧ t.host.flash = s.host.flash)
    ∧ ∀ rest, s.agenda = .cycle 0 :: rest → s.dieIssues 0 = false → s.powered = true → s.host.ready = false → s.host.recovery = false →
      s.host.step ≠ s.host.fails → ∃ t, step s = .next t ∧ t.powered = true
        ∧ (s.host.step = 1 → firmwareOk s.host.flash s.host.fusedVer = true →
          t.host.step = 2 ∧ t.host.running = s.host.flash
            ∧ t.host.fusedVer = max s.host.fusedVer (Config.firmwareMinimum s.host.flash))
        ∧ (s.host.step = 1 → firmwareOk s.host.flash s.host.fusedVer = false → t.host.recovery = true ∧ t.host.step = 1)
        ∧ (s.host.step = 2 → t.host.step = 3 ∧ ∀ f ∈ s.host.badRows, t.frame f = ⟨3, 0, 0, 0⟩)
        ∧ (s.host.step ∈ [3, 4] → t.host.step = s.host.step + 1 ∧ t.host.ready = false)
        ∧ (s.host.step = 5 → t.host.step = 6 ∧ t.host.ready = true ∧ t.served = true)

/-- R372: each request of attestation that reaches a powered device is answered, and changes nothing else. -/
def Obligations.AttestationAnswers : Prop :=
  ∀ s : State, s.powered = true →
    let answers (i : Instr) (ok : Spdm → Prop) : Prop := ∃ t r, exec i s = .next t ∧ ok r
      ∧ t = { s with host := { s.host with spdm := s.host.spdm ++ [r] } }
    answers .getVersion (fun r => ∃ v, r = .version v)
    ∧ answers .getCapabilities (· = .capabilities)
    ∧ answers .negotiateAlgorithms (· = .algorithms)
    ∧ answers .getDigests (· = .digests (Config.sm3 Config.certificateChain))
    ∧ answers (.getCertificate 0) (· = .certificate 0 Config.certificateChain)
    ∧ (∀ slot nonce, answers (.challenge slot nonce) (fun r => ∃ sig, r = .challenge slot sig))
    ∧ ∀ i, 1 ≤ i → i ≤ 4 → answers (.getMeasurements i)
        (fun r => ∃ sig, r = .measurements i [s.measurement i] sig)

/-- R24, R45, R46, R47, R92, R93, R100, R191, R192: when a turn falls to a stream of a gang that is ready, the step runs the
instruction that the bytes at its program counter decode to, or the next instruction of its head clause: one that some rule makes
wait takes no cycle of its port, any other issues where its port picks its gang. A word that does not decode takes cause 0x01
and a fetch beyond the scalar section cause 0x06, with the program counter as its address (the model's choice, log 36). When it
falls to an event, the step runs the event; at the end of a cycle the counters count. What the step does before that moves no
register of a gang and no byte of memory. A port picks the gang that its rule names. -/
def Obligations.StepRunsDecoded : Prop :=
  (∀ s : State,
    let runs (lane : Bool) (k : Nat) (u : State) (i : Instr) : Prop :=
      (u.goes i = false → step s = settled (exec i u))
      ∧ (u.goes i = true → u.portPick lane (slotQuad k) = some k → step s = settled (exec i (u.issueOn lane k)))
      ∧ (u.goes i = true → u.portPick lane (slotQuad k) ≠ some k → step s = settled (.next u))
    (∀ tn, s.turn = tn → s.begin tn =
      { s with agenda := s.agenda.tail, cur := match tn with | .scalar k => k | .lane k => k | _ => s.cur })
    ∧ (∀ lane k, let v := s.issueOn lane k
        v = { s with gangs := v.gangs, issued := v.issued } ∧ (∀ j, j ≠ k → v.gang j = s.gang j)
        ∧ v.gang k = { s.gang k with waitS := (v.gang k).waitS, waitL := (v.gang k).waitL, lastS := (v.gang k).lastS,
                                     lastL := (v.gang k).lastL })
    ∧ (∀ k, s.turn = .scalar k →
      let u := s.begin (.scalar k)
      let w := u.crew (u.gang k).crew
      let g := u.gang k
      let pc := g.pc.toNat
      let traps (cause : Nat) (a : Dword) : Prop := ∀ hd, u.portPick false (slotQuad k) = some k → g.clauses = [] →
        w.handler = some hd → g.trap.handler = false → ∃ t, step s = settled (.next t)
          ∧ (t.gang k).trap = scalarTrapState g.trap cause g.pc 0 a ∧ (t.gang k).pc = BitVec.ofNat 32 hd
          ∧ (t.gang k).sreg = g.sreg ∧ s.SameBytes t
      u.scalarReady k = true →
        (w.scalarSize < pc + 4 → traps 6 (g.pc.setWidth 64))
        ∧ ∀ bs, pc + 4 ≤ w.scalarSize → u.readV w.asid (w.codeBase + pc) 4 = some bs →
          (isLong (leNat bs) = false →
            (∀ i rest, decodeBytes bs = .ok (i, rest) → runs false k u i) ∧ (∀ e, decodeBytes bs = .error e → traps 1 0))
          ∧ (isLong (leNat bs) = true → w.scalarSize < pc + 8 → traps 6 (g.pc.setWidth 64))
          ∧ ∀ cs, isLong (leNat bs) = true → pc + 8 ≤ w.scalarSize → u.readV w.asid (w.codeBase + pc + 4) 4 = some cs →
            (∀ i rest, decodeBytes (bs ++ cs) = .ok (i, rest) → runs false k u i)
            ∧ (∀ e, decodeBytes (bs ++ cs) = .error e → traps 1 0))
    ∧ (∀ k c cs i, s.turn = .lane k →
      let u := s.begin (.lane k)
      u.laneReady k = true → (u.gang k).clauses = c :: cs → c.body[c.next]? = some i → runs true k u i)
    ∧ (∀ i, s.turn = .act i → step s = settled (exec i (s.begin (.act i))))
    ∧ (∀ d, s.turn = .cycle d →
      let u := s.begin (.cycle d)
      (4 ≤ d ∨ u.dieIssues d = true → step s = settled (.next u))
      ∧ (d < 4 → u.dieIssues d = false → ∃ t, step s = .next t ∧ (∀ x, x ∈ t.issued ↔ x ∈ s.issued ∧ slotDie (x / 2) ≠ d)
        ∧ ∀ e < 4, Map.get 0 t.cycles e = (if s.powered = true ∧ e = d then (Map.get 0 s.cycles e + 1) % 2 ^ 64
            else Map.get 0 s.cycles e)))
    ∧ (s.tails = [] → settled (.next s) = .next s) ∧ ∀ x, settled (.fault x) = .fault x)
  ∧ ∀ (cs : List Cand) (k : Nat), pick cs = some k → ∃ c ∈ cs, c.key = k ∧ ∀ d ∈ cs,
      let slack (x : Cand) : Nat := 15 - x.wait
      let urgent := ∃ n < 16, n + 1 ≤ (cs.filter (fun x => decide (slack x ≤ n))).length
      (urgent → slack c < slack d ∨ slack c = slack d ∧ c.last ≤ d.last)
      ∧ (¬urgent → d.prio < c.prio ∨ d.prio = c.prio ∧ c.last ≤ d.last)

/-- R26 to R38: words written out from the encoding tables decode to the instructions that they stand for; words with a reserved
major, function, selector, field or code do not decode. -/
def Obligations.WordsDecode : Prop :=
  decodeBytes (natLE 4 0x08204001) = .ok (.saddi 4 4 1, [])
  ∧ decodeBytes (natLE 4 0x00285040) = .ok (.sadd 5 5 2, [])
  ∧ decodeBytes (natLE 4 0x286FFFFD) = .ok (.sbr 3 false 0xFFFFD, [])
  ∧ decodeBytes (natLE 4 0x30001000) = .ok (.sjr 0 1 0, [])
  ∧ decodeBytes (natLE 4 0x3C000000) = .ok (.lsync, [])
  ∧ decodeBytes (natLE 8 0xFD304000) = .ok (.srd 2 0, [])
  ∧ decodeBytes (natLE 8 0xFDE00000) = .ok (.sexit, [])
  ∧ (∀ w ∈ [0x58000000, 0x00000014, 0x04000008, 0x18000C00, 0x1C080000, 0x3C000001], (decodeBytes (natLE 4 w)).toOption = none)
  ∧ (decodeBytes (natLE 8 0xFE000000)).toOption = none
  ∧ (decodeLaneBytes (natLE 12 (0xFE * 2 ^ 88))).toOption = none

/-- R24 to R41, R45: decoding the encoding of a well-formed instruction gives it back with every operand, for both streams; and a
word that decodes is the encoding of the well-formed instruction that it decodes to. -/
def Obligations.DecodeEncode : Prop :=
  (∀ i : Instr, i.wf = true → encodeScalar i ≠ [] → decodeBytes (encode i) = .ok (i, []))
  ∧ (∀ (i : Instr) (op : Nat) (f : LaneWord), i.wf = true → i.laneParts = some (op, f) →
      decodeLaneBytes (encode i) = .ok (i, []))
  ∧ (∀ (bs rest : List Byte) (i : Instr), decodeBytes bs = .ok (i, rest) → i.wf = true ∧ bs = encode i ++ rest)
  ∧ ∀ (bs rest : List Byte) (i : Instr), decodeLaneBytes bs = .ok (i, rest) → i.wf = true ∧ bs = encode i ++ rest

/-- R88, R156: no instruction of the lane stream changes a byte of device, host or peer memory, or of a scratchpad, as it
issues, whatever it does and however it ends. -/
def Obligations.LaneStreamKeepsMemory : Prop :=
  ∀ (i : Instr) (s t : State), i.laneParts.isSome = true → exec i s = .next t → s.SameBytes t

/-- Every step keeps the memories of the device, the host and the peers in the one canonical form that the model gives
them (log 7): no rule of the manual names it. -/
def Obligations.CanonicalKept : Prop :=
  ∀ s t : State, s.Canonical → step s = .next t → t.Canonical

/-- R375: what reset leaves: nothing runs and nothing is in flight, no context has a page, every byte of memory reads as
zero (the model's choice, log 7), and the device serves the host (log 4). -/
def Obligations.ResetLeaves : Prop :=
  State.reset.Canonical
  ∧ (∀ k, State.reset.gang k = Gang.empty) ∧ (∀ c, (State.reset.crew c).phase = .ended)
  ∧ State.reset.ops = [] ∧ State.reset.hops = [] ∧ State.reset.host.spdm = []
  ∧ (∀ a n, State.reset.readPhys a n = List.replicate n 0)
  ∧ (∀ asid die off, State.reset.walk asid die off = .absent 0)
  ∧ (∀ asid lvl id, State.reset.counter asid lvl id = 0)
  ∧ (∀ key, State.reset.berth key = Berth.init) ∧ State.reset.served = true
end

