-- ==== Sys2Proof/Laws/Exec.lean ====
section
/-! SUPPORT. Which meaning each constructor of the syntax has: one equation a constructor, so that no proof unfolds `exec`. -/

namespace Sys2Proof.Laws

open Sys2Proof.Machine

variable (s : State)

@[simp] theorem exec_sadd (sd : SReg) (sa : SReg) (sb : SReg) : exec (.sadd sd sa sb) s = execSadd sd sa sb s := rfl
@[simp] theorem exec_ssub (sd : SReg) (sa : SReg) (sb : SReg) : exec (.ssub sd sa sb) s = execSsub sd sa sb s := rfl
@[simp] theorem exec_sand (sd : SReg) (sa : SReg) (sb : SReg) : exec (.sand sd sa sb) s = execSand sd sa sb s := rfl
@[simp] theorem exec_sor (sd : SReg) (sa : SReg) (sb : SReg) : exec (.sor sd sa sb) s = execSor sd sa sb s := rfl
@[simp] theorem exec_sxor (sd : SReg) (sa : SReg) (sb : SReg) : exec (.sxor sd sa sb) s = execSxor sd sa sb s := rfl
@[simp] theorem exec_sshl (sd : SReg) (sa : SReg) (sb : SReg) : exec (.sshl sd sa sb) s = execSshl sd sa sb s := rfl
@[simp] theorem exec_sshr (sd : SReg) (sa : SReg) (sb : SReg) : exec (.sshr sd sa sb) s = execSshr sd sa sb s := rfl
@[simp] theorem exec_ssra (sd : SReg) (sa : SReg) (sb : SReg) : exec (.ssra sd sa sb) s = execSsra sd sa sb s := rfl
@[simp] theorem exec_smin (sd : SReg) (sa : SReg) (sb : SReg) : exec (.smin sd sa sb) s = execSmin sd sa sb s := rfl
@[simp] theorem exec_smax (sd : SReg) (sa : SReg) (sb : SReg) : exec (.smax sd sa sb) s = execSmax sd sa sb s := rfl
@[simp] theorem exec_sminn (sd : SReg) (sa : SReg) (sb : SReg) : exec (.sminn sd sa sb) s = execSminn sd sa sb s := rfl
@[simp] theorem exec_smaxn (sd : SReg) (sa : SReg) (sb : SReg) : exec (.smaxn sd sa sb) s = execSmaxn sd sa sb s := rfl
@[simp] theorem exec_smul (sd : SReg) (sa : SReg) (sb : SReg) : exec (.smul sd sa sb) s = execSmul sd sa sb s := rfl
@[simp] theorem exec_smulh (sd : SReg) (sa : SReg) (sb : SReg) : exec (.smulh sd sa sb) s = execSmulh sd sa sb s := rfl
@[simp] theorem exec_smulhn (sd : SReg) (sa : SReg) (sb : SReg) : exec (.smulhn sd sa sb) s = execSmulhn sd sa sb s := rfl
@[simp] theorem exec_sclz (sd : SReg) (sa : SReg) : exec (.sclz sd sa) s = execSclz sd sa s := rfl
@[simp] theorem exec_spopc (sd : SReg) (sa : SReg) : exec (.spopc sd sa) s = execSpopc sd sa s := rfl
@[simp] theorem exec_smov (sd : SReg) (sa : SReg) : exec (.smov sd sa) s = execSmov sd sa s := rfl
@[simp] theorem exec_scmp (sa : SReg) (sb : SReg) : exec (.scmp sa sb) s = execScmp sa sb s := rfl
@[simp] theorem exec_sandn (sd : SReg) (sa : SReg) (sb : SReg) : exec (.sandn sd sa sb) s = execSandn sd sa sb s := rfl
@[simp] theorem exec_saddD (sd : Pair) (sa : Pair) (sb : Pair) : exec (.saddD sd sa sb) s = execSaddD sd sa sb s := rfl
@[simp] theorem exec_ssubD (sd : Pair) (sa : Pair) (sb : Pair) : exec (.ssubD sd sa sb) s = execSsubD sd sa sb s := rfl
@[simp] theorem exec_sshlD (sd : Pair) (sa : Pair) (sb : SReg) : exec (.sshlD sd sa sb) s = execSshlD sd sa sb s := rfl
@[simp] theorem exec_sshrD (sd : Pair) (sa : Pair) (sb : SReg) : exec (.sshrD sd sa sb) s = execSshrD sd sa sb s := rfl
@[simp] theorem exec_smovD (sd : Pair) (sa : Pair) : exec (.smovD sd sa) s = execSmovD sd sa s := rfl
@[simp] theorem exec_scmpD (sa : Pair) (sb : Pair) : exec (.scmpD sa sb) s = execScmpD sa sb s := rfl
@[simp] theorem exec_smulw (sd : Pair) (sa : SReg) (sb : SReg) : exec (.smulw sd sa sb) s = execSmulw sd sa sb s := rfl
@[simp] theorem exec_smulwn (sd : Pair) (sa : SReg) (sb : SReg) : exec (.smulwn sd sa sb) s = execSmulwn sd sa sb s := rfl
@[simp] theorem exec_saddi (sd : SReg) (sa : SReg) (imm : Fin 4096) : exec (.saddi sd sa imm) s = execSaddi sd sa imm s := rfl
@[simp] theorem exec_sandi (sd : SReg) (sa : SReg) (imm : Fin 4096) : exec (.sandi sd sa imm) s = execSandi sd sa imm s := rfl
@[simp] theorem exec_sori (sd : SReg) (sa : SReg) (imm : Fin 4096) : exec (.sori sd sa imm) s = execSori sd sa imm s := rfl
@[simp] theorem exec_sxori (sd : SReg) (sa : SReg) (imm : Fin 4096) : exec (.sxori sd sa imm) s = execSxori sd sa imm s := rfl
@[simp] theorem exec_sshli (sd : SReg) (sa : SReg) (n : Fin 32) : exec (.sshli sd sa n) s = execSshli sd sa n s := rfl
@[simp] theorem exec_sshri (sd : SReg) (sa : SReg) (n : Fin 32) : exec (.sshri sd sa n) s = execSshri sd sa n s := rfl
@[simp] theorem exec_ssrai (sd : SReg) (sa : SReg) (n : Fin 32) : exec (.ssrai sd sa n) s = execSsrai sd sa n s := rfl
@[simp] theorem exec_scmpi (sa : SReg) (imm : Fin 4096) : exec (.scmpi sa imm) s = execScmpi sa imm s := rfl
@[simp] theorem exec_sli (sd : SReg) (imm : Fin 524288) : exec (.sli sd imm) s = execSli sd imm s := rfl
@[simp] theorem exec_slui (sd : SReg) (imm : Fin 524288) : exec (.slui sd imm) s = execSlui sd imm s := rfl
@[simp] theorem exec_sbr (cnd : Fin 32) (inv : Bool) (off : Fin 1048576) : exec (.sbr cnd inv off) s = execSbr cnd inv off s := rfl
@[simp] theorem exec_scall (sd : SReg) (imm : Fin 524288) : exec (.scall sd imm) s = execScall sd imm s := rfl
@[simp] theorem exec_sjr (sd : SReg) (sa : SReg) (imm : Fin 4096) : exec (.sjr sd sa imm) s = execSjr sd sa imm s := rfl
@[simp] theorem exec_lrun (imm : Fin 524288) : exec (.lrun imm) s = execLrun imm s := rfl
@[simp] theorem exec_lrunr (sa : SReg) : exec (.lrunr sa) s = execLrunr sa s := rfl
@[simp] theorem exec_lsync : exec .lsync s = execLsync s := rfl
@[simp] theorem exec_swaitf (mask : Fin 4096) : exec (.swaitf mask) s = execSwaitf mask s := rfl
@[simp] theorem exec_mwait (sd : SReg) (sa : Pair) (sb : Pair) (sc : Scope) (cmp : WaitCmp) : exec (.mwait sd sa sb sc cmp) s = execMwait sd sa sb sc cmp s := rfl
@[simp] theorem exec_sld (sd : SReg) (sa : Pair) (imm : Fin 4096) : exec (.sld sd sa imm) s = execSld sd sa imm s := rfl
@[simp] theorem exec_sldD (sd : Pair) (sa : Pair) (imm : Fin 4096) : exec (.sldD sd sa imm) s = execSldD sd sa imm s := rfl
@[simp] theorem exec_sst (sd : SReg) (sa : Pair) (col : Fin 8) (woff : Fin 512) : exec (.sst sd sa col woff) s = execSst sd sa col woff s := rfl
@[simp] theorem exec_sstD (sd : Pair) (sa : Pair) (col : Fin 8) (woff : Fin 512) : exec (.sstD sd sa col woff) s = execSstD sd sa col woff s := rfl
@[simp] theorem exec_satom (op : AtomOp) (wide : Bool) (sc : Scope) (ord : Order) (col : Fin 8) (sd : SReg) (sa : Pair) (sb : SReg) : exec (.satom op wide sc ord col sd sa sb) s = execSatom op wide sc ord col sd sa sb s := rfl
@[simp] theorem exec_scas (wide : Bool) (sc : Scope) (ord : Order) (col : Fin 8) (sd : SReg) (sa : Pair) (sb : SReg) : exec (.scas wide sc ord col sd sa sb) s = execScas wide sc ord col sd sa sb s := rfl
@[simp] theorem exec_sldAcq (wide : Bool) (sc : Scope) (sd : SReg) (sa : Pair) : exec (.sldAcq wide sc sd sa) s = execSldAcq wide sc sd sa s := rfl
@[simp] theorem exec_sstRel (wide : Bool) (sc : Scope) (mask : Fin 256) (col : Fin 8) (sd : SReg) (sa : Pair) : exec (.sstRel wide sc mask col sd sa) s = execSstRel wide sc mask col sd sa s := rfl
@[simp] theorem exec_sfence (sc : Scope) (kind : FenceKind) (mask : Fin 256) : exec (.sfence sc kind mask) s = execSfence sc kind mask s := rfl
@[simp] theorem exec_fetchk (tr : Bool) (sectors : Fin 16) (life : Level) (sd : Pair) (sa : Pair) : exec (.fetchk tr sectors life sd sa) s = execFetchk tr sectors life sd sa s := rfl
@[simp] theorem exec_kdrop (sa : Pair) : exec (.kdrop sa) s = execKdrop sa s := rfl
@[simp] theorem exec_kstat (sd : SReg) (sa : Pair) : exec (.kstat sd sa) s = execKstat sd sa s := rfl
@[simp] theorem exec_sredeem (tr : Bool) (sc : Scope) (sd : SReg) (off : SReg) (sa : Pair) (sb : Pair) : exec (.sredeem tr sc sd off sa sb) s = execSredeem tr sc sd off sa sb s := rfl
@[simp] theorem exec_pcommit (tr : Bool) (sd : SReg) (sa : Pair) : exec (.pcommit tr sd sa) s = execPcommit tr sd sa s := rfl
@[simp] theorem exec_pdecommit (sd : SReg) (sa : Pair) : exec (.pdecommit sd sa) s = execPdecommit sd sa s := rfl
@[simp] theorem exec_pquery (pool : Bool) (sd : Pair) (sa : Pair) : exec (.pquery pool sd sa) s = execPquery pool sd sa s := rfl
@[simp] theorem exec_pfxwalk (sc : Scope) (sd : Pair) (blk : Fin 16) (sb : Pair) : exec (.pfxwalk sc sd blk sb) s = execPfxwalk sc sd blk sb s := rfl
@[simp] theorem exec_pfxins (sc : Scope) (sd : Pair) (blk : Fin 16) (sb : Pair) : exec (.pfxins sc sd blk sb) s = execPfxins sc sd blk sb s := rfl
@[simp] theorem exec_pfxrel (sc : Scope) (sd : Pair) (blk : Fin 16) (sb : Pair) : exec (.pfxrel sc sd blk sb) s = execPfxrel sc sd blk sb s := rfl
@[simp] theorem exec_pfxevict (sc : Scope) (sd : Pair) (blk : Fin 16) (sb : Pair) : exec (.pfxevict sc sd blk sb) s = execPfxevict sc sd blk sb s := rfl
@[simp] theorem exec_slaunch (tr : Bool) (q : Fin 8) (sd : SReg) (sa : Pair) : exec (.slaunch tr q sd sa) s = execSlaunch tr q sd sa s := rfl
@[simp] theorem exec_jcount (lvl : Level) (sc : Scope) (sd : Pair) (sa : SReg) : exec (.jcount lvl sc sd sa) s = execJcount lvl sc sd sa s := rfl
@[simp] theorem exec_jcancel (lvl : Level) (sd : SReg) (sa : SReg) : exec (.jcancel lvl sd sa) s = execJcancel lvl sd sa s := rfl
@[simp] theorem exec_srd (sd : SReg) (num : Fin 1024) : exec (.srd sd num) s = execSrd sd num s := rfl
@[simp] theorem exec_swr (sa : SReg) (num : Fin 1024) : exec (.swr sa num) s = execSwr sa num s := rfl
@[simp] theorem exec_sgetf (sd : SReg) : exec (.sgetf sd) s = execSgetf sd s := rfl
@[simp] theorem exec_sclrf (mask : Fin 64) : exec (.sclrf mask) s = execSclrf mask s := rfl
@[simp] theorem exec_vacq (tr : Bool) (sd : SReg) (n : Fin 4) : exec (.vacq tr sd n) s = execVacq tr sd n s := rfl
@[simp] theorem exec_vrel (n : Fin 4) : exec (.vrel n) s = execVrel n s := rfl
@[simp] theorem exec_sbar (id : Fin 16) (sa : SReg) : exec (.sbar id sa) s = execSbar id sa s := rfl
@[simp] theorem exec_sbarw (arrive : Bool) (sd : SReg) (sa : SReg) : exec (.sbarw arrive sd sa) s = execSbarw arrive sd sa s := rfl
@[simp] theorem exec_strap (code : Fin 4096) : exec (.strap code) s = execStrap code s := rfl
@[simp] theorem exec_sbrk (code : Fin 4096) : exec (.sbrk code) s = execSbrk code s := rfl
@[simp] theorem exec_syield : exec .syield s = execSyield s := rfl
@[simp] theorem exec_sexit : exec .sexit s = execSexit s := rfl
@[simp] theorem exec_ssendsig (sc : Scope) (mask : Fin 256) (inc : Fin 256) (col : Fin 8) (sd : Pair) (sa : Pair) (sb : Pair) : exec (.ssendsig sc mask inc col sd sa sb) s = execSsendsig sc mask inc col sd sa sb s := rfl
@[simp] theorem exec_vadd (f : LaneWord) : exec (.vadd f) s = execVadd f s := rfl
@[simp] theorem exec_vsub (f : LaneWord) : exec (.vsub f) s = execVsub f s := rfl
@[simp] theorem exec_vmul (f : LaneWord) : exec (.vmul f) s = execVmul f s := rfl
@[simp] theorem exec_vmulh (f : LaneWord) : exec (.vmulh f) s = execVmulh f s := rfl
@[simp] theorem exec_vmad (f : LaneWord) : exec (.vmad f) s = execVmad f s := rfl
@[simp] theorem exec_vand (f : LaneWord) : exec (.vand f) s = execVand f s := rfl
@[simp] theorem exec_vor (f : LaneWord) : exec (.vor f) s = execVor f s := rfl
@[simp] theorem exec_vxor (f : LaneWord) : exec (.vxor f) s = execVxor f s := rfl
@[simp] theorem exec_vandn (f : LaneWord) : exec (.vandn f) s = execVandn f s := rfl
@[simp] theorem exec_vshl (f : LaneWord) : exec (.vshl f) s = execVshl f s := rfl
@[simp] theorem exec_vshr (f : LaneWord) : exec (.vshr f) s = execVshr f s := rfl
@[simp] theorem exec_vsra (f : LaneWord) : exec (.vsra f) s = execVsra f s := rfl
@[simp] theorem exec_vmin (f : LaneWord) : exec (.vmin f) s = execVmin f s := rfl
@[simp] theorem exec_vmax (f : LaneWord) : exec (.vmax f) s = execVmax f s := rfl
@[simp] theorem exec_vabs (f : LaneWord) : exec (.vabs f) s = execVabs f s := rfl
@[simp] theorem exec_vneg (f : LaneWord) : exec (.vneg f) s = execVneg f s := rfl
@[simp] theorem exec_vclz (f : LaneWord) : exec (.vclz f) s = execVclz f s := rfl
@[simp] theorem exec_vpopc (f : LaneWord) : exec (.vpopc f) s = execVpopc f s := rfl
@[simp] theorem exec_vbrev (f : LaneWord) : exec (.vbrev f) s = execVbrev f s := rfl
@[simp] theorem exec_vbfx (f : LaneWord) : exec (.vbfx f) s = execVbfx f s := rfl
@[simp] theorem exec_vbfi (f : LaneWord) : exec (.vbfi f) s = execVbfi f s := rfl
@[simp] theorem exec_vmov (f : LaneWord) : exec (.vmov f) s = execVmov f s := rfl
@[simp] theorem exec_vli (f : LaneWord) : exec (.vli f) s = execVli f s := rfl
@[simp] theorem exec_vsel (f : LaneWord) : exec (.vsel f) s = execVsel f s := rfl
@[simp] theorem exec_vcmp (f : LaneWord) : exec (.vcmp f) s = execVcmp f s := rfl
@[simp] theorem exec_vdp4 (f : LaneWord) : exec (.vdp4 f) s = execVdp4 f s := rfl
@[simp] theorem exec_vaddc (f : LaneWord) : exec (.vaddc f) s = execVaddc f s := rfl
@[simp] theorem exec_vfadd (f : LaneWord) : exec (.vfadd f) s = execVfadd f s := rfl
@[simp] theorem exec_vfsub (f : LaneWord) : exec (.vfsub f) s = execVfsub f s := rfl
@[simp] theorem exec_vfmul (f : LaneWord) : exec (.vfmul f) s = execVfmul f s := rfl
@[simp] theorem exec_vfma (f : LaneWord) : exec (.vfma f) s = execVfma f s := rfl
@[simp] theorem exec_vfmin (f : LaneWord) : exec (.vfmin f) s = execVfmin f s := rfl
@[simp] theorem exec_vfmax (f : LaneWord) : exec (.vfmax f) s = execVfmax f s := rfl
@[simp] theorem exec_vfrcp (f : LaneWord) : exec (.vfrcp f) s = execVfrcp f s := rfl
@[simp] theorem exec_vfsqrt (f : LaneWord) : exec (.vfsqrt f) s = execVfsqrt f s := rfl
@[simp] theorem exec_vfrsqrt (f : LaneWord) : exec (.vfrsqrt f) s = execVfrsqrt f s := rfl
@[simp] theorem exec_vflog2 (f : LaneWord) : exec (.vflog2 f) s = execVflog2 f s := rfl
@[simp] theorem exec_vfexp2 (f : LaneWord) : exec (.vfexp2 f) s = execVfexp2 f s := rfl
@[simp] theorem exec_vfcmp (f : LaneWord) : exec (.vfcmp f) s = execVfcmp f s := rfl
@[simp] theorem exec_vfcls (f : LaneWord) : exec (.vfcls f) s = execVfcls f s := rfl
@[simp] theorem exec_vfrnd (f : LaneWord) : exec (.vfrnd f) s = execVfrnd f s := rfl
@[simp] theorem exec_vfdp2 (f : LaneWord) : exec (.vfdp2 f) s = execVfdp2 f s := rfl
@[simp] theorem exec_vcvt (f : LaneWord) : exec (.vcvt f) s = execVcvt f s := rfl
@[simp] theorem exec_vpackb (f : LaneWord) : exec (.vpackb f) s = execVpackb f s := rfl
@[simp] theorem exec_vunpkb (f : LaneWord) : exec (.vunpkb f) s = execVunpkb f s := rfl
@[simp] theorem exec_vtag (f : LaneWord) : exec (.vtag f) s = execVtag f s := rfl
@[simp] theorem exec_vtagq (f : LaneWord) : exec (.vtagq f) s = execVtagq f s := rfl
@[simp] theorem exec_pand (f : LaneWord) : exec (.pand f) s = execPand f s := rfl
@[simp] theorem exec_por (f : LaneWord) : exec (.por f) s = execPor f s := rfl
@[simp] theorem exec_pxor (f : LaneWord) : exec (.pxor f) s = execPxor f s := rfl
@[simp] theorem exec_pnot (f : LaneWord) : exec (.pnot f) s = execPnot f s := rfl
@[simp] theorem exec_pmov (f : LaneWord) : exec (.pmov f) s = execPmov f s := rfl
@[simp] theorem exec_pset (f : LaneWord) : exec (.pset f) s = execPset f s := rfl
@[simp] theorem exec_pget (f : LaneWord) : exec (.pget f) s = execPget f s := rfl
@[simp] theorem exec_pcnt (f : LaneWord) : exec (.pcnt f) s = execPcnt f s := rfl
@[simp] theorem exec_vshfl (f : LaneWord) : exec (.vshfl f) s = execVshfl f s := rfl
@[simp] theorem exec_vbcast (f : LaneWord) : exec (.vbcast f) s = execVbcast f s := rfl
@[simp] theorem exec_vred (f : LaneWord) : exec (.vred f) s = execVred f s := rfl
@[simp] theorem exec_vscan (f : LaneWord) : exec (.vscan f) s = execVscan f s := rfl
@[simp] theorem exec_visect (f : LaneWord) : exec (.visect f) s = execVisect f s := rfl
@[simp] theorem exec_vrot (f : LaneWord) : exec (.vrot f) s = execVrot f s := rfl
@[simp] theorem exec_vld (f : LaneWord) : exec (.vld f) s = execVld f s := rfl
@[simp] theorem exec_vst (f : LaneWord) : exec (.vst f) s = execVst f s := rfl
@[simp] theorem exec_vlds (f : LaneWord) : exec (.vlds f) s = execVlds f s := rfl
@[simp] theorem exec_vsts (f : LaneWord) : exec (.vsts f) s = execVsts f s := rfl
@[simp] theorem exec_vatom (f : LaneWord) : exec (.vatom f) s = execVatom f s := rfl
@[simp] theorem exec_vatoms (f : LaneWord) : exec (.vatoms f) s = execVatoms f s := rfl
@[simp] theorem exec_vprf (f : LaneWord) : exec (.vprf f) s = execVprf f s := rfl
@[simp] theorem exec_vredeem (f : LaneWord) : exec (.vredeem f) s = execVredeem f s := rfl
@[simp] theorem exec_vredeemRemote (f : LaneWord) : exec (.vredeemRemote f) s = execVredeemRemote f s := rfl
@[simp] theorem exec_vcpidx (f : LaneWord) : exec (.vcpidx f) s = execVcpidx f s := rfl
@[simp] theorem exec_vrng (f : LaneWord) : exec (.vrng f) s = execVrng f s := rfl
@[simp] theorem exec_vlane (f : LaneWord) : exec (.vlane f) s = execVlane f s := rfl
@[simp] theorem exec_vnop (f : LaneWord) : exec (.vnop f) s = execVnop f s := rfl
@[simp] theorem exec_mxmac (f : LaneWord) : exec (.mxmac f) s = execMxmac f s := rfl
@[simp] theorem exec_mxtopk (f : LaneWord) : exec (.mxtopk f) s = execMxtopk f s := rfl
@[simp] theorem exec_mxv (f : LaneWord) : exec (.mxv f) s = execMxv f s := rfl
@[simp] theorem exec_mxrdy (f : LaneWord) : exec (.mxrdy f) s = execMxrdy f s := rfl
@[simp] theorem exec_mxld (f : LaneWord) : exec (.mxld f) s = execMxld f s := rfl
@[simp] theorem exec_mxst (f : LaneWord) : exec (.mxst f) s = execMxst f s := rfl
@[simp] theorem exec_mxclr (f : LaneWord) : exec (.mxclr f) s = execMxclr f s := rfl
@[simp] theorem exec_mxmovToTile (f : LaneWord) : exec (.mxmovToTile f) s = execMxmovToTile f s := rfl
@[simp] theorem exec_mxmovToVector (f : LaneWord) : exec (.mxmovToVector f) s = execMxmovToVector f s := rfl
@[simp] theorem exec_wlclr (f : LaneWord) : exec (.wlclr f) s = execWlclr f s := rfl
@[simp] theorem exec_wlget (f : LaneWord) : exec (.wlget f) s = execWlget f s := rfl
@[simp] theorem exec_wlins (f : LaneWord) : exec (.wlins f) s = execWlins f s := rfl
@[simp] theorem exec_wlmrg (f : LaneWord) : exec (.wlmrg f) s = execWlmrg f s := rfl
@[simp] theorem exec_wlthr (f : LaneWord) : exec (.wlthr f) s = execWlthr f s := rfl
@[simp] theorem exec_wlst (f : LaneWord) : exec (.wlst f) s = execWlst f s := rfl
@[simp] theorem exec_wlld (f : LaneWord) : exec (.wlld f) s = execWlld f s := rfl
@[simp] theorem exec_wlcfg (f : LaneWord) : exec (.wlcfg f) s = execWlcfg f s := rfl
@[simp] theorem exec_clauseCheck (g : Nat) : exec (.clauseCheck g) s = execClauseCheck g s := rfl
@[simp] theorem exec_clauseStart (g : Nat) : exec (.clauseStart g) s = execClauseStart g s := rfl
@[simp] theorem exec_clauseRetire (g : Nat) : exec (.clauseRetire g) s = execClauseRetire g s := rfl
@[simp] theorem exec_laneOpComplete (op : Nat) : exec (.laneOpComplete op) s = execLaneOpComplete op s := rfl
@[simp] theorem exec_scalarResultReturn (op : Nat) : exec (.scalarResultReturn op) s = execScalarResultReturn op s := rfl
@[simp] theorem exec_storeQueueEntryLeave (g : Nat) : exec (.storeQueueEntryLeave g) s = execStoreQueueEntryLeave g s := rfl
@[simp] theorem exec_storeAck (op : Nat) : exec (.storeAck op) s = execStoreAck op s := rfl
@[simp] theorem exec_sliceAccess (op : Nat) (el : Nat) (ch : Choice) : exec (.sliceAccess op el ch) s = execSliceAccess op el ch s := rfl
@[simp] theorem exec_windowAccess (op : Nat) (el : Nat) : exec (.windowAccess op el) s = execWindowAccess op el s := rfl
@[simp] theorem exec_hostAccessCompletion (op : Nat) (el : Nat) (refused : Bool) : exec (.hostAccessCompletion op el refused) s = execHostAccessCompletion op el refused s := rfl
@[simp] theorem exec_mwaitRecheck (g : Nat) : exec (.mwaitRecheck g) s = execMwaitRecheck g s := rfl
@[simp] theorem exec_mwaitPollTimeout (g : Nat) : exec (.mwaitPollTimeout g) s = execMwaitPollTimeout g s := rfl
@[simp] theorem exec_deferredTrapTake (g : Nat) : exec (.deferredTrapTake g) s = execDeferredTrapTake g s := rfl
@[simp] theorem exec_crewStop (c : Nat) : exec (.crewStop c) s = execCrewStop c s := rfl
@[simp] theorem exec_faultRingPost (asid : Nat) : exec (.faultRingPost asid) s = execFaultRingPost asid s := rfl
@[simp] theorem exec_faultReport (op : Nat) : exec (.faultReport op) s = execFaultReport op s := rfl
@[simp] theorem exec_crewSwitchOut (c : Nat) : exec (.crewSwitchOut c) s = execCrewSwitchOut c s := rfl
@[simp] theorem exec_crewRestore (c : Nat) : exec (.crewRestore c) s = execCrewRestore c s := rfl
@[simp] theorem exec_replayInPlace (c : Nat) : exec (.replayInPlace c) s = execReplayInPlace c s := rfl
@[simp] theorem exec_graceTimerExpire (asid : Nat) (die : Nat) : exec (.graceTimerExpire asid die) s = execGraceTimerExpire asid die s := rfl
@[simp] theorem exec_killTimerExpire (asid : Nat) (die : Nat) : exec (.killTimerExpire asid die) s = execKillTimerExpire asid die s := rfl
@[simp] theorem exec_pageCommit (op : Nat) : exec (.pageCommit op) s = execPageCommit op s := rfl
@[simp] theorem exec_pageDecommit (op : Nat) : exec (.pageDecommit op) s = execPageDecommit op s := rfl
@[simp] theorem exec_pageQuery (op : Nat) : exec (.pageQuery op) s = execPageQuery op s := rfl
@[simp] theorem exec_copyOnWrite (page : Nat) : exec (.copyOnWrite page) s = execCopyOnWrite page s := rfl
@[simp] theorem exec_frameScrubDone (asid : Nat) (die : Nat) : exec (.frameScrubDone asid die) s = execFrameScrubDone asid die s := rfl
@[simp] theorem exec_berthAccept (op : Nat) : exec (.berthAccept op) s = execBerthAccept op s := rfl
@[simp] theorem exec_fetchLand (b : Nat) : exec (.fetchLand b) s = execFetchLand b s := rfl
@[simp] theorem exec_fetchFault (b : Nat) : exec (.fetchFault b) s = execFetchFault b s := rfl
@[simp] theorem exec_redeemAtSlice (op : Nat) : exec (.redeemAtSlice op) s = execRedeemAtSlice op s := rfl
@[simp] theorem exec_redeemDelivery (op : Nat) : exec (.redeemDelivery op) s = execRedeemDelivery op s := rfl
@[simp] theorem exec_berthDrop (op : Nat) : exec (.berthDrop op) s = execBerthDrop op s := rfl
@[simp] theorem exec_berthStatus (op : Nat) : exec (.berthStatus op) s = execBerthStatus op s := rfl
@[simp] theorem exec_levelReclaim (asid : Nat) (lvl : Nat) (id : Nat) : exec (.levelReclaim asid lvl id) s = execLevelReclaim asid lvl id s := rfl
@[simp] theorem exec_entryRead (c : Nat) : exec (.entryRead c) s = execEntryRead c s := rfl
@[simp] theorem exec_copy (c : Nat) (pos : Nat) (n : Nat) : exec (.copy c pos n) s = execCopy c pos n s := rfl
@[simp] theorem exec_indexListCopy (c : Nat) (pos : Nat) (n : Nat) : exec (.indexListCopy c pos n) s = execIndexListCopy c pos n s := rfl
@[simp] theorem exec_fill (c : Nat) (pos : Nat) (n : Nat) : exec (.fill c pos n) s = execFill c pos n s := rfl
@[simp] theorem exec_putsig (c : Nat) (pos : Nat) (n : Nat) : exec (.putsig c pos n) s = execPutsig c pos n s := rfl
@[simp] theorem exec_streamToHearth (c : Nat) (pos : Nat) : exec (.streamToHearth c pos) s = execStreamToHearth c pos s := rfl
@[simp] theorem exec_stamp (c : Nat) (pos : Nat) : exec (.stamp c pos) s = execStamp c pos s := rfl
@[simp] theorem exec_commandComplete (c : Nat) (pos : Nat) : exec (.commandComplete c pos) s = execCommandComplete c pos s := rfl
@[simp] theorem exec_heldElementPerform (c : Nat) (pos : Nat) : exec (.heldElementPerform c pos) s = execHeldElementPerform c pos s := rfl
@[simp] theorem exec_hearthStart (q : Nat) : exec (.hearthStart q) s = execHearthStart q s := rfl
@[simp] theorem exec_vacqGrant (q : Nat) : exec (.vacqGrant q) s = execVacqGrant q s := rfl
@[simp] theorem exec_blockReturn (g : Nat) : exec (.blockReturn g) s = execBlockReturn g s := rfl
@[simp] theorem exec_gangSlotFree (g : Nat) : exec (.gangSlotFree g) s = execGangSlotFree g s := rfl
@[simp] theorem exec_crewEnd (c : Nat) : exec (.crewEnd c) s = execCrewEnd c s := rfl
@[simp] theorem exec_prefixWalk (die : Nat) : exec (.prefixWalk die) s = execPrefixWalk die s := rfl
@[simp] theorem exec_prefixInsert (die : Nat) : exec (.prefixInsert die) s = execPrefixInsert die s := rfl
@[simp] theorem exec_prefixRelease (die : Nat) : exec (.prefixRelease die) s = execPrefixRelease die s := rfl
@[simp] theorem exec_prefixEvict (die : Nat) : exec (.prefixEvict die) s = execPrefixEvict die s := rfl
@[simp] theorem exec_slipwayPost (op : Nat) : exec (.slipwayPost op) s = execSlipwayPost op s := rfl
@[simp] theorem exec_launchEligible (q : Nat) : exec (.launchEligible q) s = execLaunchEligible q s := rfl
@[simp] theorem exec_crewPlace (part : Nat) : exec (.crewPlace part) s = execCrewPlace part s := rfl
@[simp] theorem exec_levelComplete (asid : Nat) (lvl : Nat) (id : Nat) : exec (.levelComplete asid lvl id) s = execLevelComplete asid lvl id s := rfl
@[simp] theorem exec_levelCancel (op : Nat) : exec (.levelCancel op) s = execLevelCancel op s := rfl
@[simp] theorem exec_sqemit (fn : Nat) (q : Nat) (v : Dword) : exec (.sqemit fn q v) s = execSqemit fn q v s := rfl
@[simp] theorem exec_submissionConsume (fn : Nat) (q : Nat) : exec (.submissionConsume fn q) s = execSubmissionConsume fn q s := rfl
@[simp] theorem exec_completionEntryWrite (fn : Nat) (q : Nat) : exec (.completionEntryWrite fn q) s = execCompletionEntryWrite fn q s := rfl
@[simp] theorem exec_cqseen (fn : Nat) (q : Nat) (v : Dword) : exec (.cqseen fn q v) s = execCqseen fn q v s := rfl
@[simp] theorem exec_causeseen (v : Dword) : exec (.causeseen v) s = execCauseseen v s := rfl
@[simp] theorem exec_qcfg (fn : Nat) (q : Nat) (v : Word) : exec (.qcfg fn q v) s = execQcfg fn q v s := rfl
@[simp] theorem exec_contextRecord (asid : Nat) (rec : BitVec 512) : exec (.contextRecord asid rec) s = execContextRecord asid rec s := rfl
@[simp] theorem exec_coresplit (core : Nat) (v : Word) : exec (.coresplit core v) s = execCoresplit core v s := rfl
@[simp] theorem exec_quadmap (core : Nat) (v : Word) : exec (.quadmap core v) s = execQuadmap core v s := rfl
@[simp] theorem exec_splitApply (core : Nat) : exec (.splitApply core) s = execSplitApply core s := rfl
@[simp] theorem exec_route (peer : Nat) (v : Dword) : exec (.route peer v) s = execRoute peer v s := rfl
@[simp] theorem exec_startLadder (asid : Nat) : exec (.startLadder asid) s = execStartLadder asid s := rfl
@[simp] theorem exec_resume (asid : Nat) : exec (.resume asid) s = execResume asid s := rfl
@[simp] theorem exec_kill (asid : Nat) : exec (.kill asid) s = execKill asid s := rfl
@[simp] theorem exec_setRoot : exec .setRoot s = execSetRoot s := rfl
@[simp] theorem exec_writePhysical : exec .writePhysical s = execWritePhysical s := rfl
@[simp] theorem exec_readPhysical : exec .readPhysical s = execReadPhysical s := rfl
@[simp] theorem exec_copyIn (refused : Bool) : exec (.copyIn refused) s = execCopyIn refused s := rfl
@[simp] theorem exec_shootdown : exec .shootdown s = execShootdown s := rfl
@[simp] theorem exec_poolPush : exec .poolPush s = execPoolPush s := rfl
@[simp] theorem exec_poolTake : exec .poolTake s = execPoolTake s := rfl
@[simp] theorem exec_frameReference : exec .frameReference s = execFrameReference s := rfl
@[simp] theorem exec_mgcmdReserved (code : Nat) : exec (.mgcmdReserved code) s = execMgcmdReserved code s := rfl
@[simp] theorem exec_fwgo (v : Word) : exec (.fwgo v) s = execFwgo v s := rfl
@[simp] theorem exec_firmwareCheck (refused : Bool) : exec (.firmwareCheck refused) s = execFirmwareCheck refused s := rfl
@[simp] theorem exec_bar2Read (fn : Nat) (off : Nat) (len : Nat) : exec (.bar2Read fn off len) s = execBar2Read fn off len s := rfl
@[simp] theorem exec_bar2Write (fn : Nat) (off : Nat) (data : List Byte) : exec (.bar2Write fn off data) s = execBar2Write fn off data s := rfl
@[simp] theorem exec_registerWrite (fn : Nat) (off : Nat) (v : Dword) : exec (.registerWrite fn off v) s = execRegisterWrite fn off v s := rfl
@[simp] theorem exec_recordAppend : exec .recordAppend s = execRecordAppend s := rfl
@[simp] theorem exec_deviceReset : exec .deviceReset s = execDeviceReset s := rfl
@[simp] theorem exec_powerWake : exec .powerWake s = execPowerWake s := rfl
@[simp] theorem exec_portStateChange (port : Nat) (st : PortState) : exec (.portStateChange port st) s = execPortStateChange port st s := rfl
@[simp] theorem exec_thermalLimit (die : Nat) (mhz : Nat) : exec (.thermalLimit die mhz) s = execThermalLimit die mhz s := rfl
@[simp] theorem exec_memoryError (stack : Nat) : exec (.memoryError stack) s = execMemoryError stack s := rfl
@[simp] theorem exec_getVersion : exec .getVersion s = execGetVersion s := rfl
@[simp] theorem exec_getCapabilities : exec .getCapabilities s = execGetCapabilities s := rfl
@[simp] theorem exec_negotiateAlgorithms : exec .negotiateAlgorithms s = execNegotiateAlgorithms s := rfl
@[simp] theorem exec_getDigests : exec .getDigests s = execGetDigests s := rfl
@[simp] theorem exec_getCertificate (slot : Nat) : exec (.getCertificate slot) s = execGetCertificate slot s := rfl
@[simp] theorem exec_challenge (slot : Nat) (nonce : BitVec 256) : exec (.challenge slot nonce) s = execChallenge slot nonce s := rfl
@[simp] theorem exec_getMeasurements (index : Nat) : exec (.getMeasurements index) s = execGetMeasurements index s := rfl
@[simp] theorem exec_powerDown : exec .powerDown s = execPowerDown s := rfl
@[simp] theorem exec_functionLevelReset (fn : Nat) : exec (.functionLevelReset fn) s = execFunctionLevelReset fn s := rfl

end Sys2Proof.Laws
end

