-- ==== Sys2Proof/Laws/Map.lean ====
section
/-! SUPPORT. The laws of the finite map: a read after a write, and that every write keeps the canonical form. -/

namespace Sys2Proof.Laws

open Sys2Proof.Machine

variable {α : Type} {d : α} {m : Map α} {k j n : Nat} {v : α}

@[simp] theorem get_nil : Map.get d [] k = d := rfl

theorem get_cons (e : Nat × α) : Map.get d (e :: m) k = if k = e.1 then e.2 else Map.get d m k := rfl

theorem get_insertAt (h : ∀ e ∈ m, e.1 ≠ k) :
    Map.get d (Map.insertAt m k v) j = if j = k then v else Map.get d m j := by
  induction m with
  | nil => simp [Map.insertAt, Map.get]
  | cons e m ih =>
    have ih := ih (fun x hx => h x (List.mem_cons_of_mem _ hx))
    have he := h e (List.mem_cons_self ..)
    by_cases hk : k < e.1
    · simp [Map.insertAt, hk, get_cons]
    · simp only [Map.insertAt, hk, if_false, get_cons, ih]
      by_cases hj : j = e.1 <;> grind

theorem mem_drop {e : Nat × α} : e ∈ Map.drop m k ↔ e ∈ m ∧ e.1 ≠ k := by simp [Map.drop]

theorem get_drop : Map.get d (Map.drop m k) j = if j = k then d else Map.get d m j := by
  induction m with
  | nil => simp [Map.drop]
  | cons e m ih =>
    simp only [Map.drop] at ih
    by_cases he : e.1 = k
    · simp only [Map.drop, List.filter_cons, he, bne_self_eq_false, Bool.false_eq_true, if_false, ih, get_cons]
      grind
    · simp only [Map.drop, List.filter_cons, bne_iff_ne.mpr he, if_true, get_cons, ih]
      grind

variable [DecidableEq α]

/-- A read after a write. -/
theorem get_put : Map.get d (Map.put d m k v) j = if j = k then v else Map.get d m j := by
  unfold Map.put
  split
  · next h => subst h; exact get_drop
  · rw [get_insertAt (fun e he => (mem_drop.mp he).2), get_drop]
    split <;> simp_all

@[simp] theorem get_put_self : Map.get d (Map.put d m k v) k = v := by simp [get_put]

theorem get_put_ne (h : j ≠ k) : Map.get d (Map.put d m k v) j = Map.get d m j := by simp [get_put, h]

theorem wfFrom_cons {lo : Option Nat} {e : Nat × α} :
    Map.wfFrom d lo (e :: m) = true ↔
      (∀ b, lo = some b → b < e.1) ∧ e.2 ≠ d ∧ Map.wfFrom d (some e.1) m = true := by
  cases lo <;> simp [Map.wfFrom, and_assoc]

theorem wfFrom_mono {lo lo' : Option Nat} (h : Map.wfFrom d lo m = true)
    (hl : ∀ b, lo' = some b → ∃ c, lo = some c ∧ b ≤ c) : Map.wfFrom d lo' m = true := by
  cases m with
  | nil => rfl
  | cons e m =>
    rw [wfFrom_cons] at h ⊢
    refine ⟨fun b hb => ?_, h.2⟩
    obtain ⟨c, hc, hbc⟩ := hl b hb
    exact lt_of_le_of_lt hbc (h.1 c hc)

theorem wfFrom_drop {lo : Option Nat} (h : Map.wfFrom d lo m = true) : Map.wfFrom d lo (Map.drop m k) = true := by
  induction m generalizing lo with
  | nil => rfl
  | cons e m ih =>
    rw [wfFrom_cons] at h
    have ih := @ih (some e.1) h.2.2
    simp only [Map.drop] at ih
    by_cases he : e.1 = k
    · simp only [Map.drop, List.filter_cons, he, bne_self_eq_false, Bool.false_eq_true, if_false]
      exact wfFrom_mono ih (fun b hb => ⟨e.1, rfl, (h.1 b hb).le⟩)
    · simp only [Map.drop, List.filter_cons, bne_iff_ne.mpr he, if_true]
      exact wfFrom_cons.mpr ⟨h.1, h.2.1, ih⟩

theorem wfFrom_insertAt {lo : Option Nat} (h : Map.wfFrom d lo m = true) (hv : v ≠ d) (hk : ∀ e ∈ m, e.1 ≠ k)
    (hl : ∀ b, lo = some b → b < k) : Map.wfFrom d lo (Map.insertAt m k v) = true := by
  induction m generalizing lo with
  | nil => exact wfFrom_cons.mpr ⟨hl, hv, rfl⟩
  | cons e m ih =>
    rw [wfFrom_cons] at h
    unfold Map.insertAt
    split
    · next hke =>
      exact wfFrom_cons.mpr ⟨hl, hv, wfFrom_cons.mpr ⟨fun b hb => by cases hb; exact hke, h.2⟩⟩
    · next hke =>
      refine wfFrom_cons.mpr ⟨h.1, h.2.1, ih h.2.2 (fun x hx => hk x (List.mem_cons_of_mem _ hx)) ?_⟩
      intro b hb
      cases hb
      exact lt_of_le_of_ne (not_lt.mp hke) (hk e (List.mem_cons_self ..))

/-- A write keeps the canonical form. -/
theorem wf_put (h : Map.wf d m = true) : Map.wf d (Map.put d m k v) = true := by
  unfold Map.put
  split
  · exact wfFrom_drop h
  · next hv => exact wfFrom_insertAt (wfFrom_drop h) hv (fun e he => (mem_drop.mp he).2) (by simp)

/-- So does a write of consecutive keys. -/
theorem wf_putList {vs : List α} (h : Map.wf d m = true) : Map.wf d (Map.putList d m k vs) = true := by
  induction vs generalizing m k with
  | nil => exact h
  | cons v vs ih => exact ih (wf_put h)

/-- A read after a write of consecutive keys. -/
theorem get_putList {vs : List α} :
    Map.get d (Map.putList d m k vs) j = if k ≤ j ∧ j < k + vs.length then vs.getD (j - k) d else Map.get d m j := by
  induction vs generalizing m k with
  | nil => simp [Map.putList]
  | cons v vs ih =>
    simp only [Map.putList, ih, get_put, List.length_cons]
    by_cases h : j = k
    · subst h; simp
    · by_cases hk : k ≤ j
      · obtain ⟨i, rfl⟩ : ∃ i, j = k + 1 + i := ⟨j - (k + 1), by omega⟩
        have h1 : k + 1 + i - (k + 1) = i := by omega
        have h2 : k + 1 + i - k = i + 1 := by omega
        simp only [h1, h2, List.getD_cons_succ]
        grind
      · grind

/-- Below its first key a canonical map reads as the default. -/
theorem get_of_wfFrom {b : Nat} (h : Map.wfFrom d (some b) m = true) (hk : k ≤ b) : Map.get d m k = d := by
  induction m generalizing b with
  | nil => rfl
  | cons e m ih =>
    rw [wfFrom_cons] at h
    have := h.1 b rfl
    rw [get_cons, if_neg (by omega)]
    exact ih h.2.2 (by omega)

/-- Two canonical maps that read alike are equal. -/
theorem map_ext {m' : Map α} {lo lo' : Option Nat} (h : Map.wfFrom d lo m = true) (h' : Map.wfFrom d lo' m' = true)
    (e : ∀ k, Map.get d m k = Map.get d m' k) : m = m' := by
  induction m generalizing m' lo lo' with
  | nil =>
    cases m' with
    | nil => rfl
    | cons a m' => rw [wfFrom_cons] at h'; have := e a.1; simp [get_cons] at this; exact absurd this.symm h'.2.1
  | cons a m ih =>
    cases m' with
    | nil => rw [wfFrom_cons] at h; have := e a.1; simp [get_cons] at this; exact absurd this h.2.1
    | cons b m' =>
      rw [wfFrom_cons] at h h'
      have hk : a.1 = b.1 := by
        rcases Nat.lt_trichotomy a.1 b.1 with hl | he | hl
        · have := e a.1
          rw [get_cons, if_pos rfl, get_cons, if_neg (by omega), get_of_wfFrom h'.2.2 hl.le] at this
          exact absurd this h.2.1
        · exact he
        · have := e b.1
          rw [get_cons, if_neg (by omega), get_of_wfFrom h.2.2 hl.le, get_cons, if_pos rfl] at this
          exact absurd this.symm h'.2.1
      have hv : a.2 = b.2 := by have := e a.1; simpa [get_cons, hk] using this
      have hm : m = m' := ih h.2.2 h'.2.2 (fun k => by
        by_cases hka : k ≤ a.1
        · rw [get_of_wfFrom h.2.2 hka, get_of_wfFrom h'.2.2 (hk ▸ hka)]
        · have := e k
          rwa [get_cons, if_neg (by omega), get_cons, if_neg (by omega)] at this)
      rw [hm, Prod.ext hk hv]

omit [DecidableEq α]

theorem length_getList : (Map.getList d m k n).length = n := by
  induction n generalizing k with
  | zero => rfl
  | succ n ih => simp [Map.getList, ih]

theorem getD_getList {i : Nat} (h : i < n) : (Map.getList d m k n).getD i d = Map.get d m (k + i) := by
  induction n generalizing k i with
  | zero => omega
  | succ n ih =>
    cases i with
    | zero => simp [Map.getList]
    | succ i => simp only [Map.getList, List.getD_cons_succ]; rw [ih (by omega)]; congr 1; omega

end Sys2Proof.Laws
end

