-- ==== Sys2Proof/Laws/State.lean ====
section
/-! SUPPORT. What each update of the state leaves alone: one lemma per field per update. -/

namespace Sys2Proof.Laws

open Sys2Proof.Machine

variable (s : State)

@[simp] theorem setGang_agenda (k : Nat) (g : Gang) : (s.setGang k g).agenda = s.agenda := rfl
@[simp] theorem setGang_cur (k : Nat) (g : Gang) : (s.setGang k g).cur = s.cur := rfl
@[simp] theorem setGang_fresh (k : Nat) (g : Gang) : (s.setGang k g).fresh = s.fresh := rfl
@[simp] theorem setGang_nextOp (k : Nat) (g : Gang) : (s.setGang k g).nextOp = s.nextOp := rfl
@[simp] theorem setGang_nextCrew (k : Nat) (g : Gang) : (s.setGang k g).nextCrew = s.nextCrew := rfl
@[simp] theorem setGang_cycles (k : Nat) (g : Gang) : (s.setGang k g).cycles = s.cycles := rfl
@[simp] theorem setGang_resets (k : Nat) (g : Gang) : (s.setGang k g).resets = s.resets := rfl
@[simp] theorem setGang_powered (k : Nat) (g : Gang) : (s.setGang k g).powered = s.powered := rfl
@[simp] theorem setGang_issued (k : Nat) (g : Gang) : (s.setGang k g).issued = s.issued := rfl
@[simp] theorem setGang_puts (k : Nat) (g : Gang) : (s.setGang k g).puts = s.puts := rfl
@[simp] theorem setGang_images (k : Nat) (g : Gang) : (s.setGang k g).images = s.images := rfl
@[simp] theorem setGang_crews (k : Nat) (g : Gang) : (s.setGang k g).crews = s.crews := rfl
@[simp] theorem setGang_ops (k : Nat) (g : Gang) : (s.setGang k g).ops = s.ops := rfl
@[simp] theorem setGang_hops (k : Nat) (g : Gang) : (s.setGang k g).hops = s.hops := rfl
@[simp] theorem setGang_tails (k : Nat) (g : Gang) : (s.setGang k g).tails = s.tails := rfl
@[simp] theorem setGang_fifo (k : Nat) (g : Gang) : (s.setGang k g).fifo = s.fifo := rfl
@[simp] theorem setGang_vacqQ (k : Nat) (g : Gang) : (s.setGang k g).vacqQ = s.vacqQ := rfl
@[simp] theorem setGang_l1 (k : Nat) (g : Gang) : (s.setGang k g).l1 = s.l1 := rfl
@[simp] theorem setGang_quay (k : Nat) (g : Gang) : (s.setGang k g).quay = s.quay := rfl
@[simp] theorem setGang_rings (k : Nat) (g : Gang) : (s.setGang k g).rings = s.rings := rfl
@[simp] theorem setGang_harb (k : Nat) (g : Gang) : (s.setGang k g).harb = s.harb := rfl
@[simp] theorem setGang_host (k : Nat) (g : Gang) : (s.setGang k g).host = s.host := rfl
@[simp] theorem setGang_hostMem (k : Nat) (g : Gang) : (s.setGang k g).hostMem = s.hostMem := rfl
@[simp] theorem setGang_peerMem (k : Nat) (g : Gang) : (s.setGang k g).peerMem = s.peerMem := rfl
@[simp] theorem setMe_agenda (g : Gang) : (s.setMe g).agenda = s.agenda := rfl
@[simp] theorem setMe_cur (g : Gang) : (s.setMe g).cur = s.cur := rfl
@[simp] theorem setMe_fresh (g : Gang) : (s.setMe g).fresh = s.fresh := rfl
@[simp] theorem setMe_nextOp (g : Gang) : (s.setMe g).nextOp = s.nextOp := rfl
@[simp] theorem setMe_nextCrew (g : Gang) : (s.setMe g).nextCrew = s.nextCrew := rfl
@[simp] theorem setMe_cycles (g : Gang) : (s.setMe g).cycles = s.cycles := rfl
@[simp] theorem setMe_resets (g : Gang) : (s.setMe g).resets = s.resets := rfl
@[simp] theorem setMe_powered (g : Gang) : (s.setMe g).powered = s.powered := rfl
@[simp] theorem setMe_issued (g : Gang) : (s.setMe g).issued = s.issued := rfl
@[simp] theorem setMe_puts (g : Gang) : (s.setMe g).puts = s.puts := rfl
@[simp] theorem setMe_images (g : Gang) : (s.setMe g).images = s.images := rfl
@[simp] theorem setMe_crews (g : Gang) : (s.setMe g).crews = s.crews := rfl
@[simp] theorem setMe_ops (g : Gang) : (s.setMe g).ops = s.ops := rfl
@[simp] theorem setMe_hops (g : Gang) : (s.setMe g).hops = s.hops := rfl
@[simp] theorem setMe_tails (g : Gang) : (s.setMe g).tails = s.tails := rfl
@[simp] theorem setMe_fifo (g : Gang) : (s.setMe g).fifo = s.fifo := rfl
@[simp] theorem setMe_vacqQ (g : Gang) : (s.setMe g).vacqQ = s.vacqQ := rfl
@[simp] theorem setMe_l1 (g : Gang) : (s.setMe g).l1 = s.l1 := rfl
@[simp] theorem setMe_quay (g : Gang) : (s.setMe g).quay = s.quay := rfl
@[simp] theorem setMe_rings (g : Gang) : (s.setMe g).rings = s.rings := rfl
@[simp] theorem setMe_harb (g : Gang) : (s.setMe g).harb = s.harb := rfl
@[simp] theorem setMe_host (g : Gang) : (s.setMe g).host = s.host := rfl
@[simp] theorem setMe_hostMem (g : Gang) : (s.setMe g).hostMem = s.hostMem := rfl
@[simp] theorem setMe_peerMem (g : Gang) : (s.setMe g).peerMem = s.peerMem := rfl
@[simp] theorem setCrew_agenda (c : Nat) (w : Crew) : (s.setCrew c w).agenda = s.agenda := rfl
@[simp] theorem setCrew_cur (c : Nat) (w : Crew) : (s.setCrew c w).cur = s.cur := rfl
@[simp] theorem setCrew_fresh (c : Nat) (w : Crew) : (s.setCrew c w).fresh = s.fresh := rfl
@[simp] theorem setCrew_nextOp (c : Nat) (w : Crew) : (s.setCrew c w).nextOp = s.nextOp := rfl
@[simp] theorem setCrew_nextCrew (c : Nat) (w : Crew) : (s.setCrew c w).nextCrew = s.nextCrew := rfl
@[simp] theorem setCrew_cycles (c : Nat) (w : Crew) : (s.setCrew c w).cycles = s.cycles := rfl
@[simp] theorem setCrew_resets (c : Nat) (w : Crew) : (s.setCrew c w).resets = s.resets := rfl
@[simp] theorem setCrew_powered (c : Nat) (w : Crew) : (s.setCrew c w).powered = s.powered := rfl
@[simp] theorem setCrew_issued (c : Nat) (w : Crew) : (s.setCrew c w).issued = s.issued := rfl
@[simp] theorem setCrew_puts (c : Nat) (w : Crew) : (s.setCrew c w).puts = s.puts := rfl
@[simp] theorem setCrew_images (c : Nat) (w : Crew) : (s.setCrew c w).images = s.images := rfl
@[simp] theorem setCrew_gangs (c : Nat) (w : Crew) : (s.setCrew c w).gangs = s.gangs := rfl
@[simp] theorem setCrew_ops (c : Nat) (w : Crew) : (s.setCrew c w).ops = s.ops := rfl
@[simp] theorem setCrew_hops (c : Nat) (w : Crew) : (s.setCrew c w).hops = s.hops := rfl
@[simp] theorem setCrew_tails (c : Nat) (w : Crew) : (s.setCrew c w).tails = s.tails := rfl
@[simp] theorem setCrew_fifo (c : Nat) (w : Crew) : (s.setCrew c w).fifo = s.fifo := rfl
@[simp] theorem setCrew_vacqQ (c : Nat) (w : Crew) : (s.setCrew c w).vacqQ = s.vacqQ := rfl
@[simp] theorem setCrew_l1 (c : Nat) (w : Crew) : (s.setCrew c w).l1 = s.l1 := rfl
@[simp] theorem setCrew_quay (c : Nat) (w : Crew) : (s.setCrew c w).quay = s.quay := rfl
@[simp] theorem setCrew_rings (c : Nat) (w : Crew) : (s.setCrew c w).rings = s.rings := rfl
@[simp] theorem setCrew_harb (c : Nat) (w : Crew) : (s.setCrew c w).harb = s.harb := rfl
@[simp] theorem setCrew_host (c : Nat) (w : Crew) : (s.setCrew c w).host = s.host := rfl
@[simp] theorem setCrew_hostMem (c : Nat) (w : Crew) : (s.setCrew c w).hostMem = s.hostMem := rfl
@[simp] theorem setCrew_peerMem (c : Nat) (w : Crew) : (s.setCrew c w).peerMem = s.peerMem := rfl
@[simp] theorem useFree_agenda (n : Nat) : (s.useFree n).agenda = s.agenda := rfl
@[simp] theorem useFree_cur (n : Nat) : (s.useFree n).cur = s.cur := rfl
@[simp] theorem useFree_nextOp (n : Nat) : (s.useFree n).nextOp = s.nextOp := rfl
@[simp] theorem useFree_nextCrew (n : Nat) : (s.useFree n).nextCrew = s.nextCrew := rfl
@[simp] theorem useFree_cycles (n : Nat) : (s.useFree n).cycles = s.cycles := rfl
@[simp] theorem useFree_resets (n : Nat) : (s.useFree n).resets = s.resets := rfl
@[simp] theorem useFree_powered (n : Nat) : (s.useFree n).powered = s.powered := rfl
@[simp] theorem useFree_issued (n : Nat) : (s.useFree n).issued = s.issued := rfl
@[simp] theorem useFree_puts (n : Nat) : (s.useFree n).puts = s.puts := rfl
@[simp] theorem useFree_images (n : Nat) : (s.useFree n).images = s.images := rfl
@[simp] theorem useFree_gangs (n : Nat) : (s.useFree n).gangs = s.gangs := rfl
@[simp] theorem useFree_crews (n : Nat) : (s.useFree n).crews = s.crews := rfl
@[simp] theorem useFree_ops (n : Nat) : (s.useFree n).ops = s.ops := rfl
@[simp] theorem useFree_hops (n : Nat) : (s.useFree n).hops = s.hops := rfl
@[simp] theorem useFree_tails (n : Nat) : (s.useFree n).tails = s.tails := rfl
@[simp] theorem useFree_fifo (n : Nat) : (s.useFree n).fifo = s.fifo := rfl
@[simp] theorem useFree_vacqQ (n : Nat) : (s.useFree n).vacqQ = s.vacqQ := rfl
@[simp] theorem useFree_l1 (n : Nat) : (s.useFree n).l1 = s.l1 := rfl
@[simp] theorem useFree_quay (n : Nat) : (s.useFree n).quay = s.quay := rfl
@[simp] theorem useFree_rings (n : Nat) : (s.useFree n).rings = s.rings := rfl
@[simp] theorem useFree_harb (n : Nat) : (s.useFree n).harb = s.harb := rfl
@[simp] theorem useFree_host (n : Nat) : (s.useFree n).host = s.host := rfl
@[simp] theorem useFree_hostMem (n : Nat) : (s.useFree n).hostMem = s.hostMem := rfl
@[simp] theorem useFree_peerMem (n : Nat) : (s.useFree n).peerMem = s.peerMem := rfl
@[simp] theorem writePhys_agenda (a : Nat) (bs : List Byte) : (s.writePhys a bs).agenda = s.agenda := rfl
@[simp] theorem writePhys_cur (a : Nat) (bs : List Byte) : (s.writePhys a bs).cur = s.cur := rfl
@[simp] theorem writePhys_fresh (a : Nat) (bs : List Byte) : (s.writePhys a bs).fresh = s.fresh := rfl
@[simp] theorem writePhys_nextOp (a : Nat) (bs : List Byte) : (s.writePhys a bs).nextOp = s.nextOp := rfl
@[simp] theorem writePhys_nextCrew (a : Nat) (bs : List Byte) : (s.writePhys a bs).nextCrew = s.nextCrew := rfl
@[simp] theorem writePhys_cycles (a : Nat) (bs : List Byte) : (s.writePhys a bs).cycles = s.cycles := rfl
@[simp] theorem writePhys_resets (a : Nat) (bs : List Byte) : (s.writePhys a bs).resets = s.resets := rfl
@[simp] theorem writePhys_powered (a : Nat) (bs : List Byte) : (s.writePhys a bs).powered = s.powered := rfl
@[simp] theorem writePhys_issued (a : Nat) (bs : List Byte) : (s.writePhys a bs).issued = s.issued := rfl
@[simp] theorem writePhys_puts (a : Nat) (bs : List Byte) : (s.writePhys a bs).puts = s.puts := rfl
@[simp] theorem writePhys_images (a : Nat) (bs : List Byte) : (s.writePhys a bs).images = s.images := rfl
@[simp] theorem writePhys_gangs (a : Nat) (bs : List Byte) : (s.writePhys a bs).gangs = s.gangs := rfl
@[simp] theorem writePhys_crews (a : Nat) (bs : List Byte) : (s.writePhys a bs).crews = s.crews := rfl
@[simp] theorem writePhys_ops (a : Nat) (bs : List Byte) : (s.writePhys a bs).ops = s.ops := rfl
@[simp] theorem writePhys_hops (a : Nat) (bs : List Byte) : (s.writePhys a bs).hops = s.hops := rfl
@[simp] theorem writePhys_tails (a : Nat) (bs : List Byte) : (s.writePhys a bs).tails = s.tails := rfl
@[simp] theorem writePhys_fifo (a : Nat) (bs : List Byte) : (s.writePhys a bs).fifo = s.fifo := rfl
@[simp] theorem writePhys_vacqQ (a : Nat) (bs : List Byte) : (s.writePhys a bs).vacqQ = s.vacqQ := rfl
@[simp] theorem writePhys_l1 (a : Nat) (bs : List Byte) : (s.writePhys a bs).l1 = s.l1 := rfl
@[simp] theorem writePhys_rings (a : Nat) (bs : List Byte) : (s.writePhys a bs).rings = s.rings := rfl
@[simp] theorem writePhys_harb (a : Nat) (bs : List Byte) : (s.writePhys a bs).harb = s.harb := rfl
@[simp] theorem writePhys_host (a : Nat) (bs : List Byte) : (s.writePhys a bs).host = s.host := rfl
@[simp] theorem writePhys_hostMem (a : Nat) (bs : List Byte) : (s.writePhys a bs).hostMem = s.hostMem := rfl
@[simp] theorem writePhys_peerMem (a : Nat) (bs : List Byte) : (s.writePhys a bs).peerMem = s.peerMem := rfl
@[simp] theorem writeHost_agenda (a : Nat) (bs : List Byte) : (s.writeHost a bs).agenda = s.agenda := rfl
@[simp] theorem writeHost_cur (a : Nat) (bs : List Byte) : (s.writeHost a bs).cur = s.cur := rfl
@[simp] theorem writeHost_fresh (a : Nat) (bs : List Byte) : (s.writeHost a bs).fresh = s.fresh := rfl
@[simp] theorem writeHost_nextOp (a : Nat) (bs : List Byte) : (s.writeHost a bs).nextOp = s.nextOp := rfl
@[simp] theorem writeHost_nextCrew (a : Nat) (bs : List Byte) : (s.writeHost a bs).nextCrew = s.nextCrew := rfl
@[simp] theorem writeHost_cycles (a : Nat) (bs : List Byte) : (s.writeHost a bs).cycles = s.cycles := rfl
@[simp] theorem writeHost_resets (a : Nat) (bs : List Byte) : (s.writeHost a bs).resets = s.resets := rfl
@[simp] theorem writeHost_powered (a : Nat) (bs : List Byte) : (s.writeHost a bs).powered = s.powered := rfl
@[simp] theorem writeHost_issued (a : Nat) (bs : List Byte) : (s.writeHost a bs).issued = s.issued := rfl
@[simp] theorem writeHost_puts (a : Nat) (bs : List Byte) : (s.writeHost a bs).puts = s.puts := rfl
@[simp] theorem writeHost_images (a : Nat) (bs : List Byte) : (s.writeHost a bs).images = s.images := rfl
@[simp] theorem writeHost_gangs (a : Nat) (bs : List Byte) : (s.writeHost a bs).gangs = s.gangs := rfl
@[simp] theorem writeHost_crews (a : Nat) (bs : List Byte) : (s.writeHost a bs).crews = s.crews := rfl
@[simp] theorem writeHost_ops (a : Nat) (bs : List Byte) : (s.writeHost a bs).ops = s.ops := rfl
@[simp] theorem writeHost_hops (a : Nat) (bs : List Byte) : (s.writeHost a bs).hops = s.hops := rfl
@[simp] theorem writeHost_tails (a : Nat) (bs : List Byte) : (s.writeHost a bs).tails = s.tails := rfl
@[simp] theorem writeHost_fifo (a : Nat) (bs : List Byte) : (s.writeHost a bs).fifo = s.fifo := rfl
@[simp] theorem writeHost_vacqQ (a : Nat) (bs : List Byte) : (s.writeHost a bs).vacqQ = s.vacqQ := rfl
@[simp] theorem writeHost_l1 (a : Nat) (bs : List Byte) : (s.writeHost a bs).l1 = s.l1 := rfl
@[simp] theorem writeHost_quay (a : Nat) (bs : List Byte) : (s.writeHost a bs).quay = s.quay := rfl
@[simp] theorem writeHost_rings (a : Nat) (bs : List Byte) : (s.writeHost a bs).rings = s.rings := rfl
@[simp] theorem writeHost_harb (a : Nat) (bs : List Byte) : (s.writeHost a bs).harb = s.harb := rfl
@[simp] theorem writeHost_host (a : Nat) (bs : List Byte) : (s.writeHost a bs).host = s.host := rfl
@[simp] theorem writeHost_peerMem (a : Nat) (bs : List Byte) : (s.writeHost a bs).peerMem = s.peerMem := rfl
@[simp] theorem writePeer_agenda (a : Nat) (bs : List Byte) : (s.writePeer a bs).agenda = s.agenda := rfl
@[simp] theorem writePeer_cur (a : Nat) (bs : List Byte) : (s.writePeer a bs).cur = s.cur := rfl
@[simp] theorem writePeer_fresh (a : Nat) (bs : List Byte) : (s.writePeer a bs).fresh = s.fresh := rfl
@[simp] theorem writePeer_nextOp (a : Nat) (bs : List Byte) : (s.writePeer a bs).nextOp = s.nextOp := rfl
@[simp] theorem writePeer_nextCrew (a : Nat) (bs : List Byte) : (s.writePeer a bs).nextCrew = s.nextCrew := rfl
@[simp] theorem writePeer_cycles (a : Nat) (bs : List Byte) : (s.writePeer a bs).cycles = s.cycles := rfl
@[simp] theorem writePeer_resets (a : Nat) (bs : List Byte) : (s.writePeer a bs).resets = s.resets := rfl
@[simp] theorem writePeer_powered (a : Nat) (bs : List Byte) : (s.writePeer a bs).powered = s.powered := rfl
@[simp] theorem writePeer_issued (a : Nat) (bs : List Byte) : (s.writePeer a bs).issued = s.issued := rfl
@[simp] theorem writePeer_puts (a : Nat) (bs : List Byte) : (s.writePeer a bs).puts = s.puts := rfl
@[simp] theorem writePeer_images (a : Nat) (bs : List Byte) : (s.writePeer a bs).images = s.images := rfl
@[simp] theorem writePeer_gangs (a : Nat) (bs : List Byte) : (s.writePeer a bs).gangs = s.gangs := rfl
@[simp] theorem writePeer_crews (a : Nat) (bs : List Byte) : (s.writePeer a bs).crews = s.crews := rfl
@[simp] theorem writePeer_ops (a : Nat) (bs : List Byte) : (s.writePeer a bs).ops = s.ops := rfl
@[simp] theorem writePeer_hops (a : Nat) (bs : List Byte) : (s.writePeer a bs).hops = s.hops := rfl
@[simp] theorem writePeer_tails (a : Nat) (bs : List Byte) : (s.writePeer a bs).tails = s.tails := rfl
@[simp] theorem writePeer_fifo (a : Nat) (bs : List Byte) : (s.writePeer a bs).fifo = s.fifo := rfl
@[simp] theorem writePeer_vacqQ (a : Nat) (bs : List Byte) : (s.writePeer a bs).vacqQ = s.vacqQ := rfl
@[simp] theorem writePeer_l1 (a : Nat) (bs : List Byte) : (s.writePeer a bs).l1 = s.l1 := rfl
@[simp] theorem writePeer_quay (a : Nat) (bs : List Byte) : (s.writePeer a bs).quay = s.quay := rfl
@[simp] theorem writePeer_rings (a : Nat) (bs : List Byte) : (s.writePeer a bs).rings = s.rings := rfl
@[simp] theorem writePeer_harb (a : Nat) (bs : List Byte) : (s.writePeer a bs).harb = s.harb := rfl
@[simp] theorem writePeer_host (a : Nat) (bs : List Byte) : (s.writePeer a bs).host = s.host := rfl
@[simp] theorem writePeer_hostMem (a : Nat) (bs : List Byte) : (s.writePeer a bs).hostMem = s.hostMem := rfl
@[simp] theorem setOp_agenda (o : Op) : (s.setOp o).agenda = s.agenda := rfl
@[simp] theorem setOp_cur (o : Op) : (s.setOp o).cur = s.cur := rfl
@[simp] theorem setOp_fresh (o : Op) : (s.setOp o).fresh = s.fresh := rfl
@[simp] theorem setOp_nextOp (o : Op) : (s.setOp o).nextOp = s.nextOp := rfl
@[simp] theorem setOp_nextCrew (o : Op) : (s.setOp o).nextCrew = s.nextCrew := rfl
@[simp] theorem setOp_cycles (o : Op) : (s.setOp o).cycles = s.cycles := rfl
@[simp] theorem setOp_resets (o : Op) : (s.setOp o).resets = s.resets := rfl
@[simp] theorem setOp_powered (o : Op) : (s.setOp o).powered = s.powered := rfl
@[simp] theorem setOp_issued (o : Op) : (s.setOp o).issued = s.issued := rfl
@[simp] theorem setOp_puts (o : Op) : (s.setOp o).puts = s.puts := rfl
@[simp] theorem setOp_images (o : Op) : (s.setOp o).images = s.images := rfl
@[simp] theorem setOp_gangs (o : Op) : (s.setOp o).gangs = s.gangs := rfl
@[simp] theorem setOp_crews (o : Op) : (s.setOp o).crews = s.crews := rfl
@[simp] theorem setOp_hops (o : Op) : (s.setOp o).hops = s.hops := rfl
@[simp] theorem setOp_tails (o : Op) : (s.setOp o).tails = s.tails := rfl
@[simp] theorem setOp_fifo (o : Op) : (s.setOp o).fifo = s.fifo := rfl
@[simp] theorem setOp_vacqQ (o : Op) : (s.setOp o).vacqQ = s.vacqQ := rfl
@[simp] theorem setOp_l1 (o : Op) : (s.setOp o).l1 = s.l1 := rfl
@[simp] theorem setOp_quay (o : Op) : (s.setOp o).quay = s.quay := rfl
@[simp] theorem setOp_rings (o : Op) : (s.setOp o).rings = s.rings := rfl
@[simp] theorem setOp_harb (o : Op) : (s.setOp o).harb = s.harb := rfl
@[simp] theorem setOp_host (o : Op) : (s.setOp o).host = s.host := rfl
@[simp] theorem setOp_hostMem (o : Op) : (s.setOp o).hostMem = s.hostMem := rfl
@[simp] theorem setOp_peerMem (o : Op) : (s.setOp o).peerMem = s.peerMem := rfl
@[simp] theorem dropOp_agenda (id : Nat) : (s.dropOp id).agenda = s.agenda := rfl
@[simp] theorem dropOp_cur (id : Nat) : (s.dropOp id).cur = s.cur := rfl
@[simp] theorem dropOp_fresh (id : Nat) : (s.dropOp id).fresh = s.fresh := rfl
@[simp] theorem dropOp_nextOp (id : Nat) : (s.dropOp id).nextOp = s.nextOp := rfl
@[simp] theorem dropOp_nextCrew (id : Nat) : (s.dropOp id).nextCrew = s.nextCrew := rfl
@[simp] theorem dropOp_cycles (id : Nat) : (s.dropOp id).cycles = s.cycles := rfl
@[simp] theorem dropOp_resets (id : Nat) : (s.dropOp id).resets = s.resets := rfl
@[simp] theorem dropOp_powered (id : Nat) : (s.dropOp id).powered = s.powered := rfl
@[simp] theorem dropOp_issued (id : Nat) : (s.dropOp id).issued = s.issued := rfl
@[simp] theorem dropOp_puts (id : Nat) : (s.dropOp id).puts = s.puts := rfl
@[simp] theorem dropOp_images (id : Nat) : (s.dropOp id).images = s.images := rfl
@[simp] theorem dropOp_gangs (id : Nat) : (s.dropOp id).gangs = s.gangs := rfl
@[simp] theorem dropOp_crews (id : Nat) : (s.dropOp id).crews = s.crews := rfl
@[simp] theorem dropOp_hops (id : Nat) : (s.dropOp id).hops = s.hops := rfl
@[simp] theorem dropOp_tails (id : Nat) : (s.dropOp id).tails = s.tails := rfl
@[simp] theorem dropOp_fifo (id : Nat) : (s.dropOp id).fifo = s.fifo := rfl
@[simp] theorem dropOp_vacqQ (id : Nat) : (s.dropOp id).vacqQ = s.vacqQ := rfl
@[simp] theorem dropOp_l1 (id : Nat) : (s.dropOp id).l1 = s.l1 := rfl
@[simp] theorem dropOp_quay (id : Nat) : (s.dropOp id).quay = s.quay := rfl
@[simp] theorem dropOp_rings (id : Nat) : (s.dropOp id).rings = s.rings := rfl
@[simp] theorem dropOp_harb (id : Nat) : (s.dropOp id).harb = s.harb := rfl
@[simp] theorem dropOp_host (id : Nat) : (s.dropOp id).host = s.host := rfl
@[simp] theorem dropOp_hostMem (id : Nat) : (s.dropOp id).hostMem = s.hostMem := rfl
@[simp] theorem dropOp_peerMem (id : Nat) : (s.dropOp id).peerMem = s.peerMem := rfl
@[simp] theorem setHop_agenda (o : HOp) : (s.setHop o).agenda = s.agenda := rfl
@[simp] theorem setHop_cur (o : HOp) : (s.setHop o).cur = s.cur := rfl
@[simp] theorem setHop_fresh (o : HOp) : (s.setHop o).fresh = s.fresh := rfl
@[simp] theorem setHop_nextOp (o : HOp) : (s.setHop o).nextOp = s.nextOp := rfl
@[simp] theorem setHop_nextCrew (o : HOp) : (s.setHop o).nextCrew = s.nextCrew := rfl
@[simp] theorem setHop_cycles (o : HOp) : (s.setHop o).cycles = s.cycles := rfl
@[simp] theorem setHop_resets (o : HOp) : (s.setHop o).resets = s.resets := rfl
@[simp] theorem setHop_powered (o : HOp) : (s.setHop o).powered = s.powered := rfl
@[simp] theorem setHop_issued (o : HOp) : (s.setHop o).issued = s.issued := rfl
@[simp] theorem setHop_puts (o : HOp) : (s.setHop o).puts = s.puts := rfl
@[simp] theorem setHop_images (o : HOp) : (s.setHop o).images = s.images := rfl
@[simp] theorem setHop_gangs (o : HOp) : (s.setHop o).gangs = s.gangs := rfl
@[simp] theorem setHop_crews (o : HOp) : (s.setHop o).crews = s.crews := rfl
@[simp] theorem setHop_ops (o : HOp) : (s.setHop o).ops = s.ops := rfl
@[simp] theorem setHop_fifo (o : HOp) : (s.setHop o).fifo = s.fifo := rfl
@[simp] theorem setHop_vacqQ (o : HOp) : (s.setHop o).vacqQ = s.vacqQ := rfl
@[simp] theorem setHop_l1 (o : HOp) : (s.setHop o).l1 = s.l1 := rfl
@[simp] theorem setHop_quay (o : HOp) : (s.setHop o).quay = s.quay := rfl
@[simp] theorem setHop_rings (o : HOp) : (s.setHop o).rings = s.rings := rfl
@[simp] theorem setHop_harb (o : HOp) : (s.setHop o).harb = s.harb := rfl
@[simp] theorem setHop_host (o : HOp) : (s.setHop o).host = s.host := rfl
@[simp] theorem setHop_hostMem (o : HOp) : (s.setHop o).hostMem = s.hostMem := rfl
@[simp] theorem setHop_peerMem (o : HOp) : (s.setHop o).peerMem = s.peerMem := rfl
@[simp] theorem issue_agenda (o : Op) : (s.issue o).agenda = s.agenda := rfl
@[simp] theorem issue_cur (o : Op) : (s.issue o).cur = s.cur := rfl
@[simp] theorem issue_fresh (o : Op) : (s.issue o).fresh = s.fresh := rfl
@[simp] theorem issue_nextCrew (o : Op) : (s.issue o).nextCrew = s.nextCrew := rfl
@[simp] theorem issue_cycles (o : Op) : (s.issue o).cycles = s.cycles := rfl
@[simp] theorem issue_resets (o : Op) : (s.issue o).resets = s.resets := rfl
@[simp] theorem issue_powered (o : Op) : (s.issue o).powered = s.powered := rfl
@[simp] theorem issue_issued (o : Op) : (s.issue o).issued = s.issued := rfl
@[simp] theorem issue_puts (o : Op) : (s.issue o).puts = s.puts := rfl
@[simp] theorem issue_images (o : Op) : (s.issue o).images = s.images := rfl
@[simp] theorem issue_gangs (o : Op) : (s.issue o).gangs = s.gangs := rfl
@[simp] theorem issue_crews (o : Op) : (s.issue o).crews = s.crews := rfl
@[simp] theorem issue_hops (o : Op) : (s.issue o).hops = s.hops := rfl
@[simp] theorem issue_tails (o : Op) : (s.issue o).tails = s.tails := rfl
@[simp] theorem issue_fifo (o : Op) : (s.issue o).fifo = s.fifo := rfl
@[simp] theorem issue_vacqQ (o : Op) : (s.issue o).vacqQ = s.vacqQ := rfl
@[simp] theorem issue_l1 (o : Op) : (s.issue o).l1 = s.l1 := rfl
@[simp] theorem issue_quay (o : Op) : (s.issue o).quay = s.quay := rfl
@[simp] theorem issue_rings (o : Op) : (s.issue o).rings = s.rings := rfl
@[simp] theorem issue_harb (o : Op) : (s.issue o).harb = s.harb := rfl
@[simp] theorem issue_host (o : Op) : (s.issue o).host = s.host := rfl
@[simp] theorem issue_hostMem (o : Op) : (s.issue o).hostMem = s.hostMem := rfl
@[simp] theorem issue_peerMem (o : Op) : (s.issue o).peerMem = s.peerMem := rfl
@[simp] theorem setRing_agenda (a : Nat) (r : FaultRing) : (s.setRing a r).agenda = s.agenda := rfl
@[simp] theorem setRing_cur (a : Nat) (r : FaultRing) : (s.setRing a r).cur = s.cur := rfl
@[simp] theorem setRing_fresh (a : Nat) (r : FaultRing) : (s.setRing a r).fresh = s.fresh := rfl
@[simp] theorem setRing_nextOp (a : Nat) (r : FaultRing) : (s.setRing a r).nextOp = s.nextOp := rfl
@[simp] theorem setRing_nextCrew (a : Nat) (r : FaultRing) : (s.setRing a r).nextCrew = s.nextCrew := rfl
@[simp] theorem setRing_cycles (a : Nat) (r : FaultRing) : (s.setRing a r).cycles = s.cycles := rfl
@[simp] theorem setRing_resets (a : Nat) (r : FaultRing) : (s.setRing a r).resets = s.resets := rfl
@[simp] theorem setRing_powered (a : Nat) (r : FaultRing) : (s.setRing a r).powered = s.powered := rfl
@[simp] theorem setRing_issued (a : Nat) (r : FaultRing) : (s.setRing a r).issued = s.issued := rfl
@[simp] theorem setRing_puts (a : Nat) (r : FaultRing) : (s.setRing a r).puts = s.puts := rfl
@[simp] theorem setRing_images (a : Nat) (r : FaultRing) : (s.setRing a r).images = s.images := rfl
@[simp] theorem setRing_gangs (a : Nat) (r : FaultRing) : (s.setRing a r).gangs = s.gangs := rfl
@[simp] theorem setRing_crews (a : Nat) (r : FaultRing) : (s.setRing a r).crews = s.crews := rfl
@[simp] theorem setRing_ops (a : Nat) (r : FaultRing) : (s.setRing a r).ops = s.ops := rfl
@[simp] theorem setRing_hops (a : Nat) (r : FaultRing) : (s.setRing a r).hops = s.hops := rfl
@[simp] theorem setRing_tails (a : Nat) (r : FaultRing) : (s.setRing a r).tails = s.tails := rfl
@[simp] theorem setRing_fifo (a : Nat) (r : FaultRing) : (s.setRing a r).fifo = s.fifo := rfl
@[simp] theorem setRing_vacqQ (a : Nat) (r : FaultRing) : (s.setRing a r).vacqQ = s.vacqQ := rfl
@[simp] theorem setRing_l1 (a : Nat) (r : FaultRing) : (s.setRing a r).l1 = s.l1 := rfl
@[simp] theorem setRing_quay (a : Nat) (r : FaultRing) : (s.setRing a r).quay = s.quay := rfl
@[simp] theorem setRing_harb (a : Nat) (r : FaultRing) : (s.setRing a r).harb = s.harb := rfl
@[simp] theorem setRing_host (a : Nat) (r : FaultRing) : (s.setRing a r).host = s.host := rfl
@[simp] theorem setRing_hostMem (a : Nat) (r : FaultRing) : (s.setRing a r).hostMem = s.hostMem := rfl
@[simp] theorem setRing_peerMem (a : Nat) (r : FaultRing) : (s.setRing a r).peerMem = s.peerMem := rfl
@[simp] theorem emptyL1_agenda (c : Nat) : (s.emptyL1 c).agenda = s.agenda := rfl
@[simp] theorem emptyL1_cur (c : Nat) : (s.emptyL1 c).cur = s.cur := rfl
@[simp] theorem emptyL1_fresh (c : Nat) : (s.emptyL1 c).fresh = s.fresh := rfl
@[simp] theorem emptyL1_nextOp (c : Nat) : (s.emptyL1 c).nextOp = s.nextOp := rfl
@[simp] theorem emptyL1_nextCrew (c : Nat) : (s.emptyL1 c).nextCrew = s.nextCrew := rfl
@[simp] theorem emptyL1_cycles (c : Nat) : (s.emptyL1 c).cycles = s.cycles := rfl
@[simp] theorem emptyL1_resets (c : Nat) : (s.emptyL1 c).resets = s.resets := rfl
@[simp] theorem emptyL1_powered (c : Nat) : (s.emptyL1 c).powered = s.powered := rfl
@[simp] theorem emptyL1_issued (c : Nat) : (s.emptyL1 c).issued = s.issued := rfl
@[simp] theorem emptyL1_puts (c : Nat) : (s.emptyL1 c).puts = s.puts := rfl
@[simp] theorem emptyL1_images (c : Nat) : (s.emptyL1 c).images = s.images := rfl
@[simp] theorem emptyL1_gangs (c : Nat) : (s.emptyL1 c).gangs = s.gangs := rfl
@[simp] theorem emptyL1_crews (c : Nat) : (s.emptyL1 c).crews = s.crews := rfl
@[simp] theorem emptyL1_ops (c : Nat) : (s.emptyL1 c).ops = s.ops := rfl
@[simp] theorem emptyL1_hops (c : Nat) : (s.emptyL1 c).hops = s.hops := rfl
@[simp] theorem emptyL1_tails (c : Nat) : (s.emptyL1 c).tails = s.tails := rfl
@[simp] theorem emptyL1_fifo (c : Nat) : (s.emptyL1 c).fifo = s.fifo := rfl
@[simp] theorem emptyL1_vacqQ (c : Nat) : (s.emptyL1 c).vacqQ = s.vacqQ := rfl
@[simp] theorem emptyL1_quay (c : Nat) : (s.emptyL1 c).quay = s.quay := rfl
@[simp] theorem emptyL1_rings (c : Nat) : (s.emptyL1 c).rings = s.rings := rfl
@[simp] theorem emptyL1_harb (c : Nat) : (s.emptyL1 c).harb = s.harb := rfl
@[simp] theorem emptyL1_host (c : Nat) : (s.emptyL1 c).host = s.host := rfl
@[simp] theorem emptyL1_hostMem (c : Nat) : (s.emptyL1 c).hostMem = s.hostMem := rfl
@[simp] theorem emptyL1_peerMem (c : Nat) : (s.emptyL1 c).peerMem = s.peerMem := rfl
@[simp] theorem taint_agenda (k : Nat) (wr : List Nat) : (s.taint k wr).agenda = s.agenda := rfl
@[simp] theorem taint_cur (k : Nat) (wr : List Nat) : (s.taint k wr).cur = s.cur := rfl
@[simp] theorem taint_fresh (k : Nat) (wr : List Nat) : (s.taint k wr).fresh = s.fresh := rfl
@[simp] theorem taint_nextOp (k : Nat) (wr : List Nat) : (s.taint k wr).nextOp = s.nextOp := rfl
@[simp] theorem taint_nextCrew (k : Nat) (wr : List Nat) : (s.taint k wr).nextCrew = s.nextCrew := rfl
@[simp] theorem taint_cycles (k : Nat) (wr : List Nat) : (s.taint k wr).cycles = s.cycles := rfl
@[simp] theorem taint_resets (k : Nat) (wr : List Nat) : (s.taint k wr).resets = s.resets := rfl
@[simp] theorem taint_powered (k : Nat) (wr : List Nat) : (s.taint k wr).powered = s.powered := rfl
@[simp] theorem taint_issued (k : Nat) (wr : List Nat) : (s.taint k wr).issued = s.issued := rfl
@[simp] theorem taint_puts (k : Nat) (wr : List Nat) : (s.taint k wr).puts = s.puts := rfl
@[simp] theorem taint_images (k : Nat) (wr : List Nat) : (s.taint k wr).images = s.images := rfl
@[simp] theorem taint_gangs (k : Nat) (wr : List Nat) : (s.taint k wr).gangs = s.gangs := rfl
@[simp] theorem taint_crews (k : Nat) (wr : List Nat) : (s.taint k wr).crews = s.crews := rfl
@[simp] theorem taint_ops (k : Nat) (wr : List Nat) : (s.taint k wr).ops = s.ops := rfl
@[simp] theorem taint_fifo (k : Nat) (wr : List Nat) : (s.taint k wr).fifo = s.fifo := rfl
@[simp] theorem taint_vacqQ (k : Nat) (wr : List Nat) : (s.taint k wr).vacqQ = s.vacqQ := rfl
@[simp] theorem taint_l1 (k : Nat) (wr : List Nat) : (s.taint k wr).l1 = s.l1 := rfl
@[simp] theorem taint_quay (k : Nat) (wr : List Nat) : (s.taint k wr).quay = s.quay := rfl
@[simp] theorem taint_rings (k : Nat) (wr : List Nat) : (s.taint k wr).rings = s.rings := rfl
@[simp] theorem taint_harb (k : Nat) (wr : List Nat) : (s.taint k wr).harb = s.harb := rfl
@[simp] theorem taint_host (k : Nat) (wr : List Nat) : (s.taint k wr).host = s.host := rfl
@[simp] theorem taint_hostMem (k : Nat) (wr : List Nat) : (s.taint k wr).hostMem = s.hostMem := rfl
@[simp] theorem taint_peerMem (k : Nat) (wr : List Nat) : (s.taint k wr).peerMem = s.peerMem := rfl

@[simp] theorem setGang_gang (k j : Nat) (g : Gang) : (s.setGang k g).gang j = if j = k then g else s.gang j := get_put
@[simp] theorem setMe_gang (j : Nat) (g : Gang) : (s.setMe g).gang j = if j = s.cur then g else s.gang j := get_put
@[simp] theorem setMe_me (g : Gang) : (s.setMe g).me = g := by simp [State.me]
@[simp] theorem setCrew_gang (c k : Nat) (w : Crew) : (s.setCrew c w).gang k = s.gang k := rfl
@[simp] theorem setCrew_crew (c b : Nat) (w : Crew) : (s.setCrew c w).crew b = if b = c then w else s.crew b := get_put
@[simp] theorem setGang_crew (k b : Nat) (g : Gang) : (s.setGang k g).crew b = s.crew b := rfl
@[simp] theorem setMe_crew (b : Nat) (g : Gang) : (s.setMe g).crew b = s.crew b := rfl
@[simp] theorem writePhys_mem (a : Nat) (bs : List Byte) :
    (s.writePhys a bs).quay.mem = Map.putList 0 s.quay.mem a bs := rfl
@[simp] theorem writeHost_mem (a : Nat) (bs : List Byte) : (s.writeHost a bs).hostMem = Map.putList 0 s.hostMem a bs := rfl
@[simp] theorem writePeer_mem (a : Nat) (bs : List Byte) : (s.writePeer a bs).peerMem = Map.putList 0 s.peerMem a bs := rfl
@[simp] theorem issue_gang (o : Op) (k : Nat) : (s.issue o).gang k = s.gang k := rfl
@[simp] theorem issue_crew (o : Op) (c : Nat) : (s.issue o).crew c = s.crew c := rfl
@[simp] theorem issue_nextOp (o : Op) : (s.issue o).nextOp = s.nextOp + 1 := rfl

/-- A state with the gangs of another, and the same otherwise. -/
theorem setMe_eq (g : Gang) : s.setMe g = { s with gangs := (s.setMe g).gangs } := rfl

variable (g : Gang)

@[simp] theorem ws_phase (r : Nat) (v : Word) : (g.ws r v).phase = g.phase := by unfold Gang.ws; split <;> rfl
@[simp] theorem ws_crew (r : Nat) (v : Word) : (g.ws r v).crew = g.crew := by unfold Gang.ws; split <;> rfl
@[simp] theorem ws_num (r : Nat) (v : Word) : (g.ws r v).num = g.num := by unfold Gang.ws; split <;> rfl
@[simp] theorem ws_live (r : Nat) (v : Word) : (g.ws r v).live = g.live := by unfold Gang.ws; split <;> rfl
@[simp] theorem ws_pc (r : Nat) (v : Word) : (g.ws r v).pc = g.pc := by unfold Gang.ws; split <;> rfl
@[simp] theorem ws_cc (r : Nat) (v : Word) : (g.ws r v).cc = g.cc := by unfold Gang.ws; split <;> rfl
@[simp] theorem ws_clauses (r : Nat) (v : Word) : (g.ws r v).clauses = g.clauses := by unfold Gang.ws; split <;> rfl
@[simp] theorem ws_vreg (r : Nat) (v : Word) : (g.ws r v).vreg = g.vreg := by unfold Gang.ws; split <;> rfl
@[simp] theorem ws_vtag (r : Nat) (v : Word) : (g.ws r v).vtag = g.vtag := by unfold Gang.ws; split <;> rfl
@[simp] theorem ws_blocks (r : Nat) (v : Word) : (g.ws r v).blocks = g.blocks := by unfold Gang.ws; split <;> rfl
@[simp] theorem ws_nextBlk (r : Nat) (v : Word) : (g.ws r v).nextBlk = g.nextBlk := by unfold Gang.ws; split <;> rfl
@[simp] theorem ws_rels (r : Nat) (v : Word) : (g.ws r v).rels = g.rels := by unfold Gang.ws; split <;> rfl
@[simp] theorem ws_landing (r : Nat) (v : Word) : (g.ws r v).landing = g.landing := by unfold Gang.ws; split <;> rfl
@[simp] theorem ws_replay (r : Nat) (v : Word) : (g.ws r v).replay = g.replay := by unfold Gang.ws; split <;> rfl
@[simp] theorem ws_sWait (r : Nat) (v : Word) : (g.ws r v).sWait = g.sWait := by unfold Gang.ws; split <;> rfl
@[simp] theorem ws_joints (r : Nat) (v : Word) : (g.ws r v).joints = g.joints := by unfold Gang.ws; split <;> rfl
@[simp] theorem ws_preg (r : Nat) (v : Word) : (g.ws r v).preg = g.preg := by unfold Gang.ws; split <;> rfl
@[simp] theorem ws_mz (r : Nat) (v : Word) : (g.ws r v).mz = g.mz := by unfold Gang.ws; split <;> rfl
@[simp] theorem ws_flags (r : Nat) (v : Word) : (g.ws r v).flags = g.flags := by unfold Gang.ws; split <;> rfl
@[simp] theorem ws_sticky (r : Nat) (v : Word) : (g.ws r v).sticky = g.sticky := by unfold Gang.ws; split <;> rfl
@[simp] theorem ws_nlists (r : Nat) (v : Word) : (g.ws r v).nlists = g.nlists := by unfold Gang.ws; split <;> rfl
@[simp] theorem ws_wl (r : Nat) (v : Word) : (g.ws r v).wl = g.wl := by unfold Gang.ws; split <;> rfl
@[simp] theorem ws_ntiles (r : Nat) (v : Word) : (g.ws r v).ntiles = g.ntiles := by unfold Gang.ws; split <;> rfl
@[simp] theorem ws_tile (r : Nat) (v : Word) : (g.ws r v).tile = g.tile := by unfold Gang.ws; split <;> rfl
@[simp] theorem ws_tileTag (r : Nat) (v : Word) : (g.ws r v).tileTag = g.tileTag := by unfold Gang.ws; split <;> rfl
@[simp] theorem ws_spend (r : Nat) (v : Word) : (g.ws r v).spend = g.spend := by unfold Gang.ws; split <;> rfl
@[simp] theorem ws_sfault (r : Nat) (v : Word) : (g.ws r v).sfault = g.sfault := by unfold Gang.ws; split <;> rfl
@[simp] theorem ws_vpend (r : Nat) (v : Word) : (g.ws r v).vpend = g.vpend := by unfold Gang.ws; split <;> rfl
@[simp] theorem ws_vfault (r : Nat) (v : Word) : (g.ws r v).vfault = g.vfault := by unfold Gang.ws; split <;> rfl
@[simp] theorem ws_trap (r : Nat) (v : Word) : (g.ws r v).trap = g.trap := by unfold Gang.ws; split <;> rfl
@[simp] theorem ws_trapWait (r : Nat) (v : Word) : (g.ws r v).trapWait = g.trapWait := by unfold Gang.ws; split <;> rfl
@[simp] theorem ws_reports (r : Nat) (v : Word) : (g.ws r v).reports = g.reports := by unfold Gang.ws; split <;> rfl
@[simp] theorem ws_abandoned (r : Nat) (v : Word) : (g.ws r v).abandoned = g.abandoned := by unfold Gang.ws; split <;> rfl
@[simp] theorem ws_skipped (r : Nat) (v : Word) : (g.ws r v).skipped = g.skipped := by unfold Gang.ws; split <;> rfl
@[simp] theorem ws_wait (r : Nat) (v : Word) : (g.ws r v).wait = g.wait := by unfold Gang.ws; split <;> rfl
@[simp] theorem ws_fences (r : Nat) (v : Word) : (g.ws r v).fences = g.fences := by unfold Gang.ws; split <;> rfl
@[simp] theorem ws_log (r : Nat) (v : Word) : (g.ws r v).log = g.log := by unfold Gang.ws; split <;> rfl
@[simp] theorem ws_parked (r : Nat) (v : Word) : (g.ws r v).parked = g.parked := by unfold Gang.ws; split <;> rfl
@[simp] theorem ws_lastS (r : Nat) (v : Word) : (g.ws r v).lastS = g.lastS := by unfold Gang.ws; split <;> rfl
@[simp] theorem ws_lastL (r : Nat) (v : Word) : (g.ws r v).lastL = g.lastL := by unfold Gang.ws; split <;> rfl
@[simp] theorem ws_waitS (r : Nat) (v : Word) : (g.ws r v).waitS = g.waitS := by unfold Gang.ws; split <;> rfl
@[simp] theorem ws_waitL (r : Nat) (v : Word) : (g.ws r v).waitL = g.waitL := by unfold Gang.ws; split <;> rfl
@[simp] theorem wp_phase (r : Nat) (v : Dword) : (g.wp r v).phase = g.phase := by simp [Gang.wp]
@[simp] theorem wp_crew (r : Nat) (v : Dword) : (g.wp r v).crew = g.crew := by simp [Gang.wp]
@[simp] theorem wp_num (r : Nat) (v : Dword) : (g.wp r v).num = g.num := by simp [Gang.wp]
@[simp] theorem wp_live (r : Nat) (v : Dword) : (g.wp r v).live = g.live := by simp [Gang.wp]
@[simp] theorem wp_pc (r : Nat) (v : Dword) : (g.wp r v).pc = g.pc := by simp [Gang.wp]
@[simp] theorem wp_cc (r : Nat) (v : Dword) : (g.wp r v).cc = g.cc := by simp [Gang.wp]
@[simp] theorem wp_clauses (r : Nat) (v : Dword) : (g.wp r v).clauses = g.clauses := by simp [Gang.wp]
@[simp] theorem wp_vreg (r : Nat) (v : Dword) : (g.wp r v).vreg = g.vreg := by simp [Gang.wp]
@[simp] theorem wp_vtag (r : Nat) (v : Dword) : (g.wp r v).vtag = g.vtag := by simp [Gang.wp]
@[simp] theorem wp_blocks (r : Nat) (v : Dword) : (g.wp r v).blocks = g.blocks := by simp [Gang.wp]
@[simp] theorem wp_nextBlk (r : Nat) (v : Dword) : (g.wp r v).nextBlk = g.nextBlk := by simp [Gang.wp]
@[simp] theorem wp_rels (r : Nat) (v : Dword) : (g.wp r v).rels = g.rels := by simp [Gang.wp]
@[simp] theorem wp_landing (r : Nat) (v : Dword) : (g.wp r v).landing = g.landing := by simp [Gang.wp]
@[simp] theorem wp_replay (r : Nat) (v : Dword) : (g.wp r v).replay = g.replay := by simp [Gang.wp]
@[simp] theorem wp_sWait (r : Nat) (v : Dword) : (g.wp r v).sWait = g.sWait := by simp [Gang.wp]
@[simp] theorem wp_joints (r : Nat) (v : Dword) : (g.wp r v).joints = g.joints := by simp [Gang.wp]
@[simp] theorem wp_preg (r : Nat) (v : Dword) : (g.wp r v).preg = g.preg := by simp [Gang.wp]
@[simp] theorem wp_mz (r : Nat) (v : Dword) : (g.wp r v).mz = g.mz := by simp [Gang.wp]
@[simp] theorem wp_flags (r : Nat) (v : Dword) : (g.wp r v).flags = g.flags := by simp [Gang.wp]
@[simp] theorem wp_sticky (r : Nat) (v : Dword) : (g.wp r v).sticky = g.sticky := by simp [Gang.wp]
@[simp] theorem wp_nlists (r : Nat) (v : Dword) : (g.wp r v).nlists = g.nlists := by simp [Gang.wp]
@[simp] theorem wp_wl (r : Nat) (v : Dword) : (g.wp r v).wl = g.wl := by simp [Gang.wp]
@[simp] theorem wp_ntiles (r : Nat) (v : Dword) : (g.wp r v).ntiles = g.ntiles := by simp [Gang.wp]
@[simp] theorem wp_tile (r : Nat) (v : Dword) : (g.wp r v).tile = g.tile := by simp [Gang.wp]
@[simp] theorem wp_tileTag (r : Nat) (v : Dword) : (g.wp r v).tileTag = g.tileTag := by simp [Gang.wp]
@[simp] theorem wp_spend (r : Nat) (v : Dword) : (g.wp r v).spend = g.spend := by simp [Gang.wp]
@[simp] theorem wp_sfault (r : Nat) (v : Dword) : (g.wp r v).sfault = g.sfault := by simp [Gang.wp]
@[simp] theorem wp_vpend (r : Nat) (v : Dword) : (g.wp r v).vpend = g.vpend := by simp [Gang.wp]
@[simp] theorem wp_vfault (r : Nat) (v : Dword) : (g.wp r v).vfault = g.vfault := by simp [Gang.wp]
@[simp] theorem wp_trap (r : Nat) (v : Dword) : (g.wp r v).trap = g.trap := by simp [Gang.wp]
@[simp] theorem wp_trapWait (r : Nat) (v : Dword) : (g.wp r v).trapWait = g.trapWait := by simp [Gang.wp]
@[simp] theorem wp_reports (r : Nat) (v : Dword) : (g.wp r v).reports = g.reports := by simp [Gang.wp]
@[simp] theorem wp_abandoned (r : Nat) (v : Dword) : (g.wp r v).abandoned = g.abandoned := by simp [Gang.wp]
@[simp] theorem wp_skipped (r : Nat) (v : Dword) : (g.wp r v).skipped = g.skipped := by simp [Gang.wp]
@[simp] theorem wp_wait (r : Nat) (v : Dword) : (g.wp r v).wait = g.wait := by simp [Gang.wp]
@[simp] theorem wp_fences (r : Nat) (v : Dword) : (g.wp r v).fences = g.fences := by simp [Gang.wp]
@[simp] theorem wp_log (r : Nat) (v : Dword) : (g.wp r v).log = g.log := by simp [Gang.wp]
@[simp] theorem wp_parked (r : Nat) (v : Dword) : (g.wp r v).parked = g.parked := by simp [Gang.wp]
@[simp] theorem wp_lastS (r : Nat) (v : Dword) : (g.wp r v).lastS = g.lastS := by simp [Gang.wp]
@[simp] theorem wp_lastL (r : Nat) (v : Dword) : (g.wp r v).lastL = g.lastL := by simp [Gang.wp]
@[simp] theorem wp_waitS (r : Nat) (v : Dword) : (g.wp r v).waitS = g.waitS := by simp [Gang.wp]
@[simp] theorem wp_waitL (r : Nat) (v : Dword) : (g.wp r v).waitL = g.waitL := by simp [Gang.wp]
@[simp] theorem adv_phase (n : Word) : (g.adv n).phase = g.phase := rfl
@[simp] theorem adv_crew (n : Word) : (g.adv n).crew = g.crew := rfl
@[simp] theorem adv_num (n : Word) : (g.adv n).num = g.num := rfl
@[simp] theorem adv_live (n : Word) : (g.adv n).live = g.live := rfl
@[simp] theorem adv_sreg (n : Word) : (g.adv n).sreg = g.sreg := rfl
@[simp] theorem adv_cc (n : Word) : (g.adv n).cc = g.cc := rfl
@[simp] theorem adv_clauses (n : Word) : (g.adv n).clauses = g.clauses := rfl
@[simp] theorem adv_vreg (n : Word) : (g.adv n).vreg = g.vreg := rfl
@[simp] theorem adv_vtag (n : Word) : (g.adv n).vtag = g.vtag := rfl
@[simp] theorem adv_blocks (n : Word) : (g.adv n).blocks = g.blocks := rfl
@[simp] theorem adv_nextBlk (n : Word) : (g.adv n).nextBlk = g.nextBlk := rfl
@[simp] theorem adv_rels (n : Word) : (g.adv n).rels = g.rels := rfl
@[simp] theorem adv_landing (n : Word) : (g.adv n).landing = g.landing := rfl
@[simp] theorem adv_replay (n : Word) : (g.adv n).replay = g.replay := rfl
@[simp] theorem adv_sWait (n : Word) : (g.adv n).sWait = g.sWait := rfl
@[simp] theorem adv_joints (n : Word) : (g.adv n).joints = g.joints := rfl
@[simp] theorem adv_preg (n : Word) : (g.adv n).preg = g.preg := rfl
@[simp] theorem adv_mz (n : Word) : (g.adv n).mz = g.mz := rfl
@[simp] theorem adv_flags (n : Word) : (g.adv n).flags = g.flags := rfl
@[simp] theorem adv_sticky (n : Word) : (g.adv n).sticky = g.sticky := rfl
@[simp] theorem adv_nlists (n : Word) : (g.adv n).nlists = g.nlists := rfl
@[simp] theorem adv_wl (n : Word) : (g.adv n).wl = g.wl := rfl
@[simp] theorem adv_ntiles (n : Word) : (g.adv n).ntiles = g.ntiles := rfl
@[simp] theorem adv_tile (n : Word) : (g.adv n).tile = g.tile := rfl
@[simp] theorem adv_tileTag (n : Word) : (g.adv n).tileTag = g.tileTag := rfl
@[simp] theorem adv_spend (n : Word) : (g.adv n).spend = g.spend := rfl
@[simp] theorem adv_sfault (n : Word) : (g.adv n).sfault = g.sfault := rfl
@[simp] theorem adv_vpend (n : Word) : (g.adv n).vpend = g.vpend := rfl
@[simp] theorem adv_vfault (n : Word) : (g.adv n).vfault = g.vfault := rfl
@[simp] theorem adv_trap (n : Word) : (g.adv n).trap = g.trap := rfl
@[simp] theorem adv_trapWait (n : Word) : (g.adv n).trapWait = g.trapWait := rfl
@[simp] theorem adv_reports (n : Word) : (g.adv n).reports = g.reports := rfl
@[simp] theorem adv_abandoned (n : Word) : (g.adv n).abandoned = g.abandoned := rfl
@[simp] theorem adv_skipped (n : Word) : (g.adv n).skipped = g.skipped := rfl
@[simp] theorem adv_wait (n : Word) : (g.adv n).wait = g.wait := rfl
@[simp] theorem adv_fences (n : Word) : (g.adv n).fences = g.fences := rfl
@[simp] theorem adv_log (n : Word) : (g.adv n).log = g.log := rfl
@[simp] theorem adv_parked (n : Word) : (g.adv n).parked = g.parked := rfl
@[simp] theorem adv_lastS (n : Word) : (g.adv n).lastS = g.lastS := rfl
@[simp] theorem adv_lastL (n : Word) : (g.adv n).lastL = g.lastL := rfl
@[simp] theorem adv_waitS (n : Word) : (g.adv n).waitS = g.waitS := rfl
@[simp] theorem adv_waitL (n : Word) : (g.adv n).waitL = g.waitL := rfl
@[simp] theorem wv_phase (r l : Nat) (v : Word) : (g.wv r l v).phase = g.phase := rfl
@[simp] theorem wv_crew (r l : Nat) (v : Word) : (g.wv r l v).crew = g.crew := rfl
@[simp] theorem wv_num (r l : Nat) (v : Word) : (g.wv r l v).num = g.num := rfl
@[simp] theorem wv_live (r l : Nat) (v : Word) : (g.wv r l v).live = g.live := rfl
@[simp] theorem wv_pc (r l : Nat) (v : Word) : (g.wv r l v).pc = g.pc := rfl
@[simp] theorem wv_sreg (r l : Nat) (v : Word) : (g.wv r l v).sreg = g.sreg := rfl
@[simp] theorem wv_cc (r l : Nat) (v : Word) : (g.wv r l v).cc = g.cc := rfl
@[simp] theorem wv_clauses (r l : Nat) (v : Word) : (g.wv r l v).clauses = g.clauses := rfl
@[simp] theorem wv_vtag (r l : Nat) (v : Word) : (g.wv r l v).vtag = g.vtag := rfl
@[simp] theorem wv_blocks (r l : Nat) (v : Word) : (g.wv r l v).blocks = g.blocks := rfl
@[simp] theorem wv_nextBlk (r l : Nat) (v : Word) : (g.wv r l v).nextBlk = g.nextBlk := rfl
@[simp] theorem wv_rels (r l : Nat) (v : Word) : (g.wv r l v).rels = g.rels := rfl
@[simp] theorem wv_landing (r l : Nat) (v : Word) : (g.wv r l v).landing = g.landing := rfl
@[simp] theorem wv_replay (r l : Nat) (v : Word) : (g.wv r l v).replay = g.replay := rfl
@[simp] theorem wv_sWait (r l : Nat) (v : Word) : (g.wv r l v).sWait = g.sWait := rfl
@[simp] theorem wv_joints (r l : Nat) (v : Word) : (g.wv r l v).joints = g.joints := rfl
@[simp] theorem wv_preg (r l : Nat) (v : Word) : (g.wv r l v).preg = g.preg := rfl
@[simp] theorem wv_mz (r l : Nat) (v : Word) : (g.wv r l v).mz = g.mz := rfl
@[simp] theorem wv_flags (r l : Nat) (v : Word) : (g.wv r l v).flags = g.flags := rfl
@[simp] theorem wv_sticky (r l : Nat) (v : Word) : (g.wv r l v).sticky = g.sticky := rfl
@[simp] theorem wv_nlists (r l : Nat) (v : Word) : (g.wv r l v).nlists = g.nlists := rfl
@[simp] theorem wv_wl (r l : Nat) (v : Word) : (g.wv r l v).wl = g.wl := rfl
@[simp] theorem wv_ntiles (r l : Nat) (v : Word) : (g.wv r l v).ntiles = g.ntiles := rfl
@[simp] theorem wv_tile (r l : Nat) (v : Word) : (g.wv r l v).tile = g.tile := rfl
@[simp] theorem wv_tileTag (r l : Nat) (v : Word) : (g.wv r l v).tileTag = g.tileTag := rfl
@[simp] theorem wv_spend (r l : Nat) (v : Word) : (g.wv r l v).spend = g.spend := rfl
@[simp] theorem wv_sfault (r l : Nat) (v : Word) : (g.wv r l v).sfault = g.sfault := rfl
@[simp] theorem wv_vpend (r l : Nat) (v : Word) : (g.wv r l v).vpend = g.vpend := rfl
@[simp] theorem wv_vfault (r l : Nat) (v : Word) : (g.wv r l v).vfault = g.vfault := rfl
@[simp] theorem wv_trap (r l : Nat) (v : Word) : (g.wv r l v).trap = g.trap := rfl
@[simp] theorem wv_trapWait (r l : Nat) (v : Word) : (g.wv r l v).trapWait = g.trapWait := rfl
@[simp] theorem wv_reports (r l : Nat) (v : Word) : (g.wv r l v).reports = g.reports := rfl
@[simp] theorem wv_abandoned (r l : Nat) (v : Word) : (g.wv r l v).abandoned = g.abandoned := rfl
@[simp] theorem wv_skipped (r l : Nat) (v : Word) : (g.wv r l v).skipped = g.skipped := rfl
@[simp] theorem wv_wait (r l : Nat) (v : Word) : (g.wv r l v).wait = g.wait := rfl
@[simp] theorem wv_fences (r l : Nat) (v : Word) : (g.wv r l v).fences = g.fences := rfl
@[simp] theorem wv_log (r l : Nat) (v : Word) : (g.wv r l v).log = g.log := rfl
@[simp] theorem wv_parked (r l : Nat) (v : Word) : (g.wv r l v).parked = g.parked := rfl
@[simp] theorem wv_lastS (r l : Nat) (v : Word) : (g.wv r l v).lastS = g.lastS := rfl
@[simp] theorem wv_lastL (r l : Nat) (v : Word) : (g.wv r l v).lastL = g.lastL := rfl
@[simp] theorem wv_waitS (r l : Nat) (v : Word) : (g.wv r l v).waitS = g.waitS := rfl
@[simp] theorem wv_waitL (r l : Nat) (v : Word) : (g.wv r l v).waitL = g.waitL := rfl
@[simp] theorem wvs_phase (r : Nat) (a : BitVec 32) (v : Nat → Word) : (g.wvs r a v).phase = g.phase := rfl
@[simp] theorem wvs_crew (r : Nat) (a : BitVec 32) (v : Nat → Word) : (g.wvs r a v).crew = g.crew := rfl
@[simp] theorem wvs_num (r : Nat) (a : BitVec 32) (v : Nat → Word) : (g.wvs r a v).num = g.num := rfl
@[simp] theorem wvs_live (r : Nat) (a : BitVec 32) (v : Nat → Word) : (g.wvs r a v).live = g.live := rfl
@[simp] theorem wvs_pc (r : Nat) (a : BitVec 32) (v : Nat → Word) : (g.wvs r a v).pc = g.pc := rfl
@[simp] theorem wvs_sreg (r : Nat) (a : BitVec 32) (v : Nat → Word) : (g.wvs r a v).sreg = g.sreg := rfl
@[simp] theorem wvs_cc (r : Nat) (a : BitVec 32) (v : Nat → Word) : (g.wvs r a v).cc = g.cc := rfl
@[simp] theorem wvs_clauses (r : Nat) (a : BitVec 32) (v : Nat → Word) : (g.wvs r a v).clauses = g.clauses := rfl
@[simp] theorem wvs_vtag (r : Nat) (a : BitVec 32) (v : Nat → Word) : (g.wvs r a v).vtag = g.vtag := rfl
@[simp] theorem wvs_blocks (r : Nat) (a : BitVec 32) (v : Nat → Word) : (g.wvs r a v).blocks = g.blocks := rfl
@[simp] theorem wvs_nextBlk (r : Nat) (a : BitVec 32) (v : Nat → Word) : (g.wvs r a v).nextBlk = g.nextBlk := rfl
@[simp] theorem wvs_rels (r : Nat) (a : BitVec 32) (v : Nat → Word) : (g.wvs r a v).rels = g.rels := rfl
@[simp] theorem wvs_landing (r : Nat) (a : BitVec 32) (v : Nat → Word) : (g.wvs r a v).landing = g.landing := rfl
@[simp] theorem wvs_replay (r : Nat) (a : BitVec 32) (v : Nat → Word) : (g.wvs r a v).replay = g.replay := rfl
@[simp] theorem wvs_sWait (r : Nat) (a : BitVec 32) (v : Nat → Word) : (g.wvs r a v).sWait = g.sWait := rfl
@[simp] theorem wvs_joints (r : Nat) (a : BitVec 32) (v : Nat → Word) : (g.wvs r a v).joints = g.joints := rfl
@[simp] theorem wvs_preg (r : Nat) (a : BitVec 32) (v : Nat → Word) : (g.wvs r a v).preg = g.preg := rfl
@[simp] theorem wvs_mz (r : Nat) (a : BitVec 32) (v : Nat → Word) : (g.wvs r a v).mz = g.mz := rfl
@[simp] theorem wvs_flags (r : Nat) (a : BitVec 32) (v : Nat → Word) : (g.wvs r a v).flags = g.flags := rfl
@[simp] theorem wvs_sticky (r : Nat) (a : BitVec 32) (v : Nat → Word) : (g.wvs r a v).sticky = g.sticky := rfl
@[simp] theorem wvs_nlists (r : Nat) (a : BitVec 32) (v : Nat → Word) : (g.wvs r a v).nlists = g.nlists := rfl
@[simp] theorem wvs_wl (r : Nat) (a : BitVec 32) (v : Nat → Word) : (g.wvs r a v).wl = g.wl := rfl
@[simp] theorem wvs_ntiles (r : Nat) (a : BitVec 32) (v : Nat → Word) : (g.wvs r a v).ntiles = g.ntiles := rfl
@[simp] theorem wvs_tile (r : Nat) (a : BitVec 32) (v : Nat → Word) : (g.wvs r a v).tile = g.tile := rfl
@[simp] theorem wvs_tileTag (r : Nat) (a : BitVec 32) (v : Nat → Word) : (g.wvs r a v).tileTag = g.tileTag := rfl
@[simp] theorem wvs_spend (r : Nat) (a : BitVec 32) (v : Nat → Word) : (g.wvs r a v).spend = g.spend := rfl
@[simp] theorem wvs_sfault (r : Nat) (a : BitVec 32) (v : Nat → Word) : (g.wvs r a v).sfault = g.sfault := rfl
@[simp] theorem wvs_vpend (r : Nat) (a : BitVec 32) (v : Nat → Word) : (g.wvs r a v).vpend = g.vpend := rfl
@[simp] theorem wvs_vfault (r : Nat) (a : BitVec 32) (v : Nat → Word) : (g.wvs r a v).vfault = g.vfault := rfl
@[simp] theorem wvs_trap (r : Nat) (a : BitVec 32) (v : Nat → Word) : (g.wvs r a v).trap = g.trap := rfl
@[simp] theorem wvs_trapWait (r : Nat) (a : BitVec 32) (v : Nat → Word) : (g.wvs r a v).trapWait = g.trapWait := rfl
@[simp] theorem wvs_reports (r : Nat) (a : BitVec 32) (v : Nat → Word) : (g.wvs r a v).reports = g.reports := rfl
@[simp] theorem wvs_abandoned (r : Nat) (a : BitVec 32) (v : Nat → Word) : (g.wvs r a v).abandoned = g.abandoned := rfl
@[simp] theorem wvs_skipped (r : Nat) (a : BitVec 32) (v : Nat → Word) : (g.wvs r a v).skipped = g.skipped := rfl
@[simp] theorem wvs_wait (r : Nat) (a : BitVec 32) (v : Nat → Word) : (g.wvs r a v).wait = g.wait := rfl
@[simp] theorem wvs_fences (r : Nat) (a : BitVec 32) (v : Nat → Word) : (g.wvs r a v).fences = g.fences := rfl
@[simp] theorem wvs_log (r : Nat) (a : BitVec 32) (v : Nat → Word) : (g.wvs r a v).log = g.log := rfl
@[simp] theorem wvs_parked (r : Nat) (a : BitVec 32) (v : Nat → Word) : (g.wvs r a v).parked = g.parked := rfl
@[simp] theorem wvs_lastS (r : Nat) (a : BitVec 32) (v : Nat → Word) : (g.wvs r a v).lastS = g.lastS := rfl
@[simp] theorem wvs_lastL (r : Nat) (a : BitVec 32) (v : Nat → Word) : (g.wvs r a v).lastL = g.lastL := rfl
@[simp] theorem wvs_waitS (r : Nat) (a : BitVec 32) (v : Nat → Word) : (g.wvs r a v).waitS = g.waitS := rfl
@[simp] theorem wvs_waitL (r : Nat) (a : BitVec 32) (v : Nat → Word) : (g.wvs r a v).waitL = g.waitL := rfl
@[simp] theorem setTag_phase (r : Nat) (t : Ty) : (g.setTag r t).phase = g.phase := rfl
@[simp] theorem setTag_crew (r : Nat) (t : Ty) : (g.setTag r t).crew = g.crew := rfl
@[simp] theorem setTag_num (r : Nat) (t : Ty) : (g.setTag r t).num = g.num := rfl
@[simp] theorem setTag_live (r : Nat) (t : Ty) : (g.setTag r t).live = g.live := rfl
@[simp] theorem setTag_pc (r : Nat) (t : Ty) : (g.setTag r t).pc = g.pc := rfl
@[simp] theorem setTag_sreg (r : Nat) (t : Ty) : (g.setTag r t).sreg = g.sreg := rfl
@[simp] theorem setTag_cc (r : Nat) (t : Ty) : (g.setTag r t).cc = g.cc := rfl
@[simp] theorem setTag_clauses (r : Nat) (t : Ty) : (g.setTag r t).clauses = g.clauses := rfl
@[simp] theorem setTag_vreg (r : Nat) (t : Ty) : (g.setTag r t).vreg = g.vreg := rfl
@[simp] theorem setTag_blocks (r : Nat) (t : Ty) : (g.setTag r t).blocks = g.blocks := rfl
@[simp] theorem setTag_nextBlk (r : Nat) (t : Ty) : (g.setTag r t).nextBlk = g.nextBlk := rfl
@[simp] theorem setTag_rels (r : Nat) (t : Ty) : (g.setTag r t).rels = g.rels := rfl
@[simp] theorem setTag_landing (r : Nat) (t : Ty) : (g.setTag r t).landing = g.landing := rfl
@[simp] theorem setTag_replay (r : Nat) (t : Ty) : (g.setTag r t).replay = g.replay := rfl
@[simp] theorem setTag_sWait (r : Nat) (t : Ty) : (g.setTag r t).sWait = g.sWait := rfl
@[simp] theorem setTag_joints (r : Nat) (t : Ty) : (g.setTag r t).joints = g.joints := rfl
@[simp] theorem setTag_preg (r : Nat) (t : Ty) : (g.setTag r t).preg = g.preg := rfl
@[simp] theorem setTag_mz (r : Nat) (t : Ty) : (g.setTag r t).mz = g.mz := rfl
@[simp] theorem setTag_flags (r : Nat) (t : Ty) : (g.setTag r t).flags = g.flags := rfl
@[simp] theorem setTag_sticky (r : Nat) (t : Ty) : (g.setTag r t).sticky = g.sticky := rfl
@[simp] theorem setTag_nlists (r : Nat) (t : Ty) : (g.setTag r t).nlists = g.nlists := rfl
@[simp] theorem setTag_wl (r : Nat) (t : Ty) : (g.setTag r t).wl = g.wl := rfl
@[simp] theorem setTag_ntiles (r : Nat) (t : Ty) : (g.setTag r t).ntiles = g.ntiles := rfl
@[simp] theorem setTag_tile (r : Nat) (t : Ty) : (g.setTag r t).tile = g.tile := rfl
@[simp] theorem setTag_tileTag (r : Nat) (t : Ty) : (g.setTag r t).tileTag = g.tileTag := rfl
@[simp] theorem setTag_spend (r : Nat) (t : Ty) : (g.setTag r t).spend = g.spend := rfl
@[simp] theorem setTag_sfault (r : Nat) (t : Ty) : (g.setTag r t).sfault = g.sfault := rfl
@[simp] theorem setTag_vpend (r : Nat) (t : Ty) : (g.setTag r t).vpend = g.vpend := rfl
@[simp] theorem setTag_vfault (r : Nat) (t : Ty) : (g.setTag r t).vfault = g.vfault := rfl
@[simp] theorem setTag_trap (r : Nat) (t : Ty) : (g.setTag r t).trap = g.trap := rfl
@[simp] theorem setTag_trapWait (r : Nat) (t : Ty) : (g.setTag r t).trapWait = g.trapWait := rfl
@[simp] theorem setTag_reports (r : Nat) (t : Ty) : (g.setTag r t).reports = g.reports := rfl
@[simp] theorem setTag_abandoned (r : Nat) (t : Ty) : (g.setTag r t).abandoned = g.abandoned := rfl
@[simp] theorem setTag_skipped (r : Nat) (t : Ty) : (g.setTag r t).skipped = g.skipped := rfl
@[simp] theorem setTag_wait (r : Nat) (t : Ty) : (g.setTag r t).wait = g.wait := rfl
@[simp] theorem setTag_fences (r : Nat) (t : Ty) : (g.setTag r t).fences = g.fences := rfl
@[simp] theorem setTag_log (r : Nat) (t : Ty) : (g.setTag r t).log = g.log := rfl
@[simp] theorem setTag_parked (r : Nat) (t : Ty) : (g.setTag r t).parked = g.parked := rfl
@[simp] theorem setTag_lastS (r : Nat) (t : Ty) : (g.setTag r t).lastS = g.lastS := rfl
@[simp] theorem setTag_lastL (r : Nat) (t : Ty) : (g.setTag r t).lastL = g.lastL := rfl
@[simp] theorem setTag_waitS (r : Nat) (t : Ty) : (g.setTag r t).waitS = g.waitS := rfl
@[simp] theorem setTag_waitL (r : Nat) (t : Ty) : (g.setTag r t).waitL = g.waitL := rfl
@[simp] theorem setPred_phase (p : Nat) (v : BitVec 32) : (g.setPred p v).phase = g.phase := rfl
@[simp] theorem setPred_crew (p : Nat) (v : BitVec 32) : (g.setPred p v).crew = g.crew := rfl
@[simp] theorem setPred_num (p : Nat) (v : BitVec 32) : (g.setPred p v).num = g.num := rfl
@[simp] theorem setPred_live (p : Nat) (v : BitVec 32) : (g.setPred p v).live = g.live := rfl
@[simp] theorem setPred_pc (p : Nat) (v : BitVec 32) : (g.setPred p v).pc = g.pc := rfl
@[simp] theorem setPred_sreg (p : Nat) (v : BitVec 32) : (g.setPred p v).sreg = g.sreg := rfl
@[simp] theorem setPred_cc (p : Nat) (v : BitVec 32) : (g.setPred p v).cc = g.cc := rfl
@[simp] theorem setPred_clauses (p : Nat) (v : BitVec 32) : (g.setPred p v).clauses = g.clauses := rfl
@[simp] theorem setPred_vreg (p : Nat) (v : BitVec 32) : (g.setPred p v).vreg = g.vreg := rfl
@[simp] theorem setPred_vtag (p : Nat) (v : BitVec 32) : (g.setPred p v).vtag = g.vtag := rfl
@[simp] theorem setPred_blocks (p : Nat) (v : BitVec 32) : (g.setPred p v).blocks = g.blocks := rfl
@[simp] theorem setPred_nextBlk (p : Nat) (v : BitVec 32) : (g.setPred p v).nextBlk = g.nextBlk := rfl
@[simp] theorem setPred_rels (p : Nat) (v : BitVec 32) : (g.setPred p v).rels = g.rels := rfl
@[simp] theorem setPred_landing (p : Nat) (v : BitVec 32) : (g.setPred p v).landing = g.landing := rfl
@[simp] theorem setPred_replay (p : Nat) (v : BitVec 32) : (g.setPred p v).replay = g.replay := rfl
@[simp] theorem setPred_sWait (p : Nat) (v : BitVec 32) : (g.setPred p v).sWait = g.sWait := rfl
@[simp] theorem setPred_joints (p : Nat) (v : BitVec 32) : (g.setPred p v).joints = g.joints := rfl
@[simp] theorem setPred_flags (p : Nat) (v : BitVec 32) : (g.setPred p v).flags = g.flags := rfl
@[simp] theorem setPred_sticky (p : Nat) (v : BitVec 32) : (g.setPred p v).sticky = g.sticky := rfl
@[simp] theorem setPred_nlists (p : Nat) (v : BitVec 32) : (g.setPred p v).nlists = g.nlists := rfl
@[simp] theorem setPred_wl (p : Nat) (v : BitVec 32) : (g.setPred p v).wl = g.wl := rfl
@[simp] theorem setPred_ntiles (p : Nat) (v : BitVec 32) : (g.setPred p v).ntiles = g.ntiles := rfl
@[simp] theorem setPred_tile (p : Nat) (v : BitVec 32) : (g.setPred p v).tile = g.tile := rfl
@[simp] theorem setPred_tileTag (p : Nat) (v : BitVec 32) : (g.setPred p v).tileTag = g.tileTag := rfl
@[simp] theorem setPred_spend (p : Nat) (v : BitVec 32) : (g.setPred p v).spend = g.spend := rfl
@[simp] theorem setPred_sfault (p : Nat) (v : BitVec 32) : (g.setPred p v).sfault = g.sfault := rfl
@[simp] theorem setPred_vpend (p : Nat) (v : BitVec 32) : (g.setPred p v).vpend = g.vpend := rfl
@[simp] theorem setPred_vfault (p : Nat) (v : BitVec 32) : (g.setPred p v).vfault = g.vfault := rfl
@[simp] theorem setPred_trap (p : Nat) (v : BitVec 32) : (g.setPred p v).trap = g.trap := rfl
@[simp] theorem setPred_trapWait (p : Nat) (v : BitVec 32) : (g.setPred p v).trapWait = g.trapWait := rfl
@[simp] theorem setPred_reports (p : Nat) (v : BitVec 32) : (g.setPred p v).reports = g.reports := rfl
@[simp] theorem setPred_abandoned (p : Nat) (v : BitVec 32) : (g.setPred p v).abandoned = g.abandoned := rfl
@[simp] theorem setPred_skipped (p : Nat) (v : BitVec 32) : (g.setPred p v).skipped = g.skipped := rfl
@[simp] theorem setPred_wait (p : Nat) (v : BitVec 32) : (g.setPred p v).wait = g.wait := rfl
@[simp] theorem setPred_fences (p : Nat) (v : BitVec 32) : (g.setPred p v).fences = g.fences := rfl
@[simp] theorem setPred_log (p : Nat) (v : BitVec 32) : (g.setPred p v).log = g.log := rfl
@[simp] theorem setPred_parked (p : Nat) (v : BitVec 32) : (g.setPred p v).parked = g.parked := rfl
@[simp] theorem setPred_lastS (p : Nat) (v : BitVec 32) : (g.setPred p v).lastS = g.lastS := rfl
@[simp] theorem setPred_lastL (p : Nat) (v : BitVec 32) : (g.setPred p v).lastL = g.lastL := rfl
@[simp] theorem setPred_waitS (p : Nat) (v : BitVec 32) : (g.setPred p v).waitS = g.waitS := rfl
@[simp] theorem setPred_waitL (p : Nat) (v : BitVec 32) : (g.setPred p v).waitL = g.waitL := rfl
@[simp] theorem raise_phase (fl : Flags) : (g.raise fl).phase = g.phase := rfl
@[simp] theorem raise_crew (fl : Flags) : (g.raise fl).crew = g.crew := rfl
@[simp] theorem raise_num (fl : Flags) : (g.raise fl).num = g.num := rfl
@[simp] theorem raise_live (fl : Flags) : (g.raise fl).live = g.live := rfl
@[simp] theorem raise_pc (fl : Flags) : (g.raise fl).pc = g.pc := rfl
@[simp] theorem raise_sreg (fl : Flags) : (g.raise fl).sreg = g.sreg := rfl
@[simp] theorem raise_cc (fl : Flags) : (g.raise fl).cc = g.cc := rfl
@[simp] theorem raise_clauses (fl : Flags) : (g.raise fl).clauses = g.clauses := rfl
@[simp] theorem raise_vreg (fl : Flags) : (g.raise fl).vreg = g.vreg := rfl
@[simp] theorem raise_vtag (fl : Flags) : (g.raise fl).vtag = g.vtag := rfl
@[simp] theorem raise_blocks (fl : Flags) : (g.raise fl).blocks = g.blocks := rfl
@[simp] theorem raise_nextBlk (fl : Flags) : (g.raise fl).nextBlk = g.nextBlk := rfl
@[simp] theorem raise_rels (fl : Flags) : (g.raise fl).rels = g.rels := rfl
@[simp] theorem raise_landing (fl : Flags) : (g.raise fl).landing = g.landing := rfl
@[simp] theorem raise_replay (fl : Flags) : (g.raise fl).replay = g.replay := rfl
@[simp] theorem raise_sWait (fl : Flags) : (g.raise fl).sWait = g.sWait := rfl
@[simp] theorem raise_joints (fl : Flags) : (g.raise fl).joints = g.joints := rfl
@[simp] theorem raise_preg (fl : Flags) : (g.raise fl).preg = g.preg := rfl
@[simp] theorem raise_mz (fl : Flags) : (g.raise fl).mz = g.mz := rfl
@[simp] theorem raise_flags (fl : Flags) : (g.raise fl).flags = g.flags := rfl
@[simp] theorem raise_nlists (fl : Flags) : (g.raise fl).nlists = g.nlists := rfl
@[simp] theorem raise_wl (fl : Flags) : (g.raise fl).wl = g.wl := rfl
@[simp] theorem raise_ntiles (fl : Flags) : (g.raise fl).ntiles = g.ntiles := rfl
@[simp] theorem raise_tile (fl : Flags) : (g.raise fl).tile = g.tile := rfl
@[simp] theorem raise_tileTag (fl : Flags) : (g.raise fl).tileTag = g.tileTag := rfl
@[simp] theorem raise_spend (fl : Flags) : (g.raise fl).spend = g.spend := rfl
@[simp] theorem raise_sfault (fl : Flags) : (g.raise fl).sfault = g.sfault := rfl
@[simp] theorem raise_vpend (fl : Flags) : (g.raise fl).vpend = g.vpend := rfl
@[simp] theorem raise_vfault (fl : Flags) : (g.raise fl).vfault = g.vfault := rfl
@[simp] theorem raise_trap (fl : Flags) : (g.raise fl).trap = g.trap := rfl
@[simp] theorem raise_trapWait (fl : Flags) : (g.raise fl).trapWait = g.trapWait := rfl
@[simp] theorem raise_reports (fl : Flags) : (g.raise fl).reports = g.reports := rfl
@[simp] theorem raise_abandoned (fl : Flags) : (g.raise fl).abandoned = g.abandoned := rfl
@[simp] theorem raise_skipped (fl : Flags) : (g.raise fl).skipped = g.skipped := rfl
@[simp] theorem raise_wait (fl : Flags) : (g.raise fl).wait = g.wait := rfl
@[simp] theorem raise_fences (fl : Flags) : (g.raise fl).fences = g.fences := rfl
@[simp] theorem raise_log (fl : Flags) : (g.raise fl).log = g.log := rfl
@[simp] theorem raise_parked (fl : Flags) : (g.raise fl).parked = g.parked := rfl
@[simp] theorem raise_lastS (fl : Flags) : (g.raise fl).lastS = g.lastS := rfl
@[simp] theorem raise_lastL (fl : Flags) : (g.raise fl).lastL = g.lastL := rfl
@[simp] theorem raise_waitS (fl : Flags) : (g.raise fl).waitS = g.waitS := rfl
@[simp] theorem raise_waitL (fl : Flags) : (g.raise fl).waitL = g.waitL := rfl
@[simp] theorem setFlag_phase (i : Nat) (f : FlagSt) : (g.setFlag i f).phase = g.phase := rfl
@[simp] theorem setFlag_crew (i : Nat) (f : FlagSt) : (g.setFlag i f).crew = g.crew := rfl
@[simp] theorem setFlag_num (i : Nat) (f : FlagSt) : (g.setFlag i f).num = g.num := rfl
@[simp] theorem setFlag_live (i : Nat) (f : FlagSt) : (g.setFlag i f).live = g.live := rfl
@[simp] theorem setFlag_pc (i : Nat) (f : FlagSt) : (g.setFlag i f).pc = g.pc := rfl
@[simp] theorem setFlag_sreg (i : Nat) (f : FlagSt) : (g.setFlag i f).sreg = g.sreg := rfl
@[simp] theorem setFlag_cc (i : Nat) (f : FlagSt) : (g.setFlag i f).cc = g.cc := rfl
@[simp] theorem setFlag_clauses (i : Nat) (f : FlagSt) : (g.setFlag i f).clauses = g.clauses := rfl
@[simp] theorem setFlag_vreg (i : Nat) (f : FlagSt) : (g.setFlag i f).vreg = g.vreg := rfl
@[simp] theorem setFlag_vtag (i : Nat) (f : FlagSt) : (g.setFlag i f).vtag = g.vtag := rfl
@[simp] theorem setFlag_blocks (i : Nat) (f : FlagSt) : (g.setFlag i f).blocks = g.blocks := rfl
@[simp] theorem setFlag_nextBlk (i : Nat) (f : FlagSt) : (g.setFlag i f).nextBlk = g.nextBlk := rfl
@[simp] theorem setFlag_rels (i : Nat) (f : FlagSt) : (g.setFlag i f).rels = g.rels := rfl
@[simp] theorem setFlag_landing (i : Nat) (f : FlagSt) : (g.setFlag i f).landing = g.landing := rfl
@[simp] theorem setFlag_replay (i : Nat) (f : FlagSt) : (g.setFlag i f).replay = g.replay := rfl
@[simp] theorem setFlag_sWait (i : Nat) (f : FlagSt) : (g.setFlag i f).sWait = g.sWait := rfl
@[simp] theorem setFlag_joints (i : Nat) (f : FlagSt) : (g.setFlag i f).joints = g.joints := rfl
@[simp] theorem setFlag_preg (i : Nat) (f : FlagSt) : (g.setFlag i f).preg = g.preg := rfl
@[simp] theorem setFlag_mz (i : Nat) (f : FlagSt) : (g.setFlag i f).mz = g.mz := rfl
@[simp] theorem setFlag_sticky (i : Nat) (f : FlagSt) : (g.setFlag i f).sticky = g.sticky := rfl
@[simp] theorem setFlag_nlists (i : Nat) (f : FlagSt) : (g.setFlag i f).nlists = g.nlists := rfl
@[simp] theorem setFlag_wl (i : Nat) (f : FlagSt) : (g.setFlag i f).wl = g.wl := rfl
@[simp] theorem setFlag_ntiles (i : Nat) (f : FlagSt) : (g.setFlag i f).ntiles = g.ntiles := rfl
@[simp] theorem setFlag_tile (i : Nat) (f : FlagSt) : (g.setFlag i f).tile = g.tile := rfl
@[simp] theorem setFlag_tileTag (i : Nat) (f : FlagSt) : (g.setFlag i f).tileTag = g.tileTag := rfl
@[simp] theorem setFlag_spend (i : Nat) (f : FlagSt) : (g.setFlag i f).spend = g.spend := rfl
@[simp] theorem setFlag_sfault (i : Nat) (f : FlagSt) : (g.setFlag i f).sfault = g.sfault := rfl
@[simp] theorem setFlag_vpend (i : Nat) (f : FlagSt) : (g.setFlag i f).vpend = g.vpend := rfl
@[simp] theorem setFlag_vfault (i : Nat) (f : FlagSt) : (g.setFlag i f).vfault = g.vfault := rfl
@[simp] theorem setFlag_trap (i : Nat) (f : FlagSt) : (g.setFlag i f).trap = g.trap := rfl
@[simp] theorem setFlag_trapWait (i : Nat) (f : FlagSt) : (g.setFlag i f).trapWait = g.trapWait := rfl
@[simp] theorem setFlag_reports (i : Nat) (f : FlagSt) : (g.setFlag i f).reports = g.reports := rfl
@[simp] theorem setFlag_abandoned (i : Nat) (f : FlagSt) : (g.setFlag i f).abandoned = g.abandoned := rfl
@[simp] theorem setFlag_skipped (i : Nat) (f : FlagSt) : (g.setFlag i f).skipped = g.skipped := rfl
@[simp] theorem setFlag_wait (i : Nat) (f : FlagSt) : (g.setFlag i f).wait = g.wait := rfl
@[simp] theorem setFlag_fences (i : Nat) (f : FlagSt) : (g.setFlag i f).fences = g.fences := rfl
@[simp] theorem setFlag_log (i : Nat) (f : FlagSt) : (g.setFlag i f).log = g.log := rfl
@[simp] theorem setFlag_parked (i : Nat) (f : FlagSt) : (g.setFlag i f).parked = g.parked := rfl
@[simp] theorem setFlag_lastS (i : Nat) (f : FlagSt) : (g.setFlag i f).lastS = g.lastS := rfl
@[simp] theorem setFlag_lastL (i : Nat) (f : FlagSt) : (g.setFlag i f).lastL = g.lastL := rfl
@[simp] theorem setFlag_waitS (i : Nat) (f : FlagSt) : (g.setFlag i f).waitS = g.waitS := rfl
@[simp] theorem setFlag_waitL (i : Nat) (f : FlagSt) : (g.setFlag i f).waitL = g.waitL := rfl
@[simp] theorem laneNext_phase : (g.laneNext).phase = g.phase := by unfold Gang.laneNext; split <;> simp_all
@[simp] theorem laneNext_crew : (g.laneNext).crew = g.crew := by unfold Gang.laneNext; split <;> simp_all
@[simp] theorem laneNext_num : (g.laneNext).num = g.num := by unfold Gang.laneNext; split <;> simp_all
@[simp] theorem laneNext_live : (g.laneNext).live = g.live := by unfold Gang.laneNext; split <;> simp_all
@[simp] theorem laneNext_pc : (g.laneNext).pc = g.pc := by unfold Gang.laneNext; split <;> simp_all
@[simp] theorem laneNext_sreg : (g.laneNext).sreg = g.sreg := by unfold Gang.laneNext; split <;> simp_all
@[simp] theorem laneNext_cc : (g.laneNext).cc = g.cc := by unfold Gang.laneNext; split <;> simp_all
@[simp] theorem laneNext_vreg : (g.laneNext).vreg = g.vreg := by unfold Gang.laneNext; split <;> simp_all
@[simp] theorem laneNext_vtag : (g.laneNext).vtag = g.vtag := by unfold Gang.laneNext; split <;> simp_all
@[simp] theorem laneNext_blocks : (g.laneNext).blocks = g.blocks := by unfold Gang.laneNext; split <;> simp_all
@[simp] theorem laneNext_nextBlk : (g.laneNext).nextBlk = g.nextBlk := by unfold Gang.laneNext; split <;> simp_all
@[simp] theorem laneNext_rels : (g.laneNext).rels = g.rels := by unfold Gang.laneNext; split <;> simp_all
@[simp] theorem laneNext_landing : (g.laneNext).landing = g.landing := by unfold Gang.laneNext; split <;> simp_all
@[simp] theorem laneNext_replay : (g.laneNext).replay = g.replay := by unfold Gang.laneNext; split <;> simp_all
@[simp] theorem laneNext_sWait : (g.laneNext).sWait = g.sWait := by unfold Gang.laneNext; split <;> simp_all
@[simp] theorem laneNext_joints : (g.laneNext).joints = g.joints := by unfold Gang.laneNext; split <;> simp_all
@[simp] theorem laneNext_preg : (g.laneNext).preg = g.preg := by unfold Gang.laneNext; split <;> simp_all
@[simp] theorem laneNext_mz : (g.laneNext).mz = g.mz := by unfold Gang.laneNext; split <;> simp_all
@[simp] theorem laneNext_flags : (g.laneNext).flags = g.flags := by unfold Gang.laneNext; split <;> simp_all
@[simp] theorem laneNext_sticky : (g.laneNext).sticky = g.sticky := by unfold Gang.laneNext; split <;> simp_all
@[simp] theorem laneNext_nlists : (g.laneNext).nlists = g.nlists := by unfold Gang.laneNext; split <;> simp_all
@[simp] theorem laneNext_wl : (g.laneNext).wl = g.wl := by unfold Gang.laneNext; split <;> simp_all
@[simp] theorem laneNext_ntiles : (g.laneNext).ntiles = g.ntiles := by unfold Gang.laneNext; split <;> simp_all
@[simp] theorem laneNext_tile : (g.laneNext).tile = g.tile := by unfold Gang.laneNext; split <;> simp_all
@[simp] theorem laneNext_tileTag : (g.laneNext).tileTag = g.tileTag := by unfold Gang.laneNext; split <;> simp_all
@[simp] theorem laneNext_spend : (g.laneNext).spend = g.spend := by unfold Gang.laneNext; split <;> simp_all
@[simp] theorem laneNext_sfault : (g.laneNext).sfault = g.sfault := by unfold Gang.laneNext; split <;> simp_all
@[simp] theorem laneNext_vpend : (g.laneNext).vpend = g.vpend := by unfold Gang.laneNext; split <;> simp_all
@[simp] theorem laneNext_vfault : (g.laneNext).vfault = g.vfault := by unfold Gang.laneNext; split <;> simp_all
@[simp] theorem laneNext_trap : (g.laneNext).trap = g.trap := by unfold Gang.laneNext; split <;> simp_all
@[simp] theorem laneNext_trapWait : (g.laneNext).trapWait = g.trapWait := by unfold Gang.laneNext; split <;> simp_all
@[simp] theorem laneNext_reports : (g.laneNext).reports = g.reports := by unfold Gang.laneNext; split <;> simp_all
@[simp] theorem laneNext_abandoned : (g.laneNext).abandoned = g.abandoned := by unfold Gang.laneNext; split <;> simp_all
@[simp] theorem laneNext_skipped : (g.laneNext).skipped = g.skipped := by unfold Gang.laneNext; split <;> simp_all
@[simp] theorem laneNext_wait : (g.laneNext).wait = g.wait := by unfold Gang.laneNext; split <;> simp_all
@[simp] theorem laneNext_fences : (g.laneNext).fences = g.fences := by unfold Gang.laneNext; split <;> simp_all
@[simp] theorem laneNext_log : (g.laneNext).log = g.log := by unfold Gang.laneNext; split <;> simp_all
@[simp] theorem laneNext_parked : (g.laneNext).parked = g.parked := by unfold Gang.laneNext; split <;> simp_all
@[simp] theorem laneNext_lastS : (g.laneNext).lastS = g.lastS := by unfold Gang.laneNext; split <;> simp_all
@[simp] theorem laneNext_lastL : (g.laneNext).lastL = g.lastL := by unfold Gang.laneNext; split <;> simp_all
@[simp] theorem laneNext_waitS : (g.laneNext).waitS = g.waitS := by unfold Gang.laneNext; split <;> simp_all
@[simp] theorem laneNext_waitL : (g.laneNext).waitL = g.waitL := by unfold Gang.laneNext; split <;> simp_all

/-- R28: a write of a scalar register; `s0` stays zero. -/
@[simp] theorem ws_rs (r j : Nat) (v : Word) : (g.ws r v).rs j = if j = r ∧ r ≠ 0 then v else g.rs j := by
  unfold Gang.ws Gang.rs
  by_cases hr : r = 0
  · simp [hr]
  · simp only [hr, if_false, get_put]; grind

/-- R3: a write of a pair whose even register is `r`. -/
theorem wp_rs (r j : Nat) (v : Dword) : (g.wp r v).rs j =
    if j = r + 1 then v.extractLsb' 32 32 else if j = r ∧ r ≠ 0 then v.extractLsb' 0 32 else g.rs j := by
  simp only [Gang.wp, ws_rs]
  grind

@[simp] theorem adv_rs (n : Word) (j : Nat) : (g.adv n).rs j = g.rs j := rfl
@[simp] theorem adv_rp (n : Word) (j : Nat) : (g.adv n).rp j = g.rp j := rfl
@[simp] theorem rs_zero : g.rs 0 = 0 := rfl

/-- A read of a lane after a write of one lane; the registers are 32 lanes apart. -/
theorem wv_rv (r l r' l' : Nat) (v : Word) (h : l < 32) (h' : l' < 32) :
    (g.wv r l v).rv r' l' = if r' = r ∧ l' = l then v else g.rv r' l' := by
  unfold Gang.wv Gang.rv
  simp only [get_put]
  have : r' * 32 + l' = r * 32 + l ↔ r' = r ∧ l' = l := by omega
  simp [this]

theorem get_wvLanes (r : Nat) (act : BitVec 32) (val : Nat → Word) (n : Nat) (m : Map Word) (r' l' : Nat) (hn : n ≤ 32)
    (h' : l' < 32) : Map.get 0 (wvLanes r act val n m) (r' * 32 + l') =
      if r' = r ∧ l' < n ∧ act.getLsbD l' then val l' else Map.get 0 m (r' * 32 + l') := by
  induction n with
  | zero => simp [wvLanes]
  | succ n ih =>
    have ih := ih (by omega)
    have hk : r' * 32 + l' = r * 32 + n ↔ r' = r ∧ l' = n := by omega
    simp only [wvLanes]
    split
    · simp only [get_put, ih, hk]; grind
    · rw [ih]; grind

/-- A read of a lane after a write of a register in the lanes of a mask (R37). -/
theorem wvs_rv (r : Nat) (act : BitVec 32) (val : Nat → Word) (r' l' : Nat) (h' : l' < 32) :
    (g.wvs r act val).rv r' l' = if r' = r ∧ act.getLsbD l' then val l' else g.rv r' l' := by
  unfold Gang.wvs Gang.rv
  rw [get_wvLanes r act val 32 g.vreg r' l' (le_refl _) h']
  simp [h']

@[simp] theorem setTag_tag (r j : Nat) (t : Ty) : (g.setTag r t).tag j = if j = r then t else g.tag j := get_put
@[simp] theorem setPred_pred (p j : Nat) (v : BitVec 32) :
    (g.setPred p v).pred j = if j = p then v &&& g.live else g.pred j := get_put
@[simp] theorem setFlag_flag (i j : Nat) (f : FlagSt) : (g.setFlag i f).flag j = if j = i then f else g.flag j := get_put

end Sys2Proof.Laws
end

