-- ==== Sys2Proof/Laws/Ops.lean ====
section
/-! SUPPORT. What the shared operations can do, said once: the waits of both streams, what acts on its own gang only, and
that every memory operation keeps the canonical form. -/

namespace Sys2Proof.Laws

open Sys2Proof.Machine

variable (s : State)

/-! ### The scalar stream -/

/-- R83, R90: nothing that the instruction names waits. -/
theorem scalarGo_free {rd wr : List Nat} {k : State → Res} (h : s.me.sBlocked rd wr = false) :
    scalarGo s rd wr k = k s := by simp [scalarGo, h]

/-- R83, R90, R198: the scalar stream waits; it may become parked. -/
theorem scalarGo_blocked {rd wr : List Nat} {k : State → Res} (h : s.me.sBlocked rd wr = true) :
    scalarGo s rd wr k = .next (s.setMe (s.me.sPark rd wr)) := by simp [scalarGo, h]

theorem scalarDo_free {rd wr : List Nat} {f : Gang → Gang} (h : s.me.sBlocked rd wr = false) :
    scalarDo s rd wr f = .next (s.setMe (f s.me)) := by simp [scalarDo, scalarGo, h]

/-! ### The lane stream -/

/-- R79, R81, R87, R89: a lane instruction that nothing holds back acts. -/
theorem laneGoIf_runs {lanes : BitVec 32} {u : LaneUse} {k : State → Res} (hb : s.me.lBlocked u = false)
    (hr : ∀ r ∈ u.rd ++ u.wr, r < s.me.vlimit) (ht : ∀ p ∈ u.tags, s.me.tag p.1 = p.2) :
    laneGoIf s false lanes u k = k s := by
  have h1 : (u.rd ++ u.wr).any (fun r => decide (s.me.vlimit ≤ r)) = false := by
    rw [List.any_eq_false]; intro r h; have := hr r h; simp; omega
  have h2 : u.tags.any (fun p => s.me.tag p.1 != p.2) = false := by
    rw [List.any_eq_false]; intro p h; simp [ht p h]
  simp only [laneGoIf, hb, h1, h2, Bool.or_self, Bool.false_eq_true, if_false]

/-- R187: the acquires before its clause hold it back no longer. -/
theorem laneGo_runs {lanes : BitVec 32} {u : LaneUse} {k : State → Res} (hb : s.me.lBlocked u = false)
    (hh : s.laneHeld = false) (hr : ∀ r ∈ u.rd ++ u.wr, r < s.me.vlimit) (ht : ∀ p ∈ u.tags, s.me.tag p.1 = p.2) :
    laneGo s lanes u k = k s := by rw [laneGo, hh]; exact laneGoIf_runs s hb hr ht

theorem laneDo_runs {f : LaneWord} {u : LaneUse} {h : Gang → Gang} (hb : s.me.lBlocked u = false)
    (hh : s.laneHeld = false) (hr : ∀ r ∈ u.rd ++ u.wr, r < s.me.vlimit) (ht : ∀ p ∈ u.tags, s.me.tag p.1 = p.2) :
    laneDo s f u h = .next ((s.taint s.cur u.wr).setMe (h s.me).laneNext) := laneGo_runs s hb hh hr ht

/-! ### What acts on its own gang only -/

@[simp] theorem sameBytes_setMe (g : Gang) : s.SameBytes (s.setMe g) := fun _ => ⟨rfl, rfl, rfl, fun _ => rfl⟩

theorem ownGang_setMe (g : Gang) : s.OwnGang (s.setMe g) :=
  ⟨sameBytes_setMe s g, fun k hk => by simp [hk], rfl⟩

theorem writesPc_setMe (pc : Word) : s.WritesPc (s.setMe { s.me with pc := pc }) pc := ⟨ownGang_setMe s _, by simp⟩

theorem writesScalar_ws (r : Nat) (v : Word) (n : Word) : s.WritesScalar (s.setMe ((s.me.ws r v).adv n)) [r] := by
  refine ⟨ownGang_setMe s _, fun j hj => ?_, ?_⟩
  · have : j ≠ r := by simpa using hj
    simp [this]
  · simp only [setMe_me]
    unfold Gang.ws Gang.adv
    split <;> rfl

theorem writesScalar_wp (r : Nat) (v : Dword) (n : Word) :
    s.WritesScalar (s.setMe ((s.me.wp r v).adv n)) [r, r + 1] := by
  refine ⟨ownGang_setMe s _, fun j hj => ?_, ?_⟩
  · have : j ≠ r ∧ j ≠ r + 1 := by simpa using hj
    simp [wp_rs, this]
  · simp only [setMe_me]
    unfold Gang.wp Gang.ws Gang.adv
    split <;> split <;> rfl

/-- R28: the register that was written. -/
theorem ws_self (g : Gang) (r : Nat) (v : Word) : (g.ws r v).rs r = if r = 0 then 0 else v := by
  simp only [ws_rs]
  by_cases h : r = 0 <;> simp [h]

/-! ### Memory keeps its canonical form -/

theorem canonical_of_mem {s t : State} (h : s.Canonical) (h1 : t.quay.mem = s.quay.mem) (h2 : t.hostMem = s.hostMem)
    (h3 : t.peerMem = s.peerMem) : t.Canonical := by
  unfold State.Canonical at *; rwa [h1, h2, h3]

theorem canonical_writePhys {s : State} (h : s.Canonical) (a : Nat) (bs : List Byte) : (s.writePhys a bs).Canonical :=
  ⟨wf_putList h.1, h.2.1, h.2.2⟩

theorem canonical_writeHost {s : State} (h : s.Canonical) (a : Nat) (bs : List Byte) : (s.writeHost a bs).Canonical :=
  ⟨h.1, wf_putList h.2.1, h.2.2⟩

theorem canonical_writePeer {s : State} (h : s.Canonical) (a : Nat) (bs : List Byte) : (s.writePeer a bs).Canonical :=
  ⟨h.1, h.2.1, wf_putList h.2.2⟩

/-- A write to a scratchpad keeps its canonical form. -/
theorem wf_writeScr (w : Crew) (o : Nat) (bs : List Byte) (h : Memory.wf w.scratch = true) :
    Memory.wf (w.writeScr o bs).scratch = true := wf_putList h

/-- A byte of device memory after a write. -/
theorem readPhys_writePhys (a b : Nat) (bs : List Byte) :
    (s.writePhys a bs).readPhys b 1 = if a ≤ b ∧ b < a + bs.length then [bs.getD (b - a) 0] else s.readPhys b 1 := by
  simp only [State.readPhys, Map.getList, writePhys_mem, get_putList]
  split <;> rfl

/-- The length of a read. -/
@[simp] theorem readPhys_length (a n : Nat) : (s.readPhys a n).length = n := length_getList

end Sys2Proof.Laws
end

