-- ==== Sys2Proof/Laws/Shared.lean ====
section
/-! SUPPORT. What taking a trap, issuing an operation and the work on frames can do, said once. -/

namespace Sys2Proof.Laws

open Sys2Proof.Machine

variable (s : State)

/-! ### Traps (R191-R193, R223) -/

/-- A report changes gangs only, and no gang but the one that it names. -/
theorem report_only (k : Nat) (t : TrapInfo) : s.report k t = { s with gangs := (s.report k t).gangs } := by
  simp only [State.report]; split <;> rfl

theorem report_gang_ne {k j : Nat} (t : TrapInfo) (h : j ≠ k) : (s.report k t).gang j = s.gang j := by
  simp only [State.report]; split <;> simp [h]

/-- A watch mismatch changes gangs only, and no gang outside the instruction. -/
theorem mismatch_only (h : HOp) (ps : List HPart) : ∀ s : State, s.mismatch h ps = { s with gangs := (s.mismatch h ps).gangs } := by
  induction ps with
  | nil => intro s; rfl
  | cons p ps ih =>
    intro s
    simp only [State.mismatch]
    rw [ih, report_only]
    rfl

theorem mismatch_gang_ne (h : HOp) (ps : List HPart) (j : Nat) : ∀ s : State, (∀ p ∈ ps, p.gang ≠ j) →
    (s.mismatch h ps).gang j = s.gang j := by
  induction ps with
  | nil => intro s _; rfl
  | cons p ps ih =>
    intro s hp
    have hj : j ≠ p.gang := fun e => hp p (by simp) e.symm
    simp only [State.mismatch]
    rw [ih _ (fun q hq => hp q (by simp [hq])), setGang_gang, if_neg hj, report_gang_ne _ _ hj]

theorem mismatches_only (hs : List HOp) : ∀ s : State, hs.foldl (fun s h => s.mismatch h h.parts) s
    = { s with gangs := (hs.foldl (fun s h => s.mismatch h h.parts) s).gangs } := by
  induction hs with
  | nil => intro s; rfl
  | cons h hs ih => intro s; simp only [List.foldl_cons]; rw [ih, mismatch_only]

theorem mismatches_gang_ne (hs : List HOp) (j : Nat) : ∀ s : State, (∀ h ∈ hs, ∀ p ∈ h.parts, p.gang ≠ j) →
    (hs.foldl (fun s h => s.mismatch h h.parts) s).gang j = s.gang j := by
  induction hs with
  | nil => intro s _; rfl
  | cons h hs ih =>
    intro s hp
    simp only [List.foldl_cons]
    rw [ih _ (fun x hx => hp x (by simp [hx])), mismatch_gang_ne _ _ _ _ (hp h (by simp))]

/-- The joint instructions that a gang breaks are none of its own: its state stays. -/
theorem jointBreak_gang (k : Nat) : (s.jointBreak k).gang k = s.gang k := by
  simp only [State.jointBreak]
  rw [mismatches_gang_ne]
  · rfl
  · intro h hh p hp e
    simp only [State.unmatched, List.mem_filter, Bool.and_eq_true, Bool.not_eq_true', List.any_eq_false, beq_iff_eq] at hh
    exact hh.2.2 p hp e

/-- Breaking joint instructions changes gangs and the instructions in flight only. -/
theorem jointBreak_only (k : Nat) :
    s.jointBreak k = { s with gangs := (s.jointBreak k).gangs, hops := (s.jointBreak k).hops } := by
  simp only [State.jointBreak]; rw [mismatches_only]

/-- R231: what has begun loses its destination; nothing else of the device changes. -/
theorem loseBegun_only (k : Nat) : s.loseBegun k = { s with hops := (s.loseBegun k).hops } := rfl

@[simp] theorem loseBegun_gang (k j : Nat) : (s.loseBegun k).gang j = s.gang j := rfl

/-- R231: an instruction that has begun, of the gang, loses that gang's destination; every other one stays. -/
theorem mem_loseBegun {k : Nat} {h : HOp} : h ∈ (s.loseBegun k).hops ↔
    ∃ h' ∈ s.hops, (if h'.begun && h'.parts.any (fun p => p.gang == k) then { h' with lost := h'.lost ++ [k] } else h') = h := by
  simp only [State.loseBegun, List.mem_map]

/-- R192: a gang outside handler mode, whose launch names a handler, enters it with the trap state written. -/
theorem takeTrap_gang {k h : Nat} (t : TrapInfo) (hh : (s.crew (s.gang k).crew).handler = some h)
    (hm : (s.gang k).trap.handler = false) : (s.takeTrap k t).gang k
      = { s.gang k with trap := (s.gang k).trap.record t, pc := BitVec.ofNat 32 h, trapWait := none, parked := false, sWait := false } := by
  simp only [State.takeTrap, hh, hm]
  split <;> simp only [loseBegun_gang, jointBreak_gang] <;> simp

/-- R193: without a handler, or in handler mode, the trap state is written and the crew begins to stop. -/
theorem takeTrap_stops {k : Nat} (t : TrapInfo)
    (h : (s.crew (s.gang k).crew).handler = none ∨ (s.gang k).trap.handler = true) :
    s.takeTrap k t = (s.setGang k { s.gang k with trap := (s.gang k).trap.record t, trapWait := none }).stopCrew
      (s.gang k).crew ⟨k, t, true, true⟩ := by
  simp only [State.takeTrap]
  split
  · rename_i h1 h2; simp [h1, h2] at h
  · rfl

/-- A trap that a handler takes changes gangs and the instructions in flight only. -/
theorem takeTrap_only {k h : Nat} (t : TrapInfo) (hh : (s.crew (s.gang k).crew).handler = some h)
    (hm : (s.gang k).trap.handler = false) :
    s.takeTrap k t = { s with gangs := (s.takeTrap k t).gangs, hops := (s.takeTrap k t).hops } := by
  simp only [State.takeTrap, hh, hm]
  split
  · rw [loseBegun_only, jointBreak_only]; rfl
  · rw [jointBreak_only]; rfl

/-! ### Frames (R275, R284, R293) -/

theorem wfFrom_filter {d : Byte} {p : Nat × Byte → Bool} {m : Map Byte} : ∀ {lo : Option Nat}, Map.wfFrom d lo m = true →
    Map.wfFrom d lo (m.filter p) = true := by
  induction m with
  | nil => intro lo h; exact h
  | cons e m ih =>
    intro lo h
    obtain ⟨h1, h2, h3⟩ := wfFrom_cons.1 h
    by_cases hp : p e = true
    · rw [List.filter_cons_of_pos hp]; exact wfFrom_cons.2 ⟨h1, h2, ih h3⟩
    · rw [List.filter_cons_of_neg hp]
      exact ih (wfFrom_mono h3 (fun b hb => ⟨e.1, rfl, le_of_lt (h1 b hb)⟩))

/-- A scrubbed frame keeps the canonical form. -/
theorem canonical_zeroFrame {s : State} (h : s.Canonical) (f : Nat) : (s.zeroFrame f).Canonical :=
  ⟨wfFrom_filter h.1, h.2.1, h.2.2⟩

theorem wf_puts (es : List (Nat × Byte)) (k : Nat → Nat) : ∀ m : Map Byte, Memory.wf m = true →
    Memory.wf (es.foldl (fun m e => Map.put 0 m (k e.1) e.2) m) = true := by
  induction es with
  | nil => intro m h; exact h
  | cons e es ih => intro m h; exact ih _ (wf_put h)

/-- A copied frame keeps the canonical form. -/
theorem canonical_copyFrame {s : State} (h : s.Canonical) (a b : Nat) : (s.copyFrame a b).Canonical :=
  ⟨wf_puts _ (fun x => x - frameBase a + frameBase b) _ (canonical_zeroFrame h b).1, h.2.1, h.2.2⟩

/-- A byte after a frame is scrubbed. -/
theorem readPhys_zeroFrame (f a : Nat) :
    (s.zeroFrame f).readPhys a 1 = if f * 65536 ≤ a ∧ a < f * 65536 + 65536 then [0] else s.readPhys a 1 := by
  have key : ∀ m : Map Byte, Map.get 0 (m.filter (fun e => !(decide (frameBase f ≤ e.1) && decide (e.1 < frameBase f + 65536)))) a
      = if f * 65536 ≤ a ∧ a < f * 65536 + 65536 then 0 else Map.get 0 m a := by
    intro m
    induction m with
    | nil => simp [Map.get]
    | cons e m ih =>
      by_cases hp : f * 65536 ≤ e.1 ∧ e.1 < f * 65536 + 65536
      · rw [List.filter_cons_of_neg (by simp [frameBase, hp]), ih, get_cons]
        by_cases hc : f * 65536 ≤ a ∧ a < f * 65536 + 65536
        · simp [hc]
        · rw [if_neg hc, if_neg hc, if_neg (fun e' => hc (by rw [e']; exact hp))]
      · rw [List.filter_cons_of_pos (by
          have hb : frameBase f = f * 65536 := rfl
          simp only [Bool.not_eq_true', Bool.and_eq_false_iff, decide_eq_false_iff_not]; omega), get_cons, get_cons, ih]
        by_cases hc : a = e.1
        · rw [if_pos hc, if_neg (by rw [hc]; exact hp)]; simp [hc]
        · simp [hc]
  simp only [State.readPhys, State.zeroFrame, Map.getList, key]
  split <;> rfl

/-! ### Operations that issue (R83, R156, R180) -/

/-- R198: parking changes the gang's `parked` only. -/
theorem parkNow_spec (k : Nat) : ∃ b, s.parkNow k = s.setGang k { s.gang k with parked := b } ∨ s.parkNow k = s := by
  refine ⟨true, ?_⟩
  unfold State.parkNow; split
  · exact .inl rfl
  · exact .inr rfl

/-- What a scalar instruction's operation does as it issues: it takes the next place in issue order, its destination
registers become pending, and nothing else of the device changes; its gang may become parked (R198). It does so where
its store queue has room. -/
theorem enter_spec (o : Op) (len : Word) (hf : o.inQ = true → s.queueFull s.cur = false) :
    ∃ h, (s.enter o len).ops = s.ops ++ [{ o with id := s.nextOp, head := h }] ∧ (s.enter o len).nextOp = s.nextOp + 1
      ∧ (s.enter o len).me = { s.me with spend := s.me.spend ++ o.dst.sregs.filter (· != 0), pc := s.me.pc + len,
                                         parked := (s.enter o len).me.parked }
      ∧ (∀ k, k ≠ s.cur → (s.enter o len).gang k = s.gang k)
      ∧ s.enter o len = { s with gangs := (s.enter o len).gangs, ops := (s.enter o len).ops, nextOp := (s.enter o len).nextOp } := by
  have hf' : (o.inQ && s.queueFull s.cur) = false := by cases h : o.inQ <;> simp [h] at * ; exact hf
  have he : s.enter o len = ((s.issue o).setMe (((s.issue o).me.pend o.dst.sregs).adv len)).parkNow s.cur := by
    simp [State.enter, hf']
  obtain ⟨b, hb⟩ := parkNow_spec ((s.issue o).setMe (((s.issue o).me.pend o.dst.sregs).adv len)) s.cur
  rw [he]
  refine ⟨if (s.queue o.gang).isEmpty then s.nextOp else 0, ?_, ?_, ?_, ?_, ?_⟩ <;> obtain hb | hb := hb <;> rw [hb]
  all_goals first
    | rfl
    | (intro k hk; simp [State.setMe, hk])
    | simp [State.me, State.setMe, State.issue, Gang.pend, Gang.adv, State.gang, State.setGang]

end Sys2Proof.Laws
end

