-- ==== Sys2Proof/Tests/Slice0.lean ====
section
/-! SUPPORT. Tests: words written out from the encoding tables, ill-formed terms, single steps with results from the manual,
and for each statement a state and operands that meet its hypotheses. -/

open Sys2Proof Sys2Proof.Machine Sys2Proof.Claims

namespace Sys2Proof.Tests

-- One test at a time: a hundred evaluations side by side would each hold a thread and its memory.
set_option Elab.async false

/-! ### Ill-formed instructions -/

/-- Every field zero: a legal word of the rows that take type 0. -/
def z : LaneWord := ⟨false, false, 0, 0, 0, 0, 0, 0, 0, 0, 0, 0, 0⟩

/-- R28, R45, R112, R114, R115, R166, R303, R325: odd pairs, reserved codes and reserved fields of scalar words. -/
theorem test_wf_scalar : ([.satom .add true .dev .rlx 0 5 6 8, .satom .add true .dev .rlx 0 4 6 7, .satom .addf true .dev .rlx 0 4 6 8,
    .satom .maxvi false .dev .rlx 0 4 6 8, .scas true .dev .rlx 0 5 6 8, .sldAcq true .dev 5 6, .sstRel true .dev 0 0 5 6,
    .sredeem false .dev 5 6 7 8, .pfxwalk .dev 5 0 6, .pfxins .dev 5 0 6, .pfxrel .dev 5 0 6, .pfxevict .dev 5 0 6,
    .srd 5 0x00D, .srd 5 0x010, .swr 5 0x00C, .vacq false 0 0, .vacq false 5 1, .vrel 3] : List Instr).all (fun i => !i.wf) = true := by
  decide

/-- R36 to R40: guard fields without a guard, reserved types, unused fields and b-sources. -/
theorem test_wf_lane : ([.vnop { z with gn := true }, .vnop { z with pn := 1 }, .vnop { z with typ := 1 }, .vnop { z with vd := 1 },
    .vnop { z with va := 1 }, .vnop { z with vb := 1 }, .vnop { z with vc := 1 }, .vnop { z with pd := 1 }, .vnop { z with bsrc := 1 },
    .vnop { z with mode := 1 }, .vnop { z with opx := 1 }, .vnop { z with ext := 1 }, .vadd { z with typ := 3 },
    .vadd { z with typ := 1, bsrc := 3 }, .vadd { z with typ := 1, bsrc := 1, vb := 128 }, .vadd { z with typ := 1, bsrc := 2, vb := 1 },
    .vadd { z with typ := 1, mode := 2 }, .vmulh { z with typ := 9 }, .vmad { z with typ := 1, pd := 1 }, .vand { z with typ := 1 },
    .vshl { z with typ := 3 }, .vmin { z with typ := 1, mode := 1 }, .vabs { z with typ := 2 }, .vneg { z with typ := 1, bsrc := 2 },
    .vclz { z with typ := 1, vb := 1 }, .vbfx { z with typ := 9 }, .vbfi { z with typ := 3 }, .vmov { z with va := 1 },
    .vmov { z with typ := 14 }, .vli { z with bsrc := 0 }, .vsel { z with vc := 1 }, .vcmp { z with typ := 1, opx := 6 },
    .vcmp { z with typ := 1, vd := 1 }, .vdp4 { z with typ := 1 }, .vaddc { z with typ := 2, vc := 16 }] : List Instr).all
      (fun i => !i.wf) = true := by
  decide

/-- R133 to R151: float, format, predicate and cross-lane words. -/
theorem test_wf_lane2 : ([.vfadd { z with typ := 1 }, .vfma { z with typ := 6 }, .vfmin { z with typ := 3, mode := 1 },
    .vfrcp { z with typ := 3, vb := 1 }, .vfcmp { z with typ := 4 }, .vfcls { z with typ := 3, ext := 0x400 },
    .vfdp2 { z with typ := 3 }, .vfdp2 { z with typ := 4, mode := 2 }, .vcvt { z with typ := 0 }, .vcvt { z with typ := 3, ext := 0 },
    .vcvt { z with typ := 3, ext := 14 }, .vcvt { z with typ := 3, ext := 0x41 }, .vcvt { z with typ := 6, va := 253, ext := 3 },
    .vcvt { z with typ := 3, vd := 253, ext := 6 }, .vcvt { z with typ := 3, opx := 4, mode := 2, ext := 1 },
    .vpackb { z with typ := 8, mode := 1 }, .vpackb { z with typ := 8, va := 249 }, .vpackb { z with typ := 8, ext := 4 },
    .vunpkb { z with typ := 8, vd := 249 }, .vtag { z with typ := 14 }, .vtagq { z with typ := 1 }, .pand { z with va := 16 },
    .pand { z with vb := 16 }, .pnot { z with vb := 1 }, .pset { z with va := 1 }, .pget { z with vd := 128 }, .pcnt { z with pd := 1 },
    .vshfl { z with opx := 4 }, .vbcast { z with bsrc := 0 }, .vrot { z with opx := 1, bsrc := 1 }, .vred { z with ext := 12 },
    .vred { z with typ := 3, ext := 0 }, .vred { z with typ := 3, mode := 2, ext := 9 }, .vred { z with typ := 1, vd := 128, opx := 4 },
    .vred { z with typ := 3, opx := 4, ext := 11, vd := 1 }, .vscan { z with typ := 3, ext := 11 }, .visect { z with ge := true, typ := 2 },
    .visect { z with typ := 2, ext := 1 }, .vrng { z with typ := 1 }, .vlane { z with typ := 2, opx := 3 }] : List Instr).all
      (fun i => !i.wf) = true := by
  decide

/-- R160 to R169, R174, R268, R305: words of memory instructions. -/
theorem test_wf_memory : ([.vld { z with opx := 3 }, .vld { z with bsrc := 2 }, .vld { z with mode := 6 }, .vld { z with va := 255 },
    .vld { z with bsrc := 1, vb := 5 }, .vld { z with ext := 3 }, .vld { z with ext := 0x10 }, .vld { z with ext := 0x20 },
    .vld { z with ext := 0x1000000 }, .vld { z with vd := 253, ext := 2 }, .vst { z with opx := 1 }, .vst { z with vc := 255, ext := 1 },
    .vlds { z with mode := 2 }, .vsts { z with vd := 1 }, .vatom { z with typ := 1 }, .vatom { z with ext := 11 },
    .vatom { z with ext := 0x19 }, .vatom { z with ext := 0x0A }, .vatom { z with vd := 1 }, .vatom { z with opx := 1 },
    .vatom { z with vc := 255, ext := 0x10 }, .vatoms { z with mode := 2 }, .vprf { z with opx := 1 }, .vprf { z with ext := 1 },
    .vredeem { z with bsrc := 0 }, .vredeem { z with bsrc := 1, vb := 1 }, .vredeem { z with bsrc := 1, vd := 253 },
    .vredeem { z with bsrc := 1, vc := 1 }, .vredeem { z with bsrc := 1, ext := 0x80 }, .vredeemRemote { z with bsrc := 1 },
    .vredeemRemote { z with bsrc := 1, ext := 0x81 }, .vcpidx { z with bsrc := 1, vb := 124 }, .vcpidx { z with bsrc := 1, ext := 0x400 },
    .vcpidx { z with bsrc := 1, mode := 6 }] : List Instr).all (fun i => !i.wf) = true := by
  decide

/-- R233 to R251: words of matrix and winner-list instructions. -/
theorem test_wf_hearth : ([.mxmac { z with typ := 3, bsrc := 1 }, .mxmac { z with typ := 9 }, .mxmac { z with typ := 9, bsrc := 1, vb := 4 },
    .mxmac { z with typ := 9, bsrc := 1, ext := 0x800 }, .mxmac { z with typ := 4, bsrc := 1, mode := 1 },
    .mxmac { z with typ := 9, bsrc := 1, va := 253 }, .mxmac { z with typ := 9, bsrc := 1, ext := 1 }, .mxtopk { z with typ := 9, bsrc := 1, ext := 0x4000 },
    .mxtopk { z with typ := 9, bsrc := 1, ext := 0x200000 }, .mxv { z with typ := 8, bsrc := 1 }, .mxv { z with typ := 9, bsrc := 1, opx := 4 },
    .mxrdy { z with ext := 1 }, .mxrdy { z with bsrc := 1, vb := 1 }, .mxld { z with typ := 2, bsrc := 1 }, .mxst { z with typ := 2, bsrc := 1 },
    .mxclr { z with typ := 2 }, .mxmovToTile { z with typ := 1, opx := 4 }, .mxmovToTile { z with typ := 1, ext := 0x1F8200 },
    .mxmovToVector { z with typ := 1 }, .mxmovToVector { z with typ := 1, opx := 4, vd := 255 }, .wlclr { z with ext := 1 },
    .wlget { z with vd := 254 }, .wlins { z with typ := 2 }, .wlmrg z, .wlthr { z with vd := 255 }, .wlst z, .wlld z,
    .wlcfg { z with typ := 1, bsrc := 1, ext := 0x40000 }, .wlcfg { z with bsrc := 1 }] : List Instr).all (fun i => !i.wf) = true := by
  decide

/-- R29, R30, R32, R33, R45, R47: reserved codes and fields, and a word cut short, are refused by name. -/
theorem test_decode_refuses : decodeBytes (natLE 4 0x3C000001) = .error .notEncoding ∧ decodeBytes (natLE 4 0x58000000) = .error .reservedCode
    ∧ decodeBytes (natLE 4 0x0000001F) = .error .reservedCode ∧ decodeBytes (natLE 4 0x04080000) = .error .notEncoding
    ∧ decodeBytes (natLE 4 0xFDE00000) = .error .truncated ∧ decodeBytes (natLE 3 0) = .error .truncated
    ∧ decodeBytes (natLE 8 (0x0000000D00000000 + 0xFD302000)) = .error .notWellFormed
    ∧ decodeLaneBytes (natLE 12 (0xFF * 2 ^ 88)) = .error .clauseHeader ∧ decodeLaneBytes (natLE 12 (0x1B * 2 ^ 88)) = .error .reservedCode
    ∧ decodeLaneBytes (natLE 12 (3 * 2 ^ 40)) = .error .notWellFormed := by
  decide

/-- Words of format SR, Table 2-7. -/
def words_salu : List (Nat × Instr) :=
  [(0x002860E0, .sadd 5 6 7),
   (0x002860E1, .ssub 5 6 7),
   (0x002860E2, .sand 5 6 7),
   (0x002860E3, .sor 5 6 7),
   (0x002860E4, .sxor 5 6 7),
   (0x002860E5, .sshl 5 6 7),
   (0x002860E6, .sshr 5 6 7),
   (0x002860E7, .ssra 5 6 7),
   (0x002860E8, .smin 5 6 7),
   (0x002860E9, .smax 5 6 7),
   (0x002860EA, .sminn 5 6 7),
   (0x002860EB, .smaxn 5 6 7),
   (0x002860EC, .smul 5 6 7),
   (0x002860ED, .smulh 5 6 7),
   (0x002860EE, .smulhn 5 6 7),
   (0x0028600F, .sclz 5 6),
   (0x00286010, .spopc 5 6),
   (0x00286011, .smov 5 6),
   (0x000060F2, .scmp 6 7),
   (0x002860F3, .sandn 5 6 7)]
theorem test_decode_salu : words_salu.all (fun p => decide (decodeBytes (natLE 4 p.1) = .ok (p.2, []))) = true := by decide +kernel

/-- Words of format SR, Table 2-8; a pair is named by its even register. -/
def words_salud : List (Nat × Instr) :=
  [(0x0450C1C0, .saddD 5 6 7),
   (0x0450C1C1, .ssubD 5 6 7),
   (0x0450C0E2, .sshlD 5 6 7),
   (0x0450C0E3, .sshrD 5 6 7),
   (0x0450C004, .smovD 5 6),
   (0x0400C1C5, .scmpD 6 7),
   (0x045060E6, .smulw 5 6 7),
   (0x045060E7, .smulwn 5 6 7),
   (0x4428C1D2, .mwait 5 6 7 .dev .ne)]
theorem test_decode_salud : words_salud.all (fun p => decide (decodeBytes (natLE 4 p.1) = .ok (p.2, []))) = true := by decide +kernel

/-- Words of formats SI, SU, SB and SM, Table 2-6. -/
def words_immediate : List (Nat × Instr) :=
  [(0x08286801, .saddi 5 6 0x801),
   (0x0C286801, .sandi 5 6 0x801),
   (0x10286801, .sori 5 6 0x801),
   (0x14286801, .sxori 5 6 0x801),
   (0x18286009, .sshli 5 6 9),
   (0x18286409, .sshri 5 6 9),
   (0x18286809, .ssrai 5 6 9),
   (0x1C006801, .scmpi 6 0x801),
   (0x202C0001, .sli 5 0x40001),
   (0x242C0001, .slui 5 0x40001),
   (0x2A380001, .sbr 17 true 0x80001),
   (0x2C2C0001, .scall 5 0x40001),
   (0x30286801, .sjr 5 6 0x801),
   (0x34040001, .lrun 0x40001),
   (0x38006000, .lrunr 6),
   (0x3C000000, .lsync),
   (0x4000080A, .swaitf 0x80A),
   (0x4828C801, .sld 5 6 0x801),
   (0x4C50C801, .sldD 5 6 0x801),
   (0x5028C701, .sst 5 6 3 0x101),
   (0x5450C701, .sstD 5 6 3 0x101)]
theorem test_decode_immediate : words_immediate.all (fun p => decide (decodeBytes (natLE 4 p.1) = .ok (p.2, []))) = true := by decide +kernel

/-- Words of Table 2-11 with Table 5-4 and R164 to R175. -/
def words_long_core : List (Nat × Instr) :=
  [(0x0F300203FC00A300, .satom .maxn false .dev .ar 3 5 6 7),
   (0x1D500543FC014300, .satom .maxvi true .sys .acq 3 10 6 14),
   (0x0E600003FC10A300, .scas false .crew .rel 3 5 6 7),
   (0x00800000FC20A300, .sldAcq false .core 5 6),
   (0x00CA5406FC314300, .sstRel true .die 0xA5 6 10 6),
   (0x013A5000FC400000, .sfence .dev .full 0xA5),
   (0x00000005FD30A000, .srd 5 0x005),
   (0x0000000BFD400180, .swr 6 0x00B),
   (0x00000000FD50A000, .sgetf 5),
   (0x0000002DFD600000, .sclrf 0x2D),
   (0x00000803FD70A000, .vacq true 5 3),
   (0x00000002FD700000, .vacq false 0 2),
   (0x00000002FD800000, .vrel 2),
   (0x00000009FD900180, .sbar 9 6),
   (0x00000400FDA0A180, .sbarw true 5 6),
   (0x00000ABCFDB00000, .strap 0xABC),
   (0x00000ABCFDC00000, .sbrk 0xABC),
   (0x00000000FDD00000, .syield),
   (0x00000000FDE00000, .sexit),
   (0x1D0A52D6FDF14300, .ssendsig .dev 0xA5 0x5A 6 5 6 7)]
theorem test_decode_long_core : words_long_core.all (fun p => decide (decodeBytes (natLE 8 p.1) = .ok (p.2, []))) = true := by decide +kernel

/-- Words of R286, R303 to R309, Table 18-3, R344 and R348. -/
def words_long_engines : List (Nat × Instr) :=
  [(0x00000FC0FC514300, .fetchk true 15 .phase 5 6),
   (0x00000000FC600300, .kdrop 6),
   (0x00000000FC70A300, .kstat 5 6),
   (0x1D000809FC80A300, .sredeem true .dev 5 9 6 7),
   (0x00000800FC90A300, .pcommit true 5 6),
   (0x00000000FCA0A300, .pdecommit 5 6),
   (0x00000400FCB14300, .pquery true 5 6),
   (0x1CC00000FCC14600, .pfxwalk .die 5 3 7),
   (0x1D000000FCD14600, .pfxins .dev 5 3 7),
   (0x1D000000FCE14600, .pfxrel .dev 5 3 7),
   (0x1D000000FCF14600, .pfxevict .dev 5 3 7),
   (0x00000806FD00A300, .slaunch true 6 5 6),
   (0x01000002FD114180, .jcount .phase .dev 5 6),
   (0x00000003FD20A180, .jcancel .job 5 6)]
theorem test_decode_long_engines : words_long_engines.all (fun p => decide (decodeBytes (natLE 8 p.1) = .ok (p.2, []))) = true := by decide +kernel

/-- Words of Table 2-12 with Table 6-1. -/
def words_int : List (Nat × Instr) :=
  [(0x00CC28507800090800000000, .vadd ⟨true, true, 3, 10, 20, 30, 0, 0, 9, 0, 1, 0, 0x0⟩),
   (0x01CC28507800090800000000, .vsub ⟨true, true, 3, 10, 20, 30, 0, 0, 9, 0, 1, 0, 0x0⟩),
   (0x02CC28507800090800000000, .vmul ⟨true, true, 3, 10, 20, 30, 0, 0, 9, 0, 1, 0, 0x0⟩),
   (0x03CC285078000B0000000000, .vmulh ⟨true, true, 3, 10, 20, 30, 0, 0, 11, 0, 0, 0, 0x0⟩),
   (0x04CC285078A0010800000000, .vmad ⟨true, true, 3, 10, 20, 30, 40, 0, 1, 0, 1, 0, 0x0⟩),
   (0x05CC28507800000000000000, .vand ⟨true, true, 3, 10, 20, 30, 0, 0, 0, 0, 0, 0, 0x0⟩),
   (0x06CC28507800000000000000, .vor ⟨true, true, 3, 10, 20, 30, 0, 0, 0, 0, 0, 0, 0x0⟩),
   (0x07CC28507800000000000000, .vxor ⟨true, true, 3, 10, 20, 30, 0, 0, 0, 0, 0, 0, 0x0⟩),
   (0x08CC28507800000000000000, .vandn ⟨true, true, 3, 10, 20, 30, 0, 0, 0, 0, 0, 0, 0x0⟩),
   (0x09CC28500000028089ABCDEF, .vshl ⟨true, true, 3, 10, 20, 0, 0, 0, 2, 2, 0, 0, 0x89ABCDEF⟩),
   (0x0ACC28500000028089ABCDEF, .vshr ⟨true, true, 3, 10, 20, 0, 0, 0, 2, 2, 0, 0, 0x89ABCDEF⟩),
   (0x0BCC28500000028089ABCDEF, .vsra ⟨true, true, 3, 10, 20, 0, 0, 0, 2, 2, 0, 0, 0x89ABCDEF⟩),
   (0x0CCC285014000C4000000000, .vmin ⟨true, true, 3, 10, 20, 5, 0, 0, 12, 1, 0, 0, 0x0⟩),
   (0x0DCC285078000A0000000000, .vmax ⟨true, true, 3, 10, 20, 30, 0, 0, 10, 0, 0, 0, 0x0⟩),
   (0x0ECC28500000010800000000, .vabs ⟨true, true, 3, 10, 20, 0, 0, 0, 1, 0, 1, 0, 0x0⟩),
   (0x0FCC28500000010800000000, .vneg ⟨true, true, 3, 10, 20, 0, 0, 0, 1, 0, 1, 0, 0x0⟩),
   (0x10CC28500000020000000000, .vclz ⟨true, true, 3, 10, 20, 0, 0, 0, 2, 0, 0, 0, 0x0⟩),
   (0x11CC28500000020000000000, .vpopc ⟨true, true, 3, 10, 20, 0, 0, 0, 2, 0, 0, 0, 0x0⟩),
   (0x12CC28500000020000000000, .vbrev ⟨true, true, 3, 10, 20, 0, 0, 0, 2, 0, 0, 0, 0x0⟩),
   (0x13CC28507800010000000000, .vbfx ⟨true, true, 3, 10, 20, 30, 0, 0, 1, 0, 0, 0, 0x0⟩),
   (0x14CC285078A0020000000000, .vbfi ⟨true, true, 3, 10, 20, 30, 40, 0, 2, 0, 0, 0, 0x0⟩),
   (0x15CC280078000D0000000000, .vmov ⟨true, true, 3, 10, 0, 30, 0, 0, 13, 0, 0, 0, 0x0⟩),
   (0x16CC280000A0028089ABCDEF, .vli ⟨true, true, 3, 10, 0, 0, 40, 0, 2, 2, 0, 0, 0x89ABCDEF⟩),
   (0x17CC28507802460000000000, .vsel ⟨true, true, 3, 10, 20, 30, 0, 9, 6, 0, 0, 0, 0x0⟩),
   (0x18CC00507802410500000000, .vcmp ⟨true, true, 3, 0, 20, 30, 0, 9, 1, 0, 0, 5, 0x0⟩),
   (0x19CC285078A00A0800000000, .vdp4 ⟨true, true, 3, 10, 20, 30, 40, 0, 10, 0, 1, 0, 0x0⟩),
   (0x1ACC2850782E420000000000, .vaddc ⟨true, true, 3, 10, 20, 30, 11, 9, 2, 0, 0, 0, 0x0⟩)]
theorem test_decode_int : words_int.all (fun p => decide (decodeLaneBytes (natLE 12 p.1) = .ok (p.2, []))) = true := by decide +kernel

/-- Words of Table 2-12 with Table 6-2. -/
def words_float : List (Nat × Instr) :=
  [(0x20CC28507800033000000000, .vfadd ⟨true, true, 3, 10, 20, 30, 0, 0, 3, 0, 6, 0, 0x0⟩),
   (0x21CC28507800033000000000, .vfsub ⟨true, true, 3, 10, 20, 30, 0, 0, 3, 0, 6, 0, 0x0⟩),
   (0x22CC28507800033000000000, .vfmul ⟨true, true, 3, 10, 20, 30, 0, 0, 3, 0, 6, 0, 0x0⟩),
   (0x23CC285078A0042800000000, .vfma ⟨true, true, 3, 10, 20, 30, 40, 0, 4, 0, 5, 0, 0x0⟩),
   (0x24CC28507800050000000000, .vfmin ⟨true, true, 3, 10, 20, 30, 0, 0, 5, 0, 0, 0, 0x0⟩),
   (0x25CC28507800050000000000, .vfmax ⟨true, true, 3, 10, 20, 30, 0, 0, 5, 0, 0, 0, 0x0⟩),
   (0x26CC28500000031800000000, .vfrcp ⟨true, true, 3, 10, 20, 0, 0, 0, 3, 0, 3, 0, 0x0⟩),
   (0x27CC28500000031800000000, .vfsqrt ⟨true, true, 3, 10, 20, 0, 0, 0, 3, 0, 3, 0, 0x0⟩),
   (0x28CC28500000031800000000, .vfrsqrt ⟨true, true, 3, 10, 20, 0, 0, 0, 3, 0, 3, 0, 0x0⟩),
   (0x29CC28500000031800000000, .vflog2 ⟨true, true, 3, 10, 20, 0, 0, 0, 3, 0, 3, 0, 0x0⟩),
   (0x2ACC28500000031800000000, .vfexp2 ⟨true, true, 3, 10, 20, 0, 0, 0, 3, 0, 3, 0, 0x0⟩),
   (0x2BCC00507802430700000000, .vfcmp ⟨true, true, 3, 0, 20, 30, 0, 9, 3, 0, 0, 7, 0x0⟩),
   (0x2CCC005000024300000002A5, .vfcls ⟨true, true, 3, 0, 20, 0, 0, 9, 3, 0, 0, 0, 0x2A5⟩),
   (0x2DCC28500000042000000000, .vfrnd ⟨true, true, 3, 10, 20, 0, 0, 0, 4, 0, 4, 0, 0x0⟩),
   (0x2ECC285078A0050800000000, .vfdp2 ⟨true, true, 3, 10, 20, 30, 40, 0, 5, 0, 1, 0, 0x0⟩)]
theorem test_decode_float : words_float.all (fun p => decide (decodeLaneBytes (natLE 12 p.1) = .ok (p.2, []))) = true := by decide +kernel

/-- Words of Table 2-12 with R138 to R141. -/
def words_format : List (Nat × Instr) :=
  [(0x40CC28500000062800000003, .vcvt ⟨true, true, 3, 10, 20, 0, 0, 0, 6, 0, 5, 0, 0x3⟩),
   (0x41CC285000A0082000000002, .vpackb ⟨true, true, 3, 10, 20, 0, 40, 0, 8, 0, 4, 0, 0x2⟩),
   (0x42CC285000A0080000000003, .vunpkb ⟨true, true, 3, 10, 20, 0, 40, 0, 8, 0, 0, 0, 0x3⟩),
   (0x43CC28500000070000000000, .vtag ⟨true, true, 3, 10, 20, 0, 0, 0, 7, 0, 0, 0, 0x0⟩),
   (0x44CC28500000000000000000, .vtagq ⟨true, true, 3, 10, 20, 0, 0, 0, 0, 0, 0, 0, 0x0⟩)]
theorem test_decode_format : words_format.all (fun p => decide (decodeLaneBytes (natLE 12 p.1) = .ok (p.2, []))) = true := by decide +kernel

/-- Words of Table 2-12 with Tables 6-5 and 6-6, R143 to R151. -/
def words_cross : List (Nat × Instr) :=
  [(0x50CC002C3002400000000000, .pand ⟨true, true, 3, 0, 11, 12, 0, 9, 0, 0, 0, 0, 0x0⟩),
   (0x51CC002C3002400000000000, .por ⟨true, true, 3, 0, 11, 12, 0, 9, 0, 0, 0, 0, 0x0⟩),
   (0x52CC002C3002400000000000, .pxor ⟨true, true, 3, 0, 11, 12, 0, 9, 0, 0, 0, 0, 0x0⟩),
   (0x53CC002C0002400000000000, .pnot ⟨true, true, 3, 0, 11, 0, 0, 9, 0, 0, 0, 0, 0x0⟩),
   (0x54CC002C0002400000000000, .pmov ⟨true, true, 3, 0, 11, 0, 0, 9, 0, 0, 0, 0, 0x0⟩),
   (0x55CC00000002400089ABCDEF, .pset ⟨true, true, 3, 0, 0, 0, 0, 9, 0, 0, 0, 0, 0x89ABCDEF⟩),
   (0x56CD902C0000000000000000, .pget ⟨true, true, 3, 100, 11, 0, 0, 0, 0, 0, 0, 0, 0x0⟩),
   (0x57CD902C0000000000000000, .pcnt ⟨true, true, 3, 100, 11, 0, 0, 0, 0, 0, 0, 0, 0x0⟩),
   (0x60CC28507800000300000000, .vshfl ⟨true, true, 3, 10, 20, 30, 0, 0, 0, 0, 0, 3, 0x0⟩),
   (0x61CC28501400004000000000, .vbcast ⟨true, true, 3, 10, 20, 5, 0, 0, 0, 1, 0, 0, 0x0⟩),
   (0x62CD90500000020400000004, .vred ⟨true, true, 3, 100, 20, 0, 0, 0, 2, 0, 0, 4, 0x4⟩),
   (0x63CC28500000032400000008, .vscan ⟨true, true, 3, 10, 20, 0, 0, 0, 3, 0, 4, 4, 0x8⟩),
   (0x64002850780242000000002A, .visect ⟨false, false, 0, 10, 20, 30, 0, 9, 2, 0, 0, 0, 0x2A⟩),
   (0x65CC28500000008089ABCDEF, .vrot ⟨true, true, 3, 10, 20, 0, 0, 0, 0, 2, 0, 0, 0x89ABCDEF⟩),
   (0x90CC28507800020000000000, .vrng ⟨true, true, 3, 10, 20, 30, 0, 0, 2, 0, 0, 0, 0x0⟩),
   (0x91CC28000000020200000000, .vlane ⟨true, true, 3, 10, 0, 0, 0, 0, 2, 0, 0, 2, 0x0⟩),
   (0x92CC00000000000000000000, .vnop ⟨true, true, 3, 0, 0, 0, 0, 0, 0, 0, 0, 0, 0x0⟩)]
theorem test_decode_cross : words_cross.all (fun p => decide (decodeLaneBytes (natLE 12 p.1) = .ok (p.2, []))) = true := by decide +kernel

/-- Words of Table 2-12 with Tables 7-2, 16-3 and 13-5. -/
def words_memory : List (Nat × Instr) :=
  [(0x70CC10081800034100004002, .vld ⟨true, true, 3, 4, 2, 6, 0, 0, 3, 1, 0, 1, 0x4002⟩),
   (0x71CC000800A0032000FFF0C1, .vst ⟨true, true, 3, 0, 2, 0, 40, 0, 3, 0, 4, 0, 0xFFF0C1⟩),
   (0x72CC10081C00094200004001, .vlds ⟨true, true, 3, 4, 2, 7, 0, 0, 9, 1, 0, 2, 0x4001⟩),
   (0x73CC000800A0030800FFF0C1, .vsts ⟨true, true, 3, 0, 2, 0, 40, 0, 3, 0, 1, 0, 0xFFF0C1⟩),
   (0x74CC100800A0001D000040D8, .vatom ⟨true, true, 3, 4, 2, 0, 40, 0, 0, 0, 3, 5, 0x40D8⟩),
   (0x75CC10081CA00044000040B2, .vatoms ⟨true, true, 3, 4, 2, 7, 40, 0, 0, 1, 0, 4, 0x40B2⟩),
   (0x78CC00080000000400004000, .vprf ⟨true, true, 3, 0, 2, 0, 0, 0, 0, 0, 0, 4, 0x4000⟩),
   (0x7600A00050A4024500000000, .vredeem ⟨false, false, 0, 40, 0, 20, 41, 0, 2, 1, 0, 5, 0x0⟩),
   (0x7600000050A40245000000AC, .vredeemRemote ⟨false, false, 0, 0, 0, 20, 41, 0, 2, 1, 0, 5, 0xAC⟩),
   (0x77CC00085000006600001BFF, .vcpidx ⟨true, true, 3, 0, 2, 20, 0, 0, 0, 1, 4, 6, 0x1BFF⟩)]
theorem test_decode_memory : words_memory.all (fun p => decide (decodeLaneBytes (natLE 12 p.1) = .ok (p.2, []))) = true := by decide +kernel

/-- Words of Table 2-12 with Tables 11-1 to 11-3. -/
def words_hearth : List (Nat × Instr) :=
  [(0xA0CC00506000094983A03000, .mxmac ⟨true, true, 3, 0, 20, 24, 0, 0, 9, 1, 1, 1, 0x83A03000⟩),
   (0xA1CC00506000064642888000, .mxtopk ⟨true, true, 3, 0, 20, 24, 0, 0, 6, 1, 0, 6, 0x42888000⟩),
   (0xA2CC00506000044040F40000, .mxv ⟨true, true, 3, 0, 20, 24, 0, 0, 4, 1, 0, 0, 0x40F40000⟩),
   (0xA3CC00006800004000000000, .mxrdy ⟨true, true, 3, 0, 0, 26, 0, 0, 0, 1, 0, 0, 0x0⟩),
   (0xA4CC00006000014000C00000, .mxld ⟨true, true, 3, 0, 0, 24, 0, 0, 1, 1, 0, 0, 0xC00000⟩),
   (0xA5CC00006000046C00C00000, .mxst ⟨true, true, 3, 0, 0, 24, 0, 0, 4, 1, 5, 4, 0xC00000⟩),
   (0xA6CC00000000030000E00000, .mxclr ⟨true, true, 3, 0, 0, 0, 0, 0, 3, 0, 0, 0, 0xE00000⟩),
   (0xA7CC00500000010000D08A00, .mxmovToTile ⟨true, true, 3, 0, 20, 0, 0, 0, 1, 0, 0, 0, 0xD08A00⟩),
   (0xA7CC28000000030400D08A00, .mxmovToVector ⟨true, true, 3, 10, 0, 0, 0, 0, 3, 0, 0, 4, 0xD08A00⟩),
   (0xC0CC00000000000000800000, .wlclr ⟨true, true, 3, 0, 0, 0, 0, 0, 0, 0, 0, 0, 0x800000⟩),
   (0xC1CC28000000000000D08000, .wlget ⟨true, true, 3, 10, 0, 0, 0, 0, 0, 0, 0, 0, 0xD08000⟩),
   (0xC2CC005078A0010000800000, .wlins ⟨true, true, 3, 0, 20, 30, 40, 0, 1, 0, 0, 0, 0x800000⟩),
   (0xC3CC00006000004000800000, .wlmrg ⟨true, true, 3, 0, 0, 24, 0, 0, 0, 1, 0, 0, 0x800000⟩),
   (0xC4CC28000000000000808000, .wlthr ⟨true, true, 3, 10, 0, 0, 0, 0, 0, 0, 0, 0, 0x808000⟩),
   (0xC5CC00006000004000800000, .wlst ⟨true, true, 3, 0, 0, 24, 0, 0, 0, 1, 0, 0, 0x800000⟩),
   (0xC6CC00006000004000800000, .wlld ⟨true, true, 3, 0, 0, 24, 0, 0, 0, 1, 0, 0, 0x800000⟩),
   (0xC7CC00006000014000C78000, .wlcfg ⟨true, true, 3, 0, 0, 24, 0, 0, 1, 1, 0, 0, 0xC78000⟩)]
theorem test_decode_hearth : words_hearth.all (fun p => decide (decodeLaneBytes (natLE 12 p.1) = .ok (p.2, []))) = true := by decide +kernel

/-! ### Small states -/

/-- Table 20-2: four gangs, one section of 256 bytes each of scalar and lane code, a handler at 0x40, 64 KB of scratchpad with
a ring of eight entries at 0x8000, eight tiles and two lists. -/
def desc : BitVec 512 :=
  0x18400100283E300000000000100010000004000000000000000000000000000000000000000000000000000010000

def crew1 : Crew :=
  { Crew.empty with phase := .resident, launch := 65537, desc := desc, ncrews := 1, slots := [0, 1, 2, 3] }

def gangN (n : Nat) : Gang :=
  { Gang.empty with phase := .running, crew := 1, num := n, live := BitVec.allOnes 32, ntiles := 8, nlists := 2 }

/-- Four gangs of a crew in one quadrant, at a gang's turn: s4:s5 is 0x2000, s6:s7 0x4000, s8 7 and s9 9. -/
def s0 : State :=
  { State.reset with
    gangs := [(0, { gangN 0 with sreg := [(4, 0x2000), (6, 0x4000), (8, 7), (9, 9)] }), (1, gangN 1), (2, gangN 2), (3, gangN 3)]
    crews := [(1, crew1)], nextCrew := 2 }

/-- `s0` with the gang or its crew changed. -/
def sG (f : Gang → Gang) : State := s0.setMe (f s0.me)
def sC (f : Crew → Crew) : State := s0.setCrew 1 (f crew1)

/-- A clause that has started and holds one instruction. -/
def clause1 : Clause := ⟨0, 0, true, true, 0, 0, 15, [.vnop z], 0, 0⟩

/-! ### Witnesses: the scalar stream -/

theorem wit_ScalarRegisterResults : s0.me.sBlocked [8, 9] [6] = false ∧ s0.me.sBlocked [8, 9] [0] = false
    ∧ s0.me.sBlocked [127] [127] = false ∧ s0.me.sBlocked [8, 9] [] = false := by decide +kernel
theorem wit_ScalarPairResults : s0.me.sBlocked (pr 2 ++ pr 3) (pr 2) = false ∧ s0.me.sBlocked (pr 0 ++ [127]) (pr 0) = false
    ∧ s0.me.sBlocked [8, 127] (pr 63) = false ∧ s0.me.sBlocked (pr 63) (pr 63) = false
    ∧ s0.me.sBlocked (pr 2 ++ pr 3) [] = false := by decide +kernel
theorem wit_ScalarImmediateResults : s0.me.sBlocked [8] [8] = false ∧ s0.me.sBlocked [] [0] = false
    ∧ s0.me.sBlocked [127] [] = false := by decide +kernel
theorem wit_BranchTests : ((0 : Fin 32).val < 16 ∨ (sG (fun g => { g with clauses := [clause1] })).me.clauses = [])
    ∧ ((15 : Fin 32).val < 16 ∨ s0.me.clauses = []) ∧ ((16 : Fin 32).val < 16 ∨ s0.me.clauses = []) := by decide +kernel
theorem wit_CallsAndJumps : s0.me.sBlocked [] [0] = false ∧ s0.me.sBlocked [4] [0] = false
    ∧ (s0.me.rs 4 + 4 * sext32 12 0xFFF).toNat % 4 = 0 ∧ (s0.me.rs 8 + 4 * sext32 12 1).toNat % 4 ≠ 0
    ∧ s0.myCrew.handler = some 0x40 ∧ s0.me.trap.handler = false ∧ s0.me.clauses = [] := by decide +kernel
theorem wit_ClauseEnqueue : (sG (fun g => { g with clauses := [clause1, clause1, clause1] })).me.clauses.length < 4
    ∧ s0.me.clauses.length < 4 ∧ s0.me.sBlocked [4] [] = false ∧ (s0.me.rs 4).toNat % 16 = 0 := by decide +kernel
theorem wit_WaitsThatPass : s0.me.clauses = [] ∧ (∀ i < 12, (0xFFF : Fin 4096).val.testBit i = true → (s0.me.flag i).busy = false
    ∧ ∀ c ∈ s0.me.clauses, c.setA ≠ i ∧ c.setB ≠ i) := by decide +kernel
theorem wit_SpecialAndStickyRegisters : (0x000, 0) ∈ special32 s0 ∧ (0x03F, 0) ∈ special32 s0 ∧ (0x00A, 32) ∈ special32 s0
    ∧ (0x010, 0) ∈ special64 s0 ∧ (0x034, 0) ∈ special64 s0 ∧ s0.me.sBlocked [] [6] = false ∧ s0.me.sBlocked [] (pr 3) = false
    ∧ (Instr.swr 8 0x00B).wf = true ∧ s0.me.sBlocked [8] [] = false := by decide +kernel
theorem wit_BlockRequests : s0.me.clauses = [] ∧ s0.me.rels = [] ∧ s0.me.sBlocked [] [6] = false
    ∧ (0 : Fin 4).val ≤ s0.me.blocks ∧ ¬(1 : Fin 4).val ≤ s0.me.blocks ∧ Map.get [] s0.vacqQ (s0.cur / 16) = []
    ∧ (3 : Fin 4).val - s0.me.blocks ≤ s0.freeBlocks (s0.cur / 16)
    ∧ ¬Map.get [] ({ s0 with vacqQ := [(0, [(1, 2)])] } : State).vacqQ (s0.cur / 16) = [] := by decide +kernel
/-- Releases of gang 0 down to 2 and 1 blocks, of which the second waits for v191. -/
def sRel : State := sG (fun g => { g with blocks := 3, nextBlk := 1, rels := [2, 1], vpend := [191], clauses := [{ clause1 with blocks := 2 }] })
theorem wit_BlockGrantsAndReleases : Map.get [] ({ s0 with vacqQ := [(0, [(1, 2), (2, 1)])] } : State).vacqQ 0 = [(1, 2), (2, 1)]
    ∧ ({ s0 with vacqQ := [(0, [(1, 2), (2, 1)])] } : State).live 1 = true
    ∧ 2 - (s0.gang 1).blocks ≤ ({ s0 with vacqQ := [(0, [(1, 2), (2, 1)])] } : State).freeBlocks 0
    ∧ s0.me.sBlocked [] [] = false ∧ (sRel.gang 0).rels = [] ++ 2 :: [1] ∧ 2 < (sRel.gang 0).blocks
    ∧ (∀ m ∈ [1], m < 2 ∧ sRel.relReady 0 m = false) ∧ (∀ c ∈ (sRel.gang 0).clauses, c.blocks ≤ 2)
    ∧ (∀ r ∈ (sRel.gang 0).vpend, r < 64 + 64 * 2) ∧ sRel.hops = [] := by decide +kernel
/-- The last arrival, the first one, and one with an explicit count that the gangs left can still reach. -/
def sBar : State := sC (fun w => { w with bars := [(9, ⟨0, [1, 2, 3]⟩)] })
/-- Gang 1 waits for four arrivals at barrier 15, and gang 2 has exited. -/
def sBarX : State :=
  (sC (fun w => { w with bars := [(15, ⟨4, [1]⟩)] })).setMe { s0.me with sreg := [(10, 4)] }
    |>.setGang 1 { gangN 1 with wait := .bar 15 8 } |>.setGang 2 { gangN 2 with phase := .exited }
theorem wit_HardwareBarrier : (s0.me.clauses = [] ∧ s0.olderDone 0 s0.nextOp .crew (BitVec.allOnes 8) = true
      ∧ s0.me.sBlocked [0] [] = false ∧ s0.cur ∈ s0.myCrew.slots ∧ (s0.myCrew.bar 0).arrived = []
      ∧ (s0.myCrew.bar 0).arrived.length + 1 < s0.myCrew.ngangs - s0.exited s0.myCrew)
    ∧ (sBar.me.clauses = [] ∧ sBar.olderDone 0 sBar.nextOp .crew (BitVec.allOnes 8) = true ∧ (sBar.myCrew.bar 9).n = 0
      ∧ sBar.myCrew.ngangs - sBar.exited sBar.myCrew ≤ (sBar.myCrew.bar 9).arrived.length + 1)
    ∧ (let s := sG (fun g => { g with sreg := [(10, 4)] })
      0 < (s.me.rs 10).toNat ∧ (s.me.rs 10).toNat ≤ s.myCrew.ngangs ∧ (s.myCrew.bar 15).arrived.length + 1 < (s.me.rs 10).toNat
      ∧ (s.me.rs 10).toNat ≤ (s.myCrew.bar 15).arrived.length + 1 + (s.myCrew.slots.filter (fun k =>
          (s.gang k).phase == .running && !((s.myCrew.bar 15).arrived ++ [s.me.num]).contains (s.gang k).num)).length)
    ∧ (let s := sBarX
      s.me.clauses = [] ∧ s.olderDone s.cur s.nextOp .crew (BitVec.allOnes 8) = true ∧ s.me.sBlocked [10] [] = false ∧ s.cur ∈ s.myCrew.slots
      ∧ 0 < (s.me.rs 10).toNat ∧ (s.me.rs 10).toNat ≤ s.myCrew.ngangs ∧ (s.myCrew.bar 15).n = (s.me.rs 10).toNat
      ∧ (s.myCrew.bar 15).arrived.length + 1 + (s.myCrew.slots.filter (fun k =>
          (s.gang k).phase == .running && !((s.myCrew.bar 15).arrived ++ [s.me.num]).contains (s.gang k).num)).length < (s.me.rs 10).toNat
      ∧ (s.gang 1).wait = .bar 15 8 ∧ (s.crew (s.gang 1).crew).handler = some 0x40 ∧ (s.gang 1).trap.handler = false) := by
  decide +kernel
/-- A barrier object at 0x4000 that expects two arrivals: none has come, and one has. -/
def sObj (arr : Nat) : State := s0.setCrew 1 (crew1.writeScr 0x4000 (natLE 8 (arr + 2 * 2 ^ 32 + 65535 * 2 ^ 48)))
theorem wit_BarrierObject : (sObj 0).me.clauses = [] ∧ (sObj 0).olderDone 0 (sObj 0).nextOp .crew (BitVec.allOnes 8) = true
    ∧ (sObj 0).me.sBlocked [6] [8] = false ∧ (sObj 0).cur ∈ (sObj 0).myCrew.slots ∧ ((sObj 0).me.rs 6).toNat % 8 = 0
    ∧ ((sObj 0).me.rs 6).toNat + 8 ≤ (sObj 0).myCrew.scrSize
    ∧ leNat ((sObj 0).myCrew.readScr 0x4000 8) % 2 ^ 32 + 1 ≤ leNat ((sObj 0).myCrew.readScr 0x4000 8) / 2 ^ 32 % 2 ^ 16
    ∧ leNat ((sObj 1).myCrew.readScr 0x4000 8) % 2 ^ 32 + 1 = leNat ((sObj 1).myCrew.readScr 0x4000 8) / 2 ^ 32 % 2 ^ 16 := by
  decide +kernel
/-- An instruction of the scalar stream and the trap that it takes at a state. -/
def trapsAt (s : State) (i : Instr) (cause : Nat) (a : Nat) : Prop := Traps s i cause 0 (BitVec.ofNat 64 a)
/-- `s0` with s4:s5 at a home. -/
def sHome (h : Nat) : State := sG (fun g => { g with sreg := [(5, BitVec.ofNat 32 (h * 2 ^ 18)), (6, 0x4001)] })
theorem wit_ScalarStreamTraps : (s0.myCrew.handler = some 0x40 ∧ s0.me.trap.handler = false ∧ s0.me.clauses = [])
    ∧ Traps s0 (.strap 4095) 0x11 4095 0 ∧ Traps s0 (.sbrk 0) 0x12 0 0 ∧ trapsAt s0 (.sjr 1 8 1) 5 11 ∧ trapsAt s0 (.lrunr 8) 5 7
    ∧ trapsAt s0 (.sld 8 2 0xFFF) 5 0x1FFF ∧ trapsAt (sHome 4) (.sst 8 2 0 0) 6 (4 * 2 ^ 50) ∧ trapsAt (sHome 17) (.sldAcq true .dev 8 2) 6 (17 * 2 ^ 50)
    ∧ trapsAt (sHome 63) (.mwait 8 2 10 .dev .eq) 6 (63 * 2 ^ 50) ∧ trapsAt (sHome 128) (.ssendsig .dev 0 0 0 4 2 3) 6 (128 * 2 ^ 50)
    ∧ trapsAt (sHome 24) (.satom .add false .dev .rlx 0 8 2 8) 6 (24 * 2 ^ 50) ∧ trapsAt (sHome 24) (.scas false .dev .rlx 0 8 2 8) 6 (24 * 2 ^ 50)
    ∧ trapsAt (sHome 0) (.ssendsig .dev 0 0 0 4 2 3) 5 0x4001
    ∧ trapsAt (sHome 0) (.fetchk false 0 .launch 4 3) 5 0x4001 ∧ trapsAt (sHome 4) (.pcommit true 8 2) 6 (4 * 2 ^ 50)
    ∧ trapsAt (sHome 63) (.pdecommit 8 2) 6 (63 * 2 ^ 50) ∧ trapsAt (sHome 128) (.pquery true 4 2) 6 (128 * 2 ^ 50)
    ∧ trapsAt (sHome 4) (.slaunch true 0 8 2) 6 (4 * 2 ^ 50) ∧ trapsAt (sHome 0) (.sredeem true .dev 8 6 2 2) 5 0x4001
    ∧ trapsAt (sHome 4) (.pfxwalk .dev 5 1 2) 6 (4 * 2 ^ 50) ∧ trapsAt (sHome 0) (.pfxins .dev 5 1 3) 5 0x4001
    ∧ trapsAt (sHome 0) (.pfxrel .dev 5 1 3) 5 0x4001 ∧ trapsAt (sHome 0) (.pfxevict .dev 5 1 3) 5 0x4001 := by
  refine ⟨by decide +kernel, .strap _, .sbrk _, .sjr _ _ _ (by decide +kernel) (by decide +kernel), .lrunr _ (by decide +kernel)
    (by decide +kernel), ?_⟩
  refine ⟨.access _ _ _ _ _ _ _ rfl ?_ ?_, .access _ _ _ _ _ _ _ rfl ?_ ?_, .access _ _ _ _ _ _ _ rfl ?_ ?_, .access _ _ _ _ _ _ _ rfl ?_ ?_,
    .access _ _ _ _ _ _ _ rfl ?_ ?_, .access _ _ _ _ _ _ _ rfl ?_ ?_, .access _ _ _ _ _ _ _ rfl ?_ ?_, .counter _ _ _ _ _ _ _ _ ?_ ?_ ?_ ?_,
    .request _ _ _ _ _ _ rfl ?_ ?_, .request _ _ _ _ _ _ rfl ?_ ?_, .request _ _ _ _ _ _ rfl ?_ ?_, .request _ _ _ _ _ _ rfl ?_ ?_,
    .request _ _ _ _ _ _ rfl ?_ ?_, .request _ _ _ _ _ _ rfl ?_ ?_, .request _ _ _ _ _ _ rfl ?_ ?_, .request _ _ _ _ _ _ rfl ?_ ?_,
    .request _ _ _ _ _ _ rfl ?_ ?_, .request _ _ _ _ _ _ rfl ?_ ?_⟩ <;> (try unfold failsWith) <;> decide +kernel
/-- R172, R173: a count of zero and one beyond the gangs of the crew, a count that differs from the first arrival's, an object that expects
no arrival, one whose arrivals have all come, a misaligned object and one beyond the scratchpad. -/
theorem wit_BarrierTraps : Traps s0 (.sbar 3 10) 0x10 0 0 ∧ Traps (sHome 0) (.sbar 3 6) 0x10 0 0
    ∧ Traps sBarX (.sbar 15 0) 0x10 0 0 ∧ Traps s0 (.sbarw true 8 6) 0x10 0 0 ∧ Traps (sObj 2) (.sbarw false 8 6) 0x10 0 0
    ∧ Traps (sHome 0) (.sbarw false 8 6) 5 0 0x4001 ∧ Traps (sG (fun g => { g with sreg := [(6, 0x10000)] })) (.sbarw false 8 6) 6 0 0x10000 := by
  refine ⟨.bar _ _ ?_ ?_, .bar _ _ ?_ ?_, .bar _ _ ?_ ?_, .barObject _ _ _ 0 1 ?_ ?_ ?_ ?_ ?_ ?_, .barObject _ _ _ 2 3 ?_ ?_ ?_ ?_ ?_ ?_,
    .barPlace _ _ _ 5 ?_ ?_, .barPlace _ _ _ 6 ?_ ?_⟩ <;> (try unfold Arrives) <;> decide +kernel
theorem wit_TrapStopsCrewOrWaits : (Traps s0 (.strap 1) 0x11 1 0 ∧ Traps (sC (fun w => { w with desc := placeDesc })) (.strap 1) 0x11 1 0
      ∧ Traps (sG (fun g => { g with clauses := [clause1] })) (.strap 1) 0x11 1 0) ∧ s0.me.clauses = [] ∧ s0.myCrew.phase = .resident
    ∧ (sC (fun w => { w with desc := placeDesc })).myCrew.handler = none ∧ (sC (fun w => { w with desc := placeDesc })).myCrew.phase = .resident
    ∧ (sG (fun g => { g with trap := ⟨0, 0, 0, 0, 0, 1, true⟩ })).me.trap.handler = true
    ∧ (sG (fun g => { g with clauses := [clause1] })).me.clauses ≠ [] := ⟨⟨.strap _, .strap _, .strap _⟩, by decide +kernel⟩
theorem wit_GangExits : s0.me.clauses = [] ∧ (∀ i < 12, (s0.me.flag i).busy = false) ∧ s0.me.phase = .running := by decide +kernel
/-- A fence of gang 0 with both halves, and an operation. -/
def sFn (id : Nat) (o : Op) : State := { sG (fun g => { g with fences := [⟨id, true, true, .dev, 0xFF, id⟩], clauses := [{ clause1 with seq := 7 }] }) with
  ops := [o], nextOp := 10 }
def ldF (id : Nat) (st : Stage) : Op := { s0.baseOp with id := id, els := [element 0 0x2000 []], dst := .sreg 6, stage := st }
theorem wit_FenceHoldsLaterAccesses : (s0.me.fences = [] ∧ s0.unreturned s0.cur s0.nextOp = false
      ∧ (FenceKind.acq ≠ .rel) ∧ 3 ≤ Scope.die.code)
    ∧ (let s : State := { s0 with ops := [ldF 1 .sent], nextOp := 2 }
      s.me.fences = [] ∧ s.unreturned s.cur s.nextOp = true)
    ∧ (let s := sFn 5 (ldF 6 .sent)
      ⟨5, true, true, .dev, 0xFF, 5⟩ ∈ (s.gang 0).fences ∧ 5 < (ldF 6 .sent).id ∧ s.op 6 = some (ldF 6 .sent) ∧ s.quay.waits = [] ∧ 5 < s.me.laneSeq)
    ∧ (Instr.vadd z).laneParts.isSome = true
    ∧ (let o : Op := { ldF 6 .queued with kind := .store, inQ := true }
      (sFn 5 o).queue 0 = o :: [])
    ∧ let s := sFn 5 (ldF 4 .ready)
      (s.gang 0).fences = [⟨5, true, true, .dev, 0xFF, 5⟩] ∧ s.ops = [ldF 4 .ready] ∧ 4 < 5 ∧ (ldF 4 .ready).lane = false
      ∧ (ldF 4 .ready).kind = .load ∧ (ldF 4 .ready).dst ≠ .none ∧ (ldF 4 .ready).stage = .ready ∧ (s.gang 0).landing = [] := by decide +kernel
/-- A redeem of a clause behind a standing fence: it issues all the same. -/
def fRd : LaneWord := { z with vd := 10, vb := 16, vc := 12, bsrc := 1, typ := 2, opx := 5 }
def fRr : LaneWord := { z with vb := 16, bsrc := 1, typ := 2, ext := 0x80 + 22 }
def sFr : State := (sFn 5 (ldF 6 .sent)).setMe { (sFn 5 (ldF 6 .sent)).me with sreg := [(23, 24 * 2 ^ 18)] }
theorem wit_FenceLetsRedeems : 5 < sFr.me.laneSeq ∧ (⟨5, true, true, .dev, 0xFF, 5⟩ : Fence) ∈ sFr.me.fences
    ∧ (Instr.vredeem fRd).wf = true ∧ LaneReady sFr ⟨[], regs 10 4 ++ [12], [16, 17], [], []⟩
    ∧ (Instr.vredeemRemote fRr).wf = true ∧ LaneReady sFr ⟨[], [], [16, 17] ++ [22, 23], [], []⟩ ∧ remoteBad (sFr.me.rp 22).toNat = false := by
  unfold LaneReady; decide +kernel
theorem wit_ScalarAccessesIssue : s0.me.sBlocked (pr 2) [8] = false ∧ addrCause 4 (s0.me.rp 4 + (BitVec.ofNat 12 0xFFC).signExtend 64) = none
    ∧ s0.me.sBlocked (pr 2) (pr 3) = false ∧ addrCause 8 (s0.me.rp 4 + (BitVec.ofNat 12 0xFF8).signExtend 64) = none
    ∧ s0.me.sBlocked (pr 2) (widthRegs true 8) = false ∧ addrCause (widthBytes true) (s0.me.rp 4) = none
    ∧ s0.me.sBlocked (pr 2) (widthRegs false 8) = false ∧ addrCause (widthBytes false) (s0.me.rp 4) = none
    ∧ s0.queueFull s0.cur = false ∧ s0.me.sBlocked (pr 2 ++ [8]) [] = false ∧ addrCause 4 (s0.me.rp 4 + BitVec.ofNat 64 (4 * 511)) = none
    ∧ s0.me.sBlocked (pr 2 ++ pr 4) [] = false ∧ addrCause 8 (s0.me.rp 4 + BitVec.ofNat 64 (4 * 510)) = none
    ∧ s0.me.sBlocked (pr 2 ++ widthRegs true 8) [] = false ∧ s0.me.sBlocked (pr 2 ++ widthRegs true 8) (widthRegs true 10) = false
    ∧ atomCause (widthBytes true) (s0.me.rp 4) = none
    ∧ s0.me.sBlocked (pr 2 ++ widthRegs true 8 ++ widthRegs true 10) (widthRegs true 10) = false
    ∧ s0.me.sBlocked (pr 4 ++ pr 2 ++ pr 3) [] = false ∧ addrCause 8 (s0.me.rp 4) = none ∧ atomCause 8 (s0.me.rp 6) = none := by decide +kernel
theorem wit_WaitsAndLongOperationsIssue : s0.me.sBlocked (pr 2 ++ pr 3) [8] = false ∧ addrCause 8 (s0.me.rp 4) = none
    ∧ s0.me.sBlocked (pr 2) [] = false ∧ s0.me.sBlocked (pr 2) [8] = false
    ∧ s0.me.sBlocked (pr 2 ++ pr 3 ++ [10]) [8] = false ∧ (s0.me.rs 10).toNat % 32 = 0
    ∧ (s0.me.rs 10).toNat + tkLen (s0.me.rp 4).toNat ≤ s0.myCrew.scrSize ∧ addrCause 8 (s0.me.rp 6) = none
    ∧ s0.me.sBlocked [8] (pr 5) = false ∧ s0.me.sBlocked [8] [8] = false ∧ (0x028 : Fin 1024).val = 0x028 ∧ s0.me.sBlocked [] (pr 5) = false
    ∧ s0.queueFull s0.cur = false ∧ s0.me.sBlocked (pr 2) (pr 5) = false ∧ (s0.me.rp 4).toNat < 2 ^ 52 ∧ (s0.me.rp 4).toNat % 32 = 0
    ∧ (s0.me.rp 4).toNat % 512 + 32 * ((15 : Fin 16).val + 1) ≤ 512
    ∧ (let s := sG (fun g => { g with sreg := [(5, 64 * 2 ^ 18)] }); 2 ^ 56 ≤ (s.me.rp 4).toNat ∧ (s.me.rp 4).toNat < 2 ^ 57)
    ∧ (s0.me.rp 4).toNat % 64 = 0 ∧ s0.me.sBlocked ([0, 1, 2, 3, 4, 5, 6, 7].map (8 * (1 : Fin 16).val + ·) ++ pr 2) (pr 5) = false
    ∧ (s0.me.rp 16).toNat < 2 ^ 52 ∧ (s0.me.rp 16).toNat % 64 = 0 := by decide +kernel

/-! ### Witnesses: the lane stream -/

/-- `s0` with the tag of v20, v30 and v40. -/
def sT (t : Ty) : State := sG (fun g => ((g.setTag 20 t).setTag 30 t).setTag 40 t)
/-- vd v10, va v20; then with vb v30; then with vc v40. -/
def fU (typ : Fin 64) : LaneWord := { z with vd := 10, va := 20, typ := typ }
def fB (typ : Fin 64) : LaneWord := { fU typ with vb := 30 }
def fC (typ : Fin 64) : LaneWord := { fB typ with vc := 40 }

theorem wit_LaneIntegerArithmetic : (∀ p ∈ intRows.take 3, (p.1 (fB 9)).wf = true ∧ LaneRuns (sT .s8x4) (elemUse (fB 9) .s8x4 p.2.1 p.2.2.1))
    ∧ (Instr.vmad { fC 1 with mode := 1 }).wf = true ∧ LaneRuns (sT .s32) (elemUse { fC 1 with mode := 1 } .s32 true true)
    ∧ (∀ p ∈ intRows.drop 4, (p.1 (fU 11)).wf = true ∧ LaneRuns (sT .s16x2) (elemUse (fU 11) .s16x2 p.2.1 p.2.2.1))
    ∧ Ty.ofCode 9 = some .s8x4 ∧ Ty.ofCode 1 = some .s32 ∧ Ty.ofCode 11 = some .s16x2 := by
  simp only [List.forall_mem_cons, intRows, List.take, List.drop, List.not_mem_nil, false_imp_iff, implies_true, LaneRuns, LaneReady]; decide +kernel
theorem wit_LaneIntegerElements : (Instr.vmin (fB 12)).wf = true ∧ (Instr.vmax (fB 12)).wf = true ∧ (Instr.vmulh (fB 12)).wf = true
    ∧ Ty.ofCode 12 = some .n16x2 ∧ LaneRuns (sT .n16x2) (elemUse (fB 12) .n16x2 true false)
    ∧ (Instr.vclz (fU 2)).wf = true ∧ (Instr.vpopc (fU 2)).wf = true ∧ (Instr.vbrev (fU 2)).wf = true ∧ Ty.ofCode 2 = some .n32
    ∧ LaneRuns (sT .n32) (elemUse (fU 2) .n32 false false) ∧ (Instr.vshl (fB 0)).wf = true ∧ (Instr.vshr (fB 0)).wf = true
    ∧ (Instr.vsra (fB 0)).wf = true ∧ Ty.ofCode 0 = some .raw32 ∧ LaneRuns (sT .f32) (elemUse (fB 0) .raw32 true false) := by
  unfold LaneRuns LaneReady; decide +kernel
theorem wit_LaneWholeWords : (Instr.vand (fB 0)).wf = true ∧ (Instr.vor (fB 0)).wf = true ∧ (Instr.vxor (fB 0)).wf = true
    ∧ (Instr.vandn (fB 0)).wf = true ∧ LaneRuns (sT .f32) ⟨20 :: bRegs (fB 0), [10], bScalar (fB 0), [], []⟩
    ∧ (let f : LaneWord := { z with vd := 10, vb := 30, typ := 13 }
      (Instr.vmov f).wf = true ∧ Ty.ofCode f.typ.val = some .e3m5x4 ∧ LaneRuns (sT .e3m5x4) ⟨bRegs f, [10], bScalar f, [], bTag f .e3m5x4⟩)
    ∧ (let f : LaneWord := { z with vd := 255, vc := 255, bsrc := 2, ext := 5 }
      (Instr.vli f).wf = true ∧ Ty.ofCode f.typ.val = some .raw32
        ∧ LaneRuns (sG (fun g => { g with blocks := 3, nextBlk := 3, clauses := [{ clause1 with blocks := 3 }] })) ⟨[], [f.vd.val], [], [], []⟩
        ∧ LaneRuns s0 ⟨[], [({ f with vd := 63 } : LaneWord).vd.val], [], [], []⟩)
    ∧ (Instr.vsel { fB 6 with pd := 9 }).wf = true ∧ Ty.ofCode 6 = some .e4m3x4 ∧ LaneRuns (sT .e4m3x4) (elemUse { fB 6 with pd := 9 } .e4m3x4 true false)
    ∧ (Instr.vtag (fU 7)).wf = true ∧ Ty.ofCode 7 = some .e5m2x4 ∧ LaneRuns s0 ⟨[20], [10], [], [], []⟩ ∧ (Instr.vtagq (fU 0)).wf = true
    ∧ (Instr.vrng (fB 2)).wf = true ∧ LaneRuns (sT .n32) (elemUse (fB 2) .n32 true false)
    ∧ (Instr.vlane { z with vd := 10, typ := 2, opx := 2 }).wf = true ∧ LaneRuns s0 ⟨[], [10], [], [], []⟩
    ∧ (Instr.vnop z).wf = true ∧ LaneRuns s0 ⟨[], [], [], [], []⟩ := by
  unfold LaneRuns LaneReady; decide +kernel
theorem wit_LaneBitFieldsCarryAndDot : Ty.ofCode 1 = some .s32 ∧ (Instr.vbfx (fB 1)).wf = true ∧ LaneRuns (sT .s32) (elemUse (fB 1) .s32 true false)
    ∧ Ty.ofCode 0 = some .raw32 ∧ (Instr.vbfi (fC 0)).wf = true ∧ LaneRuns (sT .f32) (elemUse (fC 0) .raw32 true true)
    ∧ (let f : LaneWord := { fB 2 with vc := 15, pd := 15 }; (Instr.vaddc f).wf = true ∧ LaneRuns (sT .n32) (elemUse f .n32 true false))
    ∧ (let s := (sT .n8x4).setMe ((sT .n8x4).me.setTag 40 .s32)
      (Instr.vdp4 { fC 10 with mode := 1 }).wf = true ∧ Ty.ofCode 10 = some .n8x4
        ∧ LaneRuns s ⟨20 :: 40 :: bRegs (fC 10), [10], bScalar (fC 10), [], tagged 20 1 .n8x4 ++ bTag (fC 10) .n8x4 ++ [(40, .s32)]⟩) := by
  unfold LaneRuns LaneReady; decide +kernel
theorem wit_LanePredicates : (let f : LaneWord := { z with va := 20, vb := 30, pd := 9, typ := 1, opx := 5 }
      (Instr.vcmp f).wf = true ∧ Ty.ofCode f.typ.val = some .s32 ∧ (ordTests[f.opx.val]?).isSome = true
        ∧ LaneRuns (sT .s32) ⟨f.va.val :: bRegs f, [], bScalar f, [], tagged f.va.val 1 .s32 ++ bTag f .s32⟩)
    ∧ (let f : LaneWord := { z with va := 15, vb := 14, pd := 15 }
      (Instr.pand f).wf = true ∧ (Instr.por f).wf = true ∧ (Instr.pxor f).wf = true)
    ∧ (let f : LaneWord := { z with va := 15, pd := 15 }; (Instr.pnot f).wf = true ∧ (Instr.pmov f).wf = true)
    ∧ (Instr.pset { z with pd := 15, ext := 0xFFFFFFFF }).wf = true ∧ LaneRuns s0 ⟨[], [], [], [], []⟩
    ∧ (let f : LaneWord := { z with vd := 127, va := 15 }
      (Instr.pget f).wf = true ∧ (Instr.pcnt f).wf = true ∧ LaneRuns s0 ⟨[], [], [], [f.vd.val], []⟩)
    ∧ LaneRuns s0 ⟨[], [], [], [0], []⟩ := by
  unfold LaneRuns LaneReady; decide +kernel
theorem wit_LaneFloatElements : Ty.ofCode 5 = some .bf16x2 ∧ (Instr.vfadd { fB 5 with mode := 7 }).wf = true ∧ (Instr.vfsub (fB 5)).wf = true
    ∧ (Instr.vfmul (fB 5)).wf = true ∧ (Instr.vfmin (fB 5)).wf = true ∧ (Instr.vfmax (fB 5)).wf = true ∧ (Instr.vfma (fC 5)).wf = true
    ∧ LaneRuns (sT .bf16x2) (elemUse (fB 5) .bf16x2 true false) ∧ LaneRuns (sT .bf16x2) (elemUse (fC 5) .bf16x2 true true)
    ∧ Ty.ofCode 3 = some .f32 ∧ LaneRuns (sT .f32) (elemUse (fU 3) .f32 false false) ∧ (Instr.vfrcp (fU 3)).wf = true
    ∧ (Instr.vfsqrt (fU 3)).wf = true ∧ (Instr.vfrsqrt (fU 3)).wf = true ∧ (Instr.vflog2 (fU 3)).wf = true ∧ (Instr.vfexp2 (fU 3)).wf = true
    ∧ (Instr.vfrnd (fU 3)).wf = true ∧ (0xFFC00001 < 2 ^ 32 ∧ 0x7F800000 < 0xFFC00001 % 2 ^ 31) := by
  unfold LaneRuns LaneReady; decide +kernel
theorem wit_RoundingOfSums : realOf .f32 false 1 + realOf .f32 true 3 ≠ 0 ∧ realOf .bf16 false 1 * realOf .bf16 true 3 ≠ 0
    ∧ realOf .f16 false 1 * realOf .f16 true 3 + realOf .f16 true 1 ≠ 0 := by
  simp only [realOf, Fmt.k, Fmt.bias, Fmt.mBits]; norm_num
/-- 03, the example of R60: 0.3 (0x3E99999A) in E4M3 under RN and RZ, and 500.0 without and with saturation. -/
theorem test_round_e4m3 : Fmt.e4m3.round .rn false false 0x99999A (2 ^ 25) = (0x2A, fNX) ∧ Fmt.e4m3.round .rz false false 0x99999A (2 ^ 25) = (0x29, fNX)
    ∧ Fmt.e4m3.round .rn false false 500 1 = (0x7F, fOF ||| fNX) ∧ Fmt.e4m3.round .rn true false 500 1 = (0x7E, fSA ||| fNX) := by decide +kernel
theorem wit_LaneFloatTests : (let f : LaneWord := { z with va := 20, vb := 30, pd := 9, typ := 3, opx := 7 }
      (Instr.vfcmp f).wf = true ∧ LaneRuns (sT .f32) ⟨f.va.val :: bRegs f, [], bScalar f, [], tagged f.va.val 1 .f32 ++ bTag f .f32⟩)
    ∧ (let f : LaneWord := { z with va := 20, pd := 9, typ := 3, ext := 0x3FF }
      (Instr.vfcls f).wf = true ∧ LaneRuns (sT .f32) ⟨[f.va.val], [], [], [], [(f.va.val, .f32)]⟩)
    ∧ (let s := (sT .f16x2).setMe ((sT .f16x2).me.setTag 40 .f32)
      (Instr.vfdp2 (fC 4)).wf = true ∧ Ty.ofCode 4 = some .f16x2
        ∧ LaneRuns s ⟨20 :: 40 :: bRegs (fC 4), [10], bScalar (fC 4), [], tagged 20 1 .f16x2 ++ bTag (fC 4) .f16x2 ++ [(40, .f32)]⟩) := by
  unfold LaneRuns LaneReady; decide +kernel
/-- v20 to v27 hold f32 lines. -/
def sF8 : State := sG (fun g => (List.range 8).foldl (fun g i => g.setTag (20 + i) .f32) g)
theorem wit_LaneConversions : (let f : LaneWord := { fU 6 with ext := 3 }
      (Instr.vcvt f).wf = true ∧ Ty.ofCode f.typ.val = some .e4m3x4 ∧ Ty.ofCode (f.x 5 0) = some .f32
        ∧ LaneRuns sF8 ⟨regs 20 (cvtRegs .e4m3x4 .f32).1, regs 10 (cvtRegs .e4m3x4 .f32).2, [], [], tagged 20 (cvtRegs .e4m3x4 .f32).1 .f32⟩)
    ∧ (let s := ((sT .e2m1x8).setMe ((sT .e2m1x8).me.setTag 40 .e3m5x4))
      (Instr.vunpkb { fU 8 with vc := 40, ext := 3 }).wf = true
        ∧ LaneRuns s ⟨[20, 40], regs 10 8, [], [], [(20, .e2m1x8), (40, .e3m5x4)]⟩)
    ∧ (let f : LaneWord := { fU 8 with vc := 40, ext := 3 }
      (Instr.vpackb f).wf = true ∧ LaneRuns sF8 ⟨40 :: regs 20 8, [10, 40], [], [], tagged 20 8 .f32⟩ ∧ f.vd ≠ f.vc) := by
  unfold LaneRuns LaneReady; decide +kernel
theorem wit_LanePermutations : (∀ m : Fin 4, (Instr.vshfl { fB 0 with opx := ⟨m.val, by omega⟩ }).wf = true)
    ∧ LaneRuns s0 ⟨20 :: bRegs (fB 0), [10], bScalar (fB 0), [], []⟩
    ∧ (let f : LaneWord := { fU 0 with bsrc := 1, vb := 8 }
      (Instr.vbcast f).wf = true ∧ (Instr.vrot f).wf = true ∧ LaneRuns s0 ⟨20 :: bRegs f, [10], bScalar f, [], []⟩) := by
  unfold LaneRuns LaneReady; decide +kernel
theorem wit_LaneReductions : (let f : LaneWord := { z with vd := 12, va := 20, vc := 30, typ := 3, opx := 4, ext := 11 }
      (Instr.vred f).wf = true ∧ Ty.ofCode f.typ.val = some .f32
        ∧ LaneRuns ((sT .f32).setMe ((sT .f32).me.setTag 30 .n32)) ⟨[20, 30], [], [], [12, 13], [(20, .f32), (30, .n32)]⟩)
    ∧ (let f : LaneWord := { fU 1 with ext := 0 }
      (Instr.vred f).wf = true ∧ Ty.ofCode f.typ.val = some .s32 ∧ LaneRuns (sT .s32) ⟨[20], [10], [], [], [(20, .s32)]⟩)
    ∧ (let f : LaneWord := { fU 2 with opx := 4, ext := 7 }
      (Instr.vscan f).wf = true ∧ Ty.ofCode f.typ.val = some .n32 ∧ LaneRuns (sT .n32) ⟨[20], [10], [], [], [(20, .n32)]⟩)
    ∧ 7 < redRows.length := by
  unfold LaneRuns LaneReady; decide +kernel
/-- Keys 1, 3 and 5 in v20 and 3 and 7 in v30, each list closed by the end marker. -/
def sSect : State := (sT .n32).setMe { (sT .n32).me with
  vreg := [(640, 1), (641, 3), (642, 5), (643, 0xFFFFFFFF), (960, 3), (961, 7), (962, 0xFFFFFFFF)] }
theorem wit_LaneIntersection : (let f : LaneWord := { fB 2 with pd := 9, ext := 12 }
      (Instr.visect f).wf = true ∧ LaneRuns sSect ⟨[20, 30], [10], [], [12, 13], [(20, .n32), (30, .n32)]⟩)
    ∧ (keyList sSect.me 20).Pairwise (fun x y => x.2 < y.2) ∧ (keyList sSect.me 30).Pairwise (fun x y => x.2 < y.2)
    ∧ matchesOf (keyList sSect.me 20) (keyList sSect.me 30) = [1] ∧ advance (keyList sSect.me 20) (keyList sSect.me 30) = 3 := by
  unfold LaneRuns LaneReady; decide +kernel

/-! ### Witnesses: lane operations in flight, and the hearths -/

/-- `s0` with a started clause, an address pair 0x2000 in v20 and v21, offsets from 0x2000 on in v22, f32 data in v30 and v31,
and n32 indices in v40. -/
def sA : State := sG (fun g => { ((g.setTag 30 .f32).setTag 31 .f32).setTag 40 .n32 with
  clauses := [{ clause1 with setA := 3 }]
  preg := [(3, 5)]
  vreg := [(640, 0x2000), (641, 0x2008), (642, 0x2010), (704, 0x2000), (706, 0x2010), (960, 1), (962, 2)]
  sreg := [(16, 0x10000), (18, 64), (19, 8), (20, 0x1000)] })
/-- Guarded by p3, which holds in lanes 0 and 2. -/
def fA : LaneWord := { z with ge := true, pn := 3, va := 20 }
def actLanes (s : State) (f : LaneWord) (P : Nat → Bool) : Bool := (List.range 32).all (fun l => !(s.me.act f).getLsbD l || P l)

theorem wit_LaneAccessesIssue : (let f := { fA with vd := 10, typ := 3, opx := 1, ext := 1 }
      (Instr.vld f).wf = true ∧ Ty.ofCode f.typ.val = some .f32 ∧ LaneRuns sA { memUse f with wr := regs 10 2 }
        ∧ actLanes sA f (fun l => addrCause 8 (memA sA f l) == none) = true)
    ∧ (let f := { fA with va := 22, vd := 10, typ := 3, ext := 2 }
      (Instr.vlds f).wf = true ∧ LaneRuns sA { scrUse f with wr := regs 10 4 }
        ∧ actLanes sA f (fun l => scrCause sA.myCrew 16 (scrA sA f l) == none) = true)
    ∧ (let f := { fA with vc := 30, typ := 3, mode := 5, ext := 0xE1 }
      (Instr.vst f).wf = true ∧ sA.queueFull sA.cur = false ∧ LaneRuns sA { memUse f with rd := [20, 21] ++ regs 30 2, tags := tagged 30 2 .f32 }
        ∧ (memUse f).rd = [20, 21] ∧ actLanes sA f (fun l => addrCause 8 (memA sA f l) == none) = true)
    ∧ (let f := { fA with va := 22, vc := 30, typ := 3, ext := 0xE0 }
      (Instr.vsts f).wf = true ∧ LaneRuns sA { scrUse f with rd := [22] ++ regs 30 1, tags := tagged 30 1 .f32 } ∧ (scrUse f).rd = [22]
        ∧ actLanes sA f (fun l => scrCause sA.myCrew 4 (scrA sA f l) == none) = true)
    ∧ (let f := { fA with vd := 10, vc := 40, mode := 4, opx := 5, ext := 0x10 }
      (Instr.vatom f).wf = true ∧ AtomOp.ofCode (f.x 3 0) = some .add ∧ (f.x 4 4 == 1) = true
        ∧ LaneRuns sA { memUse f with rd := [20, 21] ++ regs 40 2, wr := regs 10 2, tags := atomTags .add 40 true }
        ∧ actLanes sA f (fun l => atomCause 8 (memA sA f l) == none) = true)
    ∧ (let f := { fA with va := 22, vc := 40, ext := 4 }
      (Instr.vatoms f).wf = true ∧ AtomOp.ofCode (f.x 3 0) = some .maxn ∧ f.opx34 = false
        ∧ LaneRuns sA { scrUse f with rd := [22] ++ regs 40 1, tags := atomTags .maxn 40 false }
        ∧ actLanes sA f (fun l => scrCause sA.myCrew 4 (scrA sA f l) == none) = true)
    ∧ (Instr.vprf { fA with opx := 4 }).wf = true ∧ LaneRuns sA (memUse { fA with opx := 4 }) := by
  unfold LaneRuns LaneReady; decide +kernel
theorem wit_LaneCopiesIssue : (let f := { fA with va := 40, vb := 16, bsrc := 1, opx := 5, ext := 0x1C0F }
      (Instr.vcpidx f).wf = true ∧ LaneRuns sA ⟨[40], [], (List.range 5).map (16 + ·), [], [(40, .n32)]⟩
        ∧ actLanes sA f (fun l => decide (0x1000 % 4 = 0 ∧ (sA.me.rs 20).toNat + l * 64 + 4 * 16 ≤ sA.myCrew.scrSize)) = true)
    ∧ (let f := { z with vd := 10, vb := 16, vc := 12, bsrc := 1, typ := 2, opx := 5 }
      (Instr.vredeem f).wf = true ∧ LaneRuns sA ⟨[], regs 10 4 ++ [12], [16, 17], [], []⟩ ∧ Ty.ofCode f.typ.val = some .n32)
    ∧ (let f := { z with vb := 16, bsrc := 1, typ := 2, ext := 0x80 + 22 }
      let s := sA.setMe { sA.me with sreg := [(23, 24 * 2 ^ 18)] }
      (Instr.vredeemRemote f).wf = true ∧ LaneRuns s ⟨[], [], [16, 17] ++ [22, 23], [], []⟩ ∧ remoteBad (s.me.rp 22).toNat = false) := by
  unfold LaneRuns LaneReady; decide +kernel
/-- A register beyond the blocks, and a wrong tag, under two queued clauses. -/
def sTrapL : State := (sT .n32).setMe { (sT .n32).me with clauses := [clause1, { clause1 with started := false }] }
/-- `vadd`, `vshl` and `vfadd` of the table, with a type and tags at which each runs. -/
def trapRows : List (Nat × (LaneWord → Instr) × Fin 64 × Ty) := [(0, .vadd, 1, .s32), (12, .vshl, 1, .s32), (15, .vfadd, 3, .f32)]
theorem wit_LaneTraps : ((elementRows[0]?).map (fun p => p.1 (fB 1)) = some (.vadd (fB 1)) ∧ (elementRows[12]?).map (fun p => p.1 (fB 1)) = some (.vshl (fB 1))
      ∧ (elementRows[15]?).map (fun p => p.1 (fB 3)) = some (.vfadd (fB 3)))
    ∧ ((sTrapL.me.clauses = [clause1, { clause1 with started := false }] ∧ sTrapL.me.wait = .none ∧ sTrapL.myCrew.handler = some 0x40
      ∧ sTrapL.me.trap.handler = false ∧ sTrapL.laneHeld = false)
    ∧ ∀ p ∈ trapRows, let u (vd : Fin 256) : LaneUse := elemUse { fB p.2.2.1 with vd := vd } p.2.2.2 true false
      (∀ vd ∈ [(10 : Fin 256), 64], (p.2.1 { fB p.2.2.1 with vd := vd }).wf = true ∧ sTrapL.me.lBlocked (u vd) = false)
      ∧ Ty.ofCode p.2.2.1.val = some p.2.2.2
      ∧ (∃ r ∈ (u 64).rd ++ (u 64).wr, 64 + 64 * clause1.blocks ≤ r) ∧ (∃ q ∈ (u 64).tags, sTrapL.me.tag q.1 ≠ q.2)
      ∧ (∃ q ∈ (u 10).tags, sTrapL.me.tag q.1 ≠ q.2) ∧ ∀ r ∈ (u 10).rd ++ (u 10).wr, r < 64 + 64 * clause1.blocks) := by
  decide +kernel

/-- An operand block at s24: an area at 0x1000, rows of 64 bytes, two rows; lines of f16x2 in v20 to v27, f32 in v40, v41 and
v44, n32 in v45 and v46. -/
def sH : State := sG (fun g => { ([20, 21, 22, 23, 24, 25, 26, 27].foldl (fun g r => g.setTag r .f16x2)
    ((((g.setTag 40 .f32).setTag 41 .f32).setTag 44 .f32).setTag 45 .n32)).setTag 46 .n32 with
  sreg := [(24, 0x1000), (25, 64), (26, 2)] })
def fH : LaneWord := { z with vb := 24, bsrc := 1 }
def hearthOk (s : State) (i : Instr) (u : LaneUse) : Bool :=
  i.wf && !s.me.lBlocked u && !s.laneHeld && (u.rd ++ u.wr).all (fun r => decide (r < s.me.vlimit)) && u.tags.all (fun p => s.me.tag p.1 == p.2)
  && !s.hearthWaits s.cur i && (hTile i).all (fun t => decide (t < s.me.ntiles)) && (hList i).all (fun l => decide (l < s.me.nlists))
theorem hearthOk_runs {s : State} {i : Instr} {u : LaneUse} (h : hearthOk s i u = true) : i.wf = true ∧ HearthRuns s i u := by
  simp only [hearthOk, and_assoc, Bool.and_eq_true, Bool.not_eq_true', Option.all_eq_true, List.all_eq_true, beq_iff_eq,
    decide_eq_true_eq] at h
  unfold HearthRuns LaneRuns LaneReady
  tauto
/-- A row of the table with a word that meets its checks at `sH`: neither joint nor deferred. -/
def rowOk (n : Nat) (f : LaneWord) : Prop :=
  ∃ p, hearthRows[n]? = some p ∧ hJoint (p.1 f) = false ∧ hDefer (p.1 f) = none ∧ hearthOk sH (p.1 f) (p.2.1 f) = true ∧ p.2.2.2 sH f

/-- A word for each row of the table, in the table's order. -/
def rowWords : List LaneWord :=
  [{ fH with va := 20, typ := 4 }, { fH with va := 20, typ := 4 }, { fH with va := 20, vb := 32, typ := 4 }, z, { fH with typ := 1 },
   { fH with typ := 3, ext := 7 <<< 21 }, { z with typ := 1, ext := 7 <<< 21 }, { z with va := 40, typ := 3 },
   { z with vd := 10, typ := 3, opx := 4, ext := 63 <<< 15 }, { z with ext := 1 <<< 23 }, { fH with typ := 1, ext := 1 <<< 23 },
   { z with vd := 10 }, { z with vd := 10 }, { z with va := 44, vb := 45, vc := 46, typ := 3 }, fH, fH, fH]
theorem wit_HearthInstructionsIssue : rowWords.length = hearthRows.length ∧ ∀ n f, rowWords[n]? = some f → rowOk n f := by
  refine ⟨rfl, fun n f h => ?_⟩
  have hn : n < 17 := by
    by_contra hc
    rw [List.getElem?_eq_none (by simpa [rowWords] using hc)] at h
    cases h
  interval_cases n <;> cases h <;> refine ⟨_, rfl, by decide +kernel, by decide +kernel, by decide +kernel, ?_⟩ <;>
    dsimp only <;> (try unfold streamFits) <;> (try unfold rowsFit) <;> (try unfold imageFits) <;> (try unfold isIntOp) <;> decide +kernel

/-! ### A state with memory behind it -/

/-- Tables of home 0 of ASID 1: page 1 is a normal page in frame 2 (code at 0x10000), page 2 sparse, page 3 pooled in frame 3,
page 4 copy-on-write in frame 4, page 5 absent, page 6 neither readable nor writable. A clause of one `vnop` that sets flags 0
and 1 stands at lane offset 0, and one of a word with a reserved major at 0xC0. -/
def memM : Map Byte :=
  [(0x4000, 8, 2 ^ 63 + 0x8000), (0x8000, 8, 2 ^ 63 + 0x9000), (0x9000, 8, 2 ^ 63 + 0xA000), (0xA008, 8, mkLeaf kNormal true true 2),
   (0xA010, 8, mkLeaf kSparse true true 0), (0xA018, 8, mkLeaf kPooled true true 3), (0xA020, 8, mkLeaf kCow true true 4),
   (0xA030, 8, mkLeaf kNormal false false 2), (0x201C0, 12, placeHeader), (0x201CC, 12, 0xFE * 2 ^ 88), (0x20100, 12, placeHeader), (0x2010C, 12, 0x92 * 2 ^ 88), (0x20118, 4, 1)].foldl
    (fun m p => Map.putList 0 m p.1 (natLE p.2.1 p.2.2)) []
/-- A context with a pool in which frame 6 is free, and spare tokens at the slices of its pages. -/
def sM : State := { s0 with
  nextOp := 10
  quay := { s0.quay with
    mem := memM, roots := [(4, some 0x4000)], frames := Map.put Frame.hostHeld (Map.put Frame.hostHeld [] 3 ⟨1, 1, 0, 1⟩) 6 ⟨0, 1, 0, 0⟩
    pools := [(4, ⟨[6], []⟩)], spare := (List.range 64).map (fun sl => (sl, 256 * 64)) } }
def sMG (f : Gang → Gang) : State := sM.setMe (f sM.me)
/-- One operation of gang 0. -/
def op1 (kind : OpKind) (va : Nat) (width : Nat) (data : List Byte) : Op :=
  { sM.baseOp with id := 1, kind := kind, width := width, els := [⟨0, BitVec.ofNat 64 va, data, .todo, []⟩] }
def sO (o : Op) : State := { sM with ops := [o] }

/-- One lane that lives, with an address on page 1: its prefetch. -/
def sV : State := sMG (fun g => { g with live := 1, clauses := [clause1], vreg := [(640, 0x101FC)] })
def fV : LaneWord := { z with va := 20 }
theorem wit_Prefetch : (Instr.vprf fV).wf = true ∧ LaneRuns sV (memUse fV) ∧ fV.opx34 = false
    ∧ (∀ m < 32, (sV.me.act fV).getLsbD m = true ↔ m = 0) ∧ (memA sV fV 0).toNat = 0x101FC ∧ homeOf 0x101FC = some (.die 0)
    ∧ sV.look sV.myCrew.asid 0 0x101FC false = .ok 0x201FC kNormal := by
  unfold LaneRuns LaneReady; decide +kernel

/-- A word with a deferred tag 2 in a crew without watches (tag key 0·4+2); a tag that is empty, and landed ones. -/
def fD (f : LaneWord) : LaneWord := { f with ext := 1 <<< 13 ||| 2 <<< 11 }
def sTag (t : TagSt) : State := sH.setCrew 1 { sH.crew 1 with tags := [(2, t)] }
def deferOk (n : Nat) (f : LaneWord) (s : State) : Prop :=
  ∃ p, (hearthRows.take 3)[n]? = some p ∧ hJoint (p.1 f) = false ∧ hDefer (p.1 f) = some 2 ∧ hearthOk s (p.1 f) (p.2.1 f) = true
    ∧ p.2.2.2 s f
theorem wit_Deferred : (deferOk 0 (fD { fH with va := 20, typ := 4 }) sH ∧ sH.myCrew.tag 2 = .empty)
    ∧ (deferOk 1 (fD { fH with va := 20, typ := 4 }) (sTag (.landed 1)) ∧ (sTag (.landed 1)).myCrew.tag 2 = .landed 1)
    ∧ deferOk 2 (fD { fH with va := 20, vb := 32, typ := 4 }) (sTag (.landed 2)) ∧ (sTag (.landed 2)).myCrew.tag 2 = .landed 2 := by
  refine ⟨⟨⟨_, rfl, ?_⟩, ?_⟩, ⟨⟨_, rfl, ?_⟩, ?_⟩, ⟨_, rfl, ?_⟩, ?_⟩ <;> (try dsimp only) <;> (try unfold streamFits) <;>
    (try unfold rowsFit) <;> (try unfold isIntOp) <;> decide +kernel
/-- The crew of `sH` with watches. -/
def sJ : State := sH.setCrew 1 { sH.crew 1 with desc := desc ||| (1#512 <<< 338) }
def fJ : LaneWord := { fH with va := 20, typ := 4, opx := 4 }
/-- An instruction of the watch that one gang, or three, have issued. -/
def hopJ (ps : List HPart) : HOp := ⟨1, 1, ps, .mxmac fJ, hBlock sJ.me (.mxmac fJ) fJ, .joint, [], [], [], false, [], 1, [], []⟩
def hop3 : HOp := hopJ [⟨1, 1, 0, 1, none, 0⟩, ⟨2, 2, 0, 1, none, 0⟩, ⟨3, 3, 0, 1, none, 0⟩]
def sJ1 : State := { sJ with hops := [hopJ [⟨1, 1, 0, 1, none, 0⟩]] }
def sJ3 : State := { sJ with hops := [hop3] }
def sJx : State := sJ.setGang 2 { sJ.gang 2 with phase := .exited }
theorem wit_Joint : ∃ p, (hearthRows.take 2)[0]? = some p ∧ (p.1 fJ).wf = true ∧ fJ.opx34 = true ∧ fJ.deferTag = none
    ∧ (∀ s ∈ [sJ, sJ1, sJ3, sJx], s.myCrew.hasWatches = true ∧ hearthOk s (p.1 fJ) (p.2.1 fJ) = true ∧ p.2.2.2 s fJ ∧ s.me.joints = 0)
    ∧ (sJ.joinable sJ.cur 1 = none ∧ ∀ j ∈ sJ.watchOf sJ.cur, j ≠ sJ.cur → (sJ.gang j).joints < 1 ∧ (sJ.gang j).phase = .running)
    ∧ (sJx.joinable sJx.cur 1 = none ∧ (∃ j ∈ sJx.watchOf sJx.cur, j ≠ sJx.cur ∧ (sJx.gang j).phase ≠ .running) ∧ sJx.me.phase = .running)
    ∧ sJ1.joinable sJ1.cur 1 = some (hopJ [⟨1, 1, 0, 1, none, 0⟩]) ∧ sJ3.joinable sJ3.cur 1 = some hop3
    ∧ hop3.parts.length = 3 ∧ hop3.bad = false ∧ bareInstr hop3.instr = bareInstr (p.1 fJ)
    ∧ hop3.blk = hBlock sJ3.me (p.1 fJ) fJ ∧ hDefer hop3.instr = none := by
  refine ⟨_, rfl, ?_⟩; dsimp only; unfold streamFits rowsFit; decide +kernel

/-- One instruction of gang 0 at the hearth of quadrant 0, with a stream FIFO and a list image of zeros behind it. -/
def hop1 (i : Instr) : HOp := ⟨1, 1, [⟨0, 1, 0, 1, none, 0xFFFFFFFF⟩], i, [0x1000, 64, 2, 0, 0, 0, 0, 0, 0, 0], .queued, [0], [], [],
  false, [], 0, [], []⟩
def sQ (i : Instr) : State := { sH with hops := [hop1 i] }
def sQf (i : Instr) (n : Nat) : State := { sQ i with fifo := [(4, List.replicate n 1)] }
/-- The operand block of an instruction that reads a list image: the image at 0x1000, then its header and its base. -/
def hopI (i : Instr) : HOp := { hop1 i with blk := [0x1000, 0, 0, 0, 0, 0, 0, 0, 0, 0, 28, 0] }
theorem wit_HearthWork : (∀ i ∈ [Instr.mxclr { z with typ := 3, ext := 7 <<< 21 }, .wlclr { z with ext := 1 <<< 23 },
        .wlcfg { fH with typ := 1, ext := 1 <<< 23 }, .mxmac { fH with va := 20, typ := 9 }, .mxmac { fH with va := 20, typ := 4 },
        .mxv { fH with va := 20, vb := 32, typ := 4 }, .mxld { fH with typ := 1 }, .mxst { fH with typ := 3, ext := 7 <<< 21 },
        .mxmovToTile { z with va := 40, typ := 3 }, .mxmovToVector { z with vd := 10, typ := 3, opx := 4, ext := 63 <<< 15 },
        .mxtopk { fH with va := 20, typ := 4 }, .wlins { z with va := 44, vb := 45, vc := 46, typ := 3 }, .wlst fH, .wlld fH, .wlmrg fH,
        .wlget { z with vd := 10 }, .wlthr { z with vd := 10 }],
      (sQ i).hHead 0 = some (hop1 i) ∧ (hop1 i).parts.find? (fun p => slotQuad p.gang == 0) = (hop1 i).parts.head?)
    ∧ (let f := { fH with va := 20, typ := 9 }
      (Instr.mxmac f).wf = true ∧ f.mode.val = 0 ∧ f.opx34 = false ∧ bw (hop1 (.mxmac f)).blk 2 ≤ 64 ∧ (hop1 (.mxmac f)).taint = [])
    ∧ (Instr.mxmac { fH with va := 20, typ := 4 }).wf = true
    ∧ (let f := { fH with va := 20, vb := 32, typ := 4 }
      let need := bw (hop1 (.mxv f)).blk 0 * f.lineWords
      (hop1 (.mxv f)).blk.length = 10 ∧ ((sQf (.mxv f) 8).fifoOf (1 * 4 + 0 % 4)).length / 4 < need ∧ (Instr.mxv f).wf = true)
    ∧ (let f := { fH with va := 20, vb := 32, typ := 4 }
      let h := { hop1 (.mxv f) with blk := [2, 0, 0, 0, 0, 0, 0, 0, 0, 0] }
      4 * (2 * f.lineWords) ≤ ((sQf (.mxv f) 512).fifoOf (1 * 4 + 0 % 4)).length ∧ bw h.blk 0 ≤ 512
      ∧ ({ sQf (.mxv f) 512 with hops := [h] } : State).hHead 0 = some h)
    ∧ (256 / (laneTy { fH with typ := 4, ext := 7 <<< 21 }).elems ≤ 128 ∧ (63 : Nat) + 0 < 64)
    ∧ ({ fH with va := 20, typ := 4 } : LaneWord).steps = 1
    ∧ (∀ i ∈ [Instr.wlld fH, .wlmrg fH], ({ sQ i with hops := [hopI i] } : State).hHead 0 = some (hopI i))
    ∧ ({ headList (hopI (.wlld fH)).blk with ent := entriesMap (imageEntries ((sH.crew 1).readScr 0x1000 4176)) } : WList).orderly = true
    ∧ (⟨bits 28 1 0, bits 28 7 2 + 1, (28).testBit 8, 0, entriesMap (imageEntries ((sH.crew 1).readScr 0x1000 4176))⟩ : WList).orderly = true := by
  decide +kernel

/-- A clause in the queue of gang 0 that has not been checked. -/
def cRaw (off : Nat) : Clause := ⟨off, 0, false, false, 0, 0, 1, [.vnop z], 0, 0⟩
def sCl (c : Clause) : State := sMG (fun g => { g with clauses := [c] })
theorem wit_ClauseEvents : ((sCl (cRaw 0)).live 0 = true
      ∧ (sCl (cRaw 0)).readClause ((sCl (cRaw 0)).crew 1) 0 = .ok ⟨0, 0, 1, 1⟩ [.vnop z])
    ∧ ((sCl (cRaw 244)).readClause ((sCl (cRaw 244)).crew 1) 244 = .trap 2 0 ∧ (sCl (cRaw 244)).live 0 = true
      ∧ ((sCl (cRaw 244)).crew 1).handler = some 0x40 ∧ ((sCl (cRaw 244)).gang 0).trap.handler = false
      ∧ ((sCl (cRaw 244)).gang 0).wait = .none)
    ∧ (let s := (sCl { cRaw 0 with checked := true, wait := 0xFFC })
      s.live 0 = true ∧ ∀ i < 12, (0xFFC : BitVec 12).getLsbD i = true → ((s.gang 0).flag i).busy = false)
    ∧ (let s := sCl { cRaw 0 with checked := true, started := true, next := 1 }
      s.live 0 = true ∧ (s.gang 0).trapWait = none)
    ∧ (crew1.laneSize = 256 ∧ 256 < 245 + 12 ∧ 244 + 12 ≤ 256)
    ∧ (let s := sCl (cRaw 244)
      s.readV 1 (crew1.laneBase + 244) 12 = some (List.replicate 12 0) ∧ leNat (List.replicate 12 0) / 2 ^ 88 ≠ 0xFF)
    ∧ (let s := sCl (cRaw 0xC0)
      s.readV 1 (crew1.laneBase + 0xC0) 12 = some (natLE 12 placeHeader) ∧ leNat (natLE 12 placeHeader) / 2 ^ 88 = 0xFF
      ∧ leNat (natLE 12 placeHeader) / 2 ^ 62 % 64 + 1 = 1 ∧ 0xC0 + 12 + 12 * 1 ≤ 256
      ∧ s.readV 1 (crew1.laneBase + 0xC0 + 12) (12 * 1) = some (natLE 12 (0xFE * 2 ^ 88))
      ∧ (match decodeHeader (leNat (natLE 12 placeHeader)) with
         | some h => (laneWords 1 (natLE 12 (0xFE * 2 ^ 88))).all (fun x => !item3 h x)
         | none => false) = true
      ∧ (laneWords 1 (natLE 12 (0xFE * 2 ^ 88)))[0]? = some (0xFE * 2 ^ 88)
      ∧ (match decodeLane (0xFE * 2 ^ 88) with | .ok _ => false | .error _ => true) = true) := by decide +kernel

def sSt (o : Op) : State := sO { o with inQ := true, stage := .queued }
def scrStore : Op := { op1 .store 0xFFFC 4 [1, 2, 3, 4] with inQ := true, stage := .queued, scr := true }
def memStore : Op := { op1 .store 0x10118 4 [1, 2, 3, 4] with inQ := true, stage := .queued }
/-- Kind-1 windows of slot 0. -/
def winA : Nat := 24 * 2 ^ 50 + 2 ^ 35
def winStore : Op := { op1 .store (winA + 0xFFFC) 4 [1, 2, 3, 4] with inQ := true, stage := .queued }
theorem wit_QueueEntriesLeave : ((sO memStore).queue 0 = memStore :: [] ∧ (sO memStore).mayLeave 0 memStore = true ∧ memStore.els ≠ []
      ∧ (∀ e ∈ memStore.els, memStore.kind.memory = true → ownWin memStore e = false))
    ∧ ((sO scrStore).queue 0 = scrStore :: [] ∧ (sO scrStore).mayLeave 0 scrStore = true ∧ (∀ e ∈ scrStore.els, e.open_ = true))
    ∧ (sO winStore).queue 0 = winStore :: [] ∧ (sO winStore).mayLeave 0 winStore = true
    ∧ (∀ e ∈ winStore.els, e.st = .todo ∧ ownWin winStore e = true ∧ (sO winStore).windowCause winStore e = none) := by decide +kernel

/-- The translation of element `i` of the operation of a state, where it is admitted at its slice and nothing of its core, its
queue or its page holds it back. -/
def sliceTr (s : State) (i : Nat) (write : Bool) : Option Tr :=
  match s.elAt 1 i with
  | some (o, e) =>
    let va := e.addr.toNat
    let key := busyKey 1 0 (va % 2 ^ 50)
    let w := waiterOf o (s.group o i) (sliceOf va)
    match s.admit1 w with
    | (some n, s1) =>
      if (if write then !s1.fetching 1 va o.width && (s1.counterCause o i).isNone && (o.frameAt va).isNone && (s1.busyPage key).isNone
          else !s1.parkedOver key va o.width n && !s.leftStore o e
            && (if s.arrived 1 [i] then (s.fwdOf o e).all (· == .none)
                else (s.forward o e).all (· == .none) && (s.l1Serve o e true).isNone && !s.noRoom (s.coreOf o) 1))
      then some (((s1.pass w).slicePte 0 (sliceOf va) 1 (va % 2 ^ 50) write true false).1.tr (va % 2 ^ 50) write) else none
    | _ => none
  | none => none
def stM (va : Nat) : Op := { op1 .store va 4 [1, 2, 3, 4] with inQ := true }
/-- A prefetch into the L1, or only as far as the quay. -/
def opPrf (far : Nat) : Op := { op1 .prf 0x101FC 128 [] with lane := true, arg := [BitVec.ofNat 32 far] }
/-- A signal: its payload, or its counter behind it. -/
def sigM (st : ElSt) : Op := { op1 (.sendsig 1) 0x10110 8 [] with
  inQ := true, ord := .rel, els := [⟨0, 0x10110, natLE 8 5, st, []⟩, ⟨1, 0x10118, natLE 8 1, .todo, []⟩] }
/-- A write that waits for the copy of page 4. -/
def busy4 : Busy := ⟨busyKey 1 0 0x40000, false, [⟨1, 0, 0, 0x4FFFC, [1, 2, 3, 4], false, false, 0, 0⟩]⟩
def sBusy : State := { sM with quay := { sM.quay with busy := [busy4] } }
/-- A load that stands at its slice already, with tokens there to pay. -/
def sWaits : State := { sO (op1 .load 0x101FC 4 []) with quay := { sM.quay with
  waits := [{ waiterOf (op1 .load 0x101FC 4 []) ((sO (op1 .load 0x101FC 4 [])).group (op1 .load 0x101FC 4 []) 0) (sliceOf 0x101FC) with seen := 1 }] } }
theorem wit_SliceAccesses : (homeOf 0x101FC = some (.die 0) ∧ homeOf 0x60000 = some (.die 0) ∧ (sM.gang 0).phase = .running)
    ∧ (sliceTr (sO (op1 .load 0x101FC 4 [])) 0 false = some (.ok 0x201FC kNormal)
      ∧ sliceTr (sO (op1 .load 0x50000 4 [])) 0 false = some (.absent 0x50000 65536)
      ∧ sliceTr (sO (op1 .load 0x60000 4 [])) 0 false = some .perm)
    ∧ (sliceTr (sO (stM 0x1FFFC)) 0 true = some (.ok 0x2FFFC kNormal) ∧ sliceTr (sO (stM 0x40000)) 0 true = some (.ok 0x40000 kCow)
      ∧ sliceTr (sO (stM 0x50000)) 0 true = some (.absent 0x50000 65536) ∧ sliceTr (sO (stM 0x60000)) 0 true = some .perm)
    ∧ (sliceTr (sO (op1 (.atom .add false) 0x10118 4 (natLE 4 0xFFFFFFFF))) 0 true = some (.ok 0x20118 kNormal)
      ∧ sliceTr (sO (op1 (.atom .maxvi true) 0x10118 8 (natLE 8 7))) 0 true = some (.ok 0x20118 kNormal)
      ∧ sliceTr (sO (op1 (.cas true) 0x10118 8 (natLE 8 1 ++ natLE 8 2))) 0 true = some (.ok 0x20118 kNormal)
      ∧ sliceTr (sO (sigM .todo)) 0 true = some (.ok 0x20110 kNormal) ∧ sliceTr (sO (sigM .done)) 1 true = some (.ok 0x20118 kNormal)
      ∧ (sigM .done).els.length = 2)
    ∧ (let s : State := { sBusy with ops := [stM 0x40000] }
      let a := s.admit1 (waiterOf (stM 0x40000) (s.group (stM 0x40000) 0) (sliceOf 0x40000))
      a.1 = some 1 ∧ a.2.busyPage busy4.key = some busy4 ∧ (s.elAt 1 0).isSome = true ∧ a.2.fetching 1 0x40000 4 = false
      ∧ (stM 0x40000).frameAt 0x40000 = none ∧ (s.crew (stM 0x40000).crew).phase ≠ .ended)
    ∧ (let s := sWaits
      s.arrived 1 [0] = true ∧ sliceTr s 0 false = some (.ok 0x201FC kNormal))
    ∧ (∀ far ∈ [0, 1], let o := opPrf far
      let s := sO o
      s.op 1 = some o ∧ o.kind = .prf ∧ o.stage = .sent ∧ o.scope.code ≤ 2 ∧ o.els = [⟨0, 0x101FC, [], .todo, []⟩] ∧ (∀ k < 4, (s.gang k).fences = []) ∧ s.goesOut o [0] = true
      ∧ (let a := s.admitted ⟨sliceOf 0x101FC, 1, 1, 0, 0, 2, 0⟩
        a.1 = true ∧ a.2.look 1 0 0x101FC false = .ok 0x201FC kNormal)) := by
  decide +kernel

theorem wit_WindowAndHostAccesses : (∀ o ∈ [op1 .load (winA + 0xFFFC) 4 [], { op1 .store (winA + 0xFFFC) 4 [1, 2, 3, 4] with inQ := true },
      op1 .load (24 * 2 ^ 50 + 63 * 1024 + 31 * 32) 4 [], { op1 .store (24 * 2 ^ 50 + 63 * 1024) 4 [1, 2, 3, 4] with inQ := true }],
      ∃ e, o.els = [e] ∧ (sO o).elAt 1 0 = some (o, e) ∧ (∀ x ∈ (sO o).forward o e, x = .none) ∧ homeOf e.addr.toNat = some .window
        ∧ (sO o).windowCause o e = none ∧ (sO o).olderCore o = false ∧ (sO o).noRoom ((sO o).coreOf o) 1 = false)
    ∧ ((winA + 0xFFFC).testBit 35 = true ∧ (24 * 2 ^ 50 + 63 * 1024 + 31 * 32).testBit 35 = false
      ∧ bits (24 * 2 ^ 50 + 63 * 1024 + 31 * 32) 4 0 = 0)
    ∧ (∀ o ∈ [op1 .load (24 * 2 ^ 50 + 64 * 1024) 4 [], stM (winA + 5 * 2 ^ 36)],
      ∃ e, o.els = [e] ∧ (sO o).elAt 1 0 = some (o, e) ∧ (∀ x ∈ (sO o).forward o e, x = .none) ∧ homeOf e.addr.toNat = some .window
        ∧ ((sO o).windowCause o e).isSome = true ∧ (sO o).olderCore o = false ∧ (sO o).noRoom ((sO o).coreOf o) 1 = false ∧ ((sO o).gang o.gang).phase = .running)
    ∧ ∀ o ∈ [op1 .load (16 * 2 ^ 50 + 0x100) 4 [], { op1 .store (16 * 2 ^ 50 + 0x100) 4 [1, 2, 3, 4] with inQ := true },
        op1 (.atom .add false) (16 * 2 ^ 50 + 0x100) 4 [1, 0, 0, 0], op1 (.atom .or true) (16 * 2 ^ 50 + 0x100) 8 (natLE 8 1)],
      ∃ e, o.els = [e] ∧ (sO o).elAt 1 0 = some (o, e) ∧ (∀ x ∈ (sO o).forward o e, x = .none) ∧ homeOf e.addr.toNat = some .host
        ∧ (sO o).noRoom ((sO o).coreOf o) 1 = false ∧ ((sO o).gang o.gang).phase = .running := by
  refine ⟨?_, by decide +kernel, ?_, ?_⟩ <;> intro o h <;>
    simp only [List.mem_cons, List.not_mem_nil, or_false] at h
  · obtain rfl | rfl | rfl | rfl := h <;> exact ⟨_, rfl, by decide +kernel⟩
  · obtain rfl | rfl := h <;> exact ⟨_, rfl, by decide +kernel⟩
  · obtain rfl | rfl | rfl | rfl := h <;> exact ⟨_, rfl, by decide +kernel⟩

/-- A load that has returned to s9, a pair to s10:s11, a counter read to s10:s11, an acknowledged store, a lane load of v20 to
v22, from memory and from scratchpad, and hearth instructions that are over. -/
def opR : Op := { op1 .load 0x10000 4 [] with
  stage := .ready, dst := .sreg 9, els := [⟨0, 0x10000, [], .done, [1, 2, 3, 4]⟩] }
def opR2 : Op := { opR with width := 8, dst := .pair 10, els := [⟨0, 0x10000, [], .done, [1, 2, 3, 4, 5, 6, 7, 8]⟩] }
def opJ : Op := { op1 (.jcount .graph) 0 8 [] with dst := .pair 10, els := [], arg := [65535] }
def opA : Op := { op1 .store 0x10000 4 [1] with stage := .ready, inQ := true, els := [⟨0, 0x10000, [1], .done, []⟩] }
def opL : Op := { op1 .load 0x10000 12 [] with
  stage := .ready, lane := true, dst := .vreg 20 3 .s32, els := [⟨31, 0x10000, [], .done, [1, 2, 3, 4]⟩] }
def opLs : Op := { op1 .load 0x40 12 [] with lane := true, scr := true, dst := .vreg 20 3 .s32, els := [⟨31, 0x40, [], .todo, []⟩] }
def hopO : HOp := { hop1 (.mxmovToVector z) with stage := .over, dsts := [10] }
def hopT : HOp := { hop1 (.mxtopk z) with stage := .over, counts := [(0, 5, 6)] }
/-- An `mwait` that sleeps on an absent page, and one on host memory. -/
def opW (va : Nat) : Op := { op1 (.mwait .eq) va 8 [] with stage := .asleep }
def sW (va : Nat) : State := { sMG (fun g => { g with wait := .mwait 1 }) with ops := [opW va] }
theorem wit_ResultsReturn : ((sO opR).op 1 = some opR ∧ opR.lane = false ∧ (∀ c, opR.kind ≠ .mwait c) ∧ (sO opR).answer opR = none
      ∧ (sO opR).resultWaits opR = false ∧ opR.value = some [1, 2, 3, 4])
    ∧ ((sO opR2).op 1 = some opR2 ∧ opR2.dst = .pair 10 ∧ (sO opR2).answer opR2 = none ∧ (sO opR2).resultWaits opR2 = false ∧ opR2.value = some [1, 2, 3, 4, 5, 6, 7, 8])
    ∧ ((sO opJ).op 1 = some opJ ∧ opJ.lane = false ∧ (sO opJ).acqDone 0 1 = true ∧ (opJ.arg.getD 0 0).toNat = 65535)
    ∧ ((sO opA).op 1 = some opA ∧ opA.inQ = true ∧ opA.stage = .ready ∧ opA.dst = .none)
    ∧ ((sO opL).op 1 = some opL ∧ opL.scr = false ∧ (sO opL).resultWaits opL = false ∧ ∀ e ∈ opL.els, e.st = .done)
    ∧ ((sO opLs).op 1 = some opLs ∧ (sO opLs).scrReady opLs = true ∧ (sO opLs).resultWaits opLs = false ∧ opLs.width = 4 * 3
      ∧ ∀ e ∈ opLs.els, ∀ x ∈ (sO opLs).forward opLs e, x = .none)
    ∧ (∀ h ∈ [hopO, hopT], let s : State := { sM with hops := [h] }
      s.op 1 = none ∧ s.hop 1 = some h ∧ s.hLater h = false ∧ h.lost = [])
    ∧ hopT.parts.map (fun p => (p.gang, (5, 6))) = hopT.counts
    ∧ ((sW 0x10118).asleep 0 = some (opW 0x10118, ⟨0, 0x10118, [], .todo, []⟩)
      ∧ (sW 0x10118).peek 1 0x10118 8 ≠ some [])
    ∧ (sW (16 * 2 ^ 50)).asleep 0 = some (opW (16 * 2 ^ 50), ⟨0, BitVec.ofNat 64 (16 * 2 ^ 50), [], .todo, []⟩)
    ∧ homeOf (BitVec.ofNat 64 (16 * 2 ^ 50)).toNat = some .host := by
  refine ⟨⟨by decide +kernel, by decide +kernel, fun c => by simp [opR, op1], by decide +kernel⟩, ?_⟩
  decide +kernel

def rep1 : TrapInfo := ⟨7, true, true, 4, 8, 1, 0x20000, 0, 1, 0⟩
/-- Reports of one cycle that name an older instruction, a younger one and none, in the order in which they came. -/
def reps : List (Nat × TrapInfo) := [(5, { rep1 with issue := 4 }), (5, { rep1 with issue := 0 }), (5, rep1)]
def sRep (rs : List (Nat × TrapInfo)) : State := { sMG (fun g => { g with reports := rs, clauses := [clause1] }) with
  hops := [{ hop1 (.mxclr z) with started := [0] }] }
/-- A crew that is stopping with a record, and nothing in flight. -/
def sStop : State := sM.setCrew 1 { crew1 with phase := .stopping, stop := some ⟨0, rep1, true, true⟩ }
def launch1 : Launch := ⟨desc, 0, .eligible, true, 1, 1, 0, false, false, 0, 1, false, none⟩
def sLaunch (l : Launch) (s : State) : State := { s with harb := { s.harb with launches := [(65537, some l)] } }
/-- A crew whose gangs have all left. -/
def sEnd : State := sLaunch launch1 { sM with gangs := [] }
/-- An exited gang with a store on its way to a peer, a load, and a parked hearth instruction. -/
def opPut : Op := { stM (64 * 2 ^ 50) with id := 2 }
def sExit : State := { sMG (fun g => { g with phase := .exited }) with
  ops := [op1 .load 0x50000 4 [], opPut], hops := [{ hop1 (.mxclr z) with stage := .parked }] }
theorem wit_TrapsAndEnds : (∀ rs ∈ [reps, [(5, { rep1 with issue := 0 })]], let s := sRep rs
      (s.gang 0).reports = rs ∧ (s.gang 0).phase = .running ∧ (s.gang 0).wait = .none ∧ 5 ≠ Map.get 0 s.cycles (slotDie 0)
      ∧ (s.crew (s.gang 0).crew).alive = true ∧ (s.crew (s.gang 0).crew).handler = some 0x40
      ∧ (s.gang 0).trap.handler = false ∧ rep1.deferred = true ∧ rs.takeWhile (fun x => x.1 == 5) = rs
      ∧ ∀ h ∈ s.hops, h.begun = true ∧ ∃ p ∈ h.parts, p.gang = 0)
    ∧ ((5, rep1) ∈ reps ∧ ∀ x ∈ reps, x = (5, rep1) ∨ x.2.issue = 0 ∨ rep1.issue < x.2.issue)
    ∧ ((sStop.crew 1).stop = some ⟨0, rep1, true, true⟩ ∧ (sStop.crew 1).phase = .stopping ∧ sStop.ops = [] ∧ sStop.hops = []
      ∧ (sStop.crew 1).ring.cmds = [])
    ∧ (let s := sExit
      (s.gang 0).phase = .exited ∧ (s.crew (s.gang 0).crew).alive = true ∧ (s.crew 1).d 497 497 = 0
      ∧ (opPut.inQ = true ∧ opPut.stage = .sent ∧ opPut.els ≠ [] ∧ ∀ e ∈ opPut.els, e.st ≠ .faulted ∧ homeOf e.addr.toNat = some (.peer 0))
      ∧ ∀ h ∈ s.hops, h.stage = .parked)
    ∧ (sEnd.crew 1).alive = true ∧ (∀ k ∈ (sEnd.crew 1).slots, (sEnd.gang k).phase = .absent) ∧ (sEnd.crew 1).ring.cmds = []
    ∧ (sEnd.crew 1).ring.notify ≤ (sEnd.crew 1).ring.consumed ∧ sEnd.launch (sEnd.crew 1).launch = some launch1 := by
  decide +kernel

/-- The context record of ASID 1: its fault ring and stamp word at a home, its read word in host memory, quota 1, kill 10,
grace 10. -/
def ctxR (home : Nat) : BitVec 512 :=
  BitVec.ofNat 512 ((16 * 2 ^ 50 + 0x1000) * 2 ^ 320 + (home * 2 ^ 50 + 0x12000) * 2 ^ 256 + (home * 2 ^ 50 + 0x10000) * 2 ^ 192
    + 10 * 2 ^ 100 + 10 * 2 ^ 94 + 1)
def ctx1 : BitVec 512 := ctxR 16
def sXr (home : Nat) (s : State) : State := { s with harb := { s.harb with ctx := [(1, ctxR home)], qmap := [(0, 0xF0000)] } }
def sX (s : State) : State := sXr 16 s
/-- A port set of peer 0 with one port up. -/
def sPeer (s : State) : State := { s with host := { s.host with ports := [(0, .up)], bar := [(0x2800, 0x10001)] } }
/-- A lane load of which an element has faulted. -/
def opF : Op := { op1 .load 0x50000 4 [] with lane := true, dst := .vreg 20 1 .s32, els := [⟨0, 0x50000, [], .faulted, []⟩] }
def sLogged : State := { sMG (fun g => { g with log := [1], parked := true }) with ops := [opF] }
/-- A crew of one gang whose log is being replayed. -/
def sReplay : State := { sMG (fun g => { g with replay := [1, 2] }) with ops := [op1 .load 0x50000 4 []], crews := [(1, { crew1 with slots := [0] })] }
def sRing (home : Nat) (wrote : Bool) : State := sPeer (sXr home { sM with rings := [(1, ⟨6, [5], wrote⟩)] })
def sHalt : State := sM.setCrew 1 { crew1 with phase := .halting }
/-- The crew of `sM` switched out: its gangs stand above every slot. -/
def sOut : State := sX (sLaunch launch1 { sM with
  gangs := [(16384, gangN 0), (16385, gangN 1), (16386, gangN 2), (16387, gangN 3)]
  crews := [(1, { crew1 with phase := .out, slots := [16384, 16385, 16386, 16387] })] })
theorem wit_FaultsAndReplay : ((sO opF).op 1 = some opF ∧ opF.faulted = true ∧ (sO opF).tried opF = true ∧ opF.stage = .sent
      ∧ opF.kind.gathers = false ∧ ((sO opF).gang opF.gang).logged 1 = false ∧ (sO opF).logUse (opF.gang / 16) < 64)
    ∧ ((sLogged.crew 1).phase = .resident ∧ sLogged.missing 1 = 0 ∧ (∃ k ∈ sLogged.gangsOf 1, (sLogged.gang k).log ≠ [])
      ∧ (∀ k ∈ sLogged.gangsOf 1, (sLogged.gang k).replay = []) ∧ (sLogged.crew 1).slots.Nodup ∧ sLogged.op 1 = some opF)
    ∧ ((sReplay.crew 1).phase = .resident ∧ sReplay.gangsOf 1 = [0] ∧ (sReplay.gang 0).replay = 1 :: [2])
    ∧ (let s := sRing 16 false
      (s.ring 1).pending = [5] ∧ (s.ring 1).wrote = false ∧ s.engRead (deviceWriter 1) (s.ctxField 1 383 320) 8 = (.done, natLE 8 0, s)
      ∧ (7 + 2 ^ 64 - 0) % 2 ^ 64 < 2 ^ (s.ctxField 1 93 90 + 6))
    ∧ (∀ b ∈ [false, true], (sRing 16 b).refused 1 (16 * 2 ^ 50) 32 = false ∧ (sRing 64 b).refused 1 (64 * 2 ^ 50) 32 = false
      ∧ ((sRing 16 b).ctxField 1 255 192 + 32 * 7) % 2 ^ 64 = 16 * 2 ^ 50 + 0x100E0 ∧ (sRing 16 b).ctxField 1 319 256 = 16 * 2 ^ 50 + 0x12000
      ∧ homeOf (16 * 2 ^ 50 + 0x100E0) = some .host ∧ homeOf (64 * 2 ^ 50 + 0x100E0) = some (.peer 0)
      ∧ (sRing 64 b).portSet 0 (64 * 2 ^ 50 + 0x100E0) ≠ [] ∧ (sRing 64 b).peerAbsent 1 0 (64 * 2 ^ 50 + 0x100E0) 32 = none ∧ homeOf 0x100E0 = some (.die 0) ∧ (sRing 0 b).fetching 1 0x100E0 32 = false
      ∧ (sRing 0 b).busyPage (busyKey 1 0 0x100E0) = none ∧ (sRing 0 b).look 1 0 0x100E0 true = .ok 0x200E0 kNormal
      ∧ (sRing 0 b).look 1 0 0x12000 true = .ok 0x22000 kNormal ∧ (sRing 16 b).spanParked 1 (16 * 2 ^ 50 + 0x100E0) 32 = false)
    ∧ ((sRing 16 true).ring 1).wrote = true
    ∧ ((sHalt.crew 1).phase = .halting ∧ (∀ k ∈ (sHalt.crew 1).slots, sHalt.takes k = false) ∧ sHalt.ops = []
      ∧ sHalt.hops = [] ∧ (sHalt.crew 1).ring.cmds = [] ∧ sHalt.coreReleased 1 0 = true ∧ Memory.wf (sHalt.crew 1).scratch = true
      ∧ (sHalt.gang 0).phase ≠ .absent ∧ Map.wf (0 : Word) (sHalt.gang 0).sreg = true ∧ (∀ x ∈ (sHalt.gang 0).sreg, x.1 < 128)
      ∧ (sHalt.gang 0).rs 8 ≠ 0)
    ∧ (sOut.crew 1).phase = .out ∧ (sOut.nextItem 0).bind Item.out = some 1
    ∧ (sOut.choose 0 (sOut.pinned 1) (sOut.outShape (sOut.crew 1))).isSome = true := by
  refine ⟨by decide +kernel, by decide +kernel, by decide +kernel, ⟨by decide +kernel, by decide +kernel, rfl, by decide +kernel⟩,
    by decide +kernel⟩

/-- An `mxtopk` with flag 2, which another operation keeps busy, or which is clear once it has completed. -/
def hopF : HOp := { hopT with parts := [⟨0, 1, 0, 1, some 2, 0xFFFFFFFF⟩] }
def tailF : Tail := ⟨hopF, ⟨0, 1, 0, 1, some 2, 0xFFFFFFFF⟩, []⟩
def sTail (n : Nat) : State := sMG (fun g => { g with flags := [(2, ⟨0, n⟩)] })
theorem wit_Tails : (∀ p ∈ [(2, true), (1, false)], let s : State := { sTail p.1 with hops := [hopF] }
      s.op 1 = none ∧ s.hop 1 = some hopF ∧ hopF.stage = .over ∧ s.hLater hopF = false ∧ hopF.lost = [] ∧ hopF.taint = []
      ∧ hopF.counts = [(0, 5, 6)] ∧ (((s.gang 0).flagOp (some 2) false).flag 2).busy = p.2)
    ∧ (∀ p ∈ [(1, true), (0, false)], let s : State := { sTail p.1 with tails := [tailF] }
      s.tails = [⟨hopF, tailF.part, []⟩] ∧ hopF.taint = [] ∧ ((s.gang 0).flag 2).busy = p.2)
    ∧ (∀ n ∈ [0, 9], let s : State := { sMG (fun g => { g with topkAt := n }) with tails := [tailF] }
      ((s.gang 0).topkAt ≤ tailF.part.seq) = (n = 0)) := by decide +kernel
/-- A quadrant whose operand log is full. -/
theorem wit_Log : (let s : State := { sMG (fun g => { g with log := List.range' 100 64 }) with ops := [opF] }
      s.op 1 = some opF ∧ (s.gang opF.gang).logged 1 = false ∧ 64 ≤ s.logUse (opF.gang / 16)) := by decide +kernel

/-- A context at the ladder's first and second step with its timers run out. -/
def sLad (l : Ladder) : State := { sX sM with harb := { (sX sM).harb with ladder := [(1, l)] }, cycles := [(0, 2048)] }
theorem wit_PreemptionLadder : ((sX sM).served = true ∧ ({ sM with powered := false } : State).served = false) ∧ (sX sM).onLadder 1 = false ∧ (sLaunch launch1 sM).launch (launchKey 1 1) = some launch1
    ∧ launch1.isComplete = false
    ∧ (let s := sLad ⟨1, [(0, 1024)], [], []⟩
      (s.ladderOf 1).step ≠ 0 ∧ 0 ∉ (s.ladderOf 1).dies ∧ 2 ^ s.ctxField 1 99 94 ≤ s.since (s.ladderOf 1) 0
      ∧ 1 ∈ s.crewsAt 1 0 ∧ (s.crew 1).phase = .resident)
    ∧ let s := sLad ⟨2, [], [0], [(0, 1024)]⟩
      0 ∈ (s.ladderOf 1).dies ∧ s.crewsAt 1 0 ≠ []
      ∧ 2 ^ s.ctxField 1 105 100 ≤ (s.now 0 + 2 ^ 64 - Map.get 0 (s.ladderOf 1).grace 0) % 2 ^ 64 := by decide +kernel

/-- A frame operation on page `n` of `memM`, at its control slice and admitted: the leaf that its walk finds, and the frame that
its pool would give. -/
def pageOk (o : Op) (s : State) (n l e at_ : Nat) (f : Option Nat) : Bool :=
  let w : Waiter := ⟨ctlSlice 0 (n * 65536), 1, 1, 0, 0, 1, 0⟩
  let a := s.admit1 w
  a.1.isSome && decide (s.op 1 = some o) && o.els.all (fun el => s.pageTurn o el && el.addr.toNat == n * 65536) && o.els.length == 1
    && decide (homeOf (n * 65536) = some (.die 0)) && a.1.all (fun x => !a.2.pageWaits (busyKey 1 0 (n * 65536)) x false && !a.2.pageWaits (busyKey 1 0 (n * 65536)) x true)
    && decide ((s.crew o.crew).phase ≠ .ended)
    && decide (a.2.walk 1 0 (n * 65536) = .leaf l e at_) && decide (((a.2.pass w).popFrame 1 0).map (·.1) = f)
def opPg (k : OpKind) (n : Nat) : Op := op1 k (n * 65536) 8 []
/-- The same with no free frame in the pool. -/
def sDry (o : Op) : State := { sO o with quay := { sM.quay with pools := [] } }
theorem wit_PagesAndFrames : (∀ tr ∈ [true, false],
      pageOk (opPg (.pcommit tr) 2) (sO (opPg (.pcommit tr) 2)) 2 3 (mkLeaf kSparse true true 0) 0xA010 (some 6) = true
      ∧ pageOk (opPg (.pcommit tr) 2) (sDry (opPg (.pcommit tr) 2)) 2 3 (mkLeaf kSparse true true 0) 0xA010 none = true
      ∧ pageOk (opPg (.pcommit tr) 1) (sO (opPg (.pcommit tr) 1)) 1 3 (mkLeaf kNormal true true 2) 0xA008 (some 6) = true
      ∧ pageOk (opPg (.pcommit tr) 3) (sO (opPg (.pcommit tr) 3)) 3 3 (mkLeaf kPooled true true 3) 0xA018 (some 6) = true)
    ∧ (∀ k ∈ [OpKind.pdecommit, .pquery true, .pquery false],
      pageOk (opPg k 3) (sO (opPg k 3)) 3 3 (mkLeaf kPooled true true 3) 0xA018 (some 6) = true
      ∧ pageOk (opPg k 2) (sO (opPg k 2)) 2 3 (mkLeaf kSparse true true 0) 0xA010 (some 6) = true)
    ∧ (pteKind (mkLeaf kSparse true true 0) = kSparse ∧ pteKind (mkLeaf kPooled true true 3) = kPooled
      ∧ pteKind (mkLeaf kNormal true true 2) = kNormal)
    ∧ (let s : State := { sM with quay := { sM.quay with pools := [(4, ⟨[6], [7, 8]⟩)] } }
      (s.pool 1 0).scrub = 7 :: [8])
    ∧ Memory.wf sBusy.quay.mem = true ∧ sBusy.busyPage busy4.key = some busy4 ∧ sBusy.midAtomic busy4.key = false ∧ sBusy.pageBefore busy4.key busy4.place = false
    ∧ (busy4.key / 2 ^ 34 / 4 = 1 ∧ busy4.key / 2 ^ 34 % 4 = 0 ∧ busy4.key % 2 ^ 34 * 65536 = 0x40000)
    ∧ sBusy.quay.busy.find? (fun x => !x.waiting && x.key / 2 ^ 34 % 4 == 0) = some busy4
    ∧ sBusy.walk 1 0 0x40000 = .leaf 3 (mkLeaf kCow true true 4) 0xA020 ∧ pteKind (mkLeaf kCow true true 4) = kCow
    ∧ (sBusy.frame (pteFrame (mkLeaf kCow true true 4))).count ≠ 1 ∧ (sBusy.popFrame 1 0).map (·.1) = some 6
    ∧ (∃ w, busy4.writes = [w] ∧ w.op = 0 ∧ w.add = false ∧ w.va % 65536 + w.data.length ≤ 65536)
    ∧ 0xA020 + 8 ≤ 6 * 65536 := by
  and_intros <;> first
    | decide +kernel
    | exact ⟨_, rfl, by decide +kernel⟩

/-- A fetch of 64 bytes, and berths whose data land or whose page is absent. -/
def opK : Op := op1 (.fetchk true 2 .launch) 0x1FFC0 64 []
def sB (b : Berth) : State := { sM with quay := { sM.quay with berths := [(0, b)] } }
def berthP (a : Nat) : Berth := { Berth.init with st := .pending, asid := 1, addr := a, len := 64 }
/-- A ticket of berth 0 of slice 0 of die 0 at generation 1, ASID 1, with the check byte that the device gives it. -/
def tkHi : Nat := 2 ^ 21 + 2 ^ 7 + 2 ^ 3
def tk1 (s : State) : Nat := tkHi * 256 + (s.tkCheck tkHi).toNat
theorem tk_parts (s : State) : tkKey (tk1 s) = 0 ∧ tkGen (tk1 s) = 1 ∧ tkAsid (tk1 s) = 1 ∧ bits (tk1 s) 10 8 = 0
    ∧ tk1 s / 256 = tkHi ∧ tk1 s % 256 = (s.tkCheck tkHi).toNat ∧ tk1 s < 2 ^ 64 := by
  have h := (s.tkCheck tkHi).isLt
  unfold tkKey tkGen tkAsid bits tk1
  generalize (s.tkCheck tkHi).toNat = c at *
  unfold tkHi; omega
def opT (k : OpKind) (s : State) : Op := op1 k (tk1 s) 64 []
def sBT (b : Berth) (k : OpKind) : State := { sB b with ops := [opT k (sB b)] }
theorem opT_atSlice (b : Berth) (k : OpKind) (sel : OpKind → Bool) (h : sel k = true) :
    (sBT b k).atSlice 1 sel = some (opT k (sB b), tk1 (sBT b k)) := by
  have e : (sBT b k).atSlice 1 sel = if sel k = true then some (opT k (sB b), (BitVec.ofNat 64 (tk1 (sB b))).toNat) else none := by
    simp only [State.atSlice, State.op, sBT, opT, op1, findOp, if_true]
    have : sM.baseOp.stage = .sent := by decide +kernel
    simp [this]
  rw [e, if_pos h, BitVec.toNat_ofNat, Nat.mod_eq_of_lt (tk_parts (sB b)).2.2.2.2.2.2]; rfl
theorem tk_valid (b : Berth) (k : OpKind) (hb : b.dropped = false ∧ b.asid = 1 ∧ b.gen = 1) (h : b.st ≠ .free) :
    (sBT b k).tkInvalid (tk1 (sBT b k)) = false ∧ tkAsid (tk1 (sBT b k)) = (opT k (sB b)).asid
    ∧ (sBT b k).berth (tkKey (tk1 (sBT b k))) = b ∧ b.stale (tk1 (sBT b k)) = false := by
  obtain ⟨h1, h2, h3, h4, h5, h6, -⟩ := tk_parts (sBT b k)
  refine ⟨?_, by rw [h3]; rfl, by rw [h1]; rfl, ?_⟩
  · simp [State.tkInvalid, h2, h4, h5, h6]
  · simp [Berth.stale, h2, h3, hb, h]
def berthL : Berth := { berthP 0x10100 with st := .landed, data := List.replicate 64 7 }
def opD (k : OpKind) (d : Dst) (more : List El) : Op := { op1 k 0 64 [] with dst := d, els := ⟨0, 0, [1, 2, 3], .todo, []⟩ :: more }
def berthX : Berth := { berthP 0x50000 with st := .faulted, cause := 8, page := (0x50000, 65536) }
/-- A remote redeem to v60 to v63 of slot 0. -/
def opV : Op := { opD (.vredeem false true) (.vreg 10 4 .raw32) [] with arg := [0, 0, 0, 0, BitVec.ofNat 32 (60 * 1024), 24 * 2 ^ 18] }
theorem wit_Berths : ((sX (sO opK)).op 1 = some opK ∧ (∃ e, opK.els = [e] ∧ (sX (sO opK)).fifoBlocked opK e opK.left = false
        ∧ slOf e.addr.toNat = sliceOf 0x1FFC0)
      ∧ (sX (sO opK)).acqDone 0 1 = true ∧ (let a := (sX (sO opK)).admit1 ⟨sliceOf 0x1FFC0, 1, 1, 0, 0, units 0x1FFC0 64, 0⟩
      a.1 = some 1 ∧ a.2.quotaOk (sliceOf 0x1FFC0) 1 = true ∧ a.2.fetchBefore opK (sliceOf 0x1FFC0) = false
      ∧ a.2.freeSlot (sliceOf 0x1FFC0) = some (sliceOf 0x1FFC0 * 2048)))
    ∧ (∀ a ∈ [0x1FFC0, 0x50000, 0x60000], ((sB (berthP a)).berth 0) = berthP a
      ∧ (sB (berthP a)).parkedOver (busyKey 1 (a / 2 ^ 50) (a % 2 ^ 50)) a 64 0 = false)
    ∧ ((sB (berthP 0x1FFC0)).look 1 0 0x1FFC0 false = .ok 0x2FFC0 kNormal
      ∧ (sB (berthP 0x50000)).look 1 0 0x50000 false = .absent 0x50000 65536 ∧ (sB (berthP 0x60000)).look 1 0 0x60000 false = .perm)
    ∧ (let s := sB { berthP 0x1FFC0 with retry := true }
      let a := s.admit1 ⟨0, 1, 0, retryCmd, 0, units 0x1FFC0 64, 0⟩
      a.1 = some 1 ∧ a.2.look 1 0 0x1FFC0 false = .ok 0x2FFC0 kNormal)
    ∧ (∀ b ∈ [berthP 0x10100, berthL, berthX], ∀ k ∈ [OpKind.sredeem true, .sredeem false, .vredeem false false, .kdrop, .kstat],
      let s := sBT b k
      s.tkInvalid (tk1 s) = false ∧ tkAsid (tk1 s) = (opT k (sB b)).asid ∧ s.berth (tkKey (tk1 s)) = b ∧ b.stale (tk1 s) = false
      ∧ b.claim = .none ∧ (k.isRedeem = true → s.atSlice 1 OpKind.isRedeem = some (opT k (sB b), tk1 s))
      ∧ (k = .kdrop → s.atSlice 1 (· == .kdrop) = some (opT k (sB b), tk1 s))
      ∧ (k = .kstat → s.atSlice 1 (· == .kstat) = some (opT k (sB b), tk1 s)))
    ∧ (∀ k ∈ [OpKind.sredeem true, .sredeem false, .vredeem false false, .kdrop, .kstat],
        (sBT berthL k).goesOut (opT k (sB berthL)) [0] = true) ∧ ((sB berthL).crew 1).phase ≠ .ended
    ∧ (berthX.st = .faulted ∧ berthX.cause = 8)
    ∧ ((sO opV).op 1 = some opV ∧ (sO opV).remoteCause opV .raw32 = none)
    ∧ (sO (opD (.vredeem false false) (.vreg 10 4 .s32) [])).op 1 = some (opD (.vredeem false false) (.vreg 10 4 .s32) [])
    ∧ (sO (opD (.sredeem true) .none [⟨1, 0, [], .todo, []⟩])).op 1 = some (opD (.sredeem true) .none [⟨1, 0, [], .todo, []⟩]) := by
  refine ⟨⟨by decide +kernel, ⟨_, rfl, by decide +kernel⟩, by decide +kernel⟩, by decide +kernel, by decide +kernel, by decide +kernel,
    fun b hb k hk => ?_, by decide +kernel, by decide +kernel, by decide +kernel, by decide +kernel⟩
  have hv : (b.dropped = false ∧ b.asid = 1 ∧ b.gen = 1) ∧ b.st ≠ .free ∧ b.claim = .none := by
    simp only [List.mem_cons, List.not_mem_nil, or_false] at hb; obtain rfl | rfl | rfl := hb <;> decide
  obtain ⟨t1, t2, t3, t4⟩ := tk_valid b k hv.1 hv.2.1
  exact ⟨t1, t2, t3, t4, hv.2.2, fun h => opT_atSlice b k _ h, fun h => opT_atSlice b k _ (by simp [h]),
    fun h => opT_atSlice b k _ (by simp [h])⟩

/-- A descriptor of Table 20-2: a launch of one crew of one gang with 32 lanes, one extended block and 64 KB of scratchpad. -/
def desc1 : BitVec 512 :=
  0x100007E00000000100010001FFFFFFFF00000010000000000000000000000000000200000000000000010000
def launchQ : Launch := ⟨desc1, 0, .queued, false, 0, 0, 0, false, false, 0, 1, true, none⟩
def opS (d : BitVec 512) : Op := op1 (.slaunch true 7) 0x10140 8 (natLE 64 d.toNat)
def sS (d : BitVec 512) : State := sX (sO (opS d))
def sSlip : State := sLaunch launchQ { sX sM with harb := { (sX sM).harb with slip := [(0, [65537])] } }
def opC (lv : Level) (id : Word) : Op := { op1 (.jcancel lv) 0 4 [] with arg := [id] }
/-- A launch and a graph that are due. -/
def sDue : State := sLaunch { launchQ with st := .eligible, fixed := true } { sX sM with harb := { (sX sM).harb with
  levels := [(levelKey 1 1 5, some ⟨true, false, false, false, 0, 0, 0, 0⟩)] } }
/-- A cancel of graph 5, which holds launch 1. -/
def launchG : Launch := { launchQ with desc := desc1 ||| (5#512 <<< 448) }
def sGraph : State := sLaunch launchG { sO (opC .graph 5) with harb := { sM.harb with
  levels := [(levelKey 1 1 5, some ⟨false, false, false, false, 1, 0, 0, 0⟩)] } }
theorem wit_LaunchesAndLevels : (∀ d ∈ [desc1, 0], (sS d).op 1 = some (opS d) ∧ (∃ e, (opS d).els = [e]
        ∧ (sS d).fifoBlocked (opS d) e 0 = false ∧ e.data = natLE 64 d.toNat)
      ∧ (natLE 64 d.toNat).length = 64 ∧ BitVec.ofNat 512 (leNat (natLE 64 d.toNat)) = d
      ∧ ((sS d).slipQ ((sS d).slipOf 1 7)).length < 64)
    ∧ (sS desc1).launchStatus 1 desc1 = 0 ∧ (sS 0).launchStatus 1 0 ≠ 0
    ∧ (sSlip.slipQ 0 = 65537 :: [] ∧ sSlip.launch 65537 = some launchQ ∧ sSlip.predsDone 1 launchQ = true
      ∧ sSlip.phaseWaits 1 launchQ = false ∧ dCm launchQ.desc = false ∧ sSlip.countBad launchQ (some (dCrews launchQ.desc)) = false)
    ∧ (sDue.levelDue 1 1 5 = true ∧ sDue.orphanKeys 1 1 5 = [])
    ∧ (sDue.levelDue 1 0 1 = true ∧ sDue.orphanKeys 1 0 1 = [] ∧ dStamp launchQ.desc = 0
      ∧ sDue.launch (launchKey 1 1) = some { launchQ with st := .eligible, fixed := true })
    ∧ ((sO (opC .graph 65535)).op 1 = some (opC .graph 65535) ∧ (sO (opC .graph 65535)).cancelCode 1 1 65535 ≠ 0)
    ∧ (sLaunch launchQ (sO (opC .launch 1))).op 1 = some (opC .launch 1)
    ∧ (sLaunch launchQ (sO (opC .launch 1))).cancelCode 1 0 1 = 0
    ∧ (let s : State := { sS desc1 with harb := { (sS desc1).harb with slip := [((sS desc1).slipOf 1 7, List.replicate 64 0)] } }
      64 ≤ (s.slipQ (s.slipOf 1 7)).length)
    ∧ (sGraph.op 1 = some (opC .graph 5) ∧ sGraph.cancelCode 1 1 5 = 0 ∧ (sGraph.level (levelKey 1 1 5)).isSome = true
      ∧ descLevel launchG.desc 1 = 5 ∧ sGraph.launch (launchKey 1 1) = some launchG) := by
  refine ⟨fun d hd => ?_, by decide +kernel⟩
  simp only [List.mem_cons, List.not_mem_nil, or_false] at hd
  obtain rfl | rfl := hd <;> exact ⟨by decide +kernel, ⟨_, rfl, by decide +kernel⟩, by decide +kernel⟩

/-- The launch of `desc1`, eligible, with core 0 free, in a context with pinned placement. -/
def sPlace : State := { sLaunch { launchQ with st := .eligible, fixed := true, ncrews := 1 } { sX sM with gangs := [], crews := [] } with
  harb := { (sLaunch { launchQ with st := .eligible, fixed := true, ncrews := 1 } { sX sM with gangs := [], crews := [] }).harb with
    ctx := [(1, ctx1 ||| (1#512 <<< 64))] } }
theorem map_some {α β : Type} {o : Option (α × β)} {a : α} (h : o.map (·.1) = some a) : ∃ b, o = some (a, b) := by
  obtain ⟨⟨x, b⟩, rfl, rfl⟩ := Option.map_eq_some_iff.1 h; exact ⟨b, rfl⟩
theorem wit_CrewsArePlaced : (∃ it, sPlace.nextItem 0 = some it ∧ it.out = none
      ∧ sPlace.launch it.key = some { launchQ with st := .eligible, fixed := true, ncrews := 1 })
    ∧ dCores desc1 = false ∧ ∃ s1, sPlace.choose 0 (sPlace.pinned 1) (dShape desc1) = some ((0, [0], 0), s1) :=
  ⟨⟨⟨65537, 0, 1, 0, none⟩, by decide +kernel, by decide +kernel⟩, by decide +kernel, map_some (by decide +kernel)⟩

/-- A layout record of 4-byte elements: one axis of size 4 and stride 4, dimensions of 2 and 1 elements (Table 13-5). -/
def lay : List Byte :=
  natLE 8 0xA ++ natLE 8 0 ++ natLE 8 4 ++ natLE 8 4 ++ List.replicate 48 0 ++ natLE 8 (4 * 2 ^ 32 + 2 ^ 18 + 2)
    ++ natLE 8 (8 * 2 ^ 32 + 2 ^ 18 + 1) ++ List.replicate 40 0
def entry (addr mem aux low : Nat) : BitVec 256 :=
  BitVec.ofNat 256 (addr * 2 ^ 192 + 0x100 * 2 ^ 160 + 0x200 * 2 ^ 128 + mem * 2 ^ 64 + aux * 2 ^ 32 + low)
def cmdC (addr mem aux low total next : Nat) (held : List Nat) : CraneCmd :=
  ⟨0, entry addr mem aux low, lay, [1], next, [], total, held, false, false, 0⟩
def sK (x : CraneCmd) : State := sM.setCrew 1 { crew1 with ring := ⟨1, 1, [x], [], 0⟩ }
/-- The ring holds one entry, a copy, and its record stands at 0x100. -/
def sEntry : State := sM.setCrew 1 (({ crew1 with ring := ⟨1, 0, [], [], 0⟩ }.writeScr 0x8040
  (natLE 32 (entry 0 0x10118 0 0).toNat)).writeScr 0x100 lay)
/-- What `Puts` asks of a state and an address, at whichever home it has, with the tokens of a crane where it is at a slice. -/
def putsOk (s : State) (asid va n : Nat) (w : Option Waiter) : Bool :=
  match homeOf va with
  | some .host => !s.refused asid va n
  | some (.peer p) => decide (s.portSet p va ≠ []) && !s.refused asid va n && (s.peerAbsent asid p va n).isNone
  | some (.die d) => !s.fetching asid va n && (s.busyPage (busyKey asid d (va % 2 ^ 50))).isNone
      && (match s.look asid d va true with | .ok _ kd => kd != kCow | _ => false)
      && w.all (fun x => (s.admit1 x).1.isSome)
  | _ => false
/-- A command of crew 1 puts `n` bytes at `va`: one at the host, one at a peer and one at home 0 are admitted. -/
def cranePuts (x : CraneCmd) (va n : Nat) : Bool :=
  putsOk (sPeer (sK x)) 1 va n (some ⟨sliceOf va, 1, 1, x.pos + 1, va, units va n, 0⟩)
/-- Nothing of the crew's notified stores holds back what a command puts. -/
def craneClear (s : State) (x : CraneCmd) (va n : Nat) : Bool := !s.crewStore (writerOf (s.crew 1) 1 x 0 va) va n
/-- An element that has not moved. -/
def elemOk (x : CraneCmd) (n : Nat) : Bool :=
  decide (((sK x).crew 1).cmd 0 = some x) && ((sK x).crew 1).craneRuns && decide (x.next ≤ n ∧ n < x.total ∧ n ∉ x.ahead)
/-- It lies inside the tensor and the scratchpad. -/
def elemIn (x : CraneCmd) (n : Nat) : Bool :=
  decide (0 ≤ (x.elem n).saddr ∧ (x.elem n).saddr + recElem x.layout ≤ 65536) && (x.elem n).inside && !(x.elem n).oob
/-- A read of the element at home 0. -/
def elemRead (x : CraneCmd) (n : Nat) : Eng :=
  ((sK x).engRead (writerOf ((sK x).crew 1) 1 x n (x.elem n).maddr) (x.elem n).maddr 4).1
def cmdOk (x : CraneCmd) : Bool :=
  decide (((sK x).crew 1).cmd 0 = some x) && ((sK x).crew 1).craneRuns && !x.stamped && !x.counted && !(sK x).cmdParked 1 0
/-- A stamp that looks for drops from position 0 on: its own ring has dropped none, or the command at 0. -/
def stampC (addr : Nat) : CraneCmd := { cmdC addr 0 0 0x85 0 0 [] with pos := 1 }
def sStamp (x : CraneCmd) (drops : List Nat) : State := sPeer (sM.setCrew 1 { crew1 with ring := ⟨2, 2, [x], drops, 0⟩ })
theorem wit_CraneElements : (let p := (sEntry.crew 1).ring.consumed
      let w := sEntry.crew 1
      let x := w.startCmd p (leNat (w.readScr (w.ringOff + 64 + 32 * (p % w.ringLen)) 32))
      w.phase = .resident ∧ w.ringLen ≠ 0 ∧ p < w.ring.notify ∧ w.ring.cmds.length < 8 ∧ sEntry.entryBad w x = none
      ∧ x.kind = 0 ∧ recBad w x x.layout = none)
    ∧ (let x := cmdC 0 0 0xABCD 2 2 0 []
      elemOk x 1 = true ∧ elemIn x 1 = true ∧ x.kind = 2 ∧ x.out = false)
    ∧ (∀ k ∈ [0, 1], ∀ p ∈ [(0x10118, Eng.done), (0x50000, .absent 0 0x50000 65536)], let x := cmdC 0 p.1 0 k 2 0 []
      elemOk x 1 = true ∧ elemIn x 1 = true ∧ x.kind = k ∧ x.out = false ∧ memCause (x.elem 1).maddr 4 = none ∧ recElem x.layout = 4
      ∧ elemRead x 1 = p.2)
    ∧ (∀ k < 4, ∀ va ∈ [16 * 2 ^ 50 + 0x100, 64 * 2 ^ 50 + 0x100, 0x10118], let x := cmdC 0x10118 va 1 (0x100 + k) 2 0 []
      elemOk x 0 = true ∧ elemIn x 0 = true ∧ x.kind = k ∧ x.out = true ∧ homeOf (x.elem 0).maddr = homeOf va ∧ (x.elem 0).maddr % 4 = 0
      ∧ cranePuts x (x.elem 0).maddr 4 = true ∧ craneClear (sK x) x (x.elem 0).maddr 4 = true)
    ∧ (∀ k < 4, let x := cmdC 0x10118 0x60000 1 (0x100 + k) 2 0 []
      elemOk x 1 = true ∧ x.kind = k ∧ ((sK x).elemCause 1 x 1).isSome = true ∧ ((sK x).lowestFail 1 x 1).map (·.1) = some 7
      ∧ (sK x).posterSlot ((sK x).crew 1) x = some 0 ∧ ((sK x).gang 0).phase = .running)
    ∧ let x := cmdC 0 0x10118 0 0 2 0 [1]
      elemOk x 1 = true ∧ elemIn x 1 = true ∧ x.kind = 0 ∧ x.out = false ∧ x.stamped = false ∧ x.held = [1]
      ∧ memCause (x.elem 1).maddr 4 = none ∧ elemRead x 1 = .done := by
  refine ⟨by decide +kernel, by decide +kernel, by decide +kernel, by decide +kernel, by decide +kernel, by decide +kernel⟩
theorem wit_CraneCommands : (let x := cmdC 0 0x10100 64 4 64 0 []
      cmdOk x = true ∧ x.kind = 4 ∧ x.held = [] ∧ min (min (512 - ((sK x).fifoOf 4).length) (64 - 0)) (64 - 0x10100 % 64) ≠ 0
      ∧ ((sK x).engRead (writerOf ((sK x).crew 1) 1 x 0 0x10100) 0x10100 64).1 = .done)
    ∧ (∀ va ∈ [16 * 2 ^ 50 + 8, 64 * 2 ^ 50 + 8, 0x10118], let x := stampC va
      x.kind = 5 ∧ x.stamp = true ∧ x.addr = va ∧ x.total = 0 ∧ x.pos = 1 ∧ (∀ ds ∈ [[], [0]], ((sStamp x ds).crew 1).cmd 1 = some x
        ∧ ((sStamp x ds).crew 1).ring.drops = ds ∧ ((sStamp x ds).crew 1).craneRuns = true ∧ (sStamp x ds).cmdParked 1 1 = false)
      ∧ craneClear (sStamp x []) x va 8 = true ∧ (sStamp x []).stampHeld 1 x = false ∧ putsOk (sStamp x []) 1 va 8 (some ⟨sliceOf va, 1, 1, 2, va, units va 8, 0⟩) = true)
    ∧ (∀ va ∈ [16 * 2 ^ 50 + 8, 64 * 2 ^ 50 + 8, 0x10118], let x := cmdC va 0x10118 0 0x80 2 2 []
      cmdOk x = true ∧ x.kind = 0 ∧ x.moved = true ∧ x.stamp = true ∧ x.defer = false ∧ x.addr = va ∧ cranePuts x va 8 = true ∧ craneClear (sK x) x va 8 = true ∧ (sK x).stampHeld 1 x = false)
    ∧ (let x := cmdC 0 0x10118 0 0 2 2 []
      cmdOk x = true ∧ x.kind = 0 ∧ x.moved = true ∧ x.stamp = false ∧ x.defer = false)
    ∧ (let x := cmdC 0 0x10118 0 0x1E00 2 2 []
      cmdOk x = true ∧ x.moved = true ∧ x.stamp = false ∧ x.lands = true ∧ x.defer = true
      ∧ ((sK x).crew 1).tag (x.target * 4 + x.tag) = .empty)
    ∧ let x := cmdC (16 * 2 ^ 50 + 8) 0x10118 1 0x103 2 2 []
      cmdOk x = true ∧ x.kind = 3 ∧ x.moved = true ∧ homeOf x.addr = some .host ∧ (sK x).refused 1 x.addr 8 = false
        ∧ craneClear (sK x) x x.addr 8 = true ∧ (sK x).stampHeld 1 x = false := by
  decide +kernel

/-- A tree of three places at 0x10140: its root has one child, a node of one token, 9, on frame 5; the token stands at 0x10300. An
all-zero header stands at 0x10180, no page at 0x50000. -/
def hdrP : Nat := 2 ^ 352 + 2 * 2 ^ 320 + 2 * 2 ^ 288 + 0x10200 * 2 ^ 64 + 3 * 2 ^ 32
def treeP : Tree := ⟨1, 0x10140, 8, 3, 0x10200, 0, 0, 2, 2, 1⟩
def sT1 (s : State) : State :=
  (((s.writePhys 0x20140 (natLE 64 hdrP)).writePhys 0x20200 (natLE 32 (2 ^ 192 + 2 * 2 ^ 30))).writePhys 0x20240
    (natLE 32 (3 * 2 ^ 64 + 5 * 2 ^ 40 + 2 ^ 33 + 2 ^ 30) ++ natLE 4 9)).writePhys 0x20300 (natLE 4 9)
/-- A request of kind `k` on the header at `t`, with its record at 0x10800: for one page of a window at `win`. -/
def opP (k t win : Nat) : Op := { op1 (.pfx k) t 8 [] with
  arg := [BitVec.ofNat 32 t, 0, 0x10300, 0, 1, if k = 2 then 0 else 1, BitVec.ofNat 32 win, 0, 0x10800, 0] }
def sP (k t win : Nat) : State := sT1 (sO (opP k t win))
/-- The engine holds the request, accepted. -/
def sJob (k t win h : Nat) : State := { sP k t win with quay := { (sP k t win).quay with pfx := [⟨0, h, 1, opP k t win⟩] } }
def pfxOut (r : PfxRes) : Nat × Nat × Nat × List Nat := match r with | .ok (o, _) => (o.status, o.a, o.b, o.frames) | .error n => (n, 0, 0, [])
/-- A request that is performed, and how its work ends. -/
def jobOk (k t win h : Nat) : Nat × Nat × Nat × List Nat :=
  let s := sJob k t win h
  let j : PfxJob := ⟨0, h, 1, opP k t win⟩
  if s.quay.pfx.find? (fun j => j.die == 0) = some j ∧ s.pfxWaits k j.op.pfx (8 * 2 ^ (h % 4)) = false
      ∧ s.nodesFetched k j.op.pfx h = false
  then pfxOut (({ s with quay := { s.quay with pfx := s.quay.pfx.erase j } } : State).pfxRun k j.op.pfx h) else (99, 0, 0, [])
theorem wit_PrefixRequests : (∀ k < 4, ∀ p ∈ [(0x50000, none), (0x10140, some hdrP), (0x10180, some 0)],
      let s := sP k p.1 0x20000
      let o := opP k p.1 0x20000
      s.quay.pfx.find? (fun j => j.die == 0) = none ∧ s.pfxHead 0 = some o ∧ o.kind = .pfx k ∧ s.op o.id = some o ∧ o.els.length = 1
      ∧ (s.gang o.gang).phase = .running ∧ (s.gang o.gang).crew = o.crew ∧ s.pfxAccepts k o.pfx = p.2
      ∧ p.2.all (fun h => !s.markFetched o.pfx h) = true ∧ o.pfx.t = p.1)
    ∧ ((treeOf 1 0x10180 0).isNone = true ∧ 0x10180 % 64 = 0 ∧ homeOf (0x10180 + 16) = some (.die 0)
      ∧ (sP 0 0x10180 0x20000).look 1 0 (0x10180 + 16) true = .ok 0x20190 kNormal)
    ∧ (jobOk 0 0x10140 0x20000 hdrP = (0, 1, 1, [5]) ∧ jobOk 1 0x10140 0x30000 hdrP = (0, 1, 1, [5])
      ∧ jobOk 2 0x10140 0x20000 hdrP = (0, 0, 1, []) ∧ jobOk 2 0x10140 0x30000 hdrP = (0, 1, 0, [])
      ∧ jobOk 3 0x10140 0x20000 hdrP = (0, 1, 1, []))
    ∧ (jobOk 0 0x10180 0x20000 0 = (4, 0, 0, []) ∧ jobOk 1 0x10140 0x10000 hdrP = (3, 0, 0, [])
      ∧ jobOk 2 0x10140 0x50000 hdrP = (3, 0, 0, []) ∧ jobOk 3 0x10180 0x20000 0 = (4, 0, 0, []))
    ∧ (homeOf 0x101FC = some (.die 0) ∧ 0x101FC % 512 + 4 ≤ 512 ∧ sM.look 1 0 0x101FC true = .ok 0x201FC kNormal) := by
  refine ⟨?_, by decide +kernel, by decide +kernel, by decide +kernel, by decide +kernel⟩
  intro k hk p hp
  simp only [List.mem_cons, List.not_mem_nil, or_false] at hp
  obtain rfl | rfl | rfl := hp <;> revert hk <;> revert k <;> decide +kernel
/-- The tree of the requests above, its root, and leaves of each kind in their windows. -/
theorem wit_PrefixTables : treeOf 1 0x10140 hdrP = some treeP ∧ ((sT1 sM).node treeP 0).isSome = true
    ∧ ((sT1 sM).liveNodes treeP).map (fun l => ((oldestLeaf l).map (·.1), l.length)) = some (some 1, 1)
    ∧ ((sT1 sM).winLeaf 1 0x20000 = some (mkLeaf kSparse true true 0, 0xA010)
      ∧ (sT1 sM).winLeaf 1 0x30000 = some (mkLeaf kPooled true true 3, 0xA018)
      ∧ (sT1 sM).winLeaf 1 0x40000 = some (mkLeaf kCow true true 4, 0xA020)
      ∧ (sT1 sM).winLeaf 1 0x10000 = some (mkLeaf kNormal true true 2, 0xA008) ∧ (sT1 sM).winLeaf 1 0x50000 = none)
    ∧ 0x20000 % 65536 = 0 ∧ 0x20000 / 2 ^ 50 = 0x10140 / 2 ^ 50 := by
  refine ⟨rfl, by decide +kernel, by decide +kernel, by decide +kernel, by decide⟩

/-- A host queue pair that is on, with one submission of `d` in host memory at 0x1000. -/
def pair1 : QPair := { QPair.init with qbase := BitVec.ofNat 64 (16 * 2 ^ 50 + 0x1000), cbase := BitVec.ofNat 64 (16 * 2 ^ 50 + 0x4000),
                                       qcfg := 0x80600001, sqemit := 1, pend := [⟨1, 0, 65537, 0⟩] }
def sHost (d : BitVec 512) : State :=
  ({ sX sM with host := { (sX sM).host with pairs := [(127, pair1)] } } : State).writeHost 0x1000 (natLE 64 d.toNat)
theorem wit_HostQueues : (sHost 0).served = true ∧ (State.reset.pairAt 0).on = false
    ∧ (0x80600001 : Word).getLsbD 31 = true ∧ (0x80600001 : Word).toNat / 2 ^ 20 % 32 = 6 ∧ (0x81000001 : Word).toNat / 2 ^ 20 % 32 = 16
    ∧ (sHost 0).fnMay 0 1 = true ∧ pair1.on = true ∧ (0 : Word).getLsbD 31 = false := by decide +kernel
theorem wit_SubmissionConsume : ((sHost 0).pairAt 127 = pair1 ∧ (sHost desc1).pairAt 127 = pair1)
    ∧ (pair1.on = true ∧ pair1.sqtaken.toNat + 1 ≤ pair1.sqemit.toNat)
    ∧ (((sHost 0).slipQ ((sHost 0).slipOf 1 7)).length < 64 ∧ ((sHost desc1).slipQ ((sHost desc1).slipOf 1 7)).length < 64)
    ∧ ((pair1.qbase.toNat + 64 * (0 % pair1.entries)) % 2 ^ 50 = 0x1000
      ∧ BitVec.ofNat 512 (leNat ((sHost 0).readHost 0x1000 64)) = 0
      ∧ BitVec.ofNat 512 (leNat ((sHost desc1).readHost 0x1000 64)) = desc1)
    ∧ (sHost 0).launchStatus 1 0 ≠ 0 ∧ (sHost desc1).launchStatus 1 desc1 = 0 := by
  refine ⟨by decide +kernel, by decide +kernel, by decide +kernel, by decide +kernel, by decide +kernel, by decide +kernel⟩
theorem wit_CompletionEntryWrite : pair1.pend.find? (fun e => !(sHost 0).entryHeld e) = some ⟨1, 0, 65537, 0⟩
    ∧ pair1.on = true ∧ pair1.cqemit.toNat + 1 - pair1.cqseen.toNat ≤ pair1.entries
    ∧ (∃ e : CEntry, e = ⟨3, 1, 65537, 1⟩ ∧ (sLaunch launchQ (sHost 0)).entryHeld e = false
      ∧ (sLaunch launchQ (sHost 0)).launch e.launch = some launchQ ∧ (sHost 0).entryHeld e = false ∧ (sHost 0).launch e.launch = none)
    ∧ causeRoom (sHost 0) := by
  refine ⟨by decide +kernel, by decide +kernel, by decide +kernel, ⟨_, rfl, by decide +kernel⟩, by unfold causeRoom; decide +kernel⟩

def rec0 : RecReq := ⟨0, 1, 0, 0, []⟩
def sRec : State := { State.reset with host := { State.reset.host with recs := [rec0], bar := [(0x1108, 2 ^ 31)] } }
/-- A record of a launch that is eligible: its argument page lies at no page of its context. -/
def rec1 : RecReq := ⟨0, 1, 65537, 0, []⟩
def sRec1 : State := sLaunch launch1 { sX sM with host := { sM.host with recs := [rec1], bar := [(0x1108, 2 ^ 31)] } }
theorem natLE_len (n v : Nat) : (natLE n v).length = n := by
  induction n generalizing v with
  | zero => rfl
  | succ n ih => simp [natLE, ih]
theorem wit_RecordAppend : (sRec.host.recs = rec0 :: [] ∧ sRec.records = true ∧ rec0.launch = 0)
    ∧ (sRec1.host.recs = rec1 :: [] ∧ sRec1.records = true ∧ rec1.launch ≠ 0 ∧ sRec1.recordReady rec1 = true
      ∧ sRec1.regionCopies (rec1.launch / 65536) 0 ((descF rec1.desc 127 64, 4096) :: rec1.regions) = some [[]])
    ∧ ∀ rs ∈ [[], [[]]], ∀ (s : State) (r : RecReq), s.host.recpos = 0 → s.barReg 0 0x1108 = 2 ^ 31 →
      s.host.recpos + (natLE 64 (Config.recordHeader (r.pair / 8) (r.pair % 8) r.sseq (r.launch % 65536) (rs.map List.length)).toNat
        ++ natLE 64 r.desc.toNat ++ rs.flatten).length ≤ 2 ^ 20 * 2 ^ ((s.barReg 0 0x1108).toNat / 2 ^ 20 % 32) := by
  refine ⟨by decide +kernel, by decide +kernel, fun rs h s r h1 h2 => ?_⟩
  have : rs.flatten = [] := by
    simp only [List.mem_cons, List.not_mem_nil, or_false] at h; obtain rfl | rfl := h <;> rfl
  simp [this, natLE_len, h1, h2]
/-- A crew holds core 0, and a store is on its way to peer 0. -/
def sRoute : State := sO (stM (64 * 2 ^ 50))
theorem wit_HostRegisters : (State.reset.powered = true ∧ (∀ p < 12, State.reset.port p ≠ .training) ∧ causeRoom State.reset)
    ∧ (let s : State := { State.reset with harb := { State.reset.harb with splitP := [(coreKey 191, some 4)] } }
      Map.get none s.harb.splitP (coreKey 191) = some 4 ∧ s.crewsOn (coreKey 191) = [])
    ∧ (sRec.host.recpos = 0 ∧ sRec.barReg 0 0x1108 = 2 ^ 31 ∧ sRec1.host.recpos = 0 ∧ sRec1.barReg 0 0x1108 = 2 ^ 31)
    ∧ State.reset.served = true ∧ plainMask 15 0x300 = some 0xFFFFFFFF00003FFF ∧ plainMask 0 0x10 = some 0xFFFFFFFFFFFFFFFF
    ∧ recordBad 1 (ctx1.toNat + 2 ^ 144) = false ∧ (0x00000004 : Word).toNat % 8 ≤ 4 ∧ State.reset.crewsOn (coreKey 191) = []
    ∧ (coreKey 0 = 0 ∧ sM.crewsOn 0 ≠ [])
    ∧ (∀ i < 64, (State.reset.gang (coreKey 191 * 64 + i)).phase = .absent) ∧ State.reset.goingTo 63 = []
    ∧ sRoute.goingTo 0 ≠ [] ∧ sRoute.served = true
    ∧ 1350 < State.reset.clockOf 3 ∧ 700 < State.reset.clockOf 3 ∧ (State.reset.clockOf 3 - 700) % 50 = 0 := by
  unfold causeRoom; decide +kernel

/-- `sM` with the arguments of the management mailbox. -/
def sMg (a b c : Nat) : State := { sM with host := { sM.host with bar := [(0x3008, BitVec.ofNat 64 a), (0x3010, BitVec.ofNat 64 b),
  (0x3018, BitVec.ofNat 64 c)] } }
theorem wit_ManagementCommands : (sMg 1 0x8000 0).served = true
    ∧ ((sMg 1 0x8000 0).mgarg 1 % 16384 = 0 ∧ paOk ((sMg 1 0x8000 0).mgarg 1) = true)
    ∧ ((sMg 0x20118 7 0).mgarg 0 % 8 = 0 ∧ paOk ((sMg 0x20118 7 0).mgarg 0) = true ∧ (sMg 0x20118 7 0).physFetching 0x20118 8 = false)
    ∧ (let s := sMg (16 * 2 ^ 50) 0x20000 (2 ^ 20)
      homeOf (s.mgarg 0) = some .host ∧ s.mgarg 2 % 64 = 0 ∧ s.mgarg 2 ≤ 2 ^ 20 ∧ paOk (s.mgarg 1 + s.mgarg 2 - 1) = true ∧ s.physFetching (s.mgarg 1) (s.mgarg 2) = false)
    ∧ (let s := sMg (3 * 2 ^ 16 + 1) (3 * 2 ^ 50 + 0x10000) 0
      s.mgarg 0 / 2 ^ 16 % 4 = 3 ∧ homeOf (s.mgarg 1) = some (.die 3) ∧ s.midAtomicIn (fun _ => true) = false)
    ∧ (let s := sMg 1 5 0
      s.mgarg 0 / 2 ^ 16 % 4 = 0 ∧ frameOk (s.mgarg 1) = true ∧ s.mgarg 1 / 2 ^ 22 = 0 ∧ (s.frame 5).state = 2 ∧ (s.frame 5).count = 0)
    ∧ (let s := sMg 1 0 0
      (s.pool (s.mgarg 0 % 2 ^ 14) 0).free = 6 :: [])
    ∧ let s := sMg 5 1 0
      frameOk (s.mgarg 0) = true ∧ (s.frame 5).state = 2 ∧ 0 < (s.frame 5).count + (BitVec.ofNat 64 (s.mgarg 1)).toInt
      ∧ (s.frame 5).count + (BitVec.ofNat 64 (s.mgarg 1)).toInt ≤ 0xFFFFFF := by decide +kernel

/-- An aperture of function 15 on an address of ASID `asid`; a firmware image of a page, and a check under way; a bring-up at a
step. -/
def sAp (va : Nat) (asid : Nat) : State := { sX sM with host := { sM.host with
  bar := [(15 * 2 ^ 23 + 0x300, BitVec.ofNat 64 (va / 2 ^ 32 * 2 ^ 32 + asid))] } }
def sFw (st : Nat) (rec_ : Bool) : State := { sM with host := { sM.host with
  bar := [(0x10, BitVec.ofNat 64 (16 * 2 ^ 50 + 0x3000)), (0x18, 0x1000)], fwstat := st, recovery := rec_ } }
def sUp (step : Nat) : State := { State.reset with agenda := [.cycle 0], host := { State.reset.host with ready := false, step := step } }
theorem wit_ApertureFirmwarePower : (let s := sAp (16 * 2 ^ 50) 1
      s.served = true ∧ s.apAsid 15 = 1 ∧ s.fnMay 15 1 = true ∧ homeOf (s.apVa 15 0xFFFF) = some .host
      ∧ s.apVa 15 0xFFFF % 65536 + 1 ≤ 65536 ∧ s.refused 1 (s.apVa 15 0xFFFF) 1 = false)
    ∧ (let s : State := { sAp 0 1 with harb := { sM.harb with ctx := [(1, ctx1 ||| (1#512 <<< 86))] } }
      s.served = true ∧ s.fnMay 15 (s.apAsid 15) = false)
    ∧ (∀ p ∈ [(0x101FC, Tr.ok 0x201FC kNormal, Tr.ok 0x201FC kNormal), (0x40000, .ok 0x40000 kCow, .ok 0x40000 kCow),
        (0x50000, .absent 0x50000 65536, .absent 0x50000 65536)], let s := sAp 0 1
      s.apVa 15 p.1 = p.1 ∧ homeOf p.1 = some (.die 0) ∧ p.1 % 512 + 4 ≤ 512 ∧ s.parkedOver (busyKey 1 0 p.1) p.1 4 s.arrival = false
      ∧ s.look 1 0 p.1 false = p.2.1 ∧ s.look 1 0 p.1 true = p.2.2 ∧ s.fetching 1 p.1 4 = false ∧ s.busyPage (busyKey 1 0 p.1) = none)
    ∧ ((sFw 0 false).served = true ∧ (sFw 0 false).host.fwstat ≠ 1 ∧ (sFw 0 false).host.fwstat ≠ 2)
    ∧ (let s := sFw 1 false
      s.host.fwstat = 1 ∧ homeOf (s.barReg 0 0x10).toNat = some .host ∧ (s.barReg 0 0x18).toNat % 4096 = 0
      ∧ (s.barReg 0 0x18).toNat ≤ 2 ^ 26)
    ∧ (∀ b ∈ [true, false], (sFw 2 b).host.fwstat = 2 ∧ (sFw 2 b).host.recovery = b ∧ (sFw 2 b).powered = true)
    ∧ sM.powered = true ∧ ({ sM with powered := false } : State).powered = false
    ∧ ∀ st ∈ [1, 2, 3, 4, 5], (sUp st).agenda = .cycle 0 :: [] ∧ (sUp st).dieIssues 0 = false ∧ (sUp st).powered = true ∧ (sUp st).host.ready = false
      ∧ (sUp st).host.recovery = false ∧ (sUp st).host.step = st ∧ st ≠ (sUp st).host.fails := by
  and_intros <;> decide +kernel
theorem wit_AttestationAnswers : State.reset.powered = true := rfl

/-- A turn of each kind: a short word, a word of two, a lane word and an event. -/
def sStep (n w : Nat) : State := State.reset.withFetchWord n w
/-- The placed gang at another program counter, with a trap handler. -/
def sStepT (n w pc : Nat) : State :=
  let s := sStep n w
  (s.setGang 0 { s.gang 0 with pc := BitVec.ofNat 32 pc }).setCrew 1
    { s.crew 1 with desc := (s.crew 1).desc &&& ~~~(0xFFFFFFFF#512 <<< 224) ||| (0x40#512 <<< 224) }
/-- What a scalar turn asks: the gang ready and named by its port, no clause, a handler, and the words that it fetches. -/
def fetchOk (s : State) (pc : Nat) : Bool :=
  let u := s.begin (.scalar 0)
  decide (s.turn = .scalar 0) && u.scalarReady 0 && decide (u.portPick false 0 = some 0) && (u.gang 0).clauses.isEmpty
    && decide ((u.crew (u.gang 0).crew).handler = some 0x40) && !(u.gang 0).trap.handler && (u.gang 0).pc.toNat == pc
    && (u.crew 1).scalarSize == 256
theorem wit_StepScalar : (sStep 32 0x08204001).turn = .scalar 0
    ∧ (let u := (sStep 32 0x08204001).begin (.scalar 0)
      u.scalarReady 0 = true ∧ 0 + 4 ≤ (u.crew 1).scalarSize ∧ u.readV 1 0x10000 4 = some (natLE 4 0x08204001)
      ∧ isLong (leNat (natLE 4 0x08204001)) = false ∧ decodeBytes (natLE 4 0x08204001) = .ok (.saddi 4 4 1, [])
      ∧ u.goes (.saddi 4 4 1) = true ∧ u.portPick false (slotQuad 0) = some 0)
    ∧ (let u := ({ sStep 32 0x08204001 with issued := [portKey false 0] } : State).begin (.scalar 0)
      u.goes (.saddi 4 4 1) = true ∧ u.portPick false (slotQuad 0) ≠ some 0)
    ∧ (sStep 64 0xFDE00000).turn = .scalar 0
    ∧ (let u := (sStep 64 0xFDE00000).begin (.scalar 0)
      u.scalarReady 0 = true ∧ 0 + 8 ≤ (u.crew 1).scalarSize ∧ u.readV 1 0x10000 4 = some (natLE 4 0xFDE00000)
      ∧ isLong (leNat (natLE 4 0xFDE00000)) = true ∧ u.readV 1 0x10004 4 = some (natLE 4 0)
      ∧ decodeBytes (natLE 4 0xFDE00000 ++ natLE 4 0) = .ok (.sexit, [])) := by decide +kernel
theorem wit_StepTraps : fetchOk (sStepT 32 0 256) 256 = true ∧ 256 < 256 + 4
    ∧ (fetchOk (sStepT 32 0xFFFFFFFF 0) 0 = true ∧ isLong (leNat (natLE 4 0x3C000001)) = false
      ∧ (match decodeBytes (natLE 4 0x3C000001) with | .ok _ => false | .error _ => true) = true
      ∧ (match decodeBytes (natLE 4 0xFE000000 ++ natLE 4 0) with | .ok _ => false | .error _ => true) = true)
    ∧ (let s := (sStepT 32 0 252).writePhys (5 * 65536 + 252) (natLE 4 0xFDE00000)
      fetchOk s 252 = true ∧ (s.begin (.scalar 0)).readV 1 (0x10000 + 252) 4 = some (natLE 4 0xFDE00000) ∧ 252 + 4 ≤ 256 ∧ 256 < 252 + 8) := by
  decide +kernel
theorem wit_StepLane : (sStep 96 (0x92 * 2 ^ 88)).turn = .lane 0
    ∧ (let u := (sStep 96 (0x92 * 2 ^ 88)).begin (.lane 0)
      u.laneReady 0 = true ∧ (u.gang 0).clauses.head?.map (fun c => (c.next, c.body)) = some (0, [.vnop z])
      ∧ u.goes (.vnop z) = true ∧ u.portPick true (slotQuad 0) = some 0)
    ∧ ({ State.reset with agenda := [.act (.resume 3)] } : State).turn = .act (.resume 3)
    ∧ State.reset.turn = .cycle 0 ∧ State.reset.powered = true := by decide +kernel
/-- The end of a cycle of a die that has a gang to issue, of one that has none, and of one that the device has not. -/
theorem wit_StepCycles : ∀ p ∈ [(0, true), (3, false), (4, false)],
    let s : State := { sStep 32 0x08204001 with agenda := [.cycle p.1] }
    s.turn = .cycle p.1 ∧ (s.begin (.cycle p.1)).dieIssues p.1 = p.2 ∧ s.tails = [] := by decide +kernel
/-- A gang whose scalar instruction waits: its source is written by an unretired clause. -/
theorem wit_StepWaits : (let s := sStep 32 0x08204001
      let u := (s.setGang 0 { s.gang 0 with sWait := true, clauses := [clause1] }).begin (.scalar 0)
      u.scalarReady 0 = true ∧ u.goes (.saddi 4 4 1) = false) := by decide +kernel
/-- Two gangs that have waited their 15 cycles, and two that have not, the second of a higher class. -/
theorem wit_Pick : pick [⟨0, 15, 0, 9⟩, ⟨1, 15, 1, 3⟩] = some 1 ∧ pick [⟨0, 3, 0, 1⟩, ⟨1, 2, 1, 5⟩] = some 1
    ∧ (∃ n < 16, n + 1 ≤ ([⟨0, 15, 0, 9⟩, ⟨1, 15, 1, 3⟩] : List Cand).countP (fun x => decide (15 - x.wait ≤ n))) := by decide +kernel
theorem wit_DecodeEncode : (Instr.saddi 4 4 1).wf = true ∧ encodeScalar (.saddi 4 4 1) ≠ []
    ∧ (Instr.vnop z).wf = true ∧ (Instr.vnop z).laneParts = some (0x92, z)
    ∧ decodeBytes (natLE 4 0x08204001 ++ [1]) = .ok (.saddi 4 4 1, [1])
    ∧ decodeLaneBytes (natLE 12 (0x92 * 2 ^ 88)) = .ok (.vnop z, []) := by decide +kernel
theorem wit_LaneStreamKeepsMemory : ∃ t, exec (.vnop z) (sStep 96 (0x92 * 2 ^ 88)) = .next t := ⟨_, rfl⟩
theorem wit_CanonicalKept : State.reset.Canonical ∧ ∃ t, step State.reset = .next t := ⟨⟨rfl, rfl, rfl⟩, ⟨_, rfl⟩⟩

/-! ### Words and constants that the manual writes out (02 Tables 2-14 and 2-19, 05, 14, 15, 20: the worked examples) -/

/-- The instruction that a word of the scalar stream, or a word of two, stands for. -/
def reads (ws : List Nat) : Option Instr := match decodeBytes (ws.flatMap (natLE 4)) with | .ok (i, []) => some i | _ => none
theorem test_manual_words : reads [0xFD304000, 0] = some (.srd 2 0) ∧ reads [0x20180003] = some (.sli 3 3)
    ∧ reads [0x2C080006] = some (.scall 1 6) ∧ reads [0x08204001] = some (.saddi 4 4 1)
    ∧ reads [0x00004072] = some (.scmp 4 3) ∧ reads [0x286FFFFD] = some (.sbr 3 false 0xFFFFD)
    ∧ reads [0xFDE00000, 0] = some .sexit ∧ reads [0x00285040] = some (.sadd 5 5 2) ∧ reads [0x30001000] = some (.sjr 0 1 0)
    ∧ reads [0x3C000000] = some .lsync ∧ reads [0x4000000A] = some (.swaitf 0xA)
    ∧ reads [0xFD128200, 0x01000001] = some (.jcount .graph .dev 10 8) ∧ reads [0xFD228200, 0] = some (.jcancel .launch 20 8)
    ∧ reads [0xFC928200, 0x800] = some (.pcommit true 20 4) ∧ reads [0xFCB28200, 0] = some (.pquery false 10 4) := by decide +kernel
/-- `vcmp.s32.lt p2, v4, 0` and `vld.f32 v4, [s6 + v2 + 64], flag A`. -/
def laneReads (w : Nat) : Option Instr := match decodeLane w with | .ok i => some i | _ => none

theorem test_manual_lane_words :
    laneReads 0x180000100000818200000000 = some (.vcmp { z with va := 4, pd := 2, typ := 1, bsrc := 2, opx := 2 })
    ∧ laneReads 0x700010081800034100004000 = some (.vld { z with vd := 4, va := 2, vb := 6, typ := 3, bsrc := 1, opx := 1, ext := 0x4000 }) := by
  decide +kernel

/-! ### Single steps: results from the manual's rules and examples -/

/-- The gang after a step, or the empty slot. -/
def after (r : Res) : Gang := match r with | .next t => t.gang 0 | _ => Gang.empty
/-- R24, R101: 0 + 1, and the program counter moves past the word. -/
theorem test_step_saddi : (after (step (sStep 32 0x08204001))).rs 4 = 1 ∧ (after (step (sStep 32 0x08204001))).pc = 4 := by decide +kernel
/-- R103: `slui` of the upper 19 bits of 0x9E37_79B1, and the two words after it. -/
theorem test_step_constant : ((after (exec (.slui 2 0x4F1BB) s0)).rs 2 ||| (after (exec (.sli 3 0x19B1) s0)).rs 3) = 0x9E3779B1 := by
  decide +kernel
/-- R99: equal operands, and a compare that borrows. -/
theorem test_step_scmp : (after (exec (.scmp 8 8) s0)).cc = ⟨true, false, true, false⟩
    ∧ (after (exec (.scmp 8 9) s0)).cc = ⟨false, true, false, false⟩ := by decide +kernel
/-- 05, the example: the `scall` at 16 links 20 and goes to 40. -/
def sCall : State := sG (fun g => { g with pc := 16 })
theorem test_step_scall : (after (exec (.scall 1 6) sCall)).rs 1 = 20 ∧ (after (exec (.scall 1 6) sCall)).pc = 40 := by decide +kernel
/-- R3: writes to `s0` are discarded. -/
theorem test_step_s0 : (after (exec (.saddi 0 8 1) s0)).rs 0 = 0 := by decide +kernel
/-- R191, Table 9-1: an encoding that is reserved takes an illegal-instruction trap; without a handler the crew stops. -/
theorem test_step_illegal : (match step (sStep 32 0xFFFFFFFF) with | .next t => (t.crew 1).phase | _ => .ended) = .stopping := by
  decide +kernel
/-- R122: an add wraps in its lane. -/
def sWrap : State := (sT .s32).setMe ((((sT .s32).me.wv 20 5 0x7FFFFFFF).wv 30 5 1))
theorem test_step_vadd : (after (exec (.vadd (fB 1)) { sWrap with gangs := (sWrap.setMe { sWrap.me with clauses := [clause1] }).gangs })).rv 10 5
    = 0x80000000 := by decide +kernel
/-- 03: 5.0 to E2M1 gives 4 under RN and 6 under RNA. -/
theorem test_e2m1_tie : (cvtFF .e2m1 .f32 .rn false 0x40A00000).1 = 6 ∧ (cvtFF .e2m1 .f32 .rna false 0x40A00000).1 = 7 := by decide +kernel
/-- R64: bf16 products 2^24, 1 and -2^24, in one K-step and in three. -/
theorem test_kstep : stepFloat false .bf16 0 [0x4580, 0x3F80, 0x4580] [0x4580, 0x3F80, 0xC580] = (0x3F800000, 0)
    ∧ (let a := stepFloat false .bf16 0 [0x4580] [0x4580]
      let b := stepFloat false .bf16 a.1 [0x3F80] [0x3F80]
      (stepFloat false .bf16 b.1 [0x4580] [0xC580]).1 = 0 ∧ a.1 = 0x4B800000 ∧ b = (0x4B800000, fNX)) := by decide +kernel
/-- Table 13-8: elements (2, 1) and (0, 1) of the record, with the image at 0x10000. -/
def layImg (low : Nat) : List Byte :=
  natLE 8 0x14A ++ natLE 8 0 ++ natLE 8 0xFFFFFFFF00000005 ++ natLE 8 4 ++ natLE 8 0xFFFFFFFF00000004 ++ natLE 8 20
    ++ List.replicate 32 0 ++ natLE 8 (4 * 2 ^ 32 + low) ++ natLE 8 0x0000000C00050003 ++ List.replicate 40 0
def cmdImg (low : Nat) : CraneCmd := ⟨0, BitVec.ofNat 256 (0x300 * 2 ^ 160 + 0x400 * 2 ^ 128 + 0x10000 * 2 ^ 64 + 0x90), layImg low, [], 0, [], 9, [], false, false, 0⟩
theorem test_crane_record : (cmdImg 0x40003).elem 5 = ⟨0x10004, 0x414, true, false⟩ ∧ ((cmdImg 0x40003).elem 3).saddr = 0x40C
    ∧ ((cmdImg 0x40003).elem 3).inside = false ∧ recZfill (layImg 0x40003) = true := by decide +kernel
theorem test_crane_interval : ((cmdImg 0x80003).elem 5).maddr = 0x1000C ∧ recTotal (layImg 0x80003) = 9 := by decide +kernel
/-- R375: what reset leaves. -/
theorem test_reset : State.reset.gang 0 = Gang.empty ∧ State.reset.walk 1 0 0x10000 = .absent 0 ∧ State.reset.readPhys 0x100 2 = [0, 0]
    ∧ State.reset.berth 5 = Berth.init ∧ State.reset.served = true := by decide +kernel

end Sys2Proof.Tests
end

section
open Sys2Proof Sys2Proof.Machine Sys2Proof.Claims Sys2Proof.Laws

/-! ### What other gangs notice of a trap, and what memory does not -/

namespace Sys2Proof.Proofs

/-- A turn that writes no memory and no scratchpad leaves every byte as it is. -/
theorem sameBytes_of_fields {s t : State} (hq : t.quay.mem = s.quay.mem) (hh : t.hostMem = s.hostMem)
    (hp : t.peerMem = s.peerMem) (hc : ∀ c, (t.crew c).scratch = (s.crew c).scratch) : s.SameBytes t := by
  intro a
  simp [State.readPhys, State.readHost, State.readPeer, Crew.readScr, hq, hh, hp, hc]

/-- Two states of a gang that differ in its reports and its completion flags only. -/
def NotesOnly (g h : Gang) : Prop := h = { g with reports := h.reports, flags := h.flags }

theorem NotesOnly.refl (g : Gang) : NotesOnly g g := rfl

theorem NotesOnly.trans {f g h : Gang} (hfg : NotesOnly f g) (hgh : NotesOnly g h) : NotesOnly f h := by
  unfold NotesOnly at *
  rw [hgh, hfg]

variable (s : State)

theorem report_notesOnly (k j : Nat) (t : TrapInfo) : NotesOnly (s.gang j) ((s.report k t).gang j) := by
  simp only [State.report]
  split
  · rw [setGang_gang]
    split
    · next h => subst h; rfl
    · rfl
  · rfl

theorem flagOp_notesOnly (g : Gang) (i : Option Nat) (up : Bool) : NotesOnly g (g.flagOp i up) := by
  cases i <;> rfl

theorem mismatch_notesOnly (h : HOp) (j : Nat) (ps : List HPart) : ∀ s : State, NotesOnly (s.gang j) ((s.mismatch h ps).gang j) := by
  induction ps with
  | nil => exact fun s => rfl
  | cons p ps ih =>
    intro s
    simp only [State.mismatch]
    refine .trans (.trans (report_notesOnly s p.gang j ⟨0x0D, true, true, p.pc, p.info, p.act, 0, 1, p.seq, 0⟩) ?_) (ih _)
    rw [setGang_gang]
    split
    · next hj => subst hj; exact flagOp_notesOnly _ _ _
    · rfl

theorem mismatches_notesOnly (j : Nat) (hs : List HOp) : ∀ s : State,
    NotesOnly (s.gang j) ((hs.foldl (fun s h => s.mismatch h h.parts) s).gang j) := by
  induction hs with
  | nil => exact fun s => rfl
  | cons h hs ih => exact fun s => .trans (mismatch_notesOnly h j h.parts s) (ih _)

/-- R223: of a gang that breaks joint instructions another one notices reports and flags only. -/
theorem jointBreak_notesOnly (k j : Nat) : NotesOnly (s.gang j) ((s.jointBreak k).gang j) :=
  mismatches_notesOnly j _ { s with hops := s.hops.filter (fun h => !(s.unmatched k).contains h) }

section Handler
variable {k h : Nat} (t : TrapInfo) (hh : (s.crew (s.gang k).crew).handler = some h) (hm : (s.gang k).trap.handler = false)
include hh hm

theorem takeTrap_notesOnly {j : Nat} (hj : j ≠ k) : NotesOnly (s.gang j) ((s.takeTrap k t).gang j) := by
  simp only [State.takeTrap, hh, hm]
  rw [apply_ite (fun u : State => u.gang j), loseBegun_gang, ite_self]
  refine .trans ?_ (jointBreak_notesOnly _ k j)
  rw [setGang_gang, if_neg hj]
  rfl

theorem takeTrap_sameBytes : s.SameBytes (s.takeTrap k t) := by
  rw [takeTrap_only s t hh hm]
  exact sameBytes_of_fields rfl rfl rfl (fun _ => rfl)

end Handler

/-! ### The precise traps of the scalar stream (R192, R193) -/

/-- Table 9-2: what the trap state records of a precise scalar trap. -/
theorem record_scalarTrap (old : TrapState) {cause : Nat} (pc info : Word) {addr : Dword} (source : Nat)
    (ha : cause = 5 ∨ cause = 6 ∨ addr = 0) :
    old.record ⟨cause, false, false, pc, info, 0, addr, source, 0, 0⟩ = scalarTrapState old cause pc info addr := by
  have hr : (if hasAddr ⟨cause, false, false, pc, info, 0, addr, source, 0, 0⟩ then addr else 0) = addr := by
    rcases ha with rfl | rfl | rfl
    · rfl
    · rfl
    · exact ite_self _
  simp only [TrapState.record, scalarTrapState, hr]
  rfl

variable {s}

/-- An instruction that takes a precise trap as it issues, does so as R192 says. -/
theorem takesScalarTrap_of_exec {i : Instr} {cause source : Nat} {info : Word} {addr : Dword}
    (he : exec i s = .next (s.scalarTrap cause info addr source)) (ha : cause = 5 ∨ cause = 6 ∨ addr = 0) :
    TakesScalarTrap i s cause info addr := by
  intro h hh hm hc
  have ht : s.scalarTrap cause info addr source = s.takeTrap s.cur ⟨cause, false, false, s.me.pc, info, 0, addr, source, 0, 0⟩ := by
    simp only [State.scalarTrap, hc, if_true]
  have hme : ∀ t, (s.takeTrap s.cur t).me = (s.takeTrap s.cur t).gang s.cur := fun t => by
    rw [State.me, takeTrap_only s t hh hm]
  refine ⟨_, he, ?_⟩
  rw [ht, hme, takeTrap_gang s _ hh hm, record_scalarTrap _ _ _ source ha]
  exact ⟨takeTrap_sameBytes s _ hh hm, rfl, fun k hk => takeTrap_notesOnly s _ hh hm hk⟩

/-- A memory instruction of the scalar stream whose first failing check names a cause. -/
theorem scalarMem_traps {rd wr : List Nat} {len : Word} {chk : Gang → List (Option Nat × Dword)} {mk : Gang → Op}
    {cause : Nat} {a : Dword} (hb : s.me.sBlocked rd wr = false)
    (hf : (chk s.me).find? (fun c => c.1.isSome) = some (some cause, a)) :
    ∃ source, scalarMem s rd wr len chk mk = .next (s.scalarTrap cause 0 a source) :=
  ⟨(mk s.me).trapSource, by simp only [scalarMem, scalarGo_free s hb, hf]⟩

/-- The same where its first check fails. -/
theorem scalarMem_traps_first {rd wr : List Nat} {len : Word} {c : Gang → Option Nat} {a : Gang → Dword}
    {l : Gang → List (Option Nat × Dword)} {mk : Gang → Op} {cause : Nat} (hb : s.me.sBlocked rd wr = false)
    (hc : c s.me = some cause) :
    ∃ source, scalarMem s rd wr len (fun g => (c g, a g) :: l g) mk = .next (s.scalarTrap cause 0 (a s.me) source) :=
  scalarMem_traps hb (by simp [hc])

/-! ### The places that an address names (Table 1-4, R14) -/

/-- R13: the homes of Table 1-4 and the places of R14, as the statements spell them. -/
theorem addrCause_aligned {n : Nat} {a : Dword} (hn : a.toNat % n = 0) :
    addrCause n a = if badPlace a then some 6 else none := by
  unfold addrCause badPlace homeOf windowBad bits
  simp only [hn, ne_eq, not_true_eq_false, if_false]
  generalize hh : a.toNat / 2 ^ 50 = h
  by_cases h1 : h ≤ 3
  · simp [h1, show h ≠ 24 by omega]
  by_cases h2 : h = 16
  · simp [h2]
  by_cases h3 : h = 24
  · by_cases hb : a.toNat.testBit 35 <;> simp [h3, hb]
  by_cases h4 : 64 ≤ h ∧ h ≤ 127
  · simp [h1, h2, h3, h4]
  · simp [h1, h2, h3, h4]

/-- A scratchpad offset is its register, extended with zeros. -/
theorem setWidth_toNat (w : Word) : (w.setWidth 64).toNat = w.toNat :=
  BitVec.toNat_setWidth_of_le (by norm_num)

/-- R158: the cause of an access that fails its checks. -/
theorem addrCause_of_fails {n cause : Nat} {a : Dword} (h : failsWith n false a cause) : addrCause n a = some cause := by
  unfold failsWith at h
  split at h
  · next hn => simp [addrCause, hn, h]
  · next hn =>
    obtain ⟨rfl, hp⟩ := h
    rw [addrCause_aligned (not_not.1 hn)]
    simpa using hp

theorem addrCause_eq_none {n : Nat} {a : Dword} (hn : a.toNat % n = 0) (hp : badPlace a = false) : addrCause n a = none := by
  simp [addrCause_aligned hn, hp]

theorem homeOf_window {va : Nat} : homeOf va = some .window ↔ va / 2 ^ 50 = 24 := by
  unfold homeOf
  constructor
  · grind
  · intro h; rw [if_neg (by omega), if_neg (by omega), if_pos h]

/-- R170: an atomic reaches no register window. -/
theorem atomCause_of_fails {n cause : Nat} {a : Dword} (h : failsWith n true a cause) : atomCause n a = some cause := by
  unfold atomCause
  by_cases hf : failsWith n false a cause
  · rw [addrCause_of_fails hf]
  · unfold failsWith at h hf
    split at h
    · next hn => simp [hn, h] at hf
    · next hn =>
      obtain ⟨rfl, hp⟩ := h
      simp only [hn, if_false, true_and, Bool.false_eq_true, false_and, or_false, Bool.not_eq_true] at hf
      rw [addrCause_eq_none (not_not.1 hn) hf]
      simpa [homeOf_window, hf] using hp

theorem homeOf_die {va : Nat} : (∃ d, homeOf va = some (.die d)) ↔ va < 2 ^ 52 := by
  unfold homeOf
  constructor
  · rintro ⟨d, hd⟩; grind
  · intro h; exact ⟨va / 2 ^ 50, by rw [if_pos (by omega)]⟩

/-- R303, R327, R344: an operand that must lie at homes 0 to 3. -/
theorem dieCause_eq (a : Dword) :
    (match homeOf a.toNat with | some (.die _) => none | _ => some 6) = if !atDie a then some 6 else none := by
  by_cases h : a.toNat < 2 ^ 52
  · obtain ⟨d, hd⟩ := homeOf_die.2 h
    simp only [hd, atDie, h, decide_true, Bool.not_true, Bool.false_eq_true, if_false]
  · have hd : ∀ d, homeOf a.toNat ≠ some (.die d) := fun d hd => h (homeOf_die.1 ⟨d, hd⟩)
    simp only [atDie, h, decide_false, Bool.not_false, if_true]

/-- Bits of sign extension. -/
theorem sx_eq_signExtend {n v : Nat} (hn : 0 < n) (hn' : n ≤ 64) (hv : v < 2 ^ n) : sx n v = (BitVec.ofNat n v).signExtend 64 := by
  apply BitVec.eq_of_toNat_eq
  have hp : 2 ^ n = 2 * 2 ^ (n - 1) := by rw [← pow_succ']; congr 1; omega
  have hle : 2 ^ n ≤ 2 ^ 64 := Nat.pow_le_pow_right (by omega) hn'
  have hm : (BitVec.ofNat n v).msb = decide (2 ^ (n - 1) ≤ v) := by
    rw [BitVec.msb_eq_decide, BitVec.toNat_ofNat, Nat.mod_eq_of_lt hv]
  rw [BitVec.toNat_signExtend, hm, BitVec.toNat_setWidth, BitVec.toNat_ofNat, Nat.mod_eq_of_lt hv]
  unfold sx
  split
  · next h =>
    simp only [h, decide_true, if_true, BitVec.toNat_sub, BitVec.toNat_ofNat]
    generalize 2 ^ n = p at *
    omega
  · next h => simp [h]

/-- R27: the signed 12-bit immediate, as the statements spell it. -/
theorem imm12s_eq (i : Fin 4096) : imm12s i = sext32 12 i.val := by
  rw [imm12s, sext32, sx_eq_signExtend (by omega) (by omega) i.isLt]
  apply BitVec.eq_of_toNat_eq
  have hi := i.isLt
  rw [BitVec.toNat_setWidth, BitVec.toNat_signExtend, BitVec.toNat_signExtend, BitVec.toNat_setWidth, BitVec.toNat_setWidth,
    BitVec.toNat_ofNat]
  split <;> omega

/-! ### The accesses of Table 7-1 that fail their checks (R158) -/

/-- The causes of the accesses of the scalar stream that look at one address first. -/
theorem access_traps {i : Instr} {rd wr : List Nat} {n cause : Nat} {atom : Bool} {a : Dword}
    (hi : scalarAccess s i = some (rd, wr, n, atom, a)) (hb : s.me.sBlocked rd wr = false) (hf : failsWith n atom a cause) :
    ∃ source, exec i s = .next (s.scalarTrap cause 0 a source) := by
  unfold scalarAccess at hi
  split at hi
  case h_1 sd sa imm | h_2 sd sa imm =>
    cases hi
    rw [← sx_eq_signExtend (by omega) (by omega) imm.isLt] at hf ⊢
    simp only [exec_sld, exec_sldD, execSld, execSldD, sload]
    exact scalarMem_traps_first hb (addrCause_of_fails hf)
  case h_3 | h_4 | h_5 | h_6 | h_10 =>
    cases hi
    simp only [exec_sst, exec_sstD, exec_sldAcq, exec_sstRel, exec_ssendsig, execSst, execSstD, sstore, execSldAcq, execSstRel,
      execSsendsig]
    exact scalarMem_traps_first hb (addrCause_of_fails hf)
  case h_7 | h_8 =>
    cases hi
    simp only [exec_satom, exec_scas, execSatom, execScas]
    exact scalarMem_traps_first hb (atomCause_of_fails hf)
  case h_9 =>
    cases hi
    exact ⟨0, by simp only [exec_mwait, execMwait, scalarGo_free s hb, addrCause_of_fails hf]⟩
  case h_11 => cases hi

/-- R175: the counter of an `ssendsig` is looked at after its payload. -/
theorem counter_traps {sc : Scope} {mask inc : Fin 256} {col : Fin 8} {sd sa sb : Pair} {cause : Nat}
    (hb : s.me.sBlocked (pr sd ++ pr sa ++ pr sb) [] = false) (hn : (s.me.rp (ev sa)).toNat % 8 = 0)
    (hp : badPlace (s.me.rp (ev sa)) = false) (hf : failsWith 8 true (s.me.rp (ev sb)) cause) :
    ∃ source, exec (.ssendsig sc mask inc col sd sa sb) s = .next (s.scalarTrap cause 0 (s.me.rp (ev sb)) source) := by
  rw [exec_ssendsig, execSsendsig]
  exact scalarMem_traps hb (by simp [addrCause_eq_none hn hp, atomCause_of_fails hf])

/-! ### The requests to the quay, the harbour master and the engines (R286, R303, R306, R327, R344) -/

/-- R286: pages lie at homes 0 to 3 and 64 to 127. -/
theorem pageCause_eq (a : Dword) : pageCause a = if !atPage a then some 6 else none := by
  unfold pageCause atPage homeOf
  generalize a.toNat = n
  grind

/-- Checks with a condition each, as the checks of an instruction. -/
def checks (l : List (Bool × Nat × Dword)) : List (Option Nat × Dword) :=
  l.map (fun x => (if x.1 then some x.2.1 else none, x.2.2))

/-- The first of them that fails. -/
theorem find_checks {l : List (Bool × Nat × Dword)} {cause : Nat} {a : Dword} (h : l.find? (fun x => x.1) = some (true, cause, a)) :
    (checks l).find? (fun c => c.1.isSome) = some (some cause, a) := by
  have hg : ((fun c : Option Nat × Dword => c.1.isSome) ∘ fun x : Bool × Nat × Dword => (if x.1 then some x.2.1 else none, x.2.2))
      = fun x => x.1 := by
    funext x
    cases hx : x.1 <;> simp [hx]
  rw [checks, List.find?_map, hg, h]
  rfl

/-- Two checks of one address, one after the other, are one check. -/
theorem find_merge (p : Prop) [Decidable p] (k : Nat) (c : Option Nat) (a : Dword) (l : List (Option Nat × Dword)) :
    ((if p then some k else c, a) :: l).find? (fun c => c.1.isSome)
      = ((if p then some k else none, a) :: (c, a) :: l).find? (fun c => c.1.isSome) := by
  by_cases h : p <;> simp [h]

theorem find_tail {α : Type} {q : α → Bool} {l m : List α} (x : α) (h : l.find? q = m.find? q) :
    (x :: l).find? q = (x :: m).find? q := by
  rw [List.find?_cons, List.find?_cons, h]

/-- A memory instruction of the scalar stream whose checks are, one by one, those of a list. -/
theorem scalarMem_traps_checks {rd wr : List Nat} {len : Word} {chk : Gang → List (Option Nat × Dword)} {mk : Gang → Op}
    {l : List (Bool × Nat × Dword)} {cause : Nat} {a : Dword} (hb : s.me.sBlocked rd wr = false)
    (hf : l.find? (fun x => x.1) = some (true, cause, a))
    (hl : (chk s.me).find? (fun c => c.1.isSome) = (checks l).find? (fun c => c.1.isSome)) :
    ∃ source, scalarMem s rd wr len chk mk = .next (s.scalarTrap cause 0 a source) :=
  scalarMem_traps hb (hl.trans (find_checks hf))

section Requests
variable {cause : Nat} {a : Dword}

/-- R303: a sector run ends in its line, and its place is at homes 0 to 3. -/
theorem fetchCause_eq (n : Nat) (a : Dword) : fetchCause n a =
    if a.toNat % 32 ≠ 0 ∨ 512 < a.toNat % 512 + n then some 5 else if !atDie a then some 6 else none :=
  congrArg (fun c => if a.toNat % 32 ≠ 0 ∨ 512 < a.toNat % 512 + n then some 5 else c) (dieCause_eq a)

/-- R303: the checks of a `fetchk`. -/
theorem fetchk_traps {tr : Bool} {n : Fin 16} {life : Level} {sd sa : Pair} (hb : s.me.sBlocked (pr sa) (pr sd) = false)
    (hf : [(decide ((s.me.rp (ev sa)).toNat % 32 ≠ 0 ∨ 512 < (s.me.rp (ev sa)).toNat % 512 + 32 * (n.val + 1)), 5, s.me.rp (ev sa)),
      (!atDie (s.me.rp (ev sa)), 6, s.me.rp (ev sa))].find? (fun x => x.1) = some (true, cause, a)) :
    ∃ source, exec (.fetchk tr n life sd sa) s = .next (s.scalarTrap cause 0 a source) := by
  rw [exec_fetchk, execFetchk]
  refine scalarMem_traps_checks hb hf ?_
  simp only [checks, List.map_cons, List.map_nil, decide_eq_true_eq, fetchCause_eq]
  exact find_merge _ _ _ _ _

/-- R286: the checks of the frame instructions. -/
theorem pageOp_traps {kind : OpKind} {dst : Dst} {sa : Pair} {ord : Order} (hb : s.me.sBlocked (pr sa) dst.sregs = false)
    (hf : [(!atPage (s.me.rp (ev sa)), 6, s.me.rp (ev sa))].find? (fun x => x.1) = some (true, cause, a)) :
    ∃ source, pageOp s kind dst sa ord = .next (s.scalarTrap cause 0 a source) := by
  rw [pageOp]
  refine scalarMem_traps_checks hb hf ?_
  simp only [checks, List.map_cons, List.map_nil, pageCause_eq]

/-- R344: the test of a table's home. -/
theorem dieTest_eq (a : Dword) :
    (if (match homeOf a.toNat with | some (.die _) => true | _ => false) then none else some 6) = if !atDie a then some 6 else none := by
  rw [← dieCause_eq]
  split <;> simp_all

/-- R344: the checks of an `slaunch`. -/
theorem slaunch_traps {tr : Bool} {q : Fin 8} {sd : SReg} {sa : Pair} (hb : s.me.sBlocked (pr sa) [sd.val] = false)
    (hf : [(decide ((s.me.rp (ev sa)).toNat % 64 ≠ 0), 5, s.me.rp (ev sa)),
      (!atDie (s.me.rp (ev sa)), 6, s.me.rp (ev sa))].find? (fun x => x.1) = some (true, cause, a)) :
    ∃ source, exec (.slaunch tr q sd sa) s = .next (s.scalarTrap cause 0 a source) := by
  rw [exec_slaunch, execSlaunch]
  refine scalarMem_traps_checks hb hf ?_
  simp only [checks, List.map_cons, List.map_nil, decide_eq_true_eq, ← dieTest_eq]
  exact find_merge ((s.me.rp (ev sa)).toNat % 64 ≠ 0) _ _ _ _

/-- R306: the checks of an `sredeem`. -/
theorem sredeem_traps {tr : Bool} {sc : Scope} {sd off : SReg} {sa sb : Pair}
    (hb : s.me.sBlocked (pr sa ++ pr sb ++ [off.val]) (if tr then [sd.val] else []) = false)
    (hf : [(decide ((s.me.rs off.val).toNat % 32 ≠ 0), 5, (s.me.rs off.val).setWidth 64),
        (decide ((s.me.rp (ev sb)).toNat % 8 ≠ 0), 5, s.me.rp (ev sb)), (badPlace (s.me.rp (ev sb)), 6, s.me.rp (ev sb)),
        (decide (s.myCrew.scrSize < (s.me.rs off.val).toNat + tkLen (s.me.rp (ev sa)).toNat), 6, (s.me.rs off.val).setWidth 64)].find?
      (fun x => x.1) = some (true, cause, a)) :
    ∃ source, exec (.sredeem tr sc sd off sa sb) s = .next (s.scalarTrap cause 0 a source) := by
  rw [exec_sredeem, execSredeem]
  refine scalarMem_traps_checks hb hf ?_
  have ha : ∀ b : Dword, addrCause 8 b = if b.toNat % 8 ≠ 0 then some 5 else if badPlace b then some 6 else none := fun b => by
    by_cases hn : b.toNat % 8 = 0
    · rw [if_neg (not_not.2 hn), addrCause_aligned hn]
    · simp [addrCause, hn]
  simp only [checks, List.map_cons, List.map_nil, decide_eq_true_eq, setWidth_toNat, ha]
  exact find_tail _ (find_merge ((s.me.rp (ev sb)).toNat % 8 ≠ 0) _ _ _ _)

/-- R327: the checks of a request to the engine of a die. -/
theorem pfxOp_traps {kind : Nat} {sc : Scope} {sd : Pair} {blk : Fin 16} {sb : Pair}
    (hb : s.me.sBlocked ((pfxUses kind).map (8 * blk.val + ·) ++ pr sb) (pr sd) = false)
    (hf : [(decide ((s.me.rp (8 * blk.val)).toNat % 64 ≠ 0), 5, s.me.rp (8 * blk.val)),
        (decide ((s.me.rp (ev sb)).toNat % 32 ≠ 0), 5, s.me.rp (ev sb)), (!atDie (s.me.rp (8 * blk.val)), 6, s.me.rp (8 * blk.val)),
        (!atDie (s.me.rp (ev sb)), 6, s.me.rp (ev sb))].find? (fun x => x.1) = some (true, cause, a)) :
    ∃ source, pfxOp kind sc sd blk sb s = .next (s.scalarTrap cause 0 a source) := by
  rw [pfxOp]
  refine scalarMem_traps_checks hb hf ?_
  simp only [checks, List.map_cons, List.map_nil, decide_eq_true_eq, ← dieCause_eq] <;> rfl

end Requests

/-- The requests of the scalar stream take the trap of their first check that fails. -/
theorem request_traps {i : Instr} {rd wr : List Nat} {l : List (Bool × Nat × Dword)} {cause : Nat} {a : Dword}
    (hi : scalarRequest s i = some (rd, wr, l)) (hb : s.me.sBlocked rd wr = false)
    (hf : l.find? (fun x => x.1) = some (true, cause, a)) :
    ∃ source, exec i s = .next (s.scalarTrap cause 0 a source) := by
  unfold scalarRequest at hi
  split at hi
  case h_1 => cases hi; exact fetchk_traps hb hf
  case h_2 | h_3 | h_4 => cases hi; exact pageOp_traps hb hf
  case h_5 => cases hi; exact slaunch_traps hb hf
  case h_6 => cases hi; exact sredeem_traps hb hf
  case h_7 | h_8 | h_9 | h_10 => cases hi; exact pfxOp_traps hb hf
  case h_11 => cases hi


theorem failsWith_cause {n cause : Nat} {atom : Bool} {a : Dword} (h : failsWith n atom a cause) : cause = 5 ∨ cause = 6 := by
  unfold failsWith at h
  split at h
  · exact .inl h
  · exact .inr h.1

theorem request_cause {i : Instr} {rd wr : List Nat} {l : List (Bool × Nat × Dword)} {cause : Nat} {a : Dword}
    (hi : scalarRequest s i = some (rd, wr, l)) (hf : l.find? (fun x => x.1) = some (true, cause, a)) :
    cause = 5 ∨ cause = 6 := by
  have hl : ∀ x ∈ l, x.2.1 = 5 ∨ x.2.1 = 6 := by
    unfold scalarRequest at hi
    split at hi
    case h_11 => cases hi
    all_goals
      cases hi
      simp
  exact hl _ (List.mem_of_find?_eq_some hf)

/-! ### Barriers (R172, R173), jumps and clause offsets (R106, R108) -/

section Barriers
variable {rd wr : List Nat}

/-- A gang whose clauses have retired and whose older accesses are done arrives with no wait. -/
theorem arrival_go (h : Arrives s rd wr) (go : State → Res) :
    (if s.me.clauses ≠ [] then .next s
      else if !s.olderDone s.cur s.nextOp .crew (BitVec.allOnes 8) then .next (s.parkOnOrder s.cur)
      else scalarGo s rd wr go) = go s := by
  obtain ⟨hc, ho, hb⟩ := h
  rw [if_neg (not_not.2 hc), ho, if_neg (by decide), scalarGo_free s hb]

/-- R172: an arrival whose count cannot be reached, or is another one than the generation's. -/
theorem bar_traps {id : Fin 16} {sa : SReg} (h : Arrives s [sa.val] [])
    (hn : sa.val ≠ 0 ∧ (s.me.rs sa.val = 0 ∨ s.myCrew.ngangs < (s.me.rs sa.val).toNat)
      ∨ (s.myCrew.bar id.val).arrived ≠ [] ∧ (s.myCrew.bar id.val).n ≠ (if sa.val = 0 then 0 else (s.me.rs sa.val).toNat)) :
    exec (.sbar id sa) s = .next (s.scalarTrap 0x10 0 0) := by
  rw [exec_sbar, execSbar, arrival_go h]
  rcases hn with ⟨h0, hn⟩ | hn
  · refine if_pos ⟨h0, ?_⟩
    rw [if_neg h0]
    exact hn.imp_left (fun hz => by rw [hz]; rfl)
  · dsimp only
    rw [if_pos hn, ite_self]

/-- R173: an arrival at an object whose expected count is zero or already reached. -/
theorem barObject_traps {arrive : Bool} {sd sa : SReg} (h : Arrives s [sa.val] [sd.val]) (ha : (s.me.rs sa.val).toNat % 8 = 0)
    (hs : (s.me.rs sa.val).toNat + 8 ≤ s.myCrew.scrSize) {word : Nat}
    (hw : word = leNat (s.myCrew.readScr (s.me.rs sa.val).toNat 8))
    (hn : word / 2 ^ 32 % 2 ^ 16 = 0 ∨ word / 2 ^ 32 % 2 ^ 16 < word % 2 ^ 32 + 1) :
    exec (.sbarw arrive sd sa) s = .next (s.scalarTrap 0x10 0 0) := by
  rw [exec_sbarw, execSbarw, arrival_go h]
  have hc : scrCause s.myCrew 8 ((s.me.rs sa.val).setWidth 64) = none := by
    rw [scrCause, setWidth_toNat, if_neg (not_not.2 ha), if_neg (by omega)]
  simp only [hc]
  refine if_pos ?_
  rw [← hw]
  simpa [bits] using hn

/-- R173: an arrival at an object that is misaligned or beyond the scratchpad. -/
theorem barPlace_traps {arrive : Bool} {sd sa : SReg} {cause : Nat} (h : Arrives s [sa.val] [sd.val])
    (hc : if (s.me.rs sa.val).toNat % 8 ≠ 0 then cause = 5 else cause = 6 ∧ s.myCrew.scrSize < (s.me.rs sa.val).toNat + 8) :
    exec (.sbarw arrive sd sa) s = .next (s.scalarTrap cause 0 ((s.me.rs sa.val).setWidth 64)) := by
  rw [exec_sbarw, execSbarw, arrival_go h]
  have hs : scrCause s.myCrew 8 ((s.me.rs sa.val).setWidth 64) = some cause := by
    rw [scrCause, setWidth_toNat]
    split at hc
    · next ha => rw [if_pos ha, hc]
    · next ha => rw [if_neg ha, if_pos hc.2, hc.1]
  simp only [hs]

end Barriers

/-- R106: a misaligned jump target. -/
theorem sjr_traps {sd sa : SReg} {i : Fin 4096} (hb : s.me.sBlocked [sa.val] [sd.val] = false)
    (ht : (s.me.rs sa.val + 4 * sext32 12 i.val).toNat % 4 ≠ 0) :
    exec (.sjr sd sa i) s = .next (s.scalarTrap 5 0 ((s.me.rs sa.val + 4 * sext32 12 i.val).setWidth 64)) := by
  rw [exec_sjr, execSjr, scalarGo_free s hb]
  simp only [imm12s_eq]
  exact if_pos ht

/-- R108: a misaligned clause offset. -/
theorem lrunr_traps {sa : SReg} (hb : s.me.sBlocked [sa.val] [] = false) (ho : (s.me.rs sa.val).toNat % 16 ≠ 0) :
    exec (.lrunr sa) s = .next (s.scalarTrap 5 0 ((s.me.rs sa.val).setWidth 64)) := by
  rw [exec_lrunr, execLrunr, scalarGo_free s hb]
  exact if_pos ho

/-- Settles O13: each trapping instruction ends in the model's scalar trap, and `takesScalarTrap_of_exec` says what that is. -/
theorem scalarStreamTraps : Obligations.ScalarStreamTraps := by
  intro s i cause info a h
  cases h with
  | strap | sbrk => exact takesScalarTrap_of_exec rfl (.inr (.inr rfl))
  | sjr _ _ _ hb ht => exact takesScalarTrap_of_exec (sjr_traps hb ht) (.inl rfl)
  | lrunr _ hb ho => exact takesScalarTrap_of_exec (lrunr_traps hb ho) (.inl rfl)
  | access _ _ _ _ _ _ _ hi hb hf =>
    obtain ⟨_, he⟩ := access_traps hi hb hf
    exact takesScalarTrap_of_exec he ((failsWith_cause hf).imp_right .inl)
  | counter _ _ _ _ _ _ _ _ hb hn hp hf =>
    obtain ⟨_, he⟩ := counter_traps hb hn hp hf
    exact takesScalarTrap_of_exec he ((failsWith_cause hf).imp_right .inl)
  | request _ _ _ _ _ _ hi hb hf =>
    obtain ⟨_, he⟩ := request_traps hi hb hf
    exact takesScalarTrap_of_exec he ((request_cause hi hf).imp_right .inl)
  | bar _ _ ha hn => exact takesScalarTrap_of_exec (bar_traps ha hn) (.inr (.inr rfl))
  | barObject _ _ _ _ _ ha h8 hs he hr hn =>
    subst he hr
    exact takesScalarTrap_of_exec (barObject_traps ha h8 hs rfl hn) (.inr (.inr rfl))
  | barPlace _ _ _ _ ha hc =>
    refine takesScalarTrap_of_exec (barPlace_traps ha hc) ?_
    split at hc
    · exact .inl hc
    · exact .inr (.inl hc.1)

end Sys2Proof.Proofs
end

section
open Sys2Proof Sys2Proof.Machine Sys2Proof.Claims Sys2Proof.Laws

/-! ### Bytes of memory -/

namespace Sys2Proof.Proofs

@[simp] theorem length_natLE (n v : Nat) : (natLE n v).length = n := by
  induction n generalizing v with
  | zero => rfl
  | succ n ih => rw [natLE, List.length_cons, ih]

/-- A read of what was written. -/
theorem getList_putList {α : Type} [DecidableEq α] {d : α} {m : Map α} {k : Nat} (vs : List α) :
    Map.getList d (Map.putList d m k vs) k vs.length = vs := by
  refine List.ext_getElem (length_getList) (fun i hi hv => ?_)
  rw [length_getList] at hi
  rw [← List.getD_eq_getElem _ d, ← List.getD_eq_getElem _ d, getD_getList hi, get_putList, if_pos (by omega)]
  congr 1
  omega

variable (s : State)

/-- A byte of host memory after a write. -/
theorem readHost_writeHost (a b : Nat) (bs : List Byte) :
    (s.writeHost a bs).readHost b 1 = if a ≤ b ∧ b < a + bs.length then [bs.getD (b - a) 0] else s.readHost b 1 := by
  simp only [State.readHost, Map.getList, writeHost_mem, get_putList]
  split <;> rfl

/-- A byte of peer memory after a write. -/
theorem readPeer_writePeer (a b : Nat) (bs : List Byte) :
    (s.writePeer a bs).readPeer b 1 = if a ≤ b ∧ b < a + bs.length then [bs.getD (b - a) 0] else s.readPeer b 1 := by
  simp only [State.readPeer, Map.getList, writePeer_mem, get_putList]
  split <;> rfl

/-! ### Cause entries (R365, R366) -/

/-- Two states whose cause tables are at the same place and hold the same counts, and whose contexts are the same. -/
structure SameCauseTable (s t : State) : Prop where
  emit : t.host.causeemit = s.host.causeemit
  seen : t.host.causeseen = s.host.causeseen
  marked : t.host.causeover = s.host.causeover
  interrupts : t.host.interrupts = s.host.interrupts
  bar : t.host.bar = s.host.bar
  ctx : t.harb.ctx = s.harb.ctx

section CauseEntry
variable (kind source asid evseq : Nat)

theorem causeEntry_of_room (part : Nat) (h : causeRoom s) : s.causeEntry kind source asid part evseq =
    let u := s.writeHost (causeAt s) (natLE 16 (causeWord evseq (s.host.causeemit + 1) part asid kind source))
    { u with host := { u.host with causeemit := s.host.causeemit + 1, interrupts := u.host.interrupts + 1 } } :=
  if_pos ⟨h.1, by simp [h.2]⟩

/-- Where the table has room, the entry's bytes are written and the counts move. -/
theorem ctxCause_of_room (h : causeRoom s) :
    ∃ bs, bs = natLE 16 (causeWord evseq (s.host.causeemit + 1) (s.ctxField asid 89 86) asid kind source)
      ∧ s.ctxCause kind source asid evseq =
        let u := s.writeHost (causeAt s) bs
        { u with host := { u.host with causeemit := s.host.causeemit + 1, interrupts := u.host.interrupts + 1 } } :=
  ⟨_, rfl, causeEntry_of_room s kind source asid evseq _ h⟩

theorem ctxCause_of_full (h : ¬causeRoom s) : ∃ late, s.ctxCause kind source asid evseq =
    { s with host := { s.host with causeover := true, late := late } } := by
  refine ⟨_, if_neg ?_⟩
  rintro ⟨he, ho⟩
  exact h ⟨by omega, by simpa using ho⟩

/-- A cause entry touches the table's counts, the entries that were dropped, and host memory. -/
theorem ctxCause_only : ∃ emit full n late m, s.ctxCause kind source asid evseq =
    { s with host := { s.host with causeemit := emit, causeover := full, interrupts := n, late := late }, hostMem := m } := by
  by_cases h : causeRoom s
  · obtain ⟨bs, -, hb⟩ := ctxCause_of_room s kind source asid evseq h
    exact ⟨_, _, _, _, _, hb⟩
  · obtain ⟨late, hl⟩ := ctxCause_of_full s kind source asid evseq h
    exact ⟨_, _, _, _, _, hl⟩

variable {s} {u : State} (hu : SameCauseTable s u)
include hu

theorem causeRoom_congr : causeRoom u ↔ causeRoom s := by
  rw [causeRoom, causeRoom, hu.emit, hu.seen, hu.marked]

theorem causeAt_congr : causeAt u = causeAt s := by
  rw [causeAt, causeAt, State.barReg, State.barReg, hu.emit, hu.bar]

/-- Table 22-4: the entry that a cause of a context writes. -/
theorem causeWritten_ctxCause : CauseWritten s (u.ctxCause kind source asid evseq) kind source asid evseq := by
  constructor
  · intro h
    obtain ⟨bs, hbs, hb⟩ := ctxCause_of_room u kind source asid evseq ((causeRoom_congr hu).2 h)
    have hf : u.ctxField asid 89 86 = s.ctxField asid 89 86 := by rw [State.ctxField, State.ctxField, hu.ctx]
    have hl : bs.length = 16 := hbs ▸ length_natLE 16 _
    rw [hf, hu.emit] at hbs
    rw [hb, causeAt_congr hu, hu.emit]
    refine ⟨rfl, congrArg (· + 1) hu.interrupts, Eq.trans ?_ hbs⟩
    exact hl ▸ getList_putList bs
  · intro h
    obtain ⟨late, hl⟩ := ctxCause_of_full u kind source asid evseq (mt (causeRoom_congr hu).1 h)
    rw [hl]
    exact ⟨rfl, hu.emit, hu.interrupts⟩

/-- Beside the entry, host memory is as it was. -/
theorem readHost_ctxCause {x : Nat} (h : ¬causeByte s x) : (u.ctxCause kind source asid evseq).readHost x 1 = u.readHost x 1 := by
  by_cases hr : causeRoom s
  · obtain ⟨bs, hbs, hb⟩ := ctxCause_of_room u kind source asid evseq ((causeRoom_congr hu).2 hr)
    have hl : bs.length = 16 := hbs ▸ length_natLE 16 _
    rw [hb, causeAt_congr hu]
    refine (readHost_writeHost u (causeAt s) x bs).trans (if_neg ?_)
    rw [hl]
    exact fun hx => h ⟨hr, hx⟩
  · obtain ⟨late, hl⟩ := ctxCause_of_full u kind source asid evseq (mt (causeRoom_congr hu).1 hr)
    rw [hl]
    rfl

end CauseEntry

section CauseFrame
variable (kind source asid evseq : Nat)

@[simp] theorem ctxCause_readPhys (a n : Nat) : (s.ctxCause kind source asid evseq).readPhys a n = s.readPhys a n := by
  obtain ⟨_, _, _, _, _, h⟩ := ctxCause_only s kind source asid evseq
  rw [h]; rfl

@[simp] theorem ctxCause_readPeer (a n : Nat) : (s.ctxCause kind source asid evseq).readPeer a n = s.readPeer a n := by
  obtain ⟨_, _, _, _, _, h⟩ := ctxCause_only s kind source asid evseq
  rw [h]; rfl

@[simp] theorem ctxCause_pairAt (p : Nat) : (s.ctxCause kind source asid evseq).pairAt p = s.pairAt p := by
  obtain ⟨_, _, _, _, _, h⟩ := ctxCause_only s kind source asid evseq
  rw [h]; rfl

end CauseFrame

/-! ### Queue pairs (R362, R363) -/

@[simp] theorem pairAt_setPair (p j : Nat) (x : QPair) : (s.setPair p x).pairAt j = if j = p then x else s.pairAt j := get_put

theorem pairKey_inj {fn q r : Nat} : pairKey fn q = pairKey fn r ↔ q = r := by
  unfold pairKey
  omega

theorem pairOk_of_lt {fn q : Nat} (hf : fn < 16) (hq : q < 8) : pairOk fn q = true := by
  simp [pairOk, hf, hq]

/-- What the host's access does where the device serves it. -/
theorem hostDo_served {t : State} (hs : s.served = true) : hostDo s t = .next t := by
  rw [hostDo, if_pos hs]

section Registers
variable {s} {fn q : Nat} (hf : fn < 16) (hq : q < 8) (hs : s.served = true)
include hf hq hs

theorem exec_sqemit_served (v : Dword) :
    exec (.sqemit fn q v) s = .next (s.setPair (pairKey fn q) { s.pairAt (pairKey fn q) with sqemit := v }) := by
  rw [exec_sqemit, execSqemit, pairOk_of_lt hf hq, hostDo_served s hs]
  rfl

theorem exec_cqseen_served (v : Dword) :
    exec (.cqseen fn q v) s = .next (s.setPair (pairKey fn q) { s.pairAt (pairKey fn q) with cqseen := v }) := by
  rw [exec_cqseen, execCqseen, pairOk_of_lt hf hq, hostDo_served s hs]
  rfl

end Registers

/-- R362: the fields of `qcfg` that a write sets are those of Table 22-1. -/
theorem qcfg_on (v : Word) : (v &&& 0x81F03FFF).getLsbD 31 = v.getLsbD 31 := by
  rw [BitVec.getLsbD_and]
  exact Bool.and_true _

theorem bits_and {v m : Word} {hi lo : Nat} (hm : m.extractLsb' lo (hi + 1 - lo) = BitVec.allOnes _) :
    bits (v &&& m).toNat hi lo = bits v.toNat hi lo := by
  have hb : ∀ w : Word, bits w.toNat hi lo = (w.extractLsb' lo (hi + 1 - lo)).toNat := fun w => by
    rw [bits, BitVec.extractLsb'_toNat, Nat.shiftRight_eq_div_pow]
  rw [hb, hb, BitVec.extractLsb'_and, hm, BitVec.and_allOnes]

section Qcfg
variable {s} {fn q : Nat} (hf : fn < 16) (hq : q < 8) (hs : s.served = true) {v : Word}
  (hv : v.getLsbD 31 = true → 6 ≤ bits v.toNat 24 20 ∧ bits v.toNat 24 20 ≤ 16 ∧ s.fnMay fn (bits v.toNat 13 0) = true)
include hf hq hs hv

/-- R362: a write to `qcfg` that its range and its context allow. -/
theorem exec_qcfg_allowed :
    let x := s.pairAt (pairKey fn q)
    let y : QPair := { x with qcfg := v &&& 0x81F03FFF }
    let z : QPair := { y with sqemit := 0, sqtaken := 0, cqemit := 0, cqseen := 0, pend := [] }
    exec (.qcfg fn q v) s = .next (if x.on = v.getLsbD 31 then s.setPair (pairKey fn q) y
      else (s.setPair (pairKey fn q) z).forgetPair (pairKey fn q)) := by
  intro x y z
  have hon : y.on = v.getLsbD 31 := qcfg_on v
  have he : bits y.qcfg.toNat 24 20 = bits v.toNat 24 20 := bits_and (by decide)
  have ha : y.asid = bits v.toNat 13 0 := bits_and (by decide)
  rw [exec_qcfg, execQcfg]
  rw [if_neg, hostDo_served s hs, hostDo_served s hs, ← apply_ite, hon]
  change ¬(!pairOk fn q || (y.on && (decide (bits y.qcfg.toNat 24 20 < 6) || decide (16 < bits y.qcfg.toNat 24 20) || !s.fnMay fn y.asid)))
    = true
  rw [hon, he, ha, pairOk_of_lt hf hq]
  cases hb : v.getLsbD 31 with
  | false => simp
  | true =>
    obtain ⟨h6, h16, hm⟩ := hv hb
    simp [hm, h6, h16]

end Qcfg

/-! ### Acceptance (R344, R346) -/

/-- Two states that differ in the levels and in the count of orders only. -/
def LevelsOnly (s t : State) : Prop :=
  t = { s with harb := { s.harb with levels := t.harb.levels, orders := t.harb.orders } }

theorem LevelsOnly.refl (s : State) : LevelsOnly s s := rfl

theorem LevelsOnly.trans {s t u : State} (h : LevelsOnly s t) (g : LevelsOnly t u) : LevelsOnly s u := by
  unfold LevelsOnly at *
  rw [g, h]

theorem LevelsOnly.host {s t : State} (h : LevelsOnly s t) : t.host = s.host := by rw [h]
theorem LevelsOnly.launches {s t : State} (h : LevelsOnly s t) : t.harb.launches = s.harb.launches := by rw [h]
theorem LevelsOnly.slip {s t : State} (h : LevelsOnly s t) : t.harb.slip = s.harb.slip := by rw [h]
theorem LevelsOnly.nextId {s t : State} (h : LevelsOnly s t) : t.harb.nextId = s.harb.nextId := by rw [h]

theorem setLevel_levelsOnly (key : Nat) (l : LevelInst) : LevelsOnly s (s.setLevel key l) := rfl

theorem addMember_levelsOnly (asid : Nat) (p : Option (Nat × Nat)) : LevelsOnly s (s.addMember asid p) := by
  unfold State.addMember
  split
  · rfl
  · split
    · rfl
    · rfl

/-- The next place in the order in which levels open. -/
def takeOrder : State := { s with harb := { s.harb with orders := s.harb.orders + 1 } }

theorem takeOrder_levelsOnly : LevelsOnly s (takeOrder s) := rfl

theorem openLevel_levelsOnly (asid lvl id phase job : Nat) : LevelsOnly s (s.openLevel asid lvl id phase job) := by
  have hf : ∀ (x : LevelInst) (p : Option (Nat × Nat)),
      LevelsOnly s ((takeOrder (s.setLevel (levelKey asid lvl id) x)).addMember asid p) := fun x p =>
    (setLevel_levelsOnly s _ x).trans ((takeOrder_levelsOnly _).trans (addMember_levelsOnly _ asid p))
  unfold State.openLevel
  split
  · rfl
  · dsimp only
    split
    · split
      · exact hf _ _
      · rfl
    · exact hf _ _

theorem closeLevel_levelsOnly (asid lvl id : Nat) (yes : Bool) : LevelsOnly s (s.closeLevel asid lvl id yes) := by
  unfold State.closeLevel
  split
  · split
    · rfl
    · rfl
  · rfl

theorem launch_setLaunch (key : Nat) (l : Launch) : (s.setLaunch key l).launch key = some l := by
  rw [State.launch, State.setLaunch, get_put_self]

/-- R344: an accepted descriptor has the next launch id, is queued with its pair, and is the last of its slipway queue. -/
theorem accept_spec (asid : Nat) (d : BitVec 512) (key : Nat) (pair : Option (Nat × Nat)) (rec_ : Bool) {r : Nat × State}
    (hr : s.accept asid d key pair rec_ = r) :
    r.1 = Map.get 1 s.harb.nextId asid ∧ r.2.host = s.host
      ∧ r.2.slipQ key = s.slipQ key ++ [launchKey asid (Map.get 1 s.harb.nextId asid)]
      ∧ ∃ l, r.2.launch (launchKey asid (Map.get 1 s.harb.nextId asid)) = some l ∧ l.desc = d ∧ l.pair = pair := by
  unfold State.accept at hr
  extract_lets id g p j s1 l s2 s3 cj cp cg s4 h s5 at hr
  have h1 : LevelsOnly s s1 := (openLevel_levelsOnly s asid 3 j 0 0).trans
    ((openLevel_levelsOnly _ asid 2 p 0 j).trans (openLevel_levelsOnly _ asid 1 g p j))
  have h4 : LevelsOnly s2 s4 := (addMember_levelsOnly s2 asid _).trans ((closeLevel_levelsOnly s3 asid 1 g cg).trans
    ((closeLevel_levelsOnly _ asid 2 p cp).trans (closeLevel_levelsOnly _ asid 3 j cj)))
  have hh : s5.host = s.host := h4.host.trans h1.host
  have hs : s5.slipQ key = s.slipQ key := congrArg (Map.get [] · key) (h4.slip.trans h1.slip)
  have hl : s5.launch (launchKey asid id) = some l := by
    change Map.get none s4.harb.launches (launchKey asid id) = some l
    rw [h4.launches]
    exact launch_setLaunch s1 _ l
  have hld : l.desc = d ∧ l.pair = pair := ⟨rfl, rfl⟩
  clear_value s5 l
  subst hr
  exact ⟨rfl, hh, hs ▸ get_put_self, l, hl, hld⟩

/-! ### Submissions (R362) -/

theorem consumed_pairAt (p n : Nat) (e : CEntry) (d : BitVec 512) :
    (s.consumed p n e d).pairAt p = { s.pairAt p with sqtaken := BitVec.ofNat 64 n, pend := (s.pairAt p).pend ++ [e] } := by
  unfold State.consumed
  split
  · exact get_put_self
  · exact get_put_self

theorem consumed_harb (p n : Nat) (e : CEntry) (d : BitVec 512) : (s.consumed p n e d).harb = s.harb := by
  unfold State.consumed
  split
  · rfl
  · rfl

section Consume
variable {s} {fn q : Nat} (hf : fn < 16) (hq : q < 8) (hs : s.served = true) {x : QPair} (hx : s.pairAt (pairKey fn q) = x)
  {n : Nat} (hn : n = x.sqtaken.toNat + 1) (hon : x.on = true) (he : n ≤ x.sqemit.toNat)
  (hr : (s.slipQ (s.slipOf x.asid q)).length < 64) {d : BitVec 512}
  (hd : d = BitVec.ofNat 512 (leNat (s.readHost ((x.qbase.toNat + 64 * ((n - 1) % x.entries)) % 2 ^ 50) 64)))
include hf hq hs hx hn hon he hr hd

/-- R362: a submission is checked as its slipway queue has room. -/
theorem exec_submissionConsume_ready : exec (.submissionConsume fn q) s =
    if s.launchStatus x.asid d ≠ 0 then .next (s.consumed (pairKey fn q) n ⟨2, s.launchStatus x.asid d, 0, n⟩ d)
    else
      let a := s.accept x.asid d (s.slipOf x.asid q) (some (pairKey fn q, n)) s.records
      .next (a.2.consumed (pairKey fn q) n ⟨1, 0, launchKey x.asid a.1, n⟩ d) := by
  subst hx hn hd
  rw [exec_submissionConsume, execSubmissionConsume]
  refine if_neg ?_
  simp [pairOk_of_lt hf hq, hs, hon, Nat.lt_of_succ_le he, hr]

/-- R362: a submission that is refused. -/
theorem submissionConsume_refuses (h : s.launchStatus x.asid d ≠ 0) :
    ∃ t, exec (.submissionConsume fn q) s = .next t ∧ t.harb = s.harb ∧ t.pairAt (pairKey fn q)
      = { x with sqtaken := BitVec.ofNat 64 n, pend := x.pend ++ [⟨2, s.launchStatus x.asid d, 0, n⟩] } := by
  refine ⟨_, (exec_submissionConsume_ready hf hq hs hx hn hon he hr hd).trans (if_pos h), consumed_harb s _ _ _ _, ?_⟩
  rw [consumed_pairAt, hx]

/-- R362, R344: a submission that is accepted. -/
theorem submissionConsume_accepts (h : s.launchStatus x.asid d = 0) :
    let key := launchKey x.asid (Map.get 1 s.harb.nextId x.asid)
    ∃ t l, exec (.submissionConsume fn q) s = .next t ∧ t.launch key = some l ∧ l.desc = d ∧ l.pair = some (pairKey fn q, n)
      ∧ t.slipQ (s.slipOf x.asid q) = s.slipQ (s.slipOf x.asid q) ++ [key]
      ∧ t.pairAt (pairKey fn q) = { x with sqtaken := BitVec.ofNat 64 n, pend := x.pend ++ [⟨1, 0, key, n⟩] } := by
  obtain ⟨hid, hhost, hslip, l, hl, hld, hlp⟩ :=
    accept_spec s x.asid d (s.slipOf x.asid q) (some (pairKey fn q, n)) s.records rfl
  have hx' : (s.accept x.asid d (s.slipOf x.asid q) (some (pairKey fn q, n)) s.records).2.pairAt (pairKey fn q) = x := by
    rw [State.pairAt, hhost]
    exact hx
  refine ⟨_, l, (exec_submissionConsume_ready hf hq hs hx hn hon he hr hd).trans (if_neg (not_not.2 h)), ?_, hld, hlp, ?_, ?_⟩
  · rw [State.launch, consumed_harb]
    exact hl
  · rw [State.slipQ, consumed_harb]
    exact hslip
  · rw [consumed_pairAt, hx', hid]

end Consume

/-! ### Completion entries (R363) -/

section Completion
variable {s} {fn q : Nat} (hf : fn < 16) (hq : q < 8) (hs : s.served = true) {x : QPair} (hx : s.pairAt (pairKey fn q) = x)
  (hon : x.on = true) {e : CEntry} (he : x.pend.find? (fun e => !s.entryHeld e) = some e)
  (hr : x.cqemit.toNat + 1 - x.cqseen.toNat ≤ x.entries)
include hf hq hs hx hon he hr

/-- R363: the oldest entry that may go is written where the ring has room. -/
theorem exec_completionEntryWrite_room : exec (.completionEntryWrite fn q) s =
    .next (((s.writeHost ((x.cbase.toNat + 32 * (x.cqemit.toNat % x.entries)) % 2 ^ 50)
        (natLE 32 (completionWord (x.cqemit.toNat + 1) e.sseq e.kind (s.entryStatus e) e.launch))).setPair (pairKey fn q)
          { x with cqemit := BitVec.ofNat 64 (x.cqemit.toNat + 1), pend := x.pend.erase e }).ctxCause 1 (pairKey fn q) x.asid
        (x.cqemit.toNat + 1)) := by
  subst hx
  rw [exec_completionEntryWrite, execCompletionEntryWrite]
  simp only [he]
  rw [if_neg (by simp [pairOk_of_lt hf hq, hs, hon, hr])]
  rfl

end Completion

/-- Table 22-2: the status of an entry, as the statement spells it. -/
theorem entryStatus_eq {e : CEntry} {st : Nat} (h1 : e.kind ≠ 3 → st = e.status)
    (h2 : ∀ l, e.kind = 3 → s.launch e.launch = some l → st = e.status % 2 + 2 * l.error.toNat)
    (h3 : e.kind = 3 → s.launch e.launch = none → st = e.status % 2) : s.entryStatus e = st := by
  unfold State.entryStatus
  split
  · next hk =>
    split
    · next l hl => rw [h2 l hk hl, b1, Bool.toNat, Bool.cond_eq_ite]
    · next hl => rw [h3 hk hl]
  · next hk => rw [h1 hk]

/-! ### A function-level reset (R362) -/

/-- The sequence registers of a pair, cleared. -/
def clearSeq (x : QPair) : QPair := { x with sqemit := 0, sqtaken := 0, cqemit := 0, cqseen := 0 }

def clearPair (fn : Nat) (t : State) (q : Nat) : State := t.setPair (pairKey fn q) (clearSeq (t.pairAt (pairKey fn q)))

theorem clearSeqs_host (fn : Nat) (l : List Nat) : ∀ s : State,
    l.foldl (clearPair fn) s = { s with host := (l.foldl (clearPair fn) s).host } := by
  induction l with
  | nil => exact fun s => rfl
  | cons q l ih => exact fun s => ih _

theorem clearSeqs_pairAt (fn j : Nat) (l : List Nat) : ∀ s : State,
    (l.foldl (clearPair fn) s).pairAt (pairKey fn j)
      = if j ∈ l then clearSeq (s.pairAt (pairKey fn j)) else s.pairAt (pairKey fn j) := by
  induction l with
  | nil => simp
  | cons q l ih =>
    intro s
    rw [List.foldl_cons, ih, clearPair, pairAt_setPair]
    by_cases h : j = q
    · subst h
      simp [clearSeq]
    · simp [pairKey_inj, h]

/-- R362: a function-level reset. -/
theorem functionLevelReset_clears {fn q : Nat} (hf : fn < 16) (hq : q < 8) :
    ∃ t, exec (.functionLevelReset fn) s = .next t ∧ t = { s with host := t.host }
      ∧ t.pairAt (pairKey fn q) = clearSeq (s.pairAt (pairKey fn q)) := by
  refine ⟨_, ?_, clearSeqs_host fn (List.range 8) s, (clearSeqs_pairAt fn q _ s).trans (if_pos (List.mem_range.2 hq))⟩
  rw [exec_functionLevelReset, execFunctionLevelReset, if_neg (by omega)]
  rfl

section HostQueues
variable {s} {fn q : Nat} (hf : fn < 16) (hq : q < 8)
include hf hq

theorem qcfg_pair (hs : s.served = true) {v : Word}
    (hv : v.getLsbD 31 = true → 6 ≤ bits v.toNat 24 20 ∧ bits v.toNat 24 20 ≤ 16 ∧ s.fnMay fn (bits v.toNat 13 0) = true) :
    let x := s.pairAt (pairKey fn q)
    ∃ t, exec (.qcfg fn q v) s = .next t ∧ t.pairAt (pairKey fn q) = (if x.on = v.getLsbD 31 then { x with qcfg := v &&& 0x81F03FFF }
      else { x with qcfg := v &&& 0x81F03FFF, sqemit := 0, sqtaken := 0, cqemit := 0, cqseen := 0, pend := [] }) := by
  refine ⟨_, exec_qcfg_allowed hf hq hs hv, ?_⟩
  split
  · exact get_put_self
  · exact get_put_self

variable (hs : s.served = true) {x : QPair} (hx : s.pairAt (pairKey fn q) = x)
  (hon : x.on = true) {e : CEntry} (he : x.pend.find? (fun e => !s.entryHeld e) = some e)
  (hr : x.cqemit.toNat + 1 - x.cqseen.toNat ≤ x.entries)
include hs hx hon he hr

/-- R363, R365: what the write of an entry leaves. -/
theorem completionEntryWrite_puts {bs : List Byte}
    (hb : bs = natLE 32 (completionWord (x.cqemit.toNat + 1) e.sseq e.kind (s.entryStatus e) e.launch)) :
    let a := (x.cbase.toNat + 32 * (x.cqemit.toNat % x.entries)) % 2 ^ 50
    ∃ t, exec (.completionEntryWrite fn q) s = .next t
      ∧ t.pairAt (pairKey fn q) = { x with cqemit := BitVec.ofNat 64 (x.cqemit.toNat + 1), pend := x.pend.erase e }
      ∧ CauseWritten s t 1 (pairKey fn q) x.asid (x.cqemit.toNat + 1)
      ∧ (∀ y, ¬causeByte s y → t.readHost y 1 = if a ≤ y ∧ y < a + 32 then [bs.getD (y - a) 0] else s.readHost y 1)
      ∧ ∀ y, t.readPhys y 1 = s.readPhys y 1 ∧ t.readPeer y 1 = s.readPeer y 1 := by
  intro a
  have hu : SameCauseTable s ((s.writeHost a bs).setPair (pairKey fn q)
      { x with cqemit := BitVec.ofNat 64 (x.cqemit.toNat + 1), pend := x.pend.erase e }) := ⟨rfl, rfl, rfl, rfl, rfl, rfl⟩
  have hl : bs.length = 32 := hb ▸ length_natLE 32 _
  refine ⟨_, exec_completionEntryWrite_room hf hq hs hx hon he hr, ?_⟩
  rw [← hb]
  refine ⟨?_, causeWritten_ctxCause _ _ _ _ hu, fun y hy => ?_, fun y => ⟨?_, ?_⟩⟩
  · rw [ctxCause_pairAt, pairAt_setPair, if_pos rfl]
  · rw [readHost_ctxCause _ _ _ _ hu hy, ← hl]
    exact readHost_writeHost s a y bs
  · rw [ctxCause_readPhys]
    rfl
  · rw [ctxCause_readPeer]
    rfl

end HostQueues

/-- Settles O50: each event of a served pair is one lemma, and the write of an entry is that of `completionEntryWrite_puts`. -/
theorem hostQueues : Obligations.HostQueues := by
  intro fn q s hf hq p x
  refine ⟨fun hs => ⟨fun v => ?_, fun v => ?_, fun v hv => qcfg_pair hf hq hs (by simpa [bits] using hv), ?_, ?_⟩,
    functionLevelReset_clears s hf hq⟩
  · exact ⟨_, exec_sqemit_served hf hq hs v, get_put_self, rfl⟩
  · exact ⟨_, exec_cqseen_served hf hq hs v, get_put_self, rfl⟩
  · intro n key d hon he hr
    exact ⟨submissionConsume_refuses hf hq hs rfl rfl hon he hr rfl, submissionConsume_accepts hf hq hs rfl rfl hon he hr rfl⟩
  · intro e st hon he hr h1 h2 h3 n a bs
    exact completionEntryWrite_puts hf hq hs rfl hon he hr (by rw [entryStatus_eq s h1 h2 h3]; rfl)

end Sys2Proof.Proofs
end

section
open Sys2Proof Sys2Proof.Machine Sys2Proof.Claims Sys2Proof.Laws

namespace Sys2Proof.Proofs

/-! ### Operations -/

theorem findOp_id {ops : List Op} {id : Nat} {o : Op} (h : findOp ops id = some o) : o.id = id := by
  induction ops with
  | nil => cases h
  | cons p ps ih =>
    rw [findOp] at h
    split at h
    · next hp => cases h; exact hp
    · exact ih h

/-- Of operations that keep their identities, the one with an identity. -/
theorem findOp_map {ops : List Op} {id : Nat} {f : Op → Op} (hf : ∀ p, (f p).id = p.id) :
    findOp (ops.map f) id = (findOp ops id).map f := by
  induction ops with
  | nil => rfl
  | cons p ps ih =>
    rw [List.map_cons, findOp, findOp, hf, ih]
    split
    · rfl
    · rfl

variable (s : State)

theorem op_setOp (o : Op) (id : Nat) :
    (s.setOp o).op id = if id = o.id then (s.op id).map (fun _ => o) else s.op id := by
  rw [State.op, State.setOp, findOp_map (f := fun p => if p.id = o.id then o else p) (fun p => by split <;> simp_all)]
  cases h : findOp s.ops id with
  | none => simp [State.op, h]
  | some p =>
    have hp := findOp_id h
    simp only [State.op, h, Option.map_some, hp]
    split
    · rfl
    · rfl

variable {s} in
/-- An operation that replaces the one with its identity. -/
theorem op_setOp_self {o p : Op} (h : s.op p.id = some o) : (s.setOp p).op p.id = some p := by
  rw [op_setOp, if_pos rfl, h]
  rfl

/-! ### Records that wait to be posted (R199, R200) -/

/-- Posting the records of elements moves the rings only, and adds one record for each element that has one to post. -/
theorem postEls_only (o : Op) (es : List El) : ∀ (s : State) (n : Nat), ∃ r, s.postEls o n es = { s with rings := r }
    ∧ ((s.postEls o n es).ring o.asid).pending.length = (s.ring o.asid).pending.length + (es.filter El.unposted).length := by
  induction es with
  | nil => exact fun s n => ⟨s.rings, rfl, rfl⟩
  | cons e es ih =>
    intro s n
    rw [State.postEls]
    split
    · next he =>
      obtain ⟨r, hr, hl⟩ := ih (s.post o.asid { s.elRecord o e with count := s.missing o.crew - (n - 1) }) (n - 1)
      refine ⟨r, hr, hl.trans ?_⟩
      rw [List.filter_cons, if_pos he, State.post, State.ring, State.setRing, get_put_self, List.length_append, List.length_singleton,
        List.length_cons]
      omega
    · next he =>
      obtain ⟨r, hr, hl⟩ := ih s n
      exact ⟨r, hr, by rw [hl, List.filter_cons, if_neg he]⟩

theorem postOp_only (o : Op) : ∃ r, s.postOp o = { s with rings := r }
    ∧ ((s.postOp o).ring o.asid).pending.length = (s.ring o.asid).pending.length + (o.els.filter El.unposted).length :=
  postEls_only o o.els s _

/-! ### Fault reports (R197) -/

/-- Parking moves the parked mark of one gang at most. -/
theorem parkNow_only (k : Nat) : ∃ gs b, s.parkNow k = { s with gangs := gs }
    ∧ ∀ j, (s.parkNow k).gang j = if j = k then { s.gang k with parked := b } else s.gang j := by
  obtain ⟨b, h | h⟩ := parkNow_spec s k
  · exact ⟨_, b, h, fun j => h ▸ setGang_gang s k j _⟩
  · refine ⟨s.gangs, (s.gang k).parked, h, fun j => ?_⟩
    rw [h]
    split
    · next hj => rw [hj]
    · rfl

/-- R197: what a faulted operation becomes as its log takes it: a queue entry goes back to its place. -/
def loggedOp (o : Op) : Op := if o.inQ then o.requeued else o

@[simp] theorem loggedOp_id (o : Op) : (loggedOp o).id = o.id := by
  unfold loggedOp
  split
  · rfl
  · rfl

theorem loggedOp_sent (o : Op) (hs : o.stage = .sent) : loggedOp o = { o with
    stage := if o.inQ then .queued else .sent, left := if o.inQ then 0 else o.left, frames := if o.inQ then [] else o.frames } := by
  cases h : o.inQ with
  | true => simp [loggedOp, Op.requeued, h]
  | false =>
    cases o
    cases h
    cases hs
    rfl

/-- R197: an entry of the log: what it does to its gang, and to its operation. -/
theorem logFault_only (o : Op) : ∃ gs b, s.logFault o = { s.setOp (loggedOp o) with gangs := gs }
    ∧ ∀ j, (s.logFault o).gang j = if j = o.gang then
        { s.gang o.gang with log := (s.gang o.gang).log ++ [o.id], parked := b, vfault := (s.gang o.gang).vfault ++ o.vregs,
                             sfault := (s.gang o.gang).sfault ++ o.dst.sregs.filter (· != 0) }
      else s.gang j := by
  unfold State.logFault
  extract_lets g g'
  obtain ⟨gs, b, h, hb⟩ := parkNow_only ((s.setOp (loggedOp o)).setGang o.gang g') o.gang
  refine ⟨gs, b, h, fun j => (hb j).trans ?_⟩
  rw [setGang_gang, setGang_gang, if_pos rfl]
  split
  · rfl
  · rfl

section FaultReport
variable {s} {op : Nat} {o : Op} (ho : s.op op = some o) (hf : o.faulted = true) (ht : s.tried o = true) (hs : o.stage = .sent)
  (hg : o.kind.gathers = false) (hl : (s.gang o.gang).logged op = false)
include ho hf ht hs hg hl

theorem exec_faultReport_tried : exec (.faultReport op) s =
    if 64 ≤ s.logUse (o.gang / 16) then .next ((s.postOp o).setOp { o with els := o.els.map El.posted })
    else .next ((s.postOp o).logFault { o with els := o.els.map El.posted }) := by
  rw [exec_faultReport, execFaultReport, ho]
  refine if_neg ?_
  simp [hf, ht, hs, hg, hl]

/-- R197: with the log full the records wait to be posted, and nothing else changes. -/
theorem faultReport_full (hu : 64 ≤ s.logUse (o.gang / 16)) :
    ∃ t, exec (.faultReport op) s = .next t ∧ t.gangs = s.gangs ∧ s.SameBytes t
      ∧ t.op op = some { o with els := o.els.map El.posted }
      ∧ (t.ring o.asid).pending.length = (s.ring o.asid).pending.length + (o.els.filter El.unposted).length := by
  obtain ⟨r, hr, hp⟩ := postOp_only s o
  obtain rfl := findOp_id ho
  refine ⟨_, (exec_faultReport_tried ho hf ht hs hg hl).trans (if_pos hu), ?_, ?_, ?_, hp⟩
  · rw [hr]; rfl
  · rw [hr]; exact sameBytes_of_fields rfl rfl rfl (fun _ => rfl)
  · rw [hr]
    exact op_setOp_self (s := { s with rings := r }) ho

/-- R197: a faulted operation takes an entry of the operand log. -/
theorem faultReport_logs (hu : s.logUse (o.gang / 16) < 64) :
    ∃ t, exec (.faultReport op) s = .next t ∧ (t.gang o.gang).log = (s.gang o.gang).log ++ [op]
      ∧ (t.gang o.gang).vfault = (s.gang o.gang).vfault ++ o.vregs
      ∧ (t.gang o.gang).sfault = (s.gang o.gang).sfault ++ o.dst.sregs.filter (· != 0) ∧ s.SameBytes t
      ∧ t.op op = some { o with stage := if o.inQ then .queued else .sent, left := if o.inQ then 0 else o.left,
                                frames := if o.inQ then [] else o.frames, els := o.els.map El.posted }
      ∧ (t.ring o.asid).pending.length = (s.ring o.asid).pending.length + (o.els.filter El.unposted).length
      ∧ ∀ k, k ≠ o.gang → t.gang k = s.gang k := by
  obtain ⟨r, hr, hp⟩ := postOp_only s o
  obtain rfl := findOp_id ho
  have hgang : ∀ j, (s.postOp o).gang j = s.gang j := fun j => by rw [hr]; rfl
  have hop : (s.postOp o).op o.id = some o := by rw [hr]; exact ho
  let p : Op := { o with els := o.els.map El.posted }
  obtain ⟨gs, b, hgs, hb⟩ := logFault_only (s.postOp o) p
  have hme := (hb o.gang).trans (if_pos rfl)
  rw [hgang] at hme
  refine ⟨_, (exec_faultReport_tried ho hf ht hs hg hl).trans (if_neg (by omega)), ?_⟩
  refine ⟨congrArg Gang.log hme, congrArg Gang.vfault hme, congrArg Gang.sfault hme, ?_, ?_, ?_, fun k hk => ?_⟩
  · rw [hgs, hr]
    exact sameBytes_of_fields rfl rfl rfl (fun _ => rfl)
  · rw [hgs, ← loggedOp_sent p hs]
    refine (op_setOp (s.postOp o) (loggedOp p) o.id).trans ?_
    rw [if_pos (loggedOp_id p).symm, hop]
    rfl
  · rw [hgs]
    exact hp
  · exact (hb k).trans ((if_neg hk).trans (hgang k))

end FaultReport

end Sys2Proof.Proofs
end

section
open Sys2Proof Sys2Proof.Machine Sys2Proof.Claims Sys2Proof.Laws

namespace Sys2Proof.Proofs

/-! ### Replay (R203, R204) -/

/-- A replay moves gangs, operations, their numbers and the routes that are remembered for them. -/
def ReplayOnly (s t : State) : Prop :=
  t = { s with gangs := t.gangs, ops := t.ops, nextOp := t.nextOp, host := { s.host with routeOld := t.host.routeOld } }

theorem ReplayOnly.refl (s : State) : ReplayOnly s s := rfl

theorem ReplayOnly.trans {s t u : State} (h : ReplayOnly s t) (g : ReplayOnly t u) : ReplayOnly s u := by
  unfold ReplayOnly at *
  rw [g, h]

theorem ReplayOnly.sameBytes {s t : State} (h : ReplayOnly s t) : s.SameBytes t := by
  rw [h]
  exact sameBytes_of_fields rfl rfl rfl (fun _ => rfl)

theorem setGang_replayOnly (s : State) (k : Nat) (g : Gang) : ReplayOnly s (s.setGang k g) := rfl

/-- Two states of a gang that differ in the marks of faulted registers only. -/
def MarksOnly (g h : Gang) : Prop := h = { g with sfault := h.sfault, vfault := h.vfault }

theorem MarksOnly.refl (g : Gang) : MarksOnly g g := rfl

theorem MarksOnly.trans {f g h : Gang} (hfg : MarksOnly f g) (hgh : MarksOnly g h) : MarksOnly f h := by
  unfold MarksOnly at *
  rw [hgh, hfg]

theorem MarksOnly.log {g h : Gang} (e : MarksOnly g h) : h.log = g.log := by rw [e]
theorem MarksOnly.parked {g h : Gang} (e : MarksOnly g h) : h.parked = g.parked := by rw [e]
theorem MarksOnly.replay {g h : Gang} (e : MarksOnly g h) : h.replay = g.replay := by rw [e]

/-- A faulted element is to be tried again. -/
def retryEl (e : El) : El := if e.st == .faulted then { e with st := .todo, res := [] } else e

/-- An element of a load that leaves its core anew has no data yet. -/
def dropData (o : Op) (e : El) : El := if !o.inQ && o.kind.isLoad && e.st == .todo then { e with data := [] } else e

/-- A faulted operation as it goes out again, behind the operations up to `h` (R203). -/
def againOp (o : Op) (h : Nat) : Op :=
  { o with stage := if o.inQ then .queued else .sent, head := h, left := if o.inQ then 0 else o.left
           frames := if o.inQ then [] else o.frames, els := o.els.map (fun e => dropData o (retryEl e)) }

theorem retryEl_st (e : El) : (retryEl e).st ≠ .faulted := by
  unfold retryEl
  split
  · simp
  · next h => simpa using h

@[simp] theorem dropData_st (o : Op) (e : El) : (dropData o e).st = e.st := by
  unfold dropData
  split
  · rfl
  · rfl

theorem againOp_faulted (o : Op) (h : Nat) : (againOp o h).faulted = false := by
  simp only [Op.faulted, againOp, List.any_map, List.any_eq_false]
  exact fun e _ => by simpa using retryEl_st e

theorem dropData_queued {o : Op} (hq : o.inQ = true) (e : El) : dropData o e = e := by
  rw [dropData, hq]
  rfl

/-- The elements of an operation that leaves its core anew. -/
theorem map_dropData {o : Op} (hq : o.inQ = false) (es : List El) : es.map (dropData o) =
    if o.kind.isLoad then es.map (fun e => if e.st == .todo then { e with data := [] } else e) else es := by
  have hd : dropData o = fun e => if (o.kind.isLoad && e.st == .todo) = true then { e with data := [] } else e := by
    funext e
    rw [dropData, hq]
    rfl
  rw [hd]
  cases o.kind.isLoad with
  | true => rfl
  | false => exact List.map_id es

variable (s : State)

/-- R203: what a replay of one operation does. -/
theorem replayOp_faulted {id : Nat} {o : Op} (ho : s.op id = some o) (hf : o.faulted = true) :
    ∃ h, s.replayOp id = { ((s.setOp (againOp o h)).setGang o.gang { s.gang o.gang with
        sfault := (s.gang o.gang).sfault.filter (fun r => !o.dst.sregs.contains r),
        vfault := (s.gang o.gang).vfault.filter (fun r => !o.vregs.contains r) }).rerouted id with nextOp := s.nextOp + 1 } := by
  simp only [State.replayOp, ho, hf]
  by_cases hq : o.inQ = true
  · refine ⟨o.head, ?_⟩
    have hX : againOp o o.head = { o.requeued with els := o.els.map retryEl } := by
      simp [againOp, Op.requeued, hq, dropData_queued hq]
    rw [hX, if_pos hq]
    rfl
  · refine ⟨s.nextOp, ?_⟩
    have hX : againOp o s.nextOp = { o with
        els := if o.kind.isLoad then (o.els.map retryEl).map (fun e => if e.st == .todo then { e with data := [] } else e)
          else o.els.map retryEl
        stage := .sent, head := s.nextOp } := by
      rw [← map_dropData (Bool.eq_false_of_not_eq_true hq), List.map_map]
      simp [againOp, hq, Function.comp_def]
    rw [hX, if_neg hq]
    rfl

theorem replayOp_idle {id : Nat} (h : ∀ o, s.op id = some o → o.faulted = false) : s.replayOp id = s := by
  unfold State.replayOp
  split
  · rfl
  · next o ho => rw [h o ho]; rfl

/-- A replay of one operation changes no gang's log. -/
theorem replayOp_only (id : Nat) : ReplayOnly s (s.replayOp id) ∧ (∀ j, MarksOnly (s.gang j) ((s.replayOp id).gang j))
    ∧ (∀ i, i ≠ id → (s.replayOp id).op i = s.op i) := by
  by_cases hf : ∃ o, s.op id = some o ∧ o.faulted = true
  · obtain ⟨o, ho, hf⟩ := hf
    obtain ⟨h, he⟩ := replayOp_faulted s ho hf
    rw [he]
    refine ⟨rfl, fun j => ?_, fun i hi => ?_⟩
    · refine (?_ : MarksOnly (s.gang j) ((State.setGang _ _ _).gang j))
      rw [setGang_gang]
      split
      · next hj => rw [hj]; rfl
      · rfl
    · have hid : o.id = id := findOp_id ho
      exact (op_setOp s (againOp o h) i).trans (if_neg (fun hh => hi (hh.trans hid)))
  · rw [replayOp_idle s (by simpa using hf)]
    exact ⟨rfl, fun _ => rfl, fun _ _ => rfl⟩

theorem replayOp_op {id : Nat} {o : Op} (ho : s.op id = some o) (hf : o.faulted = true) :
    ∃ h, (s.replayOp id).op id = some (againOp o h) := by
  obtain ⟨h, he⟩ := replayOp_faulted s ho hf
  have hid : o.id = id := findOp_id ho
  refine ⟨h, ?_⟩
  rw [he]
  exact (op_setOp s (againOp o h) id).trans ((if_pos hid.symm).trans (by rw [ho]; rfl))

/-- The entries that a gang replays, and the marks of its registers. -/
theorem replayFrom_only (k : Nat) (l : List Nat) : ReplayOnly s (s.replayFrom k l)
    ∧ ∀ j, MarksOnly (if j = k then { s.gang k with replay := l } else s.gang j) ((s.replayFrom k l).gang j) := by
  cases l with
  | nil => exact ⟨rfl, fun j => (setGang_gang s k j _) ▸ MarksOnly.refl _⟩
  | cons id l =>
    obtain ⟨ho, hm, -⟩ := replayOp_only (s.setGang k { s.gang k with replay := id :: l }) id
    exact ⟨(setGang_replayOnly s k _).trans ho, fun j => (setGang_gang s k j _) ▸ hm j⟩

/-- R203: what the beginning of a gang's replay does. -/
theorem beginReplay_only (k : Nat) : ReplayOnly s (s.beginReplay k)
    ∧ (∀ j, MarksOnly (if j = k then { s.gang k with log := [], parked := false, replay := (s.gang k).log } else s.gang j)
        ((s.beginReplay k).gang j)) := by
  obtain ⟨ho, hm⟩ := replayFrom_only (s.setGang k { s.gang k with log := [], parked := false }) k (s.gang k).log
  refine ⟨(setGang_replayOnly s k _).trans ho, fun j => ?_⟩
  have hj := hm j
  rw [setGang_gang, setGang_gang, if_pos rfl] at hj
  by_cases h : j = k
  · rw [if_pos h] at hj ⊢
    exact hj
  · rw [if_neg h, if_neg h] at hj
    rw [if_neg h]
    exact hj

/-! ### Operations that have gone out again -/

/-- An operation has gone out again. -/
def Gone (o : Op) (i : Nat) (t : State) : Prop := ∃ h, t.op i = some (againOp o h)

section Gone
variable {s} {o : Op} {i : Nat}

theorem replayOp_gone (id : Nat) (h : Gone o i s) : Gone o i (s.replayOp id) := by
  obtain ⟨n, hn⟩ := h
  by_cases hi : i = id
  · subst hi
    rw [replayOp_idle s (fun p hp => Option.some.inj (hn.symm.trans hp) ▸ againOp_faulted o n)]
    exact ⟨n, hn⟩
  · exact ⟨n, ((replayOp_only s id).2.2 i hi).trans hn⟩

theorem replayOp_open (hf : o.faulted = true) (id : Nat) (h : s.op i = some o ∨ Gone o i s) :
    (s.replayOp id).op i = some o ∨ Gone o i (s.replayOp id) := by
  rcases h with h | h
  · by_cases hi : i = id
    · subst hi
      exact .inr (replayOp_op s h hf)
    · exact .inl (((replayOp_only s id).2.2 i hi).trans h)
  · exact .inr (replayOp_gone id h)

/-- The head of a log goes out again as its gang begins its replay. -/
theorem beginReplay_goes {k : Nat} {l : List Nat} (hf : o.faulted = true) (hl : (s.gang k).log = i :: l)
    (h : s.op i = some o ∨ Gone o i s) : Gone o i (s.beginReplay k) := by
  rw [State.beginReplay, hl]
  rcases h with h | h
  · exact replayOp_op _ h hf
  · exact replayOp_gone i h

theorem beginReplay_gone (k : Nat) (h : Gone o i s) : Gone o i (s.beginReplay k) := by
  rw [State.beginReplay]
  cases (s.gang k).log with
  | nil => exact h
  | cons id l => exact replayOp_gone id h

theorem beginReplay_open (hf : o.faulted = true) (k : Nat) (h : s.op i = some o ∨ Gone o i s) :
    (s.beginReplay k).op i = some o ∨ Gone o i (s.beginReplay k) := by
  rw [State.beginReplay]
  cases (s.gang k).log with
  | nil => exact h
  | cons id l => exact replayOp_open hf id h

end Gone

/-! ### The replays of a crew -/

/-- A gang whose replay begins. -/
def beginGang (g : Gang) : Gang := { g with log := [], parked := false, replay := g.log }

theorem beginReplays_only {ks : List Nat} (hn : ks.Nodup) : ∀ s : State, ReplayOnly s (ks.foldl State.beginReplay s)
    ∧ ∀ j, MarksOnly (if j ∈ ks then beginGang (s.gang j) else s.gang j) ((ks.foldl State.beginReplay s).gang j) := by
  induction ks with
  | nil => exact fun s => ⟨rfl, fun j => rfl⟩
  | cons k ks ih =>
    intro s
    obtain ⟨hk, hks⟩ := List.nodup_cons.1 hn
    obtain ⟨ho, hm⟩ := beginReplay_only s k
    obtain ⟨ho', hm'⟩ := ih hks (s.beginReplay k)
    refine ⟨ho.trans ho', fun j => ?_⟩
    have h1 := hm j
    have h2 := hm' j
    by_cases hj : j = k
    · subst hj
      rw [if_pos rfl] at h1
      rw [if_neg hk] at h2
      rw [if_pos List.mem_cons_self]
      exact h1.trans h2
    · rw [if_neg hj] at h1
      simp only [List.mem_cons, hj, false_or]
      split
      · next hmem =>
        rw [if_pos hmem] at h2
        refine .trans ?_ h2
        rw [h1]
        rfl
      · next hmem =>
        rw [if_neg hmem] at h2
        exact h1.trans h2

theorem beginReplays_gone {o : Op} {i : Nat} (ks : List Nat) : ∀ s : State, Gone o i s → Gone o i (ks.foldl State.beginReplay s) := by
  induction ks with
  | nil => exact fun s h => h
  | cons k ks ih => exact fun s h => ih _ (beginReplay_gone k h)

/-- R203: the first entry of each log of a crew goes out again. -/
theorem beginReplays_goes {o : Op} {i k : Nat} {l : List Nat} (hf : o.faulted = true) {ks : List Nat} (hn : ks.Nodup) (hk : k ∈ ks) :
    ∀ s : State, (s.gang k).log = i :: l → s.op i = some o ∨ Gone o i s → Gone o i (ks.foldl State.beginReplay s) := by
  induction ks with
  | nil => cases hk
  | cons j ks ih =>
    intro s hl h
    obtain ⟨hj, hks⟩ := List.nodup_cons.1 hn
    rcases List.mem_cons.1 hk with rfl | hk
    · exact beginReplays_gone ks _ (beginReplay_goes hf hl h)
    · refine ih hks hk _ ?_ (beginReplay_open hf j h)
      have hjk : k ≠ j := fun e => hj (e ▸ hk)
      have hm := (beginReplay_only s j).2 k
      rw [if_neg hjk] at hm
      rw [hm.log, hl]

section Crew
variable {s} {c : Nat} (hp : (s.crew c).phase = .resident)
include hp

/-- R203, R204: with no page missing the logs of a crew are replayed in place. -/
theorem replayInPlace_begins (hm : s.missing c = 0) (hl : ∃ k ∈ s.gangsOf c, (s.gang k).log ≠ [])
    (hr : ∀ k ∈ s.gangsOf c, (s.gang k).replay = []) (hn : (s.crew c).slots.Nodup) :
    ∃ t, exec (.replayInPlace c) s = .next t ∧ s.SameBytes t
      ∧ ∀ k ∈ s.gangsOf c, (t.gang k).log = [] ∧ (t.gang k).parked = false ∧ (t.gang k).replay = (s.gang k).log
        ∧ ∀ id l o, (s.gang k).log = id :: l → s.op id = some o → o.faulted = true → Gone o id t := by
  have hnd : (s.gangsOf c).Nodup := hn.filter _
  obtain ⟨ho, hg⟩ := beginReplays_only hnd s
  refine ⟨(s.gangsOf c).foldl State.beginReplay s, ?_, ho.sameBytes, fun k hk => ?_⟩
  · rw [exec_replayInPlace, execReplayInPlace, hp]
    rw [if_neg (by decide), if_neg, if_pos]
    · simpa [hm] using hl
    · simpa using hr
  · have hk' := hg k
    rw [if_pos hk] at hk'
    exact ⟨hk'.log, hk'.parked, hk'.replay, fun id l o hl ho hf => beginReplays_goes hf hnd hk s hl (.inl ho)⟩

/-- R203: a replay that has begun goes on once its entry has been performed. -/
theorem replayInPlace_goesOn {k id : Nat} {l : List Nat} (hk : s.gangsOf c = [k]) (hr : (s.gang k).replay = id :: l) :
    ∃ t, exec (.replayInPlace c) s = .next t ∧ s.SameBytes t
      ∧ (t.gang k).replay = (if s.replayed k id then l else id :: l) := by
  refine ⟨s.replayStep k, ?_, ?_⟩
  · rw [exec_replayInPlace, execReplayInPlace, hp, hk]
    rw [if_neg (by decide), if_pos]
    · rfl
    · simp [hr]
  · simp only [State.replayStep, hr]
    split
    · obtain ⟨ho, hm⟩ := replayFrom_only s k l
      have hk := hm k
      rw [if_pos rfl] at hk
      exact ⟨ho.sameBytes, hk.replay⟩
    · exact ⟨sameBytes_of_fields rfl rfl rfl (fun _ => rfl), hr⟩

end Crew

end Sys2Proof.Proofs
end

section
open Sys2Proof Sys2Proof.Machine Sys2Proof.Claims Sys2Proof.Laws

namespace Sys2Proof.Proofs

/-! ### Stores of the device to a context's memory -/

/-- A store of the device moves memory and the order of arrival at the slices. -/
def StoredOnly (s t : State) : Prop :=
  t = { s with quay := { s.quay with arrivals := t.quay.arrivals, mem := t.quay.mem }, hostMem := t.hostMem, peerMem := t.peerMem }

variable {s u : State} {asid va : Nat} {bs : List Byte}

/-! The device is no crew's: it waits for no store of one, pays no tokens, and no L1 takes its bytes. -/

@[simp] theorem crewStore_device (n : Nat) : u.crewStore (deviceWriter asid) va n = false := rfl
@[simp] theorem engAdmit_device (sl n : Nat) : u.engAdmit (deviceWriter asid) sl va n = (some u.arrival, u) := rfl
@[simp] theorem engPass_device (sl n : Nat) : u.engPass (deviceWriter asid) sl va n = u.nextArrival := rfl
@[simp] theorem crewL1_device : u.crewL1 (deviceWriter asid) va bs = u := rfl
@[simp] theorem engBytes_store (old : List Byte) : engBytes false old bs = bs := rfl
@[simp] theorem deviceWriter_asid : (deviceWriter asid).asid = asid := rfl

/-- A store of the device at the host. -/
theorem engWrite_host (hh : homeOf va = some .host) (hr : u.refused asid va bs.length = false) :
    u.engWrite (deviceWriter asid) va bs false = (.done, u.writeHost (va % 2 ^ 50) bs) := by
  simp [State.engWrite, hh, State.engCause, hr]

/-- A store of the device at a peer. -/
theorem engWrite_peer {p : Nat} (hh : homeOf va = some (.peer p)) (hp : u.portSet p va ≠ []) (hr : u.refused asid va bs.length = false)
    (ha : u.peerAbsent asid p va bs.length = none) :
    u.engWrite (deviceWriter asid) va bs false = (.done, u.writePeer va bs) := by
  simp [State.engWrite, hh, State.engCause, hp, hr, ha]

/-- A store of the device at a home of the device. -/
theorem engWrite_die {d pa kd : Nat} (hh : homeOf va = some (.die d)) (hf : u.fetching asid va bs.length = false)
    (hb : u.busyPage (busyKey asid d (va % 2 ^ 50)) = none) (hl : u.look asid d va true = .ok pa kd) (hk : kd ≠ kCow) :
    u.engWrite (deviceWriter asid) va bs false = (.done, u.nextArrival.writePhys pa bs) := by
  have hb' : u.nextArrival.busyPage (busyKey asid d (va % 2 ^ 50)) = none := hb
  have hl' : u.nextArrival.look asid d va true = .ok pa kd := hl
  simp only [State.engWrite, hh, crewStore_device, engAdmit_device, engPass_device, crewL1_device, engBytes_store, deviceWriter_asid,
    hf, hb', hl', if_neg hk, Bool.and_false, Bool.false_eq_true, if_false, Option.isSome_none]

theorem ring_setRing (s : State) (a : Nat) (r : FaultRing) : (s.setRing a r).ring a = r := by
  rw [State.ring, State.setRing, get_put_self]

@[simp] theorem ctxCause_ring (s : State) (kind source asid evseq a : Nat) : (s.ctxCause kind source asid evseq).ring a = s.ring a := by
  obtain ⟨_, _, _, _, _, h⟩ := ctxCause_only s kind source asid evseq
  rw [h]; rfl

section Puts
variable {pays out : Nat → Prop} {res : Res} {after : State → Prop}

/-- Where a store of the device is performed, the state after it is that of the statements. -/
theorem puts_of_engWrite
    (h : ∀ t, s.engWrite (deviceWriter asid) va bs false = (.done, t) → StoredOnly s t →
      ∃ t', res = .next t' ∧ after t' ∧ ∀ x, (¬out x → t'.readHost x 1 = t.readHost x 1)
        ∧ t'.readPhys x 1 = t.readPhys x 1 ∧ t'.readPeer x 1 = t.readPeer x 1) :
    Puts s asid va bs pays out res after := by
  refine ⟨fun hh hr => ?_, fun p hh hp hr ha => ?_, fun d pa kd hh hf hb _ hl hk => ?_⟩
  · obtain ⟨t', hres, haf, hx⟩ := h _ (engWrite_host hh hr) rfl
    refine ⟨t', hres, haf, fun x => ⟨fun ho => ((hx x).1 ho).trans ?_, (hx x).2⟩⟩
    exact readHost_writeHost s _ x bs
  · obtain ⟨t', hres, haf, hx⟩ := h _ (engWrite_peer hh hp hr ha) rfl
    refine ⟨t', hres, haf, fun x => ⟨(hx x).1, (hx x).2.1, (hx x).2.2.trans ?_⟩⟩
    exact readPeer_writePeer s _ x bs
  · obtain ⟨t', hres, haf, hx⟩ := h _ (engWrite_die hh hf hb hl hk) rfl
    refine ⟨t', hres, haf, fun x => ⟨(hx x).1, (hx x).2.1.trans ?_, (hx x).2.2⟩⟩
    exact readPhys_writePhys (s := s.nextArrival) pa x bs

/-- A read that takes its place in the order of arrival changes nothing that a store looks at. -/
theorem puts_of_arrived (h : Puts s.nextArrival asid va bs pays out res after) : Puts s asid va bs pays out res after := h

end Puts

/-- A read of the device that is performed leaves the state, or takes its place in the order of arrival. -/
theorem engRead_done {n : Nat} {rd : List Byte} (h : s.engRead (deviceWriter asid) va n = (.done, rd, u)) :
    u = s ∨ u = s.nextArrival := by
  unfold State.engRead at h
  simp only [crewStore_device, engAdmit_device, engPass_device, Bool.and_false, Bool.false_eq_true, if_false] at h
  split at h
  · split at h
    · cases h
    · split at h
      · cases h
      · cases h
      · cases h; exact .inr rfl
  · split at h
    · cases h
    · split at h
      · cases h
      · cases h; exact .inl rfl
    · cases h; exact .inl rfl

/-! ### The fault ring (R11, R199, R365) -/

section Ring
variable {r : BitVec 256} {rs : List (BitVec 256)} (hp : (s.ring asid).pending = r :: rs)
include hp

/-- R199: the oldest record that waits is written at its place where the ring has room. -/
theorem faultRingPost_record {rd : List Byte} (hw : (s.ring asid).wrote = false)
    (hr : s.engRead (deviceWriter asid) (s.ctxField asid 383 320) 8 = (.done, rd, u))
    (hn : ((s.ring asid).seq + 1 + 2 ^ 64 - leNat rd) % 2 ^ 64 < 2 ^ (s.ctxField asid 93 90 + 6)) :
    Puts s asid (s.ringAddr asid ((s.ring asid).seq + 1)) (natLE 32 r.toNat) (fun _ => True) (fun _ => False)
      (exec (.faultRingPost asid) s) (fun t => t.ring asid = ⟨(s.ring asid).seq, r :: rs, true⟩) := by
  have he : exec (.faultRingPost asid) s = .next (u.writeRecord asid ((s.ring asid).seq + 1) r) := by
    rw [exec_faultRingPost, execFaultRingPost, hp]
    simp only [hw, hr]
    exact if_neg (not_le.2 hn)
  have hput : Puts u asid (u.ringAddr asid ((s.ring asid).seq + 1)) (natLE 32 r.toNat) (fun _ => True) (fun _ => False)
      (exec (.faultRingPost asid) s) (fun t => t.ring asid = { u.ring asid with wrote := true }) := by
    refine puts_of_engWrite (fun t ht hs => ⟨_, he, ?_, fun x => ⟨fun _ => ?_, ?_, ?_⟩⟩)
    all_goals simp only [State.writeRecord, ht]
    · exact ring_setRing _ _ _
    · rfl
    · rfl
    · rfl
  have hring : ∀ v : State, v.ring asid = s.ring asid →
      { v.ring asid with wrote := true } = (⟨(s.ring asid).seq, r :: rs, true⟩ : FaultRing) := by
    intro v hv
    rw [hv, ← hp]
  rcases engRead_done hr with hu | hu
  · rw [hu, hring s rfl] at hput
    exact hput
  · rw [hu, hring s.nextArrival rfl] at hput
    exact puts_of_arrived hput

/-- R11, R365: the stamp follows its record, with its cause entry. -/
theorem faultRingPost_stamp (hw : (s.ring asid).wrote = true)
    (hk : s.spanParked asid (s.ringAddr asid ((s.ring asid).seq + 1)) 32 = false) :
    Puts s asid (s.ctxField asid 319 256) (natLE 8 ((s.ring asid).seq + 1)) (fun _ => True) (causeByte s)
      (exec (.faultRingPost asid) s) (fun t => t.ring asid = ⟨(s.ring asid).seq + 1, rs, false⟩
        ∧ CauseWritten s t (if bits r.toNat 86 85 = 1 then 3 else 2) 0 asid ((s.ring asid).seq + 1)) := by
  have he : exec (.faultRingPost asid) s = .next (s.stampRecord asid ((s.ring asid).seq + 1) r rs) := by
    rw [exec_faultRingPost, execFaultRingPost, hp]
    simp only [hw, if_true]
  refine puts_of_engWrite (fun t ht hs => ?_)
  have hst : s.stampRecord asid ((s.ring asid).seq + 1) r rs =
      (t.setRing asid ⟨(s.ring asid).seq + 1, rs, false⟩).ctxCause (if bits r.toNat 86 85 = 1 then 3 else 2) 0 asid
        ((s.ring asid).seq + 1) := by
    simp only [State.stampRecord, hk, ht]
    rfl
  have hu : SameCauseTable s (t.setRing asid ⟨(s.ring asid).seq + 1, rs, false⟩) := by
    rw [hs]
    exact ⟨rfl, rfl, rfl, rfl, rfl, rfl⟩
  refine ⟨_, he.trans (congrArg _ hst), ⟨?_, causeWritten_ctxCause _ _ _ _ hu⟩, fun x => ⟨fun hx => ?_, ?_, ?_⟩⟩
  · rw [ctxCause_ring, ring_setRing]
  · exact readHost_ctxCause _ _ _ _ hu hx
  · exact ctxCause_readPhys _ _ _ _ _ _ _
  · exact ctxCause_readPeer _ _ _ _ _ _ _

end Ring

end Sys2Proof.Proofs
end

section
open Sys2Proof Sys2Proof.Machine Sys2Proof.Claims Sys2Proof.Laws

namespace Sys2Proof.Proofs

/-! ### The entries of a canonical map -/

section Entries
variable {α : Type} [DecidableEq α] {d : α} {m : Map α}

theorem lt_of_mem_wfFrom {b : Nat} {e : Nat × α} (h : Map.wfFrom d (some b) m = true) (he : e ∈ m) : b < e.1 := by
  induction m generalizing b with
  | nil => cases he
  | cons x m ih =>
    obtain ⟨hb, -, hm⟩ := wfFrom_cons.1 h
    rcases List.mem_cons.1 he with rfl | he
    · exact hb b rfl
    · exact (hb b rfl).trans (ih hm he)

/-- The keys of a canonical map rise. -/
theorem pairwise_of_wfFrom {lo : Option Nat} (h : Map.wfFrom d lo m = true) : m.Pairwise (fun x y => x.1 < y.1) := by
  induction m generalizing lo with
  | nil => exact List.Pairwise.nil
  | cons x m ih =>
    obtain ⟨-, -, hm⟩ := wfFrom_cons.1 h
    exact List.pairwise_cons.2 ⟨fun e he => lt_of_mem_wfFrom hm he, ih hm⟩

theorem get_ne_of_mem {lo : Option Nat} {e : Nat × α} (h : Map.wfFrom d lo m = true) (he : e ∈ m) : Map.get d m e.1 ≠ d := by
  induction m generalizing lo with
  | nil => cases he
  | cons x m ih =>
    obtain ⟨-, hx, hm⟩ := wfFrom_cons.1 h
    rw [get_cons]
    split
    · exact hx
    · next hne =>
      rcases List.mem_cons.1 he with rfl | he
      · exact absurd rfl hne
      · exact ih hm he

omit [DecidableEq α] in
theorem mem_of_get_ne {k : Nat} (h : Map.get d m k ≠ d) : (k, Map.get d m k) ∈ m := by
  induction m with
  | nil => exact absurd rfl h
  | cons x m ih =>
    rw [get_cons] at h ⊢
    split at h
    · next hk => rw [if_pos hk, hk]; exact List.mem_cons_self
    · next hk => rw [if_neg hk]; exact List.mem_cons_of_mem _ (ih h)

/-- An entry of a canonical map, and the entries behind it, which have larger keys. -/
theorem split_of_get_ne {k : Nat} (hw : Map.wf d m = true) (h : Map.get d m k ≠ d) :
    ∃ l r, m = l ++ (k, Map.get d m k) :: r ∧ ∀ e ∈ r, k < e.1 := by
  obtain ⟨l, r, he⟩ := List.append_of_mem (mem_of_get_ne h)
  have hp := pairwise_of_wfFrom hw
  rw [he, List.pairwise_append, List.pairwise_cons] at hp
  exact ⟨l, r, he, hp.2.1.1⟩

end Entries

/-! ### Bytes of an image (Table 9-4) -/

/-- Two byte maps that read alike over a span. -/
def Alike (a n : Nat) (m m' : Map Byte) : Prop := ∀ x, a ≤ x → x < a + n → Map.get 0 m' x = Map.get 0 m x

theorem Alike.refl (a n : Nat) (m : Map Byte) : Alike a n m m := fun _ _ _ => rfl

theorem Alike.trans {a n : Nat} {m m' m'' : Map Byte} (h : Alike a n m m') (h' : Alike a n m' m'') : Alike a n m m'' :=
  fun x h1 h2 => (h' x h1 h2).trans (h x h1 h2)

theorem Alike.getList {a n : Nat} {m m' : Map Byte} (h : Alike a n m m') : Map.getList 0 m' a n = Map.getList 0 m a n := by
  refine List.ext_getElem (length_getList.trans length_getList.symm) (fun i hi hv => ?_)
  rw [length_getList] at hi
  rw [← List.getD_eq_getElem _ 0, ← List.getD_eq_getElem _ 0, getD_getList hi, getD_getList hi]
  exact h _ (by omega) (by omega)

theorem alike_foldl {β : Type} {a n : Nat} {f : Map Byte → β → Map Byte} {l : List β} (h : ∀ x ∈ l, ∀ m, Alike a n m (f m x)) :
    ∀ m, Alike a n m (l.foldl f m) := by
  induction l with
  | nil => exact fun m => .refl a n m
  | cons x l ih =>
    exact fun m => (h x List.mem_cons_self m).trans (ih (fun y hy => h y (List.mem_cons_of_mem _ hy)) _)

theorem alike_putList {a n k : Nat} {vs : List Byte} (h : k + vs.length ≤ a ∨ a + n ≤ k) (m : Map Byte) :
    Alike a n m (Map.putList 0 m k vs) := fun x h1 h2 => by
  rw [get_putList, if_neg (by omega)]

/-- Numbers at places beside a span. -/
theorem alike_imgPut {α : Type} {a n base w : Nat} {f : Nat → Nat} {v : α → Nat} {es : List (Nat × α)}
    (h : ∀ e ∈ es, base + f e.1 + w ≤ a ∨ a + n ≤ base + f e.1) (m : Map Byte) :
    Alike a n m (imgPut base w f v es m) :=
  alike_foldl (fun e he m => alike_putList (by rw [length_natLE]; exact h e he) m) m

theorem imgPut_append_cons {α : Type} {base w k : Nat} {f : Nat → Nat} {v : α → Nat} {x : α} {l r : List (Nat × α)}
    (m : Map Byte) :
    imgPut base w f v (l ++ (k, x) :: r) m
      = imgPut base w f v r (Map.putList 0 (imgPut base w f v l m) (base + f k) (natLE w (v x))) := by
  simp only [imgPut, List.foldl_append, List.foldl_cons]

theorem getList_putList_natLE (m : Map Byte) (k n v : Nat) : Map.getList 0 (Map.putList 0 m k (natLE n v)) k n = natLE n v := by
  have h := getList_putList (d := 0) (m := m) (k := k) (natLE n v)
  rwa [length_natLE] at h

/-- A number of a list of them, where those behind it have other places. -/
theorem getList_imgPut {α : Type} {base w k : Nat} {f : Nat → Nat} {v : α → Nat} {x : α} {l r : List (Nat × α)}
    (h : ∀ e ∈ r, base + f k + w ≤ base + f e.1) (m : Map Byte) :
    Map.getList 0 (imgPut base w f v (l ++ (k, x) :: r) m) (base + f k) w = natLE w (v x) := by
  have ha : Alike (base + f k) w (Map.putList 0 (imgPut base w f v l m) (base + f k) (natLE w (v x)))
      (imgPut base w f v (l ++ (k, x) :: r) m) := by
    rw [imgPut_append_cons]
    exact alike_imgPut (fun e he => .inr (h e he)) _
  rw [ha.getList]
  exact getList_putList_natLE _ _ _ _

section GangImage
variable (g : Gang) (base : Nat) (m : Map Byte)

/-- The parts of a gang's area behind its scalar registers lie from 0x600 on. -/
theorem alike_behind_sreg {a n : Nat} (h : a + n ≤ base + 0x600) :
    Alike a n (imgPut base 4 (fun r => 0x400 + 4 * r) BitVec.toNat g.sreg m) (g.image base m) := by
  unfold Gang.image
  extract_lets m1 m2 m3 m4 m5 m6
  have h2 : Alike a n m1 m2 := alike_imgPut (fun _ _ => .inr (by omega)) m1
  have h3 : Alike a n m2 m3 := alike_imgPut (fun _ _ => .inr (by omega)) m2
  have h4 : Alike a n m3 m4 := alike_imgPut (fun _ _ => .inr (by omega)) m3
  have h5 : Alike a n m4 m5 := alike_foldl (fun _ _ => alike_imgPut (fun _ _ => .inr (by omega))) m4
  have h6 : Alike a n m5 m6 := alike_imgPut (fun _ _ => .inr (by omega)) m5
  exact h2.trans (h3.trans (h4.trans (h5.trans (h6.trans (alike_imgPut (fun _ _ => .inr (by omega)) m6)))))

/-- A gang's area is behind whatever ends before its registers. -/
theorem alike_image {a n : Nat} (h : a + n ≤ base + 0x400) : Alike a n m (g.image base m) :=
  (alike_imgPut (fun _ _ => .inr (by omega)) m).trans (alike_behind_sreg g base m (by omega))

/-- R205, Table 9-4: the scalar registers in a gang's area. -/
theorem image_sreg {r : Nat} (hw : Map.wf (0 : Word) g.sreg = true) (hr : r < 128) (hv : g.rs r ≠ 0) :
    Map.getList 0 (g.image base m) (base + 0x400 + 4 * r) 4 = natLE 4 (g.rs r).toNat := by
  have hrs : g.rs r = Map.get 0 g.sreg r := by
    unfold Gang.rs at hv ⊢
    split at hv
    · exact absurd rfl hv
    · next h0 => rw [if_neg h0]
  rw [hrs] at hv ⊢
  obtain ⟨l, rest, he, hl⟩ := split_of_get_ne hw hv
  rw [(alike_behind_sreg g base m (by omega)).getList, Nat.add_assoc]
  generalize Map.get 0 g.sreg r = v at he ⊢
  rw [he]
  exact getList_imgPut (fun e h => by have := hl e h; omega) m

end GangImage

/-! ### The image of a crew (R205) -/

variable (s : State)

/-- Free bytes over areas beside a span. -/
theorem alike_putFree {a n : Nat} (as : List (Nat × Nat)) : ∀ (k : Nat) (m : Map Byte),
    (∀ x ∈ as, x.1 + x.2 ≤ a ∨ a + n ≤ x.1) → Alike a n m (s.putFree m k as) := by
  induction as with
  | nil => exact fun k m _ => .refl a n m
  | cons x as ih =>
    intro k m h
    refine .trans (alike_putList ?_ m) (ih _ _ (fun y hy => h y (List.mem_cons_of_mem _ hy)))
    rw [List.length_map, List.length_range]
    exact h x List.mem_cons_self

theorem gangAreas_base {c : Nat} {x : Gang × Nat} (h : x ∈ s.gangAreas c) : 0x20000 + (s.crew c).scrSize ≤ x.2 := by
  obtain ⟨h, -⟩ := List.mem_filter.1 h
  obtain ⟨y, -, rfl⟩ := List.mem_map.1 h
  omega

/-- The parts of an image whose places the manual leaves open lie beside the scratchpad's. -/
theorem openAreas_beside {c : Nat} {x : Nat × Nat} (h : x ∈ s.openAreas c) :
    x.1 + x.2 ≤ 0x20000 ∨ 0x20000 + (s.crew c).scrSize ≤ x.1 := by
  rcases List.mem_append.1 h with h | h
  · refine .inl ?_
    simp only [List.mem_cons, List.not_mem_nil, or_false] at h
    rcases h with rfl | rfl | rfl | rfl
    · omega
    · omega
    · dsimp only; omega
    · omega
  · obtain ⟨y, hy, hx⟩ := List.mem_flatMap.1 h
    have hb := gangAreas_base s hy
    simp only [List.mem_cons, List.not_mem_nil, or_false] at hx
    rcases hx with rfl | rfl | rfl
    · exact .inr hb
    · exact .inr (by dsimp only; omega)
    · exact .inr (by dsimp only; omega)

/-- The scratchpad's part of an image. -/
theorem image_scratch {c a : Nat} (hw : Memory.wf (s.crew c).scratch = true) (ha : a < (s.crew c).scrSize) :
    Map.getList 0 (s.image c) (0x20000 + a) 1 = (s.crew c).readScr a 1 := by
  have hfree : Alike (0x20000 + a) 1 [] (s.putFree [] 0 (s.openAreas c)) :=
    alike_putFree s _ _ _ (fun x hx => by have := openAreas_beside s hx; omega)
  have hgangs : ∀ m, Alike (0x20000 + a) 1 m ((s.gangAreas c).foldl (fun m x => x.1.image x.2 m) m) :=
    alike_foldl (fun x hx m => alike_image _ _ _ (by have := gangAreas_base s hx; omega))
  unfold State.image
  rw [(hgangs _).getList]
  by_cases hb : Map.get 0 (s.crew c).scratch a = 0
  · have hkeys : ∀ e ∈ (s.crew c).scratch, e.1 ≠ a := fun e he h => get_ne_of_mem hw he (h ▸ hb)
    rw [(alike_imgPut (fun e he => ?_) _).getList, hfree.getList]
    · exact congrArg (fun b => [b]) hb.symm
    · have := hkeys e he
      simp only [id]
      omega
  · obtain ⟨l, r, he, hr⟩ := split_of_get_ne hw hb
    have hread : (s.crew c).readScr a 1 = [Map.get 0 (s.crew c).scratch a] := rfl
    rw [hread]
    generalize Map.get 0 (s.crew c).scratch a = b at he ⊢
    rw [he]
    refine (getList_imgPut (f := id) (v := fun b : Byte => b.toNat) (fun e h => ?_) _).trans ?_
    · have := hr e h
      simp only [id]
      omega
    · simp [natLE]

/-- A gang of a crew by its slot and its place, with its area. -/
def gangArea (c : Nat) (x : Nat × Nat) : Gang × Nat := (s.gang x.1, 0x20000 + (s.crew c).scrSize + 0x3B000 * x.2)

theorem gangAreas_eq (c : Nat) :
    s.gangAreas c = ((s.crew c).slots.zipIdx.map (gangArea s c)).filter (fun x => x.1.phase != .absent) := rfl

/-- The area of a gang that is left; those of the gangs behind it follow. -/
theorem gangAreas_split {c i k : Nat} (hk : (s.crew c).slots[i]? = some k) (hp : (s.gang k).phase ≠ .absent) :
    ∃ l r, s.gangAreas c = l ++ (s.gang k, 0x20000 + (s.crew c).scrSize + 0x3B000 * i) :: r
      ∧ ∀ x ∈ r, 0x20000 + (s.crew c).scrSize + 0x3B000 * (i + 1) ≤ x.2 := by
  obtain ⟨hi, hik⟩ := List.getElem?_eq_some_iff.1 hk
  have hsl : (s.crew c).slots = (s.crew c).slots.take i ++ k :: (s.crew c).slots.drop (i + 1) := by
    rw [← hik, List.cons_getElem_drop_succ, List.take_append_drop]
  have hlen : 0 + ((s.crew c).slots.take i).length = i := by
    rw [List.length_take]
    omega
  have hz : (s.crew c).slots.zipIdx = ((s.crew c).slots.take i).zipIdx ++ (k, i) :: ((s.crew c).slots.drop (i + 1)).zipIdx (i + 1) := by
    conv_lhs => rw [hsl, List.zipIdx_append, List.zipIdx_cons, hlen]
  refine ⟨((((s.crew c).slots.take i).zipIdx).map (gangArea s c)).filter (fun x => x.1.phase != .absent),
    ((((s.crew c).slots.drop (i + 1)).zipIdx (i + 1)).map (gangArea s c)).filter (fun x => x.1.phase != .absent), ?_, ?_⟩
  · rw [gangAreas_eq, hz, List.map_append, List.map_cons, List.filter_append, List.filter_cons_of_pos (by simpa [gangArea] using hp)]
    rfl
  · intro x hx
    obtain ⟨h, -⟩ := List.mem_filter.1 hx
    obtain ⟨y, hy, rfl⟩ := List.mem_map.1 h
    have := (List.mem_zipIdx hy).1
    simp only [gangArea]
    omega

/-- The scalar registers of a gang that is left, in its area. -/
theorem image_gang {c i k r : Nat} (hk : (s.crew c).slots[i]? = some k) (hp : (s.gang k).phase ≠ .absent)
    (hw : Map.wf (0 : Word) (s.gang k).sreg = true) (hr : r < 128) (hv : (s.gang k).rs r ≠ 0) :
    Map.getList 0 (s.image c) (0x20000 + (s.crew c).scrSize + 0x3B000 * i + 0x400 + 4 * r) 4 = natLE 4 ((s.gang k).rs r).toNat := by
  obtain ⟨l, rest, he, hrest⟩ := gangAreas_split s hk hp
  unfold State.image
  dsimp only
  rw [he, List.foldl_append, List.foldl_cons]
  refine (alike_foldl (fun x hx m => alike_image _ _ _ ?_) _).getList.trans (image_sreg _ _ _ hw hr hv)
  have := hrest x hx
  omega

end Sys2Proof.Proofs
end

section
open Sys2Proof Sys2Proof.Machine Sys2Proof.Claims Sys2Proof.Laws

namespace Sys2Proof.Proofs

/-! ### What leaving and taking a core leave alone -/

/-- Two states with the same crews, images, L1 lines and memory. -/
structure Kept (s t : State) : Prop where
  crews : t.crews = s.crews
  images : t.images = s.images
  l1 : t.l1 = s.l1
  mem : t.quay.mem = s.quay.mem
  hostMem : t.hostMem = s.hostMem
  peerMem : t.peerMem = s.peerMem

theorem Kept.refl (s : State) : Kept s s := ⟨rfl, rfl, rfl, rfl, rfl, rfl⟩

theorem Kept.trans {s t u : State} (h : Kept s t) (g : Kept t u) : Kept s u :=
  ⟨g.crews.trans h.crews, g.images.trans h.images, g.l1.trans h.l1, g.mem.trans h.mem, g.hostMem.trans h.hostMem,
    g.peerMem.trans h.peerMem⟩

theorem Kept.crew {s t : State} (h : Kept s t) (c : Nat) : t.crew c = s.crew c := by
  rw [State.crew, State.crew, h.crews]

theorem Kept.sameBytes {s t : State} (h : Kept s t) : s.SameBytes t :=
  sameBytes_of_fields h.mem h.hostMem h.peerMem (fun c => by rw [h.crew])

theorem sameBytes_trans {s t u : State} (h : s.SameBytes t) (g : t.SameBytes u) : s.SameBytes u := by
  intro a
  obtain ⟨h1, h2, h3, h4⟩ := h a
  obtain ⟨g1, g2, g3, g4⟩ := g a
  exact ⟨g1.trans h1, g2.trans h2, g3.trans h3, fun c => (g4 c).trans (h4 c)⟩

theorem kept_foldl {β : Type} {f : State → β → State} {l : List β} (h : ∀ s, ∀ x ∈ l, Kept s (f s x)) :
    ∀ s, Kept s (l.foldl f s) := by
  induction l with
  | nil => exact .refl
  | cons x l ih => exact fun s => (h s x List.mem_cons_self).trans (ih (fun s y hy => h s y (List.mem_cons_of_mem _ hy)) _)

theorem ReplayOnly.kept {s t : State} (h : ReplayOnly s t) : Kept s t := by
  rw [h]
  exact ⟨rfl, rfl, rfl, rfl, rfl, rfl⟩

variable (s : State)

theorem setGang_kept (k : Nat) (g : Gang) : Kept s (s.setGang k g) := ⟨rfl, rfl, rfl, rfl, rfl, rfl⟩

theorem moveOne_kept (p : Nat × Nat) : Kept s (s.moveOne p) := ⟨rfl, rfl, rfl, rfl, rfl, rfl⟩

theorem moveGangs_kept (c : Nat) (ps : List (Nat × Nat)) (hop : HOp → HOp) : Kept s (s.moveGangs c ps hop) :=
  .trans (kept_foldl (fun s p _ => moveOne_kept s p) s) ⟨rfl, rfl, rfl, rfl, rfl, rfl⟩

/-- Two states that differ beside memory in what stands at the slices only. -/
def SlicesOnly (s t : State) : Prop := t = { s with quay := { t.quay with mem := s.quay.mem } }

theorem SlicesOnly.refl (s : State) : SlicesOnly s s := rfl

theorem SlicesOnly.trans {s t u : State} (h : SlicesOnly s t) (g : SlicesOnly t u) : SlicesOnly s u := by
  unfold SlicesOnly at *
  rw [g, h]

theorem SlicesOnly.kept {s t : State} (h : SlicesOnly s t) : Kept s t := by
  rw [h]
  exact ⟨rfl, rfl, rfl, rfl, rfl, rfl⟩

theorem SlicesOnly.gang {s t : State} (h : SlicesOnly s t) (k : Nat) : t.gang k = s.gang k := by
  rw [h]
  rfl

theorem slicesOnly_foldl {β : Type} {f : State → β → State} {l : List β} (h : ∀ s x, SlicesOnly s (f s x)) :
    ∀ s, SlicesOnly s (l.foldl f s) := by
  induction l with
  | nil => exact .refl
  | cons x l ih => exact fun s => (h s x).trans (ih _)

theorem refreshOne_slicesOnly (now key : Nat) : SlicesOnly s (s.refreshOne now key) := by
  unfold State.refreshOne
  dsimp only
  split
  · rfl
  · rfl

theorem refreshDie_slicesOnly (asid die : Nat) : SlicesOnly s (s.refreshDie asid die) :=
  slicesOnly_foldl (fun u _ => refreshOne_slicesOnly u _ _) s

theorem buckets_slicesOnly (since : Map (Option Nat)) (buckets : Map Bucket) :
    SlicesOnly s { s with quay := { s.quay with since := since, buckets := buckets } } := rfl

theorem freeDie_slicesOnly (asid die : Nat) : SlicesOnly s (s.freeDie asid die) := by
  unfold State.freeDie
  split
  · exact .refl s
  · exact .trans (refreshDie_slicesOnly s asid die) (buckets_slicesOnly _ _ _)

theorem holdDie_slicesOnly (asid die : Nat) : SlicesOnly s (s.holdDie asid die) := by
  unfold State.holdDie
  split
  · rfl
  · rfl

theorem berths_slicesOnly (bs : Map Berth) : SlicesOnly s { s with quay := { s.quay with berths := bs } } := rfl

theorem logFault_kept (o : Op) : Kept s (s.logFault o) := by
  obtain ⟨gs, b, h, -⟩ := logFault_only s o
  rw [h]
  exact ⟨rfl, rfl, rfl, rfl, rfl, rfl⟩

theorem haltClaims_kept (c : Nat) : Kept s (s.haltClaims c) :=
  kept_foldl (fun u _ _ => .trans (berths_slicesOnly u _).kept (logFault_kept _ _)) s

theorem beginReplay_kept (k : Nat) : Kept s (s.beginReplay k) := (beginReplay_only s k).1.kept

theorem resumeWaits_kept (ks : List Nat) : ∀ s : State, Kept s (s.resumeWaits ks) := by
  induction ks with
  | nil => exact .refl
  | cons k ks ih =>
    intro s
    rw [State.resumeWaits]
    refine .trans ?_ (ih _)
    split
    · exact ⟨rfl, rfl, rfl, rfl, rfl, rfl⟩
    · split
      · split
        · exact ⟨rfl, rfl, rfl, rfl, rfl, rfl⟩
        · exact .refl s
      · exact .refl s
    · exact .refl s

theorem crew_emptyL1 (core b : Nat) : (s.emptyL1 core).crew b = s.crew b := rfl

theorem setPassed_kept (part core n : Nat) : Kept s (s.setPassed part core n) := ⟨rfl, rfl, rfl, rfl, rfl, rfl⟩

theorem choose_kept {part : Nat} {pinned : Bool} {h : Shape} {x : Nat × List Nat × Nat} {s1 : State}
    (hc : s.choose part pinned h = some (x, s1)) : Kept s s1 := by
  unfold State.choose at hc
  extract_lets cs win _ u1 u2 at hc
  clear_value win
  have h1 : Kept s u1 := ⟨rfl, rfl, rfl, rfl, rfl, rfl⟩
  have h2 : Kept u1 u2 := by
    unfold u2
    split
    · exact .refl u1
    · exact ⟨rfl, rfl, rfl, rfl, rfl, rfl⟩
  split at hc
  · cases hc
  · extract_lets y u3 at hc
    have h3 : Kept u2 u3 := kept_foldl (fun t z _ => by
      split
      · exact .refl t
      · exact setPassed_kept _ _ _ _) u2
    split at hc
    · cases hc
      exact h1.trans (setPassed_kept _ _ _ _)
    · obtain ⟨-, rfl⟩ := Prod.ext_iff.1 (Option.some.inj hc)
      exact h1.trans (h2.trans (h3.trans (setPassed_kept _ _ _ _)))

/-! ### Crews come back (R203, R350) -/

/-- R203: a crew that takes its seats on a core. -/
theorem restore_spec (c core : Nat) (seats : List Nat) (base : Nat) :
    let t := s.restore c core seats base
    (t.crew c).phase = .resident ∧ (t.crew c).core = core ∧ (t.crew c).scratchBase = base ∧ (∀ l ∈ t.l1, l.core ≠ core)
      ∧ Map.get [] t.images c = [] ∧ s.SameBytes t := by
  intro t
  have ht : s.restore c core seats base = t := rfl
  unfold State.restore at ht
  extract_lets w ps s1 slots s2 s3 at ht
  have h1 : Kept s s1 := moveGangs_kept s c ps _
  have h2 : Kept ((s1.setCrew c { w with phase := .resident, core := core, scratchBase := base, slots := slots }).emptyL1 core) s2 :=
    (holdDie_slicesOnly _ _ _).kept
  have h3 : Kept { s2 with images := Map.put [] s2.images c [] } s3 := resumeWaits_kept _ _
  have h4 : Kept s3 t := ht ▸ kept_foldl (fun u k _ => beginReplay_kept u k) s3
  have h5 := h3.trans h4
  have hcrew : ∀ b, t.crew b =
      if b = c then { w with phase := .resident, core := core, scratchBase := base, slots := slots } else s.crew b := fun b => by
    rw [h5.crew]
    refine (h2.crew b).trans ?_
    rw [crew_emptyL1, setCrew_crew, h1.crew]
  refine ⟨?_, ?_, ?_, ?_, ?_, ?_⟩
  · rw [hcrew, if_pos rfl]
  · rw [hcrew, if_pos rfl]
  · rw [hcrew, if_pos rfl]
  · rw [h5.l1]
    intro l hl
    have hl2 : l ∈ s2.l1 := hl
    rw [h2.l1] at hl2
    simpa using (List.mem_filter.1 hl2).2
  · rw [h5.images]
    change Map.get [] (Map.put [] s2.images c []) c = []
    rw [get_put_self]
  · refine sameBytes_of_fields (h5.mem.trans (h2.mem.trans h1.mem)) (h5.hostMem.trans (h2.hostMem.trans h1.hostMem))
      (h5.peerMem.trans (h2.peerMem.trans h1.peerMem)) (fun b => ?_)
    rw [hcrew]
    split
    · next hb => rw [hb]
    · rfl

/-- R203, R350: a crew that is out takes the core that is chosen for it. -/
theorem crewRestore_takes {c : Nat} {x : Nat × List Nat × Nat} {s1 : State} (hp : (s.crew c).phase = .out)
    (hn : (s.nextItem ((s.crew c).d 379 376)).bind Item.out = some c)
    (hc : s.choose ((s.crew c).d 379 376) (s.pinned (s.crew c).asid) (s.outShape (s.crew c)) = some (x, s1)) :
    ∃ t, exec (.crewRestore c) s = .next t ∧ (t.crew c).phase = .resident ∧ (t.crew c).core = x.1
      ∧ (t.crew c).scratchBase = x.2.2 ∧ (∀ l ∈ t.l1, l.core ≠ x.1) ∧ Map.get [] t.images c = [] ∧ s.SameBytes t := by
  have hk := choose_kept s hc
  obtain ⟨h1, h2, h3, h4, h5, h6⟩ := restore_spec s1 c x.1 x.2.1 x.2.2
  refine ⟨s1.restore c x.1 x.2.1 x.2.2, ?_, h1, h2, h3, h4, h5, ?_⟩
  · rw [exec_crewRestore, execCrewRestore, hp]
    simp only [hn, hc]
    rw [if_neg (by decide), if_neg (by simp)]
  · exact sameBytes_trans hk.sameBytes h6

/-! ### Crews leave (R202, R206) -/

/-- Two states of a gang with the same phase and scalar registers. -/
def SameRegs (g h : Gang) : Prop := h.phase = g.phase ∧ h.sreg = g.sreg

theorem SameRegs.refl (g : Gang) : SameRegs g g := ⟨rfl, rfl⟩

theorem SameRegs.trans {f g h : Gang} (hfg : SameRegs f g) (hgh : SameRegs g h) : SameRegs f h :=
  ⟨hgh.1.trans hfg.1, hgh.2.trans hfg.2⟩

theorem sameRegs_foldl {β : Type} {f : State → β → State} {l : List β} {k : Nat}
    (h : ∀ s x, SameRegs (s.gang k) ((f s x).gang k)) : ∀ s, SameRegs (s.gang k) ((l.foldl f s).gang k) := by
  induction l with
  | nil => exact fun s => .refl _
  | cons x l ih => exact fun s => (h s x).trans (ih _)

theorem logFault_sameRegs (o : Op) (k : Nat) : SameRegs (s.gang k) ((s.logFault o).gang k) := by
  obtain ⟨gs, b, -, h⟩ := logFault_only s o
  rw [h]
  split
  · next hk => rw [hk]; exact ⟨rfl, rfl⟩
  · exact .refl _

theorem haltClaims_sameRegs (c k : Nat) : SameRegs (s.gang k) ((s.haltClaims c).gang k) := by
  unfold State.haltClaims
  refine sameRegs_foldl (fun u o => ?_) s
  refine .trans ?_ (logFault_sameRegs _ _ k)
  exact .refl _

theorem saved_sameRegs (ks : List Nat) (k : Nat) :
    SameRegs (s.gang k) ((ks.foldl (fun t j => t.setGang j (t.gang j).saved) s).gang k) :=
  sameRegs_foldl (fun u j => by
    rw [setGang_gang]
    split
    · next hk => rw [hk]; exact ⟨rfl, rfl⟩
    · exact .refl _) s

/-- A slot that is empty, or that its gang leaves, is empty after the moves to other slots. -/
theorem moves_absent {ps : List (Nat × Nat)} {k : Nat} (hk : ∀ p ∈ ps, p.2 ≠ k) : ∀ s : State,
    ((s.gang k).phase = .absent ∨ ∃ p ∈ ps, p.1 = k) → ((ps.foldl State.moveOne s).gang k).phase = .absent := by
  induction ps with
  | nil =>
    rintro s (h | ⟨p, hp, -⟩)
    · exact h
    · cases hp
  | cons p ps ih =>
    intro s h
    refine ih (fun q hq => hk q (List.mem_cons_of_mem _ hq)) _ ?_
    have hg : (s.moveOne p).gang k = if k = p.1 then Gang.empty else s.gang k := by
      have hne : k ≠ p.2 := fun e => hk p List.mem_cons_self e.symm
      rw [State.moveOne, setGang_gang, if_neg hne, setGang_gang]
    rw [hg]
    by_cases hp : k = p.1
    · exact .inl (by rw [if_pos hp]; rfl)
    · rw [if_neg hp]
      refine h.imp_right ?_
      rintro ⟨q, hq, hqk⟩
      rcases List.mem_cons.1 hq with rfl | hq
      · exact absurd hqk.symm hp
      · exact ⟨q, hq, hqk⟩

/-! The steps of a switch-out (R202 steps 3 to 5), named: the gangs as they are saved, the image, and the moves to the keys under which
the gangs are kept. -/

def saveGangs (c : Nat) : State :=
  ((s.haltClaims c).gangsOf c).foldl (fun t k => t.setGang k (t.gang k).saved) (s.haltClaims c)

def saveImage (c : Nat) : State := { s.useFree (s.imageFree c) with images := Map.put [] s.images c (s.image c) }

def awayMoves (c : Nat) : List (Nat × Nat) :=
  ((s.crew c).slots.map (fun k => (k, heldKey c (s.gang k).num))).filter (fun p => (s.gang p.1).phase != .absent)

/-- Queue entries that have left and are still to be performed stand in their queue again. -/
def comesBack (c : Nat) (o : Op) : Bool :=
  o.crew == c && o.inQ && o.stage == .sent && o.els.any (fun e => e.st == .todo) && !o.els.any (fun e => e.st == .parked)

def moveAway (c : Nat) : State :=
  let u := (s.leaveVacq (s.crew c).slots).moveGangs c (awayMoves s c) (fun h => h.leave (awayMoves s c))
  ({ u with ops := u.ops.map (fun o => if comesBack c o then o.requeued else o) } : State).callBack c

def awayCrew (c : Nat) : Crew := { s.crew c with phase := .out, slots := (s.crew c).slots.map (rekey (awayMoves s c)) }

theorem switchOut_eq (c : Nat) : s.switchOut c =
    ((moveAway (saveImage (saveGangs s c) c) c).setCrew c (awayCrew (saveImage (saveGangs s c) c) c)).freeDie
      ((saveImage (saveGangs s c) c).crew c).asid (((saveImage (saveGangs s c) c).crew c).core / 64) := rfl

theorem saveGangs_kept (c : Nat) : Kept s (saveGangs s c) :=
  (haltClaims_kept s c).trans (kept_foldl (fun u k _ => setGang_kept u k _) _)

theorem saveGangs_sameRegs (c k : Nat) : SameRegs (s.gang k) ((saveGangs s c).gang k) :=
  (haltClaims_sameRegs s c k).trans (saved_sameRegs _ _ k)

theorem moveAway_kept (c : Nat) : Kept s (moveAway s c) :=
  .trans (t := s.leaveVacq (s.crew c).slots) ⟨rfl, rfl, rfl, rfl, rfl, rfl⟩ (.trans
    (moveGangs_kept _ c (awayMoves s c) (fun h => h.leave (awayMoves s c))) ⟨rfl, rfl, rfl, rfl, rfl, rfl⟩)

theorem moveAway_absent {c k : Nat} (hk : k ∈ (s.crew c).slots) (hlt : k < 16384) : ((moveAway s c).gang k).phase = .absent := by
  refine moves_absent (ps := awayMoves s c) (fun p hp => ?_) (s.leaveVacq (s.crew c).slots) ?_
  · obtain ⟨j, -, rfl⟩ := List.mem_map.1 (List.mem_filter.1 hp).1
    simp only [heldKey]
    omega
  · by_cases ha : (s.gang k).phase = .absent
    · exact .inl ha
    · exact .inr ⟨(k, heldKey c (s.gang k).num), List.mem_filter.2 ⟨List.mem_map.2 ⟨k, hk, rfl⟩, by simpa using ha⟩, rfl⟩

/-- What a switch-out leaves. -/
theorem switchOut_spec (c : Nat) :
    ((s.switchOut c).crew c).phase = .out ∧ s.SameBytes (s.switchOut c)
      ∧ (∀ k ∈ (s.crew c).slots, k < 16384 → ((s.switchOut c).gang k).phase = .absent)
      ∧ Map.get [] (s.switchOut c).images c = (saveGangs s c).image c := by
  have hu := saveGangs_kept s c
  rw [switchOut_eq]
  generalize saveGangs s c = u at hu ⊢
  have hvc : ∀ b, (saveImage u c).crew b = s.crew b := hu.crew
  have hvi : Map.get [] (saveImage u c).images c = u.image c := by
    change Map.get [] (Map.put [] u.images c (u.image c)) c = _
    rw [get_put_self]
  have hvb : s.SameBytes (saveImage u c) := hu.sameBytes
  generalize saveImage u c = v at hvc hvi hvb ⊢
  have hm := moveAway_kept v c
  have hf := freeDie_slicesOnly ((moveAway v c).setCrew c (awayCrew v c)) (v.crew c).asid ((v.crew c).core / 64)
  refine ⟨?_, ?_, fun k hk hlt => ?_, ?_⟩
  · rw [hf.kept.crew, setCrew_crew, if_pos rfl]
    rfl
  · refine sameBytes_trans hvb (sameBytes_trans hm.sameBytes (sameBytes_trans ?_ hf.kept.sameBytes))
    refine sameBytes_of_fields rfl rfl rfl (fun b => ?_)
    rw [setCrew_crew, hm.crew]
    split
    · next hb => rw [hb]; rfl
    · rfl
  · rw [hf.gang, setCrew_gang]
    exact moveAway_absent v ((hvc c).symm ▸ hk) hlt
  · rw [hf.kept.images]
    exact (congrArg (Map.get [] · c) hm.images).trans hvi

section SwitchOut
variable {s} {c : Nat} (hp : (s.crew c).phase = .halting) (ht : ∀ k ∈ (s.crew c).slots, s.takes k = false)
  (ho : ∀ o ∈ s.ops, o.crew = c → s.opRests o = true) (hh : ∀ h ∈ s.hops, h.crew ≠ c) (hc : (s.crew c).ring.cmds = [])
  (hr : s.coreReleased c (s.crew c).core = true)
include hp ht ho hh hc hr

/-- R206: a crew that is halted and at rest is saved. -/
theorem exec_crewSwitchOut_halted : exec (.crewSwitchOut c) s = .next (s.switchOut c) := by
  rw [exec_crewSwitchOut, execCrewSwitchOut]
  refine if_pos ?_
  simp only [hp, State.crewRests, hc, hr, List.all_nil, Bool.and_true, Bool.and_eq_true, List.all_eq_true, beq_self_eq_true,
    Bool.true_or, true_and, Bool.or_eq_true, bne_iff_ne, ne_eq, Bool.not_eq_true']
  exact ⟨ht, fun o h => or_iff_not_imp_left.2 (fun hn => ho o h (not_not.1 (not_or.1 hn).1)), fun h hm => .inl (hh h hm)⟩

/-- R202, R205, R206, Table 9-4: a crew that is halted and at rest leaves its core, with its image saved. -/
theorem crewSwitchOut_saves :
    ∃ t, exec (.crewSwitchOut c) s = .next t ∧ (t.crew c).phase = .out ∧ s.SameBytes t
      ∧ (∀ k ∈ (s.crew c).slots, k < 16384 → (t.gang k).phase = .absent)
      ∧ (Memory.wf (s.crew c).scratch = true → ∀ a < (s.crew c).scrSize,
          Map.getList 0 (Map.get [] t.images c) (0x20000 + a) 1 = (s.crew c).readScr a 1)
      ∧ ∀ i k r, (s.crew c).slots[i]? = some k → (s.gang k).phase ≠ .absent → Map.wf (0 : Word) (s.gang k).sreg = true →
          r < 128 → (s.gang k).rs r ≠ 0 →
          Map.getList 0 (Map.get [] t.images c) (0x20000 + (s.crew c).scrSize + 0x3B000 * i + 0x400 + 4 * r) 4
            = natLE 4 ((s.gang k).rs r).toNat := by
  obtain ⟨hout, hbytes, habs, hu⟩ := switchOut_spec s c
  have huc := (saveGangs_kept s c).crew c
  have hur := saveGangs_sameRegs s c
  generalize saveGangs s c = u at hu huc hur
  refine ⟨_, exec_crewSwitchOut_halted hp ht ho hh hc hr, hout, hbytes, habs, fun hw a ha => ?_, fun i k r hk hph hw hr hv => ?_⟩
  · rw [hu, ← huc]
    rw [← huc] at hw ha
    exact image_scratch u hw ha
  · obtain ⟨hphase, hsreg⟩ := hur k
    have hrs : (u.gang k).rs r = (s.gang k).rs r := by rw [Gang.rs, Gang.rs, hsreg]
    rw [hu, ← huc, ← hrs]
    exact image_gang u (huc ▸ hk) (hphase ▸ hph) (hsreg ▸ hw) hr (hrs ▸ hv)

end SwitchOut

/-- Settles O42, event by event: the report of a fault, a replay and its next step, the ring's record and stamp, the switch-out and
the restore of a crew. -/
theorem faultsAndReplay : Obligations.FaultsAndReplay := by
  refine ⟨fun op o s ho hf ht hs hg hl hu => faultReport_logs ho hf ht hs hg hl hu,
    fun op o s ho hf ht hs hg hl hu => faultReport_full ho hf ht hs hg hl hu,
    fun c s hp => ⟨replayInPlace_begins hp, fun k id l => replayInPlace_goesOn hp⟩,
    fun asid r rs s hp => ⟨fun bs s1 hw hr hn => faultRingPost_record hp hw hr hn, fun hw hk => faultRingPost_stamp hp hw hk⟩,
    fun c s => crewSwitchOut_saves,
    fun c x s s1 => crewRestore_takes s⟩

end Sys2Proof.Proofs
end

section
open Sys2Proof Sys2Proof.Machine Sys2Proof.Claims Sys2Proof.Laws

namespace Sys2Proof.Proofs

/-! ### Fields of words -/

theorem fld_lt (w hi lo : Nat) : fld w hi lo < 2 ^ (hi + 1 - lo) := Nat.mod_lt _ (Nat.two_pow_pos _)

@[simp] theorem fin_val {n : Nat} [NeZero n] (d : Fin n) : fin n d.val = d := by simp [fin]

theorem val_fin_fld {n w hi lo : Nat} [NeZero n] (h : n = 2 ^ (hi + 1 - lo)) : (fin n (fld w hi lo)).val = fld w hi lo :=
  Nat.mod_eq_of_lt (h ▸ fld_lt w hi lo)

theorem b1_lt (b : Bool) : b1 b < 2 := by cases b <;> decide

theorem b1_bit (w i : Nat) : b1 (bit w i) = fld w i i := by
  unfold b1 bit fld
  have := Nat.mod_two_eq_zero_or_one (w / 2 ^ i)
  rw [Nat.add_sub_cancel_left]
  split <;> simp_all

theorem bit_b1 {w i : Nat} {b : Bool} (h : fld w i i = b1 b) : bit w i = b := by
  rw [← b1_bit] at h
  cases b <;> cases hb : bit w i <;> simp_all [b1]

/-- A field above the lowest `k` bits does not see them. -/
theorem fld_high {x y k hi lo : Nat} (hy : y < 2 ^ k) (hlo : k ≤ lo) (hhi : k ≤ hi) :
    fld (x * 2 ^ k + y) hi lo = fld x (hi - k) (lo - k) := by
  obtain ⟨j, rfl⟩ := Nat.exists_eq_add_of_le hlo
  have hx : (x * 2 ^ k + y) / 2 ^ k = x := by
    rw [Nat.mul_comm, Nat.mul_add_div (Nat.two_pow_pos k), Nat.div_eq_of_lt hy, Nat.add_zero]
  have hw : hi + 1 - (k + j) = hi - k + 1 - j := by omega
  rw [fld, Nat.pow_add, ← Nat.div_div_eq_div_mul, hx, fld, Nat.add_sub_cancel_left, hw]

/-- The lowest field. -/
theorem fld_low {x y k hi : Nat} (hy : y < 2 ^ k) (hk : k = hi + 1) : fld (x * 2 ^ k + y) hi 0 = y := by
  subst hk
  rw [fld, Nat.pow_zero, Nat.div_one, Nat.sub_zero, Nat.mul_comm, Nat.mul_add_mod, Nat.mod_eq_of_lt hy]

/-- What lies above bit `hi`, with the field [hi:lo] put back below it. -/
theorem div_add_fld {w n hi lo : Nat} (hn : n = hi + 1) (h : lo ≤ hi) :
    w / 2 ^ n * 2 ^ n + fld w hi lo * 2 ^ lo = w / 2 ^ lo * 2 ^ lo := by
  obtain ⟨j, rfl⟩ := Nat.exists_eq_add_of_le h
  subst hn
  have hj : lo + j + 1 - lo = j + 1 := by omega
  rw [fld, hj, Nat.add_assoc, Nat.pow_add, ← Nat.div_div_eq_div_mul, Nat.mul_comm (2 ^ lo), ← Nat.mul_assoc, ← Nat.add_mul,
    Nat.mul_comm _ (2 ^ (j + 1)), Nat.div_add_mod]

/-! ### Little-endian bytes (R3) -/

theorem natLE_length (n : Nat) : ∀ v, (natLE n v).length = n := by
  induction n with
  | zero => intro v; rfl
  | succ n ih => intro v; simp [natLE, ih]

theorem leNat_natLE (n : Nat) : ∀ v, v < 2 ^ (8 * n) → leNat (natLE n v) = v := by
  induction n with
  | zero => intro v h; simp at h; simp [h, natLE, leNat]
  | succ n ih =>
    intro v h
    have hv : v / 256 < 2 ^ (8 * n) := by rw [Nat.div_lt_iff_lt_mul (by decide)]; rw [Nat.mul_succ, Nat.pow_add] at h; exact h
    simp only [natLE, leNat, ih _ hv, BitVec.toNat_ofNat]
    omega

theorem natLE_leNat (bs : List Byte) : natLE bs.length (leNat bs) = bs := by
  induction bs with
  | nil => rfl
  | cons b bs ih =>
    have hb := b.isLt
    have hd : (b.toNat + 256 * leNat bs) / 256 = leNat bs := by omega
    simp only [List.length_cons, natLE, leNat, hd, ih, List.cons.injEq, and_true]
    apply BitVec.eq_of_toNat_eq
    rw [BitVec.toNat_ofNat]; omega

theorem natLE_leNat_take {n : Nat} {bs : List Byte} (h : n ≤ bs.length) : natLE n (leNat (bs.take n)) = bs.take n := by
  have hl : (bs.take n).length = n := List.length_take_of_le h
  simpa only [hl] using natLE_leNat (bs.take n)

/-! ### The lane word (Table 2-12) -/

/-- A lane word, each field shifted in below the ones before it. -/
theorem encLane_horner (op : Nat) (f : LaneWord) : encLane op f =
    ((((((((((((op * 2 ^ 1 + b1 f.ge) * 2 ^ 1 + b1 f.gn) * 2 ^ 4 + f.pn.val) * 2 ^ 8 + f.vd.val) * 2 ^ 8 + f.va.val) * 2 ^ 8
      + f.vb.val) * 2 ^ 8 + f.vc.val) * 2 ^ 4 + f.pd.val) * 2 ^ 6 + f.typ.val) * 2 ^ 2 + f.bsrc.val) * 2 ^ 3
      + f.mode.val) * 2 ^ 3 + f.opx.val) * 2 ^ 32 + f.ext.toNat := by
  unfold encLane; ring

theorem readLane_encLane (op : Nat) (f : LaneWord) : readLane (encLane op f) = f := by
  have hge := b1_lt f.ge
  have hgn := b1_lt f.gn
  have hext := f.ext.isLt
  have h87 : bit (encLane op f) 87 = f.ge := by
    rw [encLane_horner]; apply bit_b1; simp (disch := omega) only [fld_high, fld_low, Nat.reduceSub, -Nat.reducePow]
  have h86 : bit (encLane op f) 86 = f.gn := by
    rw [encLane_horner]; apply bit_b1; simp (disch := omega) only [fld_high, fld_low, Nat.reduceSub, -Nat.reducePow]
  rw [readLane, h87, h86, encLane_horner]
  simp (disch := omega) [fld_high, fld_low, -Nat.reducePow]

theorem encLane_readLane (w : Nat) : encLane (w / 2 ^ 88) (readLane w) = w := by
  have hext : fld w 31 0 % 2 ^ 32 = fld w 31 0 * 2 ^ 0 := by
    rw [Nat.pow_zero, Nat.mul_one]; exact Nat.mod_eq_of_lt (fld_lt w 31 0)
  simp (disch := decide) only [encLane, readLane, b1_bit, BitVec.toNat_ofNat, val_fin_fld, div_add_fld, hext]
  rw [Nat.pow_zero, Nat.div_one, Nat.mul_one]

theorem encLane_low (f : LaneWord) : encLane 0 f < 2 ^ 88 := by
  have hge := b1_lt f.ge
  have hgn := b1_lt f.gn
  have hext := f.ext.isLt
  unfold encLane; omega

theorem encLane_op (op : Nat) (f : LaneWord) : encLane op f = op * 2 ^ 88 + encLane 0 f := by
  unfold encLane; omega

theorem encLane_div (op : Nat) (f : LaneWord) : encLane op f / 2 ^ 88 = op := by
  have := encLane_low f
  rw [encLane_op]; omega

theorem encLane_lt {op : Nat} (f : LaneWord) (h : op < 256) : encLane op f < 2 ^ (8 * 12) := by
  have := encLane_low f
  rw [encLane_op]; omega

/-! ### The instructions of lane words (Table 2-15) -/

theorem laneParts_op {i : Instr} {op : Nat} {f : LaneWord} (h : i.laneParts = some (op, f)) : op < 0xFF := by
  unfold Instr.laneParts at h
  split at h <;> cases h <;> decide

theorem laneInstr_of_laneParts {i : Instr} {op : Nat} {f : LaneWord} (h : i.laneParts = some (op, f))
    (hv : i.variantOk = true) : laneInstr op f = some i := by
  cases i with
  | vredeem g => cases h; exact if_pos (beq_iff_eq.1 hv)
  | vredeemRemote g => cases h; exact if_neg (by rw [beq_iff_eq.1 hv]; decide)
  | mxmovToTile g => cases h; exact if_neg (by simpa [Instr.variantOk] using hv)
  | mxmovToVector g => cases h; exact if_pos hv
  | _ => cases h <;> rfl

/-- The instruction that an op names has that op; where two rows share it, `f` decides between them (R305, Table 11-1). -/
theorem laneParts_of_laneInstr {i : Instr} {op : Nat} {f : LaneWord} (h : laneInstr op f = some i) :
    i.laneParts = some (op, f) ∧ i.variantOk = true := by
  unfold laneInstr at h
  split at h
  case h_88 => -- op 0x76
    obtain hx | hx : f.x 7 7 = 0 ∨ f.x 7 7 = 1 := Nat.mod_two_eq_zero_or_one _
    · rw [if_pos hx] at h; cases h; exact ⟨rfl, beq_iff_eq.2 hx⟩
    · rw [if_neg (by omega)] at h; cases h; exact ⟨rfl, beq_iff_eq.2 hx⟩
  case h_89 => -- op 0xA7
    split at h
    next ho => cases h; exact ⟨rfl, ho⟩
    next ho => cases h; exact ⟨rfl, by simpa [Instr.variantOk] using ho⟩
  all_goals cases h <;> exact ⟨rfl, rfl⟩

/-! ### The lane stream: decoding and encoding -/

theorem encode_lane {i : Instr} {op : Nat} {f : LaneWord} (h : i.laneParts = some (op, f)) :
    encode i = natLE 12 (encLane op f) := by rw [encode, h]

theorem wf_lane {i : Instr} {op : Nat} {f : LaneWord} (h : i.laneParts = some (op, f)) :
    i.wf = true ↔ laneLegal op f = true ∧ i.variantOk = true := by
  unfold Instr.wf; rw [h, Bool.and_eq_true]

theorem decodeLane_encLane {i : Instr} {op : Nat} {f : LaneWord} (hw : i.wf = true) (h : i.laneParts = some (op, f)) :
    decodeLane (encLane op f) = .ok i := by
  obtain ⟨hl, hv⟩ := (wf_lane h).1 hw
  simp only [decodeLane, encLane_div, readLane_encLane, laneInstr_of_laneParts h hv, hl, if_pos,
    if_neg (Nat.ne_of_lt (laneParts_op h))]

theorem decodeLane_ok {i : Instr} {w : Nat} (h : decodeLane w = .ok i) :
    i.wf = true ∧ i.laneParts = some (w / 2 ^ 88, readLane w) := by
  unfold decodeLane at h
  split at h
  next => cases h
  next =>
    split at h
    next => cases h
    next j hj =>
      obtain ⟨hp, hv⟩ := laneParts_of_laneInstr hj
      split at h <;> cases h
      exact ⟨(wf_lane hp).2 ⟨‹_›, hv⟩, hp⟩

theorem decodeLaneBytes_encode {i : Instr} {op : Nat} {f : LaneWord} (hw : i.wf = true) (h : i.laneParts = some (op, f)) :
    decodeLaneBytes (encode i) = .ok (i, []) := by
  have hl : (natLE 12 (encLane op f)).length = 12 := natLE_length 12 _
  have hlt := encLane_lt f (Nat.lt_succ_of_lt (laneParts_op h))
  rw [encode_lane h, decodeLaneBytes, if_neg (by omega), List.take_of_length_le (by omega), leNat_natLE 12 _ hlt,
    decodeLane_encLane hw h, List.drop_eq_nil_of_le (by omega)]

theorem decodeLaneBytes_ok {bs rest : List Byte} {i : Instr} (h : decodeLaneBytes bs = .ok (i, rest)) :
    i.wf = true ∧ bs = encode i ++ rest := by
  unfold decodeLaneBytes at h
  split at h
  next => cases h
  next hlen =>
    split at h <;> cases h
    next hi =>
      obtain ⟨hw, hp⟩ := decodeLane_ok hi
      rw [encode_lane hp, encLane_readLane, natLE_leNat_take (by omega), List.take_append_drop]
      exact ⟨hw, rfl⟩

/-! ### The words of the scalar stream (Tables 2-1 to 2-5 and 2-11) -/

@[simp] theorem scope_ofCode_code (c : Scope) : Scope.ofCode c.code = some c := by cases c <;> rfl
@[simp] theorem order_ofCode_code (c : Order) : Order.ofCode c.code = some c := by cases c <;> rfl
@[simp] theorem atomOp_ofCode_code (c : AtomOp) : AtomOp.ofCode c.code = some c := by cases c <;> rfl
@[simp] theorem level_ofCode_code (c : Level) : Level.ofCode c.code = some c := by cases c <;> rfl
@[simp] theorem fenceKind_ofCode_code (c : FenceKind) : FenceKind.ofCode c.code = some c := by cases c <;> rfl
@[simp] theorem waitCmp_ofCode_code (c : WaitCmp) : WaitCmp.ofCode c.code = some c := by cases c <;> rfl

theorem scope_code_lt (c : Scope) : c.code < 8 := by cases c <;> decide
theorem order_code_lt (c : Order) : c.code < 4 := by cases c <;> decide
theorem atomOp_code_lt (c : AtomOp) : c.code < 16 := by cases c <;> decide
theorem level_code_lt (c : Level) : c.code < 4 := by cases c <;> decide
theorem fenceKind_code_lt (c : FenceKind) : c.code < 4 := by cases c <;> decide
theorem waitCmp_code_lt (c : WaitCmp) : c.code < 4 := by cases c <;> decide

/-- The bits that a pair field leaves out: it holds the even number of the pair (R28). -/
theorem fld_succ {w hi lo : Nat} (h : lo ≤ hi) : fld w hi (lo + 1) = fld w hi lo / 2 := by
  have hw : hi + 1 - lo = hi + 1 - (lo + 1) + 1 := by omega
  rw [fld, fld, hw, Nat.pow_succ, Nat.pow_succ, ← Nat.div_div_eq_div_mul, Nat.mul_comm, Nat.mod_mul_right_div_self]

theorem two_mul_half (n : Nat) : 2 * n / 2 = n := Nat.mul_div_cancel_left n (by decide)

/-- The words of an instruction name its form (R24), and reading their fields gives the instruction back. -/
def ReadsBack (i : Instr) : Prop :=
  (∃ w, encodeScalar i = [w] ∧ w < 2 ^ 32 ∧ w / 2 ^ 26 ≠ 0x3F ∧ readShort w = some i)
  ∨ ∃ w0 w1, encodeScalar i = [w0, w1] ∧ w0 < 2 ^ 32 ∧ w1 < 2 ^ 32 ∧ w0 / 2 ^ 26 = 0x3F ∧ readLong w0 w1 = some i

/-! Each format: an instruction reads back where it does from any word with the fields that the format gives it. -/

section Formats

variable {i : Instr} {op d a b fn imm : Nat}

theorem readsBack_SR (he : encodeScalar i = [encSR op d a b fn]) (ho : op < 63) (hd : d < 128) (ha : a < 128) (hb : b < 128)
    (hf : fn < 32) (hr : ∀ w, w / 2 ^ 26 = op → fld w 25 19 = d → fld w 18 12 = a → fld w 11 5 = b → fld w 4 0 = fn →
      readShort w = some i) : ReadsBack i := by
  have ⟨h1, h2, h3, h4, h5⟩ : encSR op d a b fn / 2 ^ 26 = op ∧ fld (encSR op d a b fn) 25 19 = d
      ∧ fld (encSR op d a b fn) 18 12 = a ∧ fld (encSR op d a b fn) 11 5 = b ∧ fld (encSR op d a b fn) 4 0 = fn := by
    unfold encSR fld; refine ⟨?_, ?_, ?_, ?_, ?_⟩ <;> omega
  exact .inl ⟨_, he, by omega, by omega, hr _ h1 h2 h3 h4 h5⟩

theorem readsBack_SI (he : encodeScalar i = [encSI op d a imm]) (ho : op < 63) (hd : d < 128) (ha : a < 128) (hi : imm < 4096)
    (hr : ∀ w, w / 2 ^ 26 = op → fld w 25 19 = d → fld w 18 12 = a → fld w 11 0 = imm → readShort w = some i) :
    ReadsBack i := by
  have ⟨h1, h2, h3, h4⟩ : encSI op d a imm / 2 ^ 26 = op ∧ fld (encSI op d a imm) 25 19 = d
      ∧ fld (encSI op d a imm) 18 12 = a ∧ fld (encSI op d a imm) 11 0 = imm := by
    unfold encSI fld; refine ⟨?_, ?_, ?_, ?_⟩ <;> omega
  exact .inl ⟨_, he, by omega, by omega, hr _ h1 h2 h3 h4⟩

theorem readsBack_SU (he : encodeScalar i = [encSU op d imm]) (ho : op < 63) (hd : d < 128) (hi : imm < 524288)
    (hr : ∀ w, w / 2 ^ 26 = op → fld w 25 19 = d → fld w 18 0 = imm → readShort w = some i) : ReadsBack i := by
  have ⟨h1, h2, h3⟩ : encSU op d imm / 2 ^ 26 = op ∧ fld (encSU op d imm) 25 19 = d ∧ fld (encSU op d imm) 18 0 = imm := by
    unfold encSU fld; refine ⟨?_, ?_, ?_⟩ <;> omega
  exact .inl ⟨_, he, by omega, by omega, hr _ h1 h2 h3⟩

theorem readsBack_SB {c : Fin 32} {inv : Bool} {off : Fin 1048576} : ReadsBack (.sbr c inv off) := by
  have hn := b1_lt inv
  have ⟨h1, h2, h3, h4⟩ : encSB c (b1 inv) off / 2 ^ 26 = 0x0A ∧ fld (encSB c (b1 inv) off) 25 21 = c
      ∧ fld (encSB c (b1 inv) off) 20 20 = b1 inv ∧ fld (encSB c (b1 inv) off) 19 0 = off := by
    unfold encSB fld; refine ⟨?_, ?_, ?_, ?_⟩ <;> omega
  refine .inl ⟨_, rfl, by omega, by omega, ?_⟩
  simp only [readShort, h1, h2, bit_b1 h3, h4, fin_val, -Nat.reducePow]

theorem readsBack_SM {c w : Nat} (he : encodeScalar i = [encSM op d a c w]) (ho : op < 63) (hd : d < 128) (ha : a < 128)
    (hc : c < 8) (hw : w < 512) (hr : ∀ v, v / 2 ^ 26 = op → fld v 25 19 = d → fld v 18 12 = a → fld v 11 9 = c →
      fld v 8 0 = w → readShort v = some i) : ReadsBack i := by
  have ⟨h1, h2, h3, h4, h5⟩ : encSM op d a c w / 2 ^ 26 = op ∧ fld (encSM op d a c w) 25 19 = d
      ∧ fld (encSM op d a c w) 18 12 = a ∧ fld (encSM op d a c w) 11 9 = c ∧ fld (encSM op d a c w) 8 0 = w := by
    unfold encSM fld; refine ⟨?_, ?_, ?_, ?_, ?_⟩ <;> omega
  exact .inl ⟨_, he, by omega, by omega, hr _ h1 h2 h3 h4 h5⟩

theorem readsBack_SL {lop ext : Nat} (he : encodeScalar i = encSL lop d a b ext) (hl : lop < 64) (hd : d < 128) (ha : a < 128)
    (hb : b < 128) (hx : ext < 2 ^ 25) (hr : ∀ w0 w1, fld w0 25 20 = lop → fld w0 19 13 = d → fld w0 12 6 = a →
      fld w1 31 25 = b → fld w1 24 0 = ext → readLong w0 w1 = some i) : ReadsBack i := by
  let w0 := 0x3F * 2 ^ 26 + lop * 2 ^ 20 + d * 2 ^ 13 + a * 2 ^ 6
  have ⟨h1, h2, h3, h4⟩ : w0 / 2 ^ 26 = 0x3F ∧ fld w0 25 20 = lop ∧ fld w0 19 13 = d ∧ fld w0 12 6 = a := by
    unfold w0 fld; refine ⟨?_, ?_, ?_, ?_⟩ <;> omega
  have ⟨h5, h6⟩ : fld (b * 2 ^ 25 + ext) 31 25 = b ∧ fld (b * 2 ^ 25 + ext) 24 0 = ext := by
    unfold fld; constructor <;> omega
  exact .inr ⟨w0, _, he, by omega, by omega, h1, hr _ _ h2 h3 h4 h5 h6⟩

end Formats

/-! The long forms whose second word holds several codes. -/

theorem readsBack_satom (op : AtomOp) (wide : Bool) (sc : Scope) (ord : Order) (col : Fin 8) (d : SReg) (a : Pair) (b : SReg) :
    ReadsBack (.satom op wide sc ord col d a b) := by
  have := scope_code_lt sc
  have := order_code_lt ord
  have := atomOp_code_lt op
  have := b1_lt wide
  refine readsBack_SL rfl (by omega) (by omega) (by omega) (by omega) (by omega) fun w0 w1 hl hd ha hb hx => ?_
  have hsc : fld w1 24 22 = sc.code := by unfold fld at *; omega
  have hord : fld w1 21 20 = ord.code := by unfold fld at *; omega
  have hop : fld w1 10 7 = op.code := by unfold fld at *; omega
  have hw : bit w1 6 = wide := bit_b1 (by unfold fld at *; omega)
  have hcol : fld w1 2 0 = col := by unfold fld at *; omega
  simp (disch := decide) only [readLong, hl, hd, ha, hb, hsc, scope_ofCode_code, hord, order_ofCode_code, hop,
    atomOp_ofCode_code, hw, hcol, fin_val, fld_succ, two_mul_half, -Nat.reducePow]

theorem readsBack_scas (wide : Bool) (sc : Scope) (ord : Order) (col : Fin 8) (d : SReg) (a : Pair) (b : SReg) :
    ReadsBack (.scas wide sc ord col d a b) := by
  have := scope_code_lt sc
  have := order_code_lt ord
  have := b1_lt wide
  refine readsBack_SL rfl (by omega) (by omega) (by omega) (by omega) (by omega) fun w0 w1 hl hd ha hb hx => ?_
  have hsc : fld w1 24 22 = sc.code := by unfold fld at *; omega
  have hord : fld w1 21 20 = ord.code := by unfold fld at *; omega
  have hw : bit w1 6 = wide := bit_b1 (by unfold fld at *; omega)
  have hcol : fld w1 2 0 = col := by unfold fld at *; omega
  simp (disch := decide) only [readLong, hl, hd, ha, hb, hsc, scope_ofCode_code, hord, order_ofCode_code, hw, hcol,
    fin_val, fld_succ, two_mul_half, -Nat.reducePow]

theorem readsBack_sstRel (wide : Bool) (sc : Scope) (m : Fin 256) (col : Fin 8) (d : SReg) (a : Pair) :
    ReadsBack (.sstRel wide sc m col d a) := by
  have := scope_code_lt sc
  have := b1_lt wide
  refine readsBack_SL rfl (by omega) (by omega) (by omega) (by omega) (by omega) fun w0 w1 hl hd ha _ hx => ?_
  have hsc : fld w1 24 22 = sc.code := by unfold fld at *; omega
  have hm : fld w1 19 12 = m := by unfold fld at *; omega
  have hw : bit w1 10 = wide := bit_b1 (by unfold fld at *; omega)
  have hcol : fld w1 2 0 = col := by unfold fld at *; omega
  simp (disch := decide) only [readLong, hl, hd, ha, hsc, scope_ofCode_code, hm, hw, hcol, fin_val, fld_succ,
    two_mul_half, -Nat.reducePow]

theorem readsBack_sfence (sc : Scope) (k : FenceKind) (m : Fin 256) :
    ReadsBack (.sfence sc k m) := by
  have := scope_code_lt sc
  have := fenceKind_code_lt k
  refine readsBack_SL rfl (by omega) (by omega) (by omega) (by omega) (by omega) fun w0 w1 hl _ _ _ hx => ?_
  have hsc : fld w1 24 22 = sc.code := by unfold fld at *; omega
  have hk : fld w1 21 20 = k.code := by unfold fld at *; omega
  have hm : fld w1 19 12 = m := by unfold fld at *; omega
  simp only [readLong, hl, hsc, scope_ofCode_code, hk, fenceKind_ofCode_code, hm, fin_val, -Nat.reducePow]

theorem readsBack_fetchk (tr : Bool) (n : Fin 16) (l : Level) (d a : Pair) :
    ReadsBack (.fetchk tr n l d a) := by
  have := b1_lt tr
  have := level_code_lt l
  refine readsBack_SL rfl (by omega) (by omega) (by omega) (by omega) (by omega) fun w0 w1 hl hd ha _ hx => ?_
  have ht : bit w1 11 = tr := bit_b1 (by unfold fld at *; omega)
  have hn : fld w1 10 7 = n := by unfold fld at *; omega
  have hlv : fld w1 6 5 = l.code := by unfold fld at *; omega
  simp (disch := decide) only [readLong, hl, hd, ha, ht, hn, hlv, level_ofCode_code, fin_val, fld_succ, two_mul_half,
    -Nat.reducePow]

theorem readsBack_sredeem (tr : Bool) (sc : Scope) (d o : SReg) (a b : Pair) :
    ReadsBack (.sredeem tr sc d o a b) := by
  have := scope_code_lt sc
  have := b1_lt tr
  refine readsBack_SL rfl (by omega) (by omega) (by omega) (by omega) (by omega) fun w0 w1 hl hd ha hb hx => ?_
  have hsc : fld w1 24 22 = sc.code := by unfold fld at *; omega
  have ht : bit w1 11 = tr := bit_b1 (by unfold fld at *; omega)
  have ho : fld w1 6 0 = o := by unfold fld at *; omega
  simp (disch := decide) only [readLong, hl, hd, ha, hb, hsc, scope_ofCode_code, ht, ho, fin_val, fld_succ, two_mul_half,
    -Nat.reducePow]

theorem readsBack_ssendsig (sc : Scope) (m n : Fin 256) (col : Fin 8) (d a b : Pair) :
    ReadsBack (.ssendsig sc m n col d a b) := by
  have := scope_code_lt sc
  refine readsBack_SL rfl (by omega) (by omega) (by omega) (by omega) (by omega) fun w0 w1 hl hd ha hb hx => ?_
  have hsc : fld w1 24 22 = sc.code := by unfold fld at *; omega
  have hm : fld w1 19 12 = m := by unfold fld at *; omega
  have hn : fld w1 10 3 = n := by unfold fld at *; omega
  have hcol : fld w1 2 0 = col := by unfold fld at *; omega
  simp (disch := decide) only [readLong, hl, hd, ha, hb, hsc, scope_ofCode_code, hm, hn, hcol, fin_val, fld_succ,
    two_mul_half, -Nat.reducePow]

/-- R24, R26 to R35: every instruction that has words is read back from them. -/
theorem readsBack {i : Instr} (h : encodeScalar i ≠ []) : ReadsBack i := by
  cases i with
  | sadd d a b | ssub d a b | sand d a b | sor d a b | sxor d a b | sshl d a b | sshr d a b | ssra d a b | smin d a b
  | smax d a b | sminn d a b | smaxn d a b | smul d a b | smulh d a b | smulhn d a b | sandn d a b =>
    refine readsBack_SR rfl (by omega) (by omega) (by omega) (by omega) (by omega) fun w ho hd ha hb hf => ?_
    simp only [readShort, ho, hd, ha, hb, hf, fin_val, -Nat.reducePow]
  | sclz d a | spopc d a | smov d a =>
    refine readsBack_SR rfl (by omega) (by omega) (by omega) (by omega) (by omega) fun w ho hd ha hb hf => ?_
    simp only [readShort, ho, hd, ha, hf, fin_val, -Nat.reducePow]
  | scmp a b =>
    refine readsBack_SR rfl (by omega) (by omega) (by omega) (by omega) (by omega) fun w ho hd ha hb hf => ?_
    simp only [readShort, ho, ha, hb, hf, fin_val, -Nat.reducePow]
  | saddD d a b | ssubD d a b | sshlD d a b | sshrD d a b | smulw d a b | smulwn d a b =>
    refine readsBack_SR rfl (by omega) (by omega) (by omega) (by omega) (by omega) fun w ho hd ha hb hf => ?_
    simp (disch := decide) only [readShort, ho, hd, ha, hb, hf, fin_val, fld_succ, two_mul_half, -Nat.reducePow]
  | smovD d a =>
    refine readsBack_SR rfl (by omega) (by omega) (by omega) (by omega) (by omega) fun w ho hd ha hb hf => ?_
    simp (disch := decide) only [readShort, ho, hd, ha, hf, fin_val, fld_succ, two_mul_half, -Nat.reducePow]
  | scmpD a b =>
    refine readsBack_SR rfl (by omega) (by omega) (by omega) (by omega) (by omega) fun w ho hd ha hb hf => ?_
    simp (disch := decide) only [readShort, ho, ha, hb, hf, fin_val, fld_succ, two_mul_half, -Nat.reducePow]
  | saddi d a n | sandi d a n | sori d a n | sxori d a n | sjr d a n =>
    refine readsBack_SI rfl (by omega) (by omega) (by omega) (by omega) fun w ho hd ha hi => ?_
    simp only [readShort, ho, hd, ha, hi, fin_val, -Nat.reducePow]
  | sshli d a n | sshri d a n | ssrai d a n =>
    refine readsBack_SI rfl (by omega) (by omega) (by omega) (by omega) fun w ho hd ha hi => ?_
    have hn : fld w 4 0 = n := by unfold fld at *; omega
    have hk : fld w 11 10 = fld w 11 0 / 1024 := by unfold fld; omega
    have hd' : (1024 + n.val) / 1024 = 1 ∧ (2048 + n.val) / 1024 = 2 ∧ n.val / 1024 = 0 := by omega
    simp only [readShort, ho, hd, ha, hn, hk, hi, hd', fin_val, -Nat.reducePow]
  | scmpi a n =>
    refine readsBack_SI rfl (by omega) (by omega) (by omega) (by omega) fun w ho hd ha hi => ?_
    simp only [readShort, ho, ha, hi, fin_val, -Nat.reducePow]
  | lrunr a =>
    refine readsBack_SI rfl (by omega) (by omega) (by omega) (by omega) fun w ho hd ha hi => ?_
    simp only [readShort, ho, ha, fin_val, -Nat.reducePow]
  | sld d a n | sldD d a n =>
    refine readsBack_SI rfl (by omega) (by omega) (by omega) (by omega) fun w ho hd ha hi => ?_
    simp (disch := decide) only [readShort, ho, hd, ha, hi, fin_val, fld_succ, two_mul_half, -Nat.reducePow]
  | sli d n | slui d n | scall d n =>
    refine readsBack_SU rfl (by omega) (by omega) (by omega) fun w ho hd hi => ?_
    simp only [readShort, ho, hd, hi, fin_val, -Nat.reducePow]
  | lrun n =>
    refine readsBack_SU rfl (by omega) (by omega) (by omega) fun w ho hd hi => ?_
    simp only [readShort, ho, hi, fin_val, -Nat.reducePow]
  | lsync =>
    refine readsBack_SU rfl (by omega) (by omega) (by omega) fun w ho hd hi => ?_
    simp only [readShort, ho, -Nat.reducePow]
  | swaitf m =>
    refine readsBack_SU rfl (by omega) (by omega) (by omega) fun w ho hd hi => ?_
    have hm : fld w 11 0 = m := by unfold fld at *; omega
    simp only [readShort, ho, hm, fin_val, -Nat.reducePow]
  | sbr c inv off => exact readsBack_SB
  | mwait d a b sc c =>
    have hsc := scope_code_lt sc
    have hc := waitCmp_code_lt c
    refine readsBack_SR rfl (by omega) (by omega) (by omega) (by omega) (by omega) fun w ho hd ha hb hf => ?_
    have h1 : fld w 4 2 = sc.code := by unfold fld at *; omega
    have h2 : fld w 1 0 = c.code := by unfold fld at *; omega
    simp (disch := decide) only [readShort, ho, hd, ha, hb, h1, h2, scope_ofCode_code, waitCmp_ofCode_code, fin_val, fld_succ,
      two_mul_half, -Nat.reducePow]
  | sst d a c w | sstD d a c w =>
    refine readsBack_SM rfl (by omega) (by omega) (by omega) (by omega) (by omega) fun v ho hd ha hc hw => ?_
    simp (disch := decide) only [readShort, ho, hd, ha, hc, hw, fin_val, fld_succ, two_mul_half, -Nat.reducePow]
  | satom op wide sc ord col d a b => exact readsBack_satom op wide sc ord col d a b
  | scas wide sc ord col d a b => exact readsBack_scas wide sc ord col d a b
  | sstRel wide sc m col d a => exact readsBack_sstRel wide sc m col d a
  | sfence sc k m => exact readsBack_sfence sc k m
  | fetchk tr n l d a => exact readsBack_fetchk tr n l d a
  | sredeem tr sc d o a b => exact readsBack_sredeem tr sc d o a b
  | ssendsig sc m n col d a b => exact readsBack_ssendsig sc m n col d a b
  | sldAcq wide sc d a =>
    have := scope_code_lt sc
    have := b1_lt wide
    refine readsBack_SL rfl (by omega) (by omega) (by omega) (by omega) (by omega) fun w0 w1 hl hd ha _ hx => ?_
    have hsc : fld w1 24 22 = sc.code := by unfold fld at *; omega
    have hw : bit w1 10 = wide := bit_b1 (by unfold fld at *; omega)
    simp (disch := decide) only [readLong, hl, hd, ha, hsc, scope_ofCode_code, hw, fin_val, fld_succ, two_mul_half,
      -Nat.reducePow]
  | kdrop a =>
    refine readsBack_SL rfl (by omega) (by omega) (by omega) (by omega) (by omega) fun w0 w1 hl _ ha _ _ => ?_
    simp (disch := decide) only [readLong, hl, ha, fin_val, fld_succ, two_mul_half, -Nat.reducePow]
  | kstat d a | pdecommit d a =>
    refine readsBack_SL rfl (by omega) (by omega) (by omega) (by omega) (by omega) fun w0 w1 hl hd ha _ _ => ?_
    simp (disch := decide) only [readLong, hl, hd, ha, fin_val, fld_succ, two_mul_half, -Nat.reducePow]
  | sgetf d =>
    refine readsBack_SL rfl (by omega) (by omega) (by omega) (by omega) (by omega) fun w0 w1 hl hd _ _ _ => ?_
    simp only [readLong, hl, hd, fin_val, -Nat.reducePow]
  | syield | sexit =>
    refine readsBack_SL rfl (by omega) (by omega) (by omega) (by omega) (by omega) fun w0 w1 hl _ _ _ _ => ?_
    simp only [readLong, hl, -Nat.reducePow]
  | pcommit tr d a =>
    have := b1_lt tr
    refine readsBack_SL rfl (by omega) (by omega) (by omega) (by omega) (by omega) fun w0 w1 hl hd ha _ hx => ?_
    have ht : bit w1 11 = tr := bit_b1 (by unfold fld at *; omega)
    simp (disch := decide) only [readLong, hl, hd, ha, ht, fin_val, fld_succ, two_mul_half, -Nat.reducePow]
  | pquery p d a =>
    have := b1_lt p
    refine readsBack_SL rfl (by omega) (by omega) (by omega) (by omega) (by omega) fun w0 w1 hl hd ha _ hx => ?_
    have hp : bit w1 10 = p := bit_b1 (by unfold fld at *; omega)
    simp (disch := decide) only [readLong, hl, hd, ha, hp, fin_val, fld_succ, two_mul_half, -Nat.reducePow]
  | pfxwalk sc d n b | pfxins sc d n b | pfxrel sc d n b | pfxevict sc d n b =>
    have := scope_code_lt sc
    refine readsBack_SL rfl (by omega) (by omega) (by omega) (by omega) (by omega) fun w0 w1 hl hd ha hb hx => ?_
    have hsc : fld w1 24 22 = sc.code := by unfold fld at *; omega
    have hn : fld w0 12 9 = n := by unfold fld at *; omega
    simp (disch := decide) only [readLong, hl, hd, hb, hsc, scope_ofCode_code, hn, fin_val, fld_succ, two_mul_half,
      -Nat.reducePow]
  | slaunch tr q d a =>
    have := b1_lt tr
    refine readsBack_SL rfl (by omega) (by omega) (by omega) (by omega) (by omega) fun w0 w1 hl hd ha _ hx => ?_
    have ht : bit w1 11 = tr := bit_b1 (by unfold fld at *; omega)
    have hq : fld w1 2 0 = q := by unfold fld at *; omega
    simp (disch := decide) only [readLong, hl, hd, ha, ht, hq, fin_val, fld_succ, two_mul_half, -Nat.reducePow]
  | jcount l sc d a =>
    have := scope_code_lt sc
    have := level_code_lt l
    refine readsBack_SL rfl (by omega) (by omega) (by omega) (by omega) (by omega) fun w0 w1 hl hd ha _ hx => ?_
    have hsc : fld w1 24 22 = sc.code := by unfold fld at *; omega
    have hlv : fld w1 1 0 = l.code := by unfold fld at *; omega
    simp (disch := decide) only [readLong, hl, hd, ha, hsc, scope_ofCode_code, hlv, level_ofCode_code, fin_val, fld_succ,
      two_mul_half, -Nat.reducePow]
  | jcancel l d a =>
    have := level_code_lt l
    refine readsBack_SL rfl (by omega) (by omega) (by omega) (by omega) (by omega) fun w0 w1 hl hd ha _ hx => ?_
    have hlv : fld w1 1 0 = l.code := by unfold fld at *; omega
    simp only [readLong, hl, hd, ha, hlv, level_ofCode_code, fin_val, -Nat.reducePow]
  | srd d n =>
    refine readsBack_SL rfl (by omega) (by omega) (by omega) (by omega) (by omega) fun w0 w1 hl hd _ _ hx => ?_
    have hn : fld w1 9 0 = n := by unfold fld at *; omega
    simp only [readLong, hl, hd, hn, fin_val, -Nat.reducePow]
  | swr a n =>
    refine readsBack_SL rfl (by omega) (by omega) (by omega) (by omega) (by omega) fun w0 w1 hl _ ha _ hx => ?_
    have hn : fld w1 9 0 = n := by unfold fld at *; omega
    simp only [readLong, hl, ha, hn, fin_val, -Nat.reducePow]
  | sclrf m =>
    refine readsBack_SL rfl (by omega) (by omega) (by omega) (by omega) (by omega) fun w0 w1 hl _ _ _ hx => ?_
    have hm : fld w1 5 0 = m := by unfold fld at *; omega
    simp only [readLong, hl, hm, fin_val, -Nat.reducePow]
  | vacq tr d n =>
    have := b1_lt tr
    refine readsBack_SL rfl (by omega) (by omega) (by omega) (by omega) (by omega) fun w0 w1 hl hd _ _ hx => ?_
    have ht : bit w1 11 = tr := bit_b1 (by unfold fld at *; omega)
    have hn : fld w1 1 0 = n := by unfold fld at *; omega
    simp only [readLong, hl, hd, ht, hn, fin_val, -Nat.reducePow]
  | vrel n =>
    refine readsBack_SL rfl (by omega) (by omega) (by omega) (by omega) (by omega) fun w0 w1 hl _ _ _ hx => ?_
    have hn : fld w1 1 0 = n := by unfold fld at *; omega
    simp only [readLong, hl, hn, fin_val, -Nat.reducePow]
  | sbar id a =>
    refine readsBack_SL rfl (by omega) (by omega) (by omega) (by omega) (by omega) fun w0 w1 hl _ ha _ hx => ?_
    have hid : fld w1 3 0 = id := by unfold fld at *; omega
    simp only [readLong, hl, ha, hid, fin_val, -Nat.reducePow]
  | sbarw arr d a =>
    have := b1_lt arr
    refine readsBack_SL rfl (by omega) (by omega) (by omega) (by omega) (by omega) fun w0 w1 hl hd ha _ hx => ?_
    have hr : bit w1 10 = arr := bit_b1 (by unfold fld at *; omega)
    simp only [readLong, hl, hd, ha, hr, fin_val, -Nat.reducePow]
  | strap c | sbrk c =>
    refine readsBack_SL rfl (by omega) (by omega) (by omega) (by omega) (by omega) fun w0 w1 hl _ _ _ hx => ?_
    have hc : fld w1 11 0 = c := by unfold fld at *; omega
    simp only [readLong, hl, hc, fin_val, -Nat.reducePow]
  | _ => exact absurd rfl h

/-! ### The scalar stream: decoding and encoding -/

theorem isLong_iff {w : Nat} : isLong w = true ↔ w / 2 ^ 26 = 0x3F := by rw [isLong, beq_iff_eq]

/-- An instruction with scalar words is no lane instruction. -/
theorem laneParts_of_scalar {i : Instr} (h : encodeScalar i ≠ []) : i.laneParts = none := by
  unfold Instr.laneParts
  split
  case h_92 => rfl -- no lane instruction
  all_goals exact absurd rfl h

theorem encode_scalar {i : Instr} (h : encodeScalar i ≠ []) : encode i = (encodeScalar i).flatMap (natLE 4) := by
  unfold encode; rw [laneParts_of_scalar h]

theorem decodeScalar_short {i : Instr} {w : Nat} (hw : i.wf = true) (he : encodeScalar i = [w]) (hl : w / 2 ^ 26 ≠ 0x3F)
    (hr : readShort w = some i) : decodeScalar w 0 = .ok i := by
  have hs : isLong w = false := by rw [Bool.eq_false_iff, Ne, isLong_iff]; exact hl
  simp only [decodeScalar, hs, Bool.false_eq_true, if_false, hr, he, hw, if_true]

theorem decodeScalar_long {i : Instr} {w0 w1 : Nat} (hw : i.wf = true) (he : encodeScalar i = [w0, w1])
    (hl : w0 / 2 ^ 26 = 0x3F) (hr : readLong w0 w1 = some i) : decodeScalar w0 w1 = .ok i := by
  simp only [decodeScalar, isLong_iff.2 hl, if_true, hr, he, hw]

theorem decodeScalar_ok {i : Instr} {w0 w1 : Nat} (h : decodeScalar w0 w1 = .ok i) :
    i.wf = true ∧ encodeScalar i = if isLong w0 then [w0, w1] else [w0] := by
  generalize hws : (if isLong w0 then [w0, w1] else [w0]) = ws
  simp only [decodeScalar, hws] at h
  split at h
  next => cases h
  next =>
    split at h
    next he =>
      split at h
      next hw => cases h; exact ⟨hw, he⟩
      next => cases h
    next => cases h

theorem decodeBytes_encode {i : Instr} (hw : i.wf = true) (h : encodeScalar i ≠ []) : decodeBytes (encode i) = .ok (i, []) := by
  rw [encode_scalar h]
  obtain ⟨w, he, hlt, hl, hr⟩ | ⟨w0, w1, he, hlt0, hlt1, hl, hr⟩ := readsBack h
  · have hn := natLE_length 4 w
    have hb : (encodeScalar i).flatMap (natLE 4) = natLE 4 w := by rw [he, List.flatMap_singleton]
    have hs : isLong w = false := by rw [Bool.eq_false_iff, Ne, isLong_iff]; exact hl
    simp only [hb, decodeBytes, hn, Nat.lt_irrefl, if_false, List.take_of_length_le hn.le, leNat_natLE 4 w hlt, hs,
      Bool.false_eq_true, decodeScalar_short hw he hl hr, List.drop_eq_nil_of_le hn.le]
  · have hn0 := natLE_length 4 w0
    have hn1 := natLE_length 4 w1
    have hb : (encodeScalar i).flatMap (natLE 4) = natLE 4 w0 ++ natLE 4 w1 := by
      rw [he, List.flatMap_cons, List.flatMap_singleton]
    have hlen : (natLE 4 w0 ++ natLE 4 w1).length = 8 := by rw [List.length_append, hn0, hn1]
    simp only [hb, decodeBytes, hlen, Nat.reduceLT, if_false, List.take_left' hn0, leNat_natLE 4 w0 hlt0, isLong_iff.2 hl,
      if_true, Nat.lt_irrefl, List.drop_left' hn0, List.take_of_length_le hn1.le, leNat_natLE 4 w1 hlt1,
      decodeScalar_long hw he hl hr, List.drop_eq_nil_of_le hlen.le]

theorem decodeBytes_ok {bs rest : List Byte} {i : Instr} (h : decodeBytes bs = .ok (i, rest)) :
    i.wf = true ∧ bs = encode i ++ rest := by
  unfold decodeBytes at h
  split at h
  next => cases h
  next hlen =>
    simp only at h
    split at h
    next hl =>
      split at h
      next => cases h
      next hlen8 =>
        split at h <;> cases h
        next hi =>
          obtain ⟨hw, he⟩ := decodeScalar_ok hi
          rw [if_pos hl] at he
          have hd : 4 ≤ (bs.drop 4).length := by rw [List.length_drop]; omega
          rw [encode_scalar (by simp [he]), he, List.flatMap_cons, List.flatMap_singleton, natLE_leNat_take (by omega),
            natLE_leNat_take hd, ← List.take_add, List.take_append_drop]
          exact ⟨hw, rfl⟩
    next hl =>
      split at h <;> cases h
      next hi =>
        obtain ⟨hw, he⟩ := decodeScalar_ok hi
        rw [if_neg hl] at he
        rw [encode_scalar (by simp [he]), he, List.flatMap_singleton, natLE_leNat_take (by omega), List.take_append_drop]
        exact ⟨hw, rfl⟩

/-- Settles O57: an instruction reads back from its words (`readsBack`, `readLane_encLane`), and the decoder accepts only what the
encoder gives back (`decodeScalar_ok`) or what its fields make up whole (`encLane_readLane`). -/
theorem decodeEncode : Obligations.DecodeEncode :=
  ⟨fun _ hw h => decodeBytes_encode hw h, fun _ _ _ hw h => decodeLaneBytes_encode hw h, fun _ _ _ h => decodeBytes_ok h,
    fun _ _ _ h => decodeLaneBytes_ok h⟩

end Sys2Proof.Proofs
end

section
open Sys2Proof Sys2Proof.Machine Sys2Proof.Claims Sys2Proof.Laws

namespace Sys2Proof.Proofs

/-! ### Words written out (Tables 2-1 to 2-11) -/

/-- Bytes that are the encoding of a well-formed scalar instruction decode to it. -/
theorem decodeBytes_of_eq {bs : List Byte} {i : Instr} (hb : bs = encode i) (hw : i.wf = true) (he : encodeScalar i ≠ []) :
    decodeBytes bs = .ok (i, []) := hb ▸ decodeBytes_encode hw he

/-- Settles O56: the words that decode are encodings (`decodeBytes_encode`); the reserved ones are decoded one by one. -/
theorem wordsDecode : Obligations.WordsDecode := by
  refine ⟨?_, ?_, ?_, ?_, ?_, ?_, ?_, ?_, ?_, ?_⟩
  · exact decodeBytes_of_eq (i := .saddi 4 4 1) (by decide) (by decide) (by decide)
  · exact decodeBytes_of_eq (i := .sadd 5 5 2) (by decide) (by decide) (by decide)
  · exact decodeBytes_of_eq (i := .sbr 3 false 0xFFFFD) (by decide) (by decide) (by decide)
  · exact decodeBytes_of_eq (i := .sjr 0 1 0) (by decide) (by decide) (by decide)
  · exact decodeBytes_of_eq (i := .lsync) (by decide) (by decide) (by decide)
  · exact decodeBytes_of_eq (i := .srd 2 0) (by decide) (by decide) (by decide)
  · exact decodeBytes_of_eq (i := .sexit) (by decide) (by decide) (by decide)
  all_goals decide

end Sys2Proof.Proofs
end

section
open Sys2Proof Sys2Proof.Machine Sys2Proof.Claims Sys2Proof.Laws

namespace Sys2Proof.Proofs

/-! ### Elements of a word (R120) -/

theorem elems_mul_width (t : Ty) : t.elems * t.width = 32 := by cases t <;> rfl

theorem elt_lt (w : Nat) (x : Word) (i : Nat) : elt w x i < 2 ^ w := Nat.mod_lt _ (Nat.two_pow_pos w)

theorem pack_lt (w : Nat) (xs : List Nat) : pack w xs < 2 ^ (xs.length * w) := by
  induction xs with
  | nil => simp [pack]
  | cons x xs ih =>
    have hx : x % 2 ^ w < 2 ^ w := Nat.mod_lt _ (Nat.two_pow_pos w)
    have hm : 2 ^ w * (pack w xs + 1) ≤ 2 ^ w * 2 ^ (xs.length * w) := Nat.mul_le_mul_left _ ih
    rw [List.length_cons, Nat.succ_mul, Nat.add_comm (xs.length * w), Nat.pow_add, pack]
    rw [Nat.mul_add] at hm; omega

theorem pack_elt {w : Nat} {xs : List Nat} : ∀ {i : Nat} (h : i < xs.length),
    pack w xs / 2 ^ (w * i) % 2 ^ w = xs[i] % 2 ^ w := by
  induction xs with
  | nil => intro i h; cases h
  | cons x xs ih =>
    have hx : x % 2 ^ w < 2 ^ w := Nat.mod_lt _ (Nat.two_pow_pos w)
    intro i h
    cases i with
    | zero => rw [pack, Nat.mul_zero, Nat.pow_zero, Nat.div_one, Nat.add_mul_mod_self_left, Nat.mod_mod]; rfl
    | succ i =>
      rw [pack, Nat.mul_succ, Nat.add_comm (w * i), Nat.pow_add, ← Nat.div_div_eq_div_mul,
        Nat.add_mul_div_left _ _ (Nat.two_pow_pos w), Nat.div_eq_of_lt hx, Nat.zero_add, ih (Nat.lt_of_succ_lt_succ h)]
      rfl

/-- The elements of what an element function packs. -/
theorem elt_perElem (t : Ty) {i : Nat} (hi : i < t.elems) (fn : Nat → Nat → Nat → Nat × Flags) (a b c : Word) :
    elt t.width (perElem t.elems t.width fn a b c).1 i
      = (fn (elt t.width a i) (elt t.width b i) (elt t.width c i)).1 % 2 ^ t.width := by
  have hlt := pack_lt t.width
    (((List.range t.elems).map fun i => fn (elt t.width a i) (elt t.width b i) (elt t.width c i)).map (·.1))
  simp only [List.length_map, List.length_range, elems_mul_width] at hlt
  rw [elt, perElem, packF, BitVec.toNat_ofNat, Nat.mod_eq_of_lt hlt, pack_elt (by simpa using hi)]
  simp

/-! ### What a lane instruction that acts does (R81, R87, R120, R122) -/

section LaneDo

variable {i : Instr} {f : LaneWord} {s : State} {u : LaneUse} {ty : Ty} {val : Nat → Word × Flags} (g : Gang) (r : Nat)
  (act : BitVec 32)

@[simp] theorem laneNext_rv (r l : Nat) : g.laneNext.rv r l = g.rv r l := by simp [Gang.rv]
@[simp] theorem laneNext_tag (r : Nat) : g.laneNext.tag r = g.tag r := by simp [Gang.tag]

theorem result_rv {r' l : Nat} (hl : l < 32) : (g.result r act ty val).rv r' l
    = if r' = r ∧ act.getLsbD l then (val l).1 else g.rv r' l :=
  wvs_rv g r act _ r' l hl

theorem result_tag (r' : Nat) : (g.result r act ty val).tag r' = if r' = r then ty else g.tag r' :=
  setTag_tag (g.wvs r act fun l => (val l).1) r r' ty

theorem result_laneNext : (g.result r act ty val).laneNext = { g.laneNext with
    vreg := (g.result r act ty val).vreg, vtag := (g.result r act ty val).vtag, sticky := g.sticky ||| flagsOf act val } := by
  have hc : (g.result r act ty val).clauses = g.clauses := rfl
  unfold Gang.laneNext; rw [hc]
  split <;> rfl

theorem laneOwn_setMe (s : State) (wr : List Nat) : LaneOwn s ((s.taint s.cur wr).setMe g) := by
  refine ⟨fun _ => ⟨rfl, rfl, rfl, fun _ => rfl⟩, fun k hk => ?_, rfl⟩
  rw [setMe_gang, if_neg (show k ≠ (s.taint s.cur wr).cur from hk)]; rfl

/-- A lane instruction that acts, and that writes vd with its values and their flags, has the result that the values meet. -/
theorem laneResult_of_laneDo {h : Gang → Gang} {P : Nat → Word → Prop} (he : exec i s = laneDo s f u h) (hr : LaneRuns s u)
    (hh : h s.me = s.me.result f.vd.val (s.me.act f) ty val) (hP : ∀ l < 32, (s.me.act f).getLsbD l = true → P l (val l).1) :
    LaneResult i f s ty P (flagsOf (s.me.act f) val) := by
  obtain ⟨hheld, hb, hlim, htags⟩ := hr
  refine ⟨_, by rw [he, laneDo_runs s hb hheld hlim htags, hh], fun l hl ha => ?_, fun r l hl hrl => ?_, fun r => ?_, ?_, ?_,
    laneOwn_setMe _ s _⟩ <;> rw [setMe_me]
  · rw [laneNext_rv, result_rv _ _ _ hl, if_pos ⟨rfl, ha⟩]; exact hP l hl ha
  · rw [laneNext_rv, result_rv _ _ _ hl, if_neg hrl]
  · rw [laneNext_tag, result_tag]
  · rw [laneNext_sticky]; rfl
  · rw [result_laneNext]

end LaneDo

/-! ### Clamping (R126) and the flags of clamps (R122) -/

theorem foldr_flag (act q : Nat → Bool) (F : Nat → Flags) (hF : ∀ l, F l = if q l then 32 else 0) (ls : List Nat) :
    ls.foldr (fun l fl => if act l then F l ||| fl else fl) 0 = if ls.any (fun l => act l && q l) then (32 : Flags) else 0 := by
  induction ls with
  | nil => rfl
  | cons l ls ih =>
    rw [List.foldr_cons, List.any_cons, ih, hF]
    cases act l <;> cases q l <;> cases ls.any (fun l => act l && q l) <;> rfl

theorem perElem_flags (e w : Nat) (fn : Nat → Nat → Nat → Nat × Flags) (a b c : Word) (q : Nat → Bool)
    (hq : ∀ i, (fn (elt w a i) (elt w b i) (elt w c i)).2 = if q i then 32 else 0) :
    (perElem e w fn a b c).2 = if (List.range e).any q then 32 else 0 := by
  rw [perElem, packF, List.foldr_map]
  exact foldr_flag (fun _ => true) q _ hq _

theorem intVal_eq_elemVal (t : Ty) {x : Nat} (hx : x < 2 ^ t.width) : intVal t.isSigned t.width x = elemVal t x := by
  unfold intVal elemVal
  cases t.isSigned with
  | false => rfl
  | true =>
    rw [if_pos rfl, BitVec.toInt_eq_msb_cond, BitVec.msb_eq_decide, BitVec.toNat_ofNat, Nat.mod_eq_of_lt hx, Bool.true_and]
    norm_cast

theorem elemMin_le_elemMax (t : Ty) : elemMin t ≤ elemMax t := by cases t <;> decide

/-- An element of an integer row: the exact value of its operands, wrapped or clamped. -/
def intElem (t : Ty) (sat : Bool) (fn : Int → Int → Int → Int) (a b c : Nat) : Nat × Flags :=
  cvtII t.isSigned t.width sat (fn (intVal t.isSigned t.width a) (intVal t.isSigned t.width b) (intVal t.isSigned t.width c))

theorem cvtII_eq (t : Ty) (sat : Bool) (v : Int) : cvtII t.isSigned t.width sat v
    = (((if sat then max (elemMin t) (min (elemMax t) v) else v) % 2 ^ t.width).toNat,
       if sat && (decide (v < elemMin t) || decide (elemMax t < v)) then 32 else 0) := by
  have hle := elemMin_le_elemMax t
  have hlo : intLo t.isSigned t.width = elemMin t := rfl
  have hhi : intHi t.isSigned t.width = elemMax t := rfl
  unfold cvtII
  rw [hlo, hhi]
  cases sat with
  | false => rfl
  | true =>
    by_cases h1 : v < elemMin t
    · have : max (elemMin t) (min (elemMax t) v) = elemMin t := by omega
      simp [h1, this, intBits, fSA]
    · by_cases h2 : elemMax t < v
      · have : max (elemMin t) (min (elemMax t) v) = elemMax t := by omega
        simp [h1, h2, this, intBits, fSA]
      · have : max (elemMin t) (min (elemMax t) v) = v := by omega
        simp [h1, h2, this, intBits]

theorem elemUse_un (f : LaneWord) (t : Ty) : elemUse f t false false = ⟨[f.va.val], [f.vd.val], [], [], tagged f.va.val 1 t⟩ := by
  simp [elemUse]

theorem exec_intRow {p : (LaneWord → Instr) × Bool × Bool × (Int → Int → Int → Int)} (hp : p ∈ intRows) (f : LaneWord)
    (s : State) :
    exec (p.1 f) s = laneDo s f (elemUse f (laneTy f) p.2.1 p.2.2.1) (fun g => g.result f.vd.val (g.act f) (laneTy f)
      (fun l => perElem (laneTy f).elems (laneTy f).width (intElem (laneTy f) (laneSat f) p.2.2.2)
        (g.rv f.va.val l) (g.b f l) (g.rv f.vc.val l))) := by
  simp only [intRows, List.mem_cons, List.not_mem_nil, or_false] at hp
  obtain rfl | rfl | rfl | rfl | rfl | rfl := hp
  · rfl
  · rfl
  · rfl
  · rfl
  · have he : intElem (laneTy f) (laneSat f) (fun a _ _ => |a|) = fun a _ _ =>
        cvtII (laneTy f).isSigned (laneTy f).width (laneSat f) (intVal (laneTy f).isSigned (laneTy f).width a).natAbs := by
      funext a b c; rw [intElem, Int.natCast_natAbs]
    rw [he, elemUse_un]; rfl
  · have he : intElem (laneTy f) (laneSat f) (fun a _ _ => -a) = fun a _ _ =>
        cvtII (laneTy f).isSigned (laneTy f).width (laneSat f) (0 - intVal (laneTy f).isSigned (laneTy f).width a) := by
      funext a b c; rw [intElem, Int.zero_sub]
    rw [he, elemUse_un]; rfl

theorem intElem_eq (t : Ty) (sat : Bool) (fn : Int → Int → Int → Int) {a b c : Nat} (ha : a < 2 ^ t.width) (hb : b < 2 ^ t.width)
    (hc : c < 2 ^ t.width) : intElem t sat fn a b c
      = (((if sat then max (elemMin t) (min (elemMax t) (fn (elemVal t a) (elemVal t b) (elemVal t c)))
            else fn (elemVal t a) (elemVal t b) (elemVal t c)) % 2 ^ t.width).toNat,
         if sat && (decide (fn (elemVal t a) (elemVal t b) (elemVal t c) < elemMin t)
           || decide (elemMax t < fn (elemVal t a) (elemVal t b) (elemVal t c))) then 32 else 0) := by
  rw [intElem, intVal_eq_elemVal t ha, intVal_eq_elemVal t hb, intVal_eq_elemVal t hc, cvtII_eq]

theorem emod_toNat_mod (v : Int) (w : Nat) : (v % 2 ^ w).toNat % 2 ^ w = (v % 2 ^ w).toNat := by
  have hp : (0 : Int) < 2 ^ w := by positivity
  have h0 := Int.emod_nonneg v hp.ne'
  have h1 := Int.emod_lt_of_pos v hp
  apply Nat.mod_eq_of_lt
  zify; rw [Int.toNat_of_nonneg h0]; exact h1

/-- Settles O19: a row's element is the exact value of its operands, clamped or wrapped (`exec_intRow`, `intElem_eq`), and SA
stands where an element of an acting lane was clamped (`perElem_flags`, `foldr_flag`). -/
theorem laneIntegerArithmetic : Obligations.LaneIntegerArithmetic := by
  intro p hp f t s _ ht hr w sat exact
  have hty : laneTy f = t := by rw [laneTy, ht]; rfl
  have hs : laneSat f = decide sat := rfl
  have he := exec_intRow hp f s
  rw [hty, hs] at he
  have hel (l i : Nat) : intElem t (decide sat) p.2.2.2 (elt w (s.me.rv f.va.val l) i) (elt w (s.me.b f l) i)
      (elt w (s.me.rv f.vc.val l) i)
      = (((if sat then max (elemMin t) (min (elemMax t) (exact l i)) else exact l i) % 2 ^ w).toNat,
         if decide sat && (decide (exact l i < elemMin t) || decide (elemMax t < exact l i)) then 32 else 0) := by
    rw [intElem_eq t _ _ (elt_lt ..) (elt_lt ..) (elt_lt ..)]; simp only [decide_eq_true_eq]; rfl
  have hfl : flagsOf (s.me.act f) (fun l => perElem t.elems w (intElem t (decide sat) p.2.2.2) (s.me.rv f.va.val l) (s.me.b f l)
      (s.me.rv f.vc.val l)) = if sat ∧ (List.range 32).any (fun l => (s.me.act f).getLsbD l && (List.range t.elems).any (fun i =>
        decide (exact l i < elemMin t) || decide (elemMax t < exact l i))) = true then 32 else 0 := by
    refine (foldr_flag _ _ _ (fun l => perElem_flags _ _ _ _ _ _ _ fun i => congrArg Prod.snd (hel l i)) _).trans ?_
    by_cases h : sat <;> simp [h]
  rw [← hfl]
  exact laneResult_of_laneDo he hr rfl fun l _ _ i hi => by rw [elt_perElem t hi, hel, emod_toNat_mod]

end Sys2Proof.Proofs
end

section
open Sys2Proof Sys2Proof.Machine Sys2Proof.Claims Sys2Proof.Laws

namespace Sys2Proof.Proofs

/-! ### CLAUSE_START on a parked gang (R92, R110) -/

/-- A checked clause that waits for no flag. -/
def readyClause : Clause := ⟨0, 0, true, false, 0, 0, 1, [], 0, 0⟩

/-- A parked gang without faulted work, in a resident crew, with that clause alone in its queue. -/
def parkedGang : State :=
  (State.reset.setCrew 0 { State.reset.crew 0 with phase := .resident }).setGang 0
    { Gang.empty with phase := .running, crew := 0, clauses := [readyClause], parked := true }

/-- The clause starts, and the gang is parked no longer: nothing of its work is faulted. -/
theorem clauseStart_unparks : ∃ t, exec (.clauseStart 0) parkedGang = .next t ∧ (t.gang 0).parked = false :=
  ⟨_, rfl, by decide⟩

/-- Refutes O36: CLAUSE_START lets a parked gang try again (R92, R110), so it clears `parked` where no faulted work holds the
gang, and the statement says that only the clauses and the flags change. -/
theorem not_clauseEvents : ¬ Obligations.ClauseEvents := by
  intro h
  obtain ⟨t, ht, hp⟩ := clauseStart_unparks
  obtain ⟨_, _, _, _, hstart, _⟩ := h 0 readyClause [] parkedGang (by decide) (by decide)
  obtain ⟨u, hu, _, hg, _⟩ := hstart rfl rfl (by decide)
  cases ht.symm.trans hu
  rw [hg] at hp
  exact absurd (show (parkedGang.gang 0).parked = false from hp) (by decide)

end Sys2Proof.Proofs
end

section
open Sys2Proof Sys2Proof.Machine Sys2Proof.Claims Sys2Proof.Laws

namespace Sys2Proof.Proofs

/-! ### What a step does before its turn -/

theorem begin_eq (s : State) (tn : Turn) : s.begin tn =
    { s with agenda := s.agenda.tail, cur := match tn with | .scalar k => k | .lane k => k | _ => s.cur } := by
  cases tn <;> rfl

theorem step_eq {s : State} {tn : Turn} (h : s.turn = tn) : step s = settled ((s.begin tn).take tn) := by rw [step, h]

section Issue

variable (s : State) (lane : Bool) (k : Nat)

theorem issueOn_only : s.issueOn lane k = { s with gangs := (s.issueOn lane k).gangs, issued := (s.issueOn lane k).issued } := rfl

theorem issueOn_gang_ne {j : Nat} (h : j ≠ k) : (s.issueOn lane k).gang j = s.gang j := by
  rw [show (s.issueOn lane k).gang j = (s.setGang k _).gang j from rfl, setGang_gang, if_neg h]

/-- Issuing counts on the account of its port and moves nothing else of its gang (R93). -/
theorem issueOn_gang_self : (s.issueOn lane k).gang k = { s.gang k with
    waitS := ((s.issueOn lane k).gang k).waitS, waitL := ((s.issueOn lane k).gang k).waitL,
    lastS := ((s.issueOn lane k).gang k).lastS, lastL := ((s.issueOn lane k).gang k).lastL } := by
  rw [show (s.issueOn lane k).gang k = (s.setGang k _).gang k from rfl, setGang_gang, if_pos rfl]
  cases lane <;> rfl

theorem issueOn_crew : ((s.issueOn lane k).gang k).crew = (s.gang k).crew := by rw [issueOn_gang_self]
theorem issueOn_clauses : ((s.issueOn lane k).gang k).clauses = (s.gang k).clauses := by rw [issueOn_gang_self]
theorem issueOn_trap : ((s.issueOn lane k).gang k).trap = (s.gang k).trap := by rw [issueOn_gang_self]
theorem issueOn_pc : ((s.issueOn lane k).gang k).pc = (s.gang k).pc := by rw [issueOn_gang_self]
theorem issueOn_sreg : ((s.issueOn lane k).gang k).sreg = (s.gang k).sreg := by rw [issueOn_gang_self]

/-! ### Turns of a stream (R92, R93, R100) -/

theorem onPort_waits {i : Instr} (h : s.goes i = false) : s.onPort lane k i = exec i s := by rw [State.onPort, h]; rfl

theorem onPort_picked {i : Instr} (h : s.goes i = true) (hp : s.portPick lane (slotQuad k) = some k) :
    s.onPort lane k i = exec i (s.issueOn lane k) := by rw [State.onPort, h, if_pos hp]; rfl

theorem onPort_passed {i : Instr} (h : s.goes i = true) (hp : s.portPick lane (slotQuad k) ≠ some k) :
    s.onPort lane k i = .next s := by rw [State.onPort, h, if_neg hp]; rfl

theorem take_scalar_ok {i : Instr} (hr : s.scalarReady k = true) (hf : s.fetchScalar k = .ok i) :
    s.take (.scalar k) = s.onPort false k i := by
  simp only [State.take, hr, hf, Bool.not_true, Bool.false_eq_true, if_false]

theorem take_scalar_trap {c : Nat} (hr : s.scalarReady k = true) (hf : s.fetchScalar k = .trap c)
    (hp : s.portPick false (slotQuad k) = some k) : s.take (.scalar k)
      = .next ((s.issueOn false k).scalarTrap c 0 (if c = 6 then (s.gang k).pc.setWidth 64 else 0)) := by
  simp only [State.take, hr, hf, hp, Bool.not_true, Bool.false_eq_true, if_false, if_true]

theorem take_lane {c : Clause} {cs : List Clause} {i : Instr} (hr : s.laneReady k = true) (hc : (s.gang k).clauses = c :: cs)
    (hi : c.body[c.next]? = some i) : s.take (.lane k) = s.onPort true k i := by
  simp only [State.take, State.fetchLane, hr, hc, hi, Bool.not_true, Bool.false_eq_true, if_false]

end Issue

/-! ### Fetching (R24, R45, R46) -/

/-- What the fetch of a word gives, by what its bytes decode to. -/
def fetched : Except DecodeError (Instr × List Byte) → Fetched
  | .ok r => .ok r.1
  | .error _ => .trap 1

section Fetch

variable {s : State} {k : Nat} {bs cs : List Byte}

theorem fetchScalar_beyond (h : (s.crew (s.gang k).crew).scalarSize < (s.gang k).pc.toNat + 4) : s.fetchScalar k = .trap 6 := by
  simp only [State.fetchScalar, h, if_true]

variable (hin : (s.gang k).pc.toNat + 4 ≤ (s.crew (s.gang k).crew).scalarSize)
  (hb : s.readV (s.crew (s.gang k).crew).asid ((s.crew (s.gang k).crew).codeBase + (s.gang k).pc.toNat) 4 = some bs)
include hin hb

theorem fetchScalar_short (hl : isLong (leNat bs) = false) :
    s.fetchScalar k = fetched (decodeBytes bs) := by
  simp only [State.fetchScalar, Nat.not_lt.2 hin, hb, hl, if_false, Bool.not_false, if_true]
  rfl

theorem fetchScalar_long_beyond (hl : isLong (leNat bs) = true)
    (h : (s.crew (s.gang k).crew).scalarSize < (s.gang k).pc.toNat + 8) : s.fetchScalar k = .trap 6 := by
  simp only [State.fetchScalar, Nat.not_lt.2 hin, hb, hl, h, if_false, Bool.not_true, Bool.false_eq_true, if_true]

theorem fetchScalar_long (hl : isLong (leNat bs) = true) (h : (s.gang k).pc.toNat + 8 ≤ (s.crew (s.gang k).crew).scalarSize)
    (hc : s.readV (s.crew (s.gang k).crew).asid ((s.crew (s.gang k).crew).codeBase + (s.gang k).pc.toNat + 4) 4 = some cs) :
    s.fetchScalar k = fetched (decodeBytes (bs ++ cs)) := by
  simp only [State.fetchScalar, Nat.not_lt.2 hin, hb, hl, Nat.not_lt.2 h, hc, if_false, Bool.not_true, Bool.false_eq_true]
  rfl

end Fetch

/-! ### The end of a cycle (R23, R93) -/

/-- Two states with the same account of the cycle and the same cycle counters. -/
def SameClock (s t : State) : Prop := t.issued = s.issued ∧ t.cycles = s.cycles

theorem SameClock.refl (s : State) : SameClock s s := ⟨rfl, rfl⟩

theorem SameClock.trans {s t u : State} (h : SameClock s t) (g : SameClock t u) : SameClock s u :=
  ⟨g.1.trans h.1, g.2.trans h.2⟩

theorem SameClock.ite {s t u : State} {p : Prop} [Decidable p] (ht : SameClock s t) (hu : SameClock s u) :
    SameClock s (if p then t else u) := by
  split
  · exact ht
  · exact hu

theorem sameClock_foldl {β : Type} {f : State → β → State} (h : ∀ s x, SameClock s (f s x)) (l : List β) :
    ∀ s, SameClock s (l.foldl f s) := by
  induction l with
  | nil => exact SameClock.refl
  | cons x l ih => exact fun s => (h s x).trans (ih _)

theorem wakeObjs_sameClock (w : Crew) (ks : List Nat) : ∀ s : State, SameClock s (s.wakeObjs w ks) := by
  induction ks with
  | nil => exact SameClock.refl
  | cons k ks ih => exact fun s => SameClock.trans ⟨rfl, rfl⟩ (ih (s.setGang k ((s.gang k).wakeObj w)))

theorem freeScr_sameClock (s : State) (c off n : Nat) : SameClock s (s.freeScr c off n) :=
  wakeObjs_sameClock _ _ _

theorem freeLanes_sameClock (k : Nat) (act : BitVec 32) (rs : List Nat) : ∀ s : State, SameClock s (s.freeLanes k act rs) := by
  induction rs with
  | nil => exact SameClock.refl
  | cons r rs ih => exact fun s => SameClock.trans ⟨rfl, rfl⟩ (ih ((s.setGang k ((s.gang k).wvs r act s.free)).useFree 32))

theorem freeCells_sameClock (s : State) (k t : Nat) (l : List (Nat × Nat)) : SameClock s (s.freeCells k t l) := ⟨rfl, rfl⟩

theorem listUndef_sameClock (s : State) (k w : Nat) (l : WList) : SameClock s (s.listUndef k w l) := ⟨rfl, rfl⟩

theorem hUndef_sameClock (s : State) (h : HOp) (p : HPart) (l : List (Nat × Nat × Nat × BitVec 32)) :
    SameClock s (s.hUndef h p l) := by
  have hcells := freeCells_sameClock s p.gang
  have hlanes := fun rs => freeLanes_sameClock p.gang p.act rs s
  have hlist (w : Nat) : SameClock s (if h.lost.contains p.gang then s.listUndef p.gang w ((s.gang p.gang).list w) else s) :=
    .ite (listUndef_sameClock ..) (.refl s)
  unfold State.hUndef
  dsimp only
  split
  · exact hcells _ _
  · exact hcells _ _
  · exact hcells _ _
  · exact hcells _ _
  · exact hcells _ _
  · exact hlanes _
  · exact .ite (sameClock_foldl (fun t i => freeScr_sameClock ..) _ s) (.refl s)
  · exact .ite (.refl s) ⟨rfl, rfl⟩
  · exact .ite (freeScr_sameClock ..) (.refl s)
  · exact hlanes _
  · exact hlanes _
  · exact hlist _
  · exact hlist _
  · exact hlist _
  · exact hlist _
  · exact hlist _
  · exact .refl s

theorem hCounts_sameClock (s : State) (h : HOp) (p : HPart) : SameClock s (s.hCounts h p).2 := by
  unfold State.hCounts; split <;> exact ⟨rfl, rfl⟩

theorem countsLost_sameClock (s : State) (h : HOp) (p : HPart) : SameClock s (s.countsLost h p) := by
  unfold State.countsLost; split <;> exact ⟨rfl, rfl⟩

theorem tailLost_sameClock (s : State) (t : Tail) : SameClock s (s.tailLost t) := by
  unfold State.tailLost
  split
  · exact SameClock.refl s
  · exact (sameClock_foldl (fun u p => (hUndef_sameClock u t.hop p t.renewed).trans (countsLost_sameClock _ t.hop p)) _ s).trans
      (hCounts_sameClock _ t.hop t.part)

theorem settleTails_sameClock (s : State) : SameClock s s.settleTails := by
  unfold State.settleTails
  split
  · exact SameClock.refl s
  · refine (sameClock_foldl tailLost_sameClock s.tails s).trans (SameClock.trans ⟨rfl, rfl⟩ (sameClock_foldl (fun u x => ?_) _ _))
    exact ⟨rfl, rfl⟩

theorem bringStep_sameClock (s : State) : SameClock s s.bringStep := by
  unfold State.bringStep
  dsimp only
  split
  · exact SameClock.refl s
  · split
    · unfold State.bootFirmware; dsimp only; split <;> exact ⟨rfl, rfl⟩
    all_goals exact ⟨rfl, rfl⟩

theorem waitsIn_sameClock (s t : State) (k : Nat) : SameClock t (s.waitsIn t k) := ⟨rfl, rfl⟩

theorem waitsIn_powered (s : State) (l : List Nat) : ∀ t, (l.foldl s.waitsIn t).powered = t.powered := by
  induction l with
  | nil => exact fun _ => rfl
  | cons k l ih => exact fun t => ih (s.waitsIn t k)

/-- The counters as a cycle of a die ends (R23): while the device is powered that die's own counts. -/
theorem endCycle_cycles (s : State) (d e : Nat) : Map.get 0 (s.endCycle d).cycles e
    = if s.powered = true ∧ e = d then (Map.get 0 s.cycles e + 1) % 2 ^ 64 else Map.get 0 s.cycles e := by
  obtain ⟨-, hc⟩ := sameClock_foldl (waitsIn_sameClock s) (s.dieGangs d) s
  have hp := waitsIn_powered s (s.dieGangs d) s
  have hb : (s.endCycle d).cycles = (State.tick { (s.dieGangs d).foldl s.waitsIn s with
      issued := s.issued.filter (fun x => slotDie (x / 2) != d) } d).cycles := by
    unfold State.endCycle; dsimp only; split
    · exact (bringStep_sameClock _).2
    · rfl
  rw [hb]
  unfold State.tick
  dsimp only
  rw [hp, hc]
  cases s.powered with
  | false => simp
  | true => rw [if_pos rfl, get_put]; by_cases h : e = d <;> simp [h]

theorem endCycle_issued (s : State) (d : Nat) : (s.endCycle d).issued = s.issued.filter (fun x => slotDie (x / 2) != d) := by
  unfold State.endCycle State.tick
  dsimp only
  split
  · rw [(bringStep_sameClock _).1]; split <;> rfl
  · split <;> rfl

/-! ### The pick of a port (R93) -/

/-- A port does not take `b` before `a`. -/
def NotAfter (urgent : Bool) (a b : Cand) : Prop := b.before urgent a = false

theorem notAfter_urgent {a b : Cand} : NotAfter true a b ↔ a.slack < b.slack ∨ a.slack = b.slack ∧ a.last ≤ b.last := by
  simp only [NotAfter, Cand.before, if_true, Bool.or_eq_false_iff, Bool.and_eq_false_iff, decide_eq_false_iff_not,
    beq_eq_false_iff_ne]
  omega

theorem notAfter_calm {a b : Cand} : NotAfter false a b ↔ b.prio < a.prio ∨ b.prio = a.prio ∧ a.last ≤ b.last := by
  simp only [NotAfter, Cand.before, Bool.false_eq_true, if_false, Bool.or_eq_false_iff, Bool.and_eq_false_iff,
    decide_eq_false_iff_not, beq_eq_false_iff_ne]
  omega

theorem NotAfter.refl (u : Bool) (a : Cand) : NotAfter u a a := by
  cases u
  · rw [notAfter_calm]; omega
  · rw [notAfter_urgent]; omega

theorem NotAfter.trans {u : Bool} {a b c : Cand} (h : NotAfter u a b) (g : NotAfter u b c) : NotAfter u a c := by
  cases u
  · rw [notAfter_calm] at *; omega
  · rw [notAfter_urgent] at *; omega

theorem NotAfter.of_before {u : Bool} {a b : Cand} (h : a.before u b = true) : NotAfter u a b := by
  have hn : ¬NotAfter u b a := by rw [NotAfter, h]; decide
  cases u
  · rw [notAfter_calm] at *; omega
  · rw [notAfter_urgent] at *; omega

/-- The better of the candidate found so far and the next one. -/
def better (u : Bool) (m : Option Cand) (c : Cand) : Option Cand :=
  match m with
  | none => some c
  | some b => if c.before u b then some c else some b

theorem pick_eq (cs : List Cand) : pick cs = (cs.foldl (better (tight cs)) none).map Cand.key := rfl

theorem foldl_better (u : Bool) (cs : List Cand) : ∀ b, ∃ c, cs.foldl (better u) (some b) = some c
    ∧ c ∈ b :: cs ∧ ∀ d ∈ b :: cs, NotAfter u c d := by
  induction cs with
  | nil => exact fun b => ⟨b, rfl, List.mem_singleton_self b, fun d hd => by rw [List.mem_singleton.1 hd]; exact .refl u b⟩
  | cons x cs ih =>
    intro b
    have step (y : Cand) (hy : y = x ∨ y = b) (hyx : NotAfter u y x) (hyb : NotAfter u y b) (he : better u (some b) x = some y) :
        ∃ c, (x :: cs).foldl (better u) (some b) = some c ∧ c ∈ b :: x :: cs ∧ ∀ d ∈ b :: x :: cs, NotAfter u c d := by
      obtain ⟨c, hc, hm, hle⟩ := ih y
      have hcy := hle y (List.mem_cons_self ..)
      refine ⟨c, by rw [List.foldl_cons, he, hc], ?_, fun d hd => ?_⟩
      · rcases hy with rfl | rfl <;> simp only [List.mem_cons] at hm ⊢ <;> tauto
      · simp only [List.mem_cons] at hd
        rcases hd with rfl | rfl | hd
        · exact hcy.trans hyb
        · exact hcy.trans hyx
        · exact hle d (List.mem_cons_of_mem _ hd)
    cases h : x.before u b with
    | true => exact step x (.inl rfl) (.refl u x) (.of_before h) (if_pos h)
    | false => exact step b (.inr rfl) h (.refl u b) (if_neg (by rw [h]; decide))

theorem pick_first {cs : List Cand} {k : Nat} (h : pick cs = some k) :
    ∃ c ∈ cs, c.key = k ∧ ∀ d ∈ cs, NotAfter (tight cs) c d := by
  cases cs with
  | nil => cases h
  | cons x cs =>
    obtain ⟨c, hc, hm, hle⟩ := foldl_better (tight (x :: cs)) cs x
    have hp : pick (x :: cs) = some c.key := by rw [pick_eq, List.foldl_cons, show better _ none x = some x from rfl, hc]; rfl
    exact ⟨c, hm, Option.some.inj (hp.symm.trans h), hle⟩

theorem tight_iff {cs : List Cand} : tight cs = true
    ↔ ∃ n < 16, n + 1 ≤ (cs.filter (fun x => decide (15 - x.wait ≤ n))).length := by
  simp [tight, Cand.slack]

/-! ### A step (R24, R45, R46, R47, R92, R93, R191, R192) -/

/-- A precise scalar trap that is taken at once (R192), whatever raises it. -/
theorem scalarTrap_taken {s : State} {hd cause : Nat} {info : Word} {addr : Dword} (hh : s.myCrew.handler = some hd)
    (hm : s.me.trap.handler = false) (hc : s.me.clauses = []) (ha : cause = 5 ∨ cause = 6 ∨ addr = 0) :
    (s.scalarTrap cause info addr).gang s.cur = { s.me with
        trap := scalarTrapState s.me.trap cause s.me.pc info addr
        pc := BitVec.ofNat 32 hd, trapWait := none, parked := false, sWait := false }
      ∧ s.SameBytes (s.scalarTrap cause info addr) := by
  have ht : s.scalarTrap cause info addr = s.takeTrap s.cur ⟨cause, false, false, s.me.pc, info, 0, addr, 0, 0, 0⟩ := by
    simp only [State.scalarTrap, hc, if_true]
  rw [ht, takeTrap_gang s _ hh hm, record_scalarTrap _ _ _ 0 ha]
  exact ⟨rfl, takeTrap_sameBytes s _ hh hm⟩

section ScalarTurn

variable {s : State} {k : Nat} (ht : s.turn = .scalar k) (hr : (s.begin (.scalar k)).scalarReady k = true)
include ht hr

/-- R46, R191: a fetch that fails traps where its port picks its gang. -/
theorem step_fetchTrap {c hd : Nat} (hf : (s.begin (.scalar k)).fetchScalar k = .trap c) (hc : c = 6 ∨ c = 1)
    (hp : (s.begin (.scalar k)).portPick false (slotQuad k) = some k) (hcl : (s.gang k).clauses = [])
    (hh : (s.crew (s.gang k).crew).handler = some hd) (hm : (s.gang k).trap.handler = false) :
    ∃ t, step s = settled (.next t)
      ∧ (t.gang k).trap = scalarTrapState (s.gang k).trap c (s.gang k).pc 0 (if c = 6 then (s.gang k).pc.setWidth 64 else 0)
      ∧ (t.gang k).pc = BitVec.ofNat 32 hd ∧ (t.gang k).sreg = (s.gang k).sreg ∧ s.SameBytes t := by
  refine ⟨_, by rw [step_eq ht, take_scalar_trap _ k hr hf hp], ?_⟩
  let u := s.begin (.scalar k)
  let v := u.issueOn false k
  have hcrew : v.myCrew = s.crew (s.gang k).crew := congrArg s.crew (issueOn_crew u false k)
  have htrap : v.me.trap = (s.gang k).trap := issueOn_trap u false k
  have hpc : v.me.pc = (s.gang k).pc := issueOn_pc u false k
  obtain ⟨hgang, hbytes⟩ := scalarTrap_taken (s := v) (cause := c) (info := 0)
    (addr := if c = 6 then (s.gang k).pc.setWidth 64 else 0) (hcrew ▸ hh) (htrap ▸ hm) ((issueOn_clauses u false k).trans hcl)
    (by rcases hc with rfl | rfl <;> simp)
  rw [htrap, hpc] at hgang
  exact ⟨congrArg Gang.trap hgang, congrArg Gang.pc hgang, (congrArg Gang.sreg hgang).trans (issueOn_sreg u false k), hbytes⟩

theorem step_scalar {i : Instr} (hf : (s.begin (.scalar k)).fetchScalar k = .ok i) :
    step s = settled ((s.begin (.scalar k)).onPort false k i) := by rw [step_eq ht, take_scalar_ok _ k hr hf]

end ScalarTurn

/-- The three things that a port can do with an instruction of a stream. -/
theorem onPort_runs {s u : State} {lane : Bool} {k : Nat} {i : Instr} (h : step s = settled (u.onPort lane k i)) :
    (u.goes i = false → step s = settled (exec i u))
      ∧ (u.goes i = true → u.portPick lane (slotQuad k) = some k → step s = settled (exec i (u.issueOn lane k)))
      ∧ (u.goes i = true → u.portPick lane (slotQuad k) ≠ some k → step s = settled (.next u)) :=
  ⟨fun hg => by rw [h, onPort_waits _ _ _ hg], fun hg hp => by rw [h, onPort_picked _ _ _ hg hp],
    fun hg hp => by rw [h, onPort_passed _ _ _ hg hp]⟩

/-- R93, in the terms of the manual: slack first where some n + 1 gangs have a slack of at most n, priority otherwise. -/
theorem pick_rule (cs : List Cand) (k : Nat) (h : pick cs = some k) : ∃ c ∈ cs, c.key = k ∧ ∀ d ∈ cs,
      let slack (x : Cand) : Nat := 15 - x.wait
      let urgent := ∃ n < 16, n + 1 ≤ (cs.filter (fun x => decide (slack x ≤ n))).length
      (urgent → slack c < slack d ∨ slack c = slack d ∧ c.last ≤ d.last)
      ∧ (¬urgent → d.prio < c.prio ∨ d.prio = c.prio ∧ c.last ≤ d.last) := by
  obtain ⟨c, hc, hk, hle⟩ := pick_first h
  refine ⟨c, hc, hk, fun d hd => ⟨fun hu => ?_, fun hu => ?_⟩⟩
  · have := hle d hd; rw [tight_iff.2 hu] at this; exact notAfter_urgent.1 this
  · have := hle d hd; rw [Bool.eq_false_iff.2 fun ht => hu (tight_iff.1 ht)] at this; exact notAfter_calm.1 this

theorem settled_next {s : State} (h : s.tails = []) : settled (.next s) = .next s := by
  rw [settled, State.settleTails, h]; rfl

/-- A turn that ends a cycle of a die (R23, R93): it does so where no port of the die has still to issue. -/
theorem cycle_ends {s : State} {d : Nat} (hd : s.turn = .cycle d) :
    (4 ≤ d ∨ (s.begin (.cycle d)).dieIssues d = true → step s = settled (.next (s.begin (.cycle d))))
      ∧ (d < 4 → (s.begin (.cycle d)).dieIssues d = false → ∃ t, step s = .next t
        ∧ (∀ x, x ∈ t.issued ↔ x ∈ s.issued ∧ slotDie (x / 2) ≠ d)
        ∧ ∀ e < 4, Map.get 0 t.cycles e = (if s.powered = true ∧ e = d then (Map.get 0 s.cycles e + 1) % 2 ^ 64
            else Map.get 0 s.cycles e)) := by
  have hs (b : Bool) (h : (decide (4 ≤ d) || (s.begin (.cycle d)).dieIssues d) = b) :
      step s = settled (.next (if b = true then s.begin (.cycle d) else (s.begin (.cycle d)).endCycle d)) := by
    rw [step_eq hd, ← h]; rfl
  refine ⟨fun h => hs true (by simpa using h), fun hlt hi => ⟨_, hs false (by simp [hi, hlt]), ?_, ?_⟩⟩
  · intro x
    rw [(settleTails_sameClock _).1, if_neg (by decide), endCycle_issued]
    simp [begin_eq]
  · intro e _
    rw [(settleTails_sameClock _).2, if_neg (by decide), endCycle_cycles]
    rfl

/-- Settles O55: a turn of a stream by what its fetch gives (`fetchScalar_short`, `fetchScalar_long`) and what its port does with
it (`onPort_runs`), a fetch trap as any precise trap (`scalarTrap_taken`), the end of a cycle by its account (`cycle_ends`), and the
pick of a port as the first in its order (`pick_first`). -/
theorem stepRunsDecoded : Obligations.StepRunsDecoded := by
  refine ⟨fun s => ⟨fun tn _ => begin_eq s tn, fun lane k => ⟨issueOn_only s lane k, fun j hj => issueOn_gang_ne s lane k hj,
    issueOn_gang_self s lane k⟩, fun k hk => ?_, fun k c cs i hk => ?_, fun i hi => step_eq hi, fun d hd => ?_, fun h => ?_,
    fun _ => rfl⟩, pick_rule⟩
  · intro u w g pc traps hr
    have runs {i : Instr} (hf : u.fetchScalar k = .ok i) := onPort_runs (step_scalar hk hr hf)
    refine ⟨fun h hd hp hcl hh hm => step_fetchTrap hk hr (fetchScalar_beyond h) (.inl rfl) hp hcl hh hm, fun bs hin hb =>
      ⟨fun hl => ⟨fun i rest hi => ?_, fun e he hd hp hcl hh hm => ?_⟩,
       fun hl h hd hp hcl hh hm => step_fetchTrap hk hr (fetchScalar_long_beyond hin hb hl h) (.inl rfl) hp hcl hh hm,
       fun cs hl h hc => ⟨fun i rest hi => ?_, fun e he hd hp hcl hh hm => ?_⟩⟩⟩
    · exact runs ((fetchScalar_short hin hb hl).trans (congrArg fetched hi))
    · exact step_fetchTrap hk hr ((fetchScalar_short hin hb hl).trans (congrArg fetched he)) (.inr rfl) hp hcl hh hm
    · exact runs ((fetchScalar_long hin hb hl h hc).trans (congrArg fetched hi))
    · exact step_fetchTrap hk hr ((fetchScalar_long hin hb hl h hc).trans (congrArg fetched he)) (.inr rfl) hp hcl hh hm
  · intro u hr hc hi
    exact onPort_runs (by rw [step_eq hk, take_lane _ k hr hc hi])
  · exact cycle_ends hd
  · exact settled_next h

end Sys2Proof.Proofs
end

section
open Sys2Proof Sys2Proof.Machine Sys2Proof.Claims Sys2Proof.Laws

namespace Sys2Proof.Proofs

/-! ### Codes and quanta (R50) -/

section Codes

variable (m : Fmt)

theorem two_pow_mBits_even : 2 ^ m.mBits % 2 = 0 := by cases m <;> rfl

/-- The quanta of a code whose exponent field is `a` and whose fraction is `b`. -/
theorem quanta_fields (a : Nat) {b : Nat} (hb : b < 2 ^ m.mBits) :
    m.quanta (2 ^ m.mBits * a + b) = if a = 0 then b else (2 ^ m.mBits + b) * 2 ^ (a - 1) := by
  rw [Fmt.quanta, Nat.mul_add_mod, Nat.mod_eq_of_lt hb, Nat.mul_add_div (Nat.two_pow_pos _), Nat.div_eq_of_lt hb, Nat.add_zero]
  rcases Nat.eq_zero_or_pos a with rfl | ha
  · rw [Nat.mul_zero, Nat.zero_add, if_pos hb, if_pos rfl]
  · rw [if_neg (by have := Nat.le_mul_of_pos_right (2 ^ m.mBits) ha; omega), if_neg ha.ne']

/-- The next code stands for more quanta. -/
theorem quanta_lt_succ (c : Nat) : m.quanta c < m.quanta (c + 1) := by
  have hM := Nat.two_pow_pos m.mBits
  have hb := Nat.mod_lt c hM
  rw [← Nat.div_add_mod c (2 ^ m.mBits)]
  generalize c / 2 ^ m.mBits = a, c % 2 ^ m.mBits = b at hb
  rw [quanta_fields m a hb]
  by_cases hlast : b + 1 < 2 ^ m.mBits
  · rw [Nat.add_assoc, quanta_fields m a hlast]
    split
    · exact Nat.lt_succ_self b
    · exact Nat.mul_lt_mul_of_pos_right (by omega) (Nat.two_pow_pos _)
  · have hc : 2 ^ m.mBits * a + b + 1 = 2 ^ m.mBits * (a + 1) + 0 := by rw [Nat.mul_succ]; omega
    rw [hc, quanta_fields m (a + 1) hM, if_neg (Nat.succ_ne_zero a), Nat.add_sub_cancel, Nat.add_zero]
    split
    next h => rw [h, Nat.pow_zero, Nat.mul_one]; exact hb
    next h =>
      obtain ⟨k, rfl⟩ := Nat.exists_eq_succ_of_ne_zero h
      rw [Nat.succ_sub_one, Nat.pow_succ, Nat.mul_comm (2 ^ k) 2, ← Nat.mul_assoc]
      exact Nat.mul_lt_mul_of_pos_right (by omega) (Nat.two_pow_pos _)

theorem quanta_strictMono : StrictMono m.quanta := strictMono_nat_of_lt_succ (quanta_lt_succ m)

/-- The code of a number of quanta that a significand of the format's precision can give. -/
theorem quanta_codeOf {c e : Nat} (hc : c < 2 ^ (m.mBits + 1)) : m.quanta (m.codeOf (c * 2 ^ e)) = c * 2 ^ e := by
  generalize hq : c * 2 ^ e = q
  by_cases hs : q < 2 ^ m.mBits
  · rw [Fmt.codeOf, if_pos hs, Fmt.quanta, if_pos hs]
  have hq0 : q ≠ 0 := by have := Nat.two_pow_pos m.mBits; omega
  have hlog : m.mBits ≤ q.log2 := (Nat.le_log2 hq0).2 (Nat.le_of_not_lt hs)
  have hle : q.log2 - m.mBits ≤ e := by
    have hlt : q.log2 < m.mBits + 1 + e := (Nat.log2_lt hq0).2 (by
      rw [← hq, Nat.pow_add]; exact Nat.mul_lt_mul_of_pos_right hc (Nat.two_pow_pos e))
    omega
  have hdvd : 2 ^ (q.log2 - m.mBits) ∣ q := hq ▸ (Nat.pow_dvd_pow 2 hle).mul_left c
  have hlo : 2 ^ m.mBits ≤ q / 2 ^ (q.log2 - m.mBits) := by
    rw [Nat.le_div_iff_mul_le (Nat.two_pow_pos _), ← Nat.pow_add, Nat.add_sub_cancel' hlog]; exact Nat.log2_self_le hq0
  have hhi : q / 2 ^ (q.log2 - m.mBits) < 2 ^ m.mBits * 2 := by
    rw [Nat.div_lt_iff_lt_mul (Nat.two_pow_pos _), ← Nat.pow_succ, ← Nat.pow_add]
    exact lt_of_lt_of_eq Nat.lt_log2_self (by congr 1; omega)
  rw [Fmt.codeOf, if_neg hs]
  dsimp only
  rw [Nat.mul_comm (_ + 1), quanta_fields m _ (by omega), if_neg (Nat.succ_ne_zero _), Nat.add_sub_cancel,
    Nat.add_sub_cancel' hlo, Nat.div_mul_cancel hdvd]

theorem codeOf_le_maxCode {q : Nat} (hq : m.quanta (m.codeOf q) = q) (h : q ≤ m.quanta m.maxCode) : m.codeOf q ≤ m.maxCode :=
  (quanta_strictMono m).le_iff_le.1 (hq.le.trans h)

end Codes

/-! ### Neighbours on a grid (R57) -/

/-- The two numbers of a set of magnitudes between which `x` lies: none of the set is between them. -/
structure Between (S : ℚ → Prop) (lo x hi : ℚ) : Prop where
  le : lo ≤ x
  lt : x < hi
  gap : ∀ z, S z → z ≤ lo ∨ hi ≤ z

section Neighbours

variable {S : ℚ → Prop} {lo x hi : ℚ} (b : Between S lo x hi)
include b

/-- The lower neighbour is nearest where `x` is no nearer to the upper one; the upper one is as near at a tie only. -/
theorem Between.low_nearest (h : x - lo ≤ hi - x) {z : ℚ} (hz : S z) :
    |x - lo| ≤ |x - z| ∧ (|x - lo| = |x - z| → z = lo ∨ x - lo = hi - x) := by
  have h1 := b.le
  have h2 := b.lt
  rw [abs_of_nonneg (by linarith : (0 : ℚ) ≤ x - lo)]
  rcases b.gap z hz with hl | hu
  · rw [abs_of_nonneg (by linarith : (0 : ℚ) ≤ x - z)]
    exact ⟨by linarith, fun _ => .inl (by linarith)⟩
  · rw [abs_of_nonpos (by linarith : x - z ≤ 0)]
    exact ⟨by linarith, fun _ => .inr (by linarith)⟩

theorem Between.high_nearest (h : hi - x ≤ x - lo) {z : ℚ} (hz : S z) :
    |x - hi| ≤ |x - z| ∧ (|x - hi| = |x - z| → z = hi ∨ x - lo = hi - x ∧ z = lo) := by
  have h1 := b.le
  have h2 := b.lt
  rw [abs_of_nonpos (by linarith : x - hi ≤ 0)]
  rcases b.gap z hz with hl | hu
  · rw [abs_of_nonneg (by linarith : (0 : ℚ) ≤ x - z)]
    exact ⟨by linarith, fun _ => .inr ⟨by linarith, by linarith⟩⟩
  · rw [abs_of_nonpos (by linarith : x - z ≤ 0)]
    exact ⟨by linarith, fun _ => .inl (by linarith)⟩

theorem Between.low_greatest {z : ℚ} (hz : S z) (hx : z ≤ x) : z ≤ lo :=
  (b.gap z hz).resolve_right fun h => (lt_of_lt_of_le b.lt h).not_ge hx

theorem Between.high_least (hlt : lo < x) {z : ℚ} (hz : S z) (hx : x ≤ z) : hi ≤ z :=
  (b.gap z hz).resolve_left fun h => (lt_of_lt_of_le hlt hx).not_ge h

end Neighbours

/-- `x` is `rem` of `whole` one unit above the significand `s` at the exponent `e`; the significand has the format's whole precision,
or the exponent is the least. -/
structure OnGrid (m : Fmt) (low : Int → Prop) (x : ℚ) (s : Nat) (e : Int) (rem whole : Nat) : Prop where
  up : ∀ a b, a ≤ b → low a → low b
  adm : low e
  lt : s < 2 ^ (m.mBits + 1)
  normal : 2 ^ m.mBits ≤ s ∨ ¬low (e - 1)
  rem_lt : rem < whole
  eq : x = (s + rem / whole) * (2 : ℚ) ^ e

section Grid

variable {m : Fmt} {low : Int → Prop} {x : ℚ} {s : Nat} {e : Int} {rem whole : Nat} (g : OnGrid m low x s e rem whole)
include g

theorem OnGrid.rep_low : rep m low (s * (2 : ℚ) ^ e) := ⟨s, e, g.adm, g.lt, rfl⟩

/-- The next significand, or the least normal one at the next exponent. -/
theorem OnGrid.next : (s + 1 < 2 ^ (m.mBits + 1))
    ∨ (s + 1 = 2 ^ (m.mBits + 1) ∧ ((s : ℚ) + 1) * (2 : ℚ) ^ e = (2 ^ m.mBits : Nat) * (2 : ℚ) ^ (e + 1)) := by
  rcases Nat.lt_or_eq_of_le g.lt with h | h
  · exact .inl h
  · refine .inr ⟨h, ?_⟩
    have hs : (s : ℚ) + 1 = 2 ^ (m.mBits + 1) := by exact_mod_cast h
    rw [hs, zpow_add_one₀ (by norm_num)]; push_cast; ring

theorem OnGrid.rep_high : rep m low (((s : ℚ) + 1) * (2 : ℚ) ^ e) := by
  rcases g.next with h | ⟨-, h⟩
  · exact ⟨s + 1, e, g.adm, h, by push_cast; rfl⟩
  · exact ⟨2 ^ m.mBits, e + 1, g.up _ _ (by omega) g.adm, Nat.pow_lt_pow_right (by norm_num) (by omega), h⟩

theorem OnGrid.even_low (h : s % 2 = 0) : evenRep m low (s * (2 : ℚ) ^ e) := ⟨s, e, g.adm, g.lt, rfl, g.normal, h⟩

theorem OnGrid.even_high (h : s % 2 = 1) : evenRep m low (((s : ℚ) + 1) * (2 : ℚ) ^ e) := by
  rcases g.next with hs | ⟨-, hs⟩
  · exact ⟨s + 1, e, g.adm, hs, by push_cast; rfl, g.normal.imp (by omega) id, by omega⟩
  · exact ⟨2 ^ m.mBits, e + 1, g.up _ _ (by omega) g.adm, Nat.pow_lt_pow_right (by norm_num) (by omega), hs, .inl le_rfl,
      two_pow_mBits_even m⟩

/-- No magnitude of the format lies between two significands that follow each other: at a greater exponent it is a whole number of
these units, and at a smaller one it is below every normal significand. -/
theorem OnGrid.gap {z : ℚ} (hz : rep m low z) : z ≤ s * (2 : ℚ) ^ e ∨ ((s : ℚ) + 1) * (2 : ℚ) ^ e ≤ z := by
  obtain ⟨c, e', hlow, hc, rfl⟩ := hz
  have hpos : (0 : ℚ) < 2 ^ e := by positivity
  rcases le_or_gt e e' with he | he
  · obtain ⟨d, rfl⟩ := Int.le.dest he
    have hz : (c : ℚ) * 2 ^ (e + d) = (c * 2 ^ d : Nat) * (2 : ℚ) ^ e := by
      rw [zpow_add₀ (by norm_num), zpow_natCast]; push_cast; ring
    rw [hz, mul_le_mul_iff_left₀ hpos, mul_le_mul_iff_left₀ hpos]
    exact (Nat.lt_or_ge s (c * 2 ^ d)).symm.imp (fun h => by exact_mod_cast h) (fun h => by exact_mod_cast h)
  · have hs : 2 ^ m.mBits ≤ s := g.normal.resolve_right fun h => h (g.up _ _ (by omega) hlow)
    left
    calc (c : ℚ) * 2 ^ e' ≤ 2 ^ (m.mBits + 1) * 2 ^ (e - 1) := by
          gcongr
          · exact_mod_cast hc.le
          · norm_num
          · omega
      _ = 2 ^ m.mBits * 2 ^ e := by rw [zpow_sub_one₀ (by norm_num)]; ring
      _ ≤ s * 2 ^ e := by gcongr; exact_mod_cast hs

theorem OnGrid.between : Between (rep m low) (s * (2 : ℚ) ^ e) x (((s : ℚ) + 1) * (2 : ℚ) ^ e) := by
  have hpos : (0 : ℚ) < 2 ^ e := by positivity
  have hw : (rem : ℚ) / whole < 1 := by
    rw [div_lt_one (by exact_mod_cast Nat.zero_lt_of_lt g.rem_lt)]; exact_mod_cast g.rem_lt
  refine ⟨?_, ?_, fun z => g.gap⟩ <;> rw [g.eq]
  · exact mul_le_mul_of_nonneg_right (le_add_of_nonneg_right (by positivity)) hpos.le
  · exact mul_lt_mul_of_pos_right (by linarith) hpos

/-- How far `x` is from its two neighbours, in parts of the unit. -/
theorem OnGrid.dist : ∃ u : ℚ, 0 < u ∧ x - s * (2 : ℚ) ^ e = rem * u ∧ ((s : ℚ) + 1) * (2 : ℚ) ^ e - x = (whole - rem) * u := by
  have hw : (whole : ℚ) ≠ 0 := by exact_mod_cast Nat.ne_zero_of_lt g.rem_lt
  have hpos : (0 : ℚ) < whole := by positivity
  refine ⟨2 ^ e / whole, by positivity, ?_, ?_⟩ <;> rw [g.eq] <;> field_simp <;> ring

theorem OnGrid.dist_le : x - s * (2 : ℚ) ^ e ≤ ((s : ℚ) + 1) * (2 : ℚ) ^ e - x ↔ 2 * rem ≤ whole := by
  obtain ⟨u, hu, h1, h2⟩ := g.dist
  rw [h1, h2, mul_le_mul_iff_left₀ hu, le_sub_iff_add_le, ← two_mul]; exact_mod_cast Iff.rfl

theorem OnGrid.dist_ge : ((s : ℚ) + 1) * (2 : ℚ) ^ e - x ≤ x - s * (2 : ℚ) ^ e ↔ whole ≤ 2 * rem := by
  obtain ⟨u, hu, h1, h2⟩ := g.dist
  rw [h1, h2, mul_le_mul_iff_left₀ hu, sub_le_iff_le_add, ← two_mul]; exact_mod_cast Iff.rfl

theorem OnGrid.eq_low_iff : s * (2 : ℚ) ^ e = x ↔ rem = 0 := by
  obtain ⟨u, hu, h1, -⟩ := g.dist
  rw [eq_comm, ← sub_eq_zero, h1, mul_eq_zero, or_iff_left hu.ne', Nat.cast_eq_zero]

end Grid

/-! ### Rounding on a grid (R57) -/

/-- The significand after the rounding of R57. -/
def roundedSig (md : Rnd) (neg : Bool) (s rem whole : Nat) : Nat := if md.up neg (s % 2 == 1) rem whole then s + 1 else s

section RoundGrid

variable {m : Fmt} {low : Int → Prop} {x : ℚ} {s : Nat} {e : Int} {rem whole : Nat} (g : OnGrid m low x s e rem whole) (md : Rnd)
  (neg : Bool)
include g

theorem OnGrid.rep_rounded : rep m low (roundedSig md neg s rem whole * (2 : ℚ) ^ e) := by
  unfold roundedSig; split
  · exact_mod_cast g.rep_high
  · exact g.rep_low

theorem OnGrid.rounded_down : s * (2 : ℚ) ^ e ≤ x ∧ ∀ z, rep m low z → z ≤ x → z ≤ s * (2 : ℚ) ^ e :=
  ⟨g.between.le, fun _ => g.between.low_greatest⟩

theorem OnGrid.rounded_up : x ≤ ((if rem ≠ 0 then s + 1 else s : Nat) : ℚ) * (2 : ℚ) ^ e
    ∧ ∀ z, rep m low z → x ≤ z → ((if rem ≠ 0 then s + 1 else s : Nat) : ℚ) * (2 : ℚ) ^ e ≤ z := by
  by_cases hr : rem = 0
  · have hx := g.eq_low_iff.2 hr
    rw [if_neg (not_not.2 hr), hx]
    exact ⟨le_rfl, fun _ _ h => h⟩
  · have hlt : s * (2 : ℚ) ^ e < x := lt_of_le_of_ne g.between.le fun h => hr (g.eq_low_iff.1 h)
    rw [if_pos hr]; push_cast
    exact ⟨g.between.lt.le, fun _ hz => g.between.high_least hlt hz⟩

/-- To nearest, a tie to the even significand. -/
theorem OnGrid.rounded_nearest_even : ∀ z, rep m low z → |x - roundedSig .rn neg s rem whole * (2 : ℚ) ^ e| ≤ |x - z|
    ∧ (|x - roundedSig .rn neg s rem whole * (2 : ℚ) ^ e| = |x - z| →
      z = roundedSig .rn neg s rem whole * (2 : ℚ) ^ e ∨ evenRep m low (roundedSig .rn neg s rem whole * (2 : ℚ) ^ e)) := by
  intro z hz
  by_cases hup : Rnd.up .rn neg (s % 2 == 1) rem whole = true
  · rw [roundedSig, if_pos hup]; push_cast
    simp only [Rnd.up, Bool.or_eq_true, Bool.and_eq_true, decide_eq_true_eq, beq_iff_eq] at hup
    obtain ⟨hle, heq⟩ := g.between.high_nearest (g.dist_ge.2 (by omega)) hz
    refine ⟨hle, fun h => (heq h).imp id fun ⟨ht, _⟩ => g.even_high ?_⟩
    have := g.dist_le.1 ht.le
    omega
  · rw [roundedSig, if_neg hup]
    simp only [Rnd.up, Bool.or_eq_true, Bool.and_eq_true, decide_eq_true_eq, beq_iff_eq] at hup
    obtain ⟨hle, heq⟩ := g.between.low_nearest (g.dist_le.2 (by omega)) hz
    refine ⟨hle, fun h => (heq h).imp id fun ht => g.even_low ?_⟩
    have := g.dist_ge.1 ht.ge
    omega

/-- To nearest, a tie away from zero. -/
theorem OnGrid.rounded_nearest_away : ∀ z, rep m low z → |x - roundedSig .rna neg s rem whole * (2 : ℚ) ^ e| ≤ |x - z|
    ∧ (|x - roundedSig .rna neg s rem whole * (2 : ℚ) ^ e| = |x - z| → z ≤ roundedSig .rna neg s rem whole * (2 : ℚ) ^ e) := by
  intro z hz
  by_cases hup : whole ≤ 2 * rem
  · rw [roundedSig, if_pos (show Rnd.up .rna neg (s % 2 == 1) rem whole = true from decide_eq_true hup)]; push_cast
    obtain ⟨hle, heq⟩ := g.between.high_nearest (g.dist_ge.2 hup) hz
    refine ⟨hle, fun h => ?_⟩
    obtain rfl | ⟨-, rfl⟩ := heq h
    · exact le_rfl
    · exact g.between.le.trans g.between.lt.le
  · rw [roundedSig, if_neg (by simpa [Rnd.up] using hup)]
    obtain ⟨hle, heq⟩ := g.between.low_nearest (g.dist_le.2 (by omega)) hz
    refine ⟨hle, fun h => ?_⟩
    obtain rfl | ht := heq h
    · exact le_rfl
    · exact absurd (g.dist_ge.1 ht.ge) hup

/-- R57: each rounding function takes a magnitude between two significands to the one that `Rnd.up` chooses. -/
theorem OnGrid.roundsTo : RoundsTo m md neg low x (roundedSig md neg s rem whole * (2 : ℚ) ^ e) := by
  refine ⟨g.rep_rounded md neg, ?_⟩
  cases md with
  | rn => exact g.rounded_nearest_even neg
  | rna => exact g.rounded_nearest_away neg
  | rz => exact g.rounded_down
  | ru =>
    cases neg with
    | true => simpa [roundedSig, Rnd.up] using g.rounded_down
    | false => simpa [roundedSig, Rnd.up] using g.rounded_up
  | rd =>
    cases neg with
    | true => simpa [roundedSig, Rnd.up] using g.rounded_up
    | false => simpa [roundedSig, Rnd.up] using g.rounded_down

theorem OnGrid.exact_iff : roundedSig md neg s rem whole * (2 : ℚ) ^ e = x ↔ rem = 0 := by
  have hu : rem = 0 → md.up neg (s % 2 == 1) rem whole = false := by
    rintro rfl
    have := g.rem_lt
    cases md <;> simp [Rnd.up] <;> omega
  refine ⟨fun h => ?_, fun h => by rw [roundedSig, if_neg (by rw [hu h]; exact Bool.false_ne_true), g.eq_low_iff.2 h]⟩
  unfold roundedSig at h
  split at h
  · exact absurd (h.symm.trans (by push_cast; rfl)) g.between.lt.ne
  · exact g.eq_low_iff.1 h

end RoundGrid

/-- A quotient is a significand and a part of its unit. -/
theorem OnGrid.of_div {m : Fmt} {low : Int → Prop} {x : ℚ} {e : Int} {n unit : Nat} (hu : 0 < unit) (hx : x = n / unit * (2 : ℚ) ^ e)
    (hlow : ∀ a b, a ≤ b → low a → low b) (he : low e) (hlt : n / unit < 2 ^ (m.mBits + 1))
    (hn : 2 ^ m.mBits ≤ n / unit ∨ ¬low (e - 1)) : OnGrid m low x (n / unit) e (n % unit) unit := by
  refine ⟨hlow, he, hlt, hn, Nat.mod_lt _ hu, hx.trans (congrArg (· * _) ?_)⟩
  have hu' : (unit : ℚ) ≠ 0 := by exact_mod_cast hu.ne'
  rw [div_eq_iff hu', add_mul, div_mul_cancel₀ _ hu']
  exact_mod_cast (Nat.div_add_mod' n unit).symm

theorem le_roundedSig (md : Rnd) (neg : Bool) (s rem whole : Nat) : s ≤ roundedSig md neg s rem whole := by
  unfold roundedSig; split <;> omega

theorem roundedSig_le (md : Rnd) (neg : Bool) (s rem whole : Nat) : roundedSig md neg s rem whole ≤ s + 1 := by
  unfold roundedSig; split <;> omega

/-! ### The rounding of section 03 (R57 to R60) -/

section Round

variable (m : Fmt) (md : Rnd) (sat neg : Bool)

/-- R57: the exponent, in quanta, of the unit in which `Fmt.round` rounds a magnitude whose whole part is `t`. -/
def unitExp (t : Nat) : Nat := if t < 2 ^ (m.mBits + 1) then 0 else t.log2 - m.mBits

theorem div_unitExp_lt (t : Nat) : t / 2 ^ unitExp m t < 2 ^ (m.mBits + 1) := by
  unfold unitExp; split
  next h => rwa [Nat.pow_zero, Nat.div_one]
  next h =>
    have hl : m.mBits + 1 ≤ t.log2 := (Nat.le_log2 (by have := Nat.two_pow_pos (m.mBits + 1); omega)).2 (Nat.le_of_not_lt h)
    rw [Nat.div_lt_iff_lt_mul (Nat.two_pow_pos _), ← Nat.pow_add]
    exact lt_of_lt_of_eq Nat.lt_log2_self (by congr 1; omega)

theorem le_div_unitExp {t : Nat} (ht : 2 ^ m.mBits ≤ t) : 2 ^ m.mBits ≤ t / 2 ^ unitExp m t := by
  unfold unitExp; split
  next h => rwa [Nat.pow_zero, Nat.div_one]
  next h =>
    have h0 : t ≠ 0 := by have := Nat.two_pow_pos m.mBits; omega
    rw [Nat.le_div_iff_mul_le (Nat.two_pow_pos _), ← Nat.pow_add, Nat.add_sub_cancel' ((Nat.le_log2 h0).2 ht)]
    exact Nat.log2_self_le h0

theorem unitExp_of_lt {t : Nat} (ht : t < 2 ^ m.mBits) : unitExp m t = 0 :=
  if_pos (ht.trans (Nat.pow_lt_pow_right (by norm_num) (by omega)))

variable (n den : Nat)

/-- R57: the magnitude `n / den`, in quanta, as `Fmt.round` rounds it. -/
def roundedQuanta : Nat :=
  let unit := 2 ^ unitExp m (n / den) * den
  roundedSig md neg (n / unit) (n % unit) unit * 2 ^ unitExp m (n / den)

/-- R60: the value rounded with no least exponent is below the least normal one. -/
def tinyRounded : Bool :=
  decide (n / den < 2 ^ m.mBits) && decide (roundedSig md neg (2 * n / den) (2 * n % den) den < 2 ^ (m.mBits + 1))

/-- What `Fmt.round` gives. -/
theorem round_eq (num : Nat) : m.round md sat neg num den =
    let n := num * 2 ^ m.k
    let q := roundedQuanta m md neg n den
    if m.quanta m.maxCode < q then m.overflow md sat neg
    else (m.withSign neg (m.codeOf q), if n % (2 ^ unitExp m (n / den) * den) = 0 then 0
      else if tinyRounded m md neg n den then fUF ||| fNX else fNX) := rfl

variable {n den} (hd : 0 < den)
include hd

/-- The magnitude on the grid of its unit; where it is not below the normal range its significand has the whole precision. -/
theorem onGrid_unitExp {low : Int → Prop} (hlow : ∀ a b, a ≤ b → low a → low b) (h0 : low 0)
    (hn : 2 ^ m.mBits ≤ n / den ∨ ¬low (-1)) :
    OnGrid m low (n / den) (n / (2 ^ unitExp m (n / den) * den)) (unitExp m (n / den)) (n % (2 ^ unitExp m (n / den) * den))
      (2 ^ unitExp m (n / den) * den) := by
  have hdiv : n / (2 ^ unitExp m (n / den) * den) = n / den / 2 ^ unitExp m (n / den) := by rw [Nat.mul_comm, Nat.div_div_eq_div_mul]
  refine OnGrid.of_div (Nat.mul_pos (Nat.two_pow_pos _) hd) ?_ hlow (hlow 0 _ (by omega) h0) (hdiv ▸ div_unitExp_lt m _) ?_
  · have : (den : ℚ) ≠ 0 := by exact_mod_cast hd.ne'
    rw [zpow_natCast]; push_cast; field_simp
  · by_cases ht : 2 ^ m.mBits ≤ n / den
    · exact .inl (hdiv ▸ le_div_unitExp m ht)
    · rw [unitExp_of_lt m (Nat.lt_of_not_le ht)]; exact .inr (hn.resolve_left ht)

/-- The least power of two that scales a magnitude below the normal range into it. -/
theorem exists_normal_scale (hn : 0 < n) {M : Nat} (ht : n / den < 2 ^ M) :
    ∃ j, 2 ^ M ≤ n * 2 ^ (j + 1) / den ∧ n * 2 ^ (j + 1) / den < 2 ^ (M + 1) := by
  have hex : ∃ j, 2 ^ M ≤ n * 2 ^ j / den := by
    refine ⟨M + den, (Nat.le_div_iff_mul_le hd).2 ?_⟩
    rw [Nat.pow_add, Nat.mul_left_comm]
    exact Nat.mul_le_mul_left _ (Nat.lt_two_pow_self.le.trans (Nat.le_mul_of_pos_left _ hn))
  obtain ⟨j, hj⟩ := Nat.exists_eq_succ_of_ne_zero (n := Nat.find hex) fun h => by
    have := h ▸ Nat.find_spec hex
    rw [Nat.pow_zero, Nat.mul_one] at this
    omega
  have hspec := Nat.find_spec hex
  have hmin := Nat.find_min hex (m := j) (by omega)
  rw [hj] at hspec
  rw [not_le, Nat.div_lt_iff_lt_mul hd] at hmin
  refine ⟨j, hspec, ?_⟩
  rw [Nat.div_lt_iff_lt_mul hd, Nat.pow_succ, Nat.pow_succ, ← Nat.mul_assoc, Nat.mul_right_comm (2 ^ M)]
  omega

/-- A magnitude below the normal range on the grid with no least exponent. -/
theorem onGrid_scaled {j : Nat} (hlo : 2 ^ m.mBits ≤ n * 2 ^ j / den) (hhi : n * 2 ^ j / den < 2 ^ (m.mBits + 1)) :
    OnGrid m (fun _ => True) (n / den) (n * 2 ^ j / den) (-j) (n * 2 ^ j % den) den := by
  refine OnGrid.of_div hd ?_ (fun _ _ _ => id) trivial hhi (.inl hlo)
  rw [zpow_neg, zpow_natCast]; push_cast; field_simp

/-- R60: `Fmt.round` finds whether the value rounded with no least exponent is below the least normal one from one bit below the
unit of the subnormals. -/
theorem roundsTo_unbounded (hn : 0 < n) :
    ∃ z, RoundsTo m md neg (fun _ => True) (n / den) z ∧ (z < 2 ^ m.mBits ↔ tinyRounded m md neg n den = true) := by
  by_cases ht : 2 ^ m.mBits ≤ n / den
  · have g := onGrid_unitExp m hd (low := fun _ => True) (fun _ _ _ => id) trivial (.inl ht)
    refine ⟨_, g.roundsTo md neg, iff_of_false (not_lt.2 ?_) (by simp [tinyRounded, Nat.not_lt.2 ht])⟩
    have hs : 2 ^ m.mBits ≤ roundedSig md neg (n / (2 ^ unitExp m (n / den) * den)) (n % (2 ^ unitExp m (n / den) * den))
        (2 ^ unitExp m (n / den) * den) := (g.normal.resolve_right (not_not.2 trivial)).trans (le_roundedSig ..)
    rw [zpow_natCast]
    calc (2 : ℚ) ^ m.mBits ≤ _ := by exact_mod_cast hs
      _ ≤ _ := le_mul_of_one_le_right (by positivity) (one_le_pow₀ (by norm_num))
  · rw [not_le] at ht
    obtain ⟨j, hlo, hhi⟩ := exists_normal_scale hd hn ht
    refine ⟨_, (onGrid_scaled m hd hlo hhi).roundsTo md neg, ?_⟩
    rw [tinyRounded, decide_eq_true ht, Bool.true_and, decide_eq_true_eq]
    cases j with
    | zero =>
      rw [Nat.zero_add, Nat.pow_one, Nat.mul_comm n 2, Nat.cast_one, zpow_neg_one, ← div_eq_mul_inv, div_lt_iff₀ (by norm_num),
        ← pow_succ]
      exact_mod_cast Iff.rfl
    | succ j =>
      have hpow : n * 4 ≤ n * 2 ^ (j + 1 + 1) := Nat.mul_le_mul_left n (by rw [Nat.pow_succ, Nat.pow_succ]; have := Nat.two_pow_pos j; omega)
      refine iff_of_true ?_ ?_
      · have hlt : roundedSig md neg (n * 2 ^ (j + 1 + 1) / den) (n * 2 ^ (j + 1 + 1) % den) den < 2 ^ m.mBits * 2 ^ (j + 1 + 1) := by
          refine lt_of_le_of_lt ((roundedSig_le ..).trans hhi) ?_
          rw [← Nat.pow_add]; exact Nat.pow_lt_pow_right (by norm_num) (by omega)
        rw [zpow_neg, zpow_natCast, ← div_eq_mul_inv, div_lt_iff₀ (by positivity)]
        exact_mod_cast hlt
      · have hlt : 2 * n / den < 2 ^ m.mBits := by
          rw [Nat.div_lt_iff_lt_mul hd, Nat.pow_succ 2 m.mBits, Nat.mul_right_comm] at hhi
          rw [Nat.div_lt_iff_lt_mul hd]; omega
        have hsig := roundedSig_le md neg (2 * n / den) (2 * n % den) den
        rw [Nat.pow_succ]; omega

/-- The quanta that `Fmt.round` delivers, as a significand at its exponent. -/
theorem exists_onGrid_roundedQuanta : ∃ (s : Nat) (e : Nat) (rem whole : Nat), OnGrid m (0 ≤ ·) (n / den) s e rem whole
    ∧ roundedQuanta m md neg n den = roundedSig md neg s rem whole * 2 ^ e ∧ rem = n % (2 ^ unitExp m (n / den) * den) :=
  ⟨_, _, _, _, onGrid_unitExp m hd (fun _ _ h h0 => Int.le_trans h0 h) le_rfl (.inr (by decide)), rfl, rfl⟩

theorem roundsTo_roundedQuanta : RoundsTo m md neg (0 ≤ ·) (n / den) (roundedQuanta m md neg n den) := by
  obtain ⟨s, e, rem, whole, g, hq, -⟩ := exists_onGrid_roundedQuanta m md neg hd (n := n)
  rw [hq, Nat.cast_mul, Nat.cast_pow, Nat.cast_ofNat, ← zpow_natCast]
  exact g.roundsTo md neg

theorem roundedQuanta_exact_iff :
    (roundedQuanta m md neg n den : ℚ) = n / den ↔ n % (2 ^ unitExp m (n / den) * den) = 0 := by
  obtain ⟨s, e, rem, whole, g, hq, hrem⟩ := exists_onGrid_roundedQuanta m md neg hd (n := n)
  rw [hq, Nat.cast_mul, Nat.cast_pow, Nat.cast_ofNat, ← zpow_natCast, ← hrem]
  exact g.exact_iff md neg

theorem quanta_codeOf_roundedQuanta : m.quanta (m.codeOf (roundedQuanta m md neg n den)) = roundedQuanta m md neg n den := by
  obtain ⟨s, e, rem, whole, g, hq, -⟩ := exists_onGrid_roundedQuanta m md neg hd (n := n)
  rw [hq]
  rcases Nat.lt_or_eq_of_le ((roundedSig_le md neg s rem whole).trans g.lt) with h | h
  · exact quanta_codeOf m h
  · rw [h, Nat.pow_succ, Nat.mul_assoc, ← Nat.pow_succ']
    exact quanta_codeOf m (Nat.pow_lt_pow_right (by norm_num) (by omega))

omit hd in
/-- R59: an overflow that saturates. -/
theorem overflow_saturates (h : sat = true ∨ m = .e2m1 ∨ m = .e3m5) :
    m.overflow md sat neg = (m.withSign neg m.maxCode, fSA ||| fNX) := by
  unfold Fmt.overflow
  refine if_pos ?_
  obtain rfl | rfl | rfl := h
  · rfl
  · exact Bool.or_true _
  · exact Bool.or_true _

omit hd in
/-- R59: an overflow that does not saturate: the largest finite value, an infinity, or the NaN of E4M3. -/
theorem overflow_unsaturated (h2 : m ≠ .e2m1) (h3 : m ≠ .e3m5) : m.overflow md false neg =
    (m.withSign neg (if keepsFinite md neg then m.maxCode else if m = .e4m3 then 0x7F else m.infCode), fOF ||| fNX) := by
  cases m with
  | e2m1 => exact absurd rfl h2
  | e3m5 => exact absurd rfl h3
  | _ => cases md <;> cases neg <;> rfl

/-- R57 to R60 for every format: the rounding of section 03 is the one that the rules describe. -/
theorem roundsExactly (num : Nat) : RoundsExactly m md sat neg num den := by
  have hx : (num / den * 2 ^ m.k : ℚ) = (num * 2 ^ m.k : Nat) / den := by push_cast; ring
  have hround := round_eq m md sat neg den num
  have hcode := quanta_codeOf_roundedQuanta m md neg hd (n := num * 2 ^ m.k)
  have hexact := roundedQuanta_exact_iff m md neg hd (n := num * 2 ^ m.k)
  unfold RoundsExactly
  dsimp only at hround ⊢
  rw [hx, hround]
  refine ⟨_, roundsTo_roundedQuanta m md neg hd, fun hle => ?_, fun hgt => ?_⟩
  · rw [Nat.cast_le] at hle
    rw [if_neg (Nat.not_lt.2 hle)]
    refine ⟨_, codeOf_le_maxCode m hcode hle, rfl, congrArg _ hcode, fun h => if_pos (hexact.1 h), fun h => ?_⟩
    have hn : 0 < num * 2 ^ m.k := Nat.pos_of_ne_zero fun h0 => h (hexact.2 (by rw [h0, Nat.zero_mod]))
    obtain ⟨z, hz, htiny⟩ := roundsTo_unbounded m md neg hd hn
    exact ⟨z, hz, by simp only [if_neg (mt hexact.2 h), htiny]⟩
  · rw [if_pos (Nat.cast_lt.1 hgt)]
    refine ⟨overflow_saturates m md sat neg, fun hs h2 h3 => ?_⟩
    rw [hs, overflow_unsaturated m md neg h2 h3]
    exact ⟨rfl, rfl⟩

end Round

/-! ### Sums, products and fused products (R57, R61) -/

section Exact

variable (m : Fmt) (md : Rnd) (sat x y z : Bool) (i j k : Nat)

theorem realOf_eq_signed : realOf m x i = signed x i / 2 ^ m.k := by
  cases x <;> simp [realOf, signed]

theorem signed_mul : signed x i * signed y j = signed (x != y) (i * j) := by
  cases x <;> cases y <;> simp [signed]

theorem signed_mul_natCast (c : Nat) : signed x (i * c) = signed x i * c := by
  cases x <;> simp [signed]

theorem signed_natAbs : (signed x i).natAbs = i := by cases x <;> simp [signed]

theorem signed_neg_iff {i : Nat} (hi : i ≠ 0) : signed x i < 0 ↔ x = true := by
  cases x <;> simp [signed, Nat.pos_of_ne_zero hi]

theorem roundInt_signed (zneg : Bool) {n p : Nat} (hn : n ≠ 0) :
    m.roundInt md sat zneg (signed x n) p = m.round md sat x n (2 ^ p) := by
  have h0 : signed x n ≠ 0 := Int.natAbs_ne_zero.1 (by rwa [signed_natAbs])
  have hx : decide (signed x n < 0) = x := by rw [Bool.eq_iff_iff, decide_eq_true_eq, signed_neg_iff x hn]
  rw [Fmt.roundInt, if_neg h0, signed_natAbs, hx]

/-- The fused product of finite values: the exact sum of the product and the addend, rounded once. -/
theorem fma_fin : m.fma md sat (.fin x i) (.fin y j) (.fin z k) =
    m.roundInt md sat (if (x != y) = z then x != y else decide (md = .rd))
      (signed (x != y) (i * j) + signed z (k * 2 ^ m.k)) (2 * m.k) := rfl

/-- The rounding of a signed number of parts is that of the exact value that they make. -/
theorem isRounding_roundInt {v : ℚ} {n : Int} {p : Nat} (zneg : Bool) (hv : v = n / 2 ^ p) (h0 : v ≠ 0) :
    IsRounding m md sat v (m.roundInt md sat zneg n p) := by
  have hn : n ≠ 0 := by rintro rfl; exact h0 (by rw [hv, Int.cast_zero, zero_div])
  have hp : (0 : ℚ) < 2 ^ p := by positivity
  refine ⟨n.natAbs, 2 ^ p, by positivity, ?_, ?_⟩
  · rw [hv, abs_div, abs_of_pos hp, Nat.cast_natAbs, Int.cast_abs]; push_cast; rfl
  · have hneg : (v < 0) = (n < 0) := by rw [hv, div_lt_iff₀ hp, zero_mul]; exact propext Int.cast_lt_zero
    simp only [Fmt.roundInt, if_neg hn, hneg]

theorem isRounding_add (h : realOf m x i + realOf m y j ≠ 0) :
    IsRounding m md sat (realOf m x i + realOf m y j) (m.add md sat (.fin x i) (.fin y j)) :=
  isRounding_roundInt m md sat _ (by rw [realOf_eq_signed, realOf_eq_signed]; push_cast; ring) h

theorem isRounding_mul (h : realOf m x i * realOf m y j ≠ 0) :
    IsRounding m md sat (realOf m x i * realOf m y j) (m.mul md sat (.fin x i) (.fin y j)) := by
  have hv : realOf m x i * realOf m y j = (signed (x != y) (i * j) : Int) / 2 ^ (2 * m.k) := by
    rw [realOf_eq_signed, realOf_eq_signed, ← signed_mul]; push_cast; ring
  have hn : i * j ≠ 0 := by
    intro h0; rw [h0] at hv; exact h (hv.trans (by cases x != y <;> simp [signed]))
  have hr := isRounding_roundInt m md sat true hv h
  rwa [roundInt_signed m md sat _ true hn] at hr

theorem isRounding_fma (h : realOf m x i * realOf m y j + realOf m z k ≠ 0) :
    IsRounding m md sat (realOf m x i * realOf m y j + realOf m z k) (m.fma md sat (.fin x i) (.fin y j) (.fin z k)) := by
  rw [fma_fin]
  refine isRounding_roundInt m md sat _ ?_ h
  rw [realOf_eq_signed, realOf_eq_signed, realOf_eq_signed, ← signed_mul, signed_mul_natCast, Nat.two_mul, pow_add]
  push_cast; field_simp

end Exact

end Sys2Proof.Proofs
end

section
open Sys2Proof Sys2Proof.Machine Sys2Proof.Claims Sys2Proof.Laws

namespace Sys2Proof.Proofs

/-! ### The element rows of the float types (R120, R133, R134, R135) -/

theorem laneTy_of_ofCode {f : LaneWord} {t : Ty} (h : Ty.ofCode f.typ.val = some t) : laneTy f = t := by rw [laneTy, h]; rfl

theorem laneFmt_of_tyFmt {f : LaneWord} {t : Ty} {m : Fmt} (h : Ty.ofCode f.typ.val = some t) (hm : tyFmt t = some m) :
    laneFmt f = m := by rw [laneFmt, laneTy_of_ofCode h, hm]; rfl

theorem packF_snd (w : Nat) {ι : Type} (is : List ι) (F : ι → Nat × Flags) :
    (packF w (is.map F)).2 = is.foldr (fun i y => (F i).2 ||| y) 0 := by rw [packF, List.foldr_map]

theorem flagsOf_eq_laneFlags (act : BitVec 32) (val : Nat → Word × Flags) : flagsOf act val = laneFlags act fun l => (val l).2 := rfl

theorem exec_floatRow {p : (LaneWord → Instr) × Bool × Bool × (LaneWord → Fmt → Nat → Nat → Nat → Nat × BitVec 6)}
    (hp : p ∈ floatRows) (f : LaneWord) (s : State) :
    exec (p.1 f) s = laneDo s f (elemUse f (laneTy f) p.2.1 p.2.2.1) (fun g => g.result f.vd.val (g.act f) (laneTy f)
      (fun l => perElem (laneTy f).elems (laneTy f).width (p.2.2.2 f (laneFmt f)) (g.rv f.va.val l) (g.b f l)
        (g.rv f.vc.val l))) := by
  simp only [floatRows, List.mem_cons, List.not_mem_nil, or_false] at hp
  obtain rfl | rfl | rfl | rfl | rfl | rfl | rfl | rfl | rfl | rfl | rfl | rfl := hp
  · rfl
  · rfl
  · rfl
  · rfl
  · rfl
  · rfl
  all_goals rw [elemUse_un]; rfl

/-- R61: a code above that of infinity is a NaN. -/
theorem decode_f32_nan {a : Nat} (ha : 0x7F800000 < a % 2 ^ 31) : ∃ sn n, Fmt.f32.decode a = .nan sn n := by
  have hmax : ¬a % Fmt.f32.signBit ≤ Fmt.f32.maxCode := fun h => absurd (ha.trans_le h) (by decide)
  have hinf : (a % Fmt.f32.signBit == Fmt.f32.infCode) = false := beq_eq_false_iff_ne.2 (ne_of_gt ha)
  simp only [Fmt.decode, if_neg hmax, if_neg (show Fmt.f32.signBit ≠ 0 by decide), hinf, Bool.and_false, Bool.false_eq_true, if_false]
  exact ⟨_, _, rfl⟩

theorem floatRow_nan {p : (LaneWord → Instr) × Bool × Bool × (LaneWord → Fmt → Nat → Nat → Nat → Nat × BitVec 6)}
    (hp : p ∈ floatRows) (hmm : ¬(p.1 = .vfmin ∨ p.1 = .vfmax)) (f : LaneWord) {a : Nat} (b c : Nat)
    (ha : 0x7F800000 < a % 2 ^ 31) : (p.2.2.2 f .f32 a b c).1 = Fmt.f32.defaultNan := by
  obtain ⟨sn, n, hd⟩ := decode_f32_nan ha
  simp only [floatRows, List.mem_cons, List.not_mem_nil, or_false] at hp
  obtain rfl | rfl | rfl | rfl | rfl | rfl | rfl | rfl | rfl | rfl | rfl | rfl := hp
  case inr.inr.inr.inr.inl => exact absurd (.inl rfl) hmm
  case inr.inr.inr.inr.inr.inl => exact absurd (.inr rfl) hmm
  all_goals dsimp only; rw [hd]; rfl

/-- Settles O24: the rows as their instructions perform them (`exec_floatRow`), the default NaN (`floatRow_nan`), and the rounding
of section 03 against R57 to R60 (`roundsExactly`). -/
theorem laneFloatElements : Obligations.LaneFloatElements := by
  intro p hp
  refine ⟨?_, fun f a b c _ ha hmm => floatRow_nan hp hmm f b c ha, fun m md sat => ⟨?_, ?_⟩⟩
  · intro f t m s _ ht hm hr r
    have he := exec_floatRow hp f s
    rw [laneTy_of_ofCode ht, laneFmt_of_tyFmt ht hm] at he
    have hres := laneResult_of_laneDo he hr rfl
      (P := fun l v => ∀ i < t.elems, elt t.width v i = (r l i).1 % 2 ^ t.width) fun l _ _ i hi => elt_perElem t hi ..
    simp only [flagsOf_eq_laneFlags, perElem, packF_snd] at hres
    exact hres
  · intro neg num den hd _; exact roundsExactly m md sat neg hd num
  · exact fun x y z i j k => ⟨isRounding_add m md sat x y i j, isRounding_mul m md sat x y i j, isRounding_fma m md sat x y z i j k⟩

/-! ### Predicates that a lane instruction writes (R37, R76, R82) -/

theorem laneMask_getLsbD (p : Nat → Bool) {n l : Nat} (hn : n ≤ 32) (hl : l < 32) :
    (laneMask p n).getLsbD l = (decide (l < n) && p l) := by
  induction n with
  | zero => simp [laneMask]
  | succ n ih =>
    rw [laneMask, BitVec.getLsbD_or, ih (by omega)]
    by_cases h : l = n
    · subst h; cases hp : p l <;> simp [hl]
    · have hlt : decide (l < n + 1) = decide (l < n) := decide_eq_decide.2 (by omega)
      rw [hlt]
      cases hp : p n
      · simp
      · simp [BitVec.getLsbD_twoPow, Ne.symm h]

theorem act_live {g : Gang} {f : LaneWord} {l : Nat} (h : (g.act f).getLsbD l = true) : g.live.getLsbD l = true := by
  unfold Gang.act at h
  split at h
  · rw [BitVec.getLsbD_and, Bool.and_eq_true] at h; exact h.1
  · exact h

section PredDo

variable (g : Gang) (p : Nat) (act v : BitVec 32)

/-- R82: the mask-is-zero flag of the predicate that is written follows it; the others stay. -/
theorem setPred_mz_getLsbD {p' : Nat} (hp : p < 16) (hp' : p' < 16) :
    (g.setPred p v).mz.getLsbD p' = if p' = p then (v &&& g.live) == 0 else g.mz.getLsbD p' := by
  simp only [Gang.setPred]
  by_cases hz : v &&& g.live = 0
  · rw [if_pos hz, BitVec.getLsbD_or, BitVec.getLsbD_twoPow]
    by_cases h : p' = p
    · rw [if_pos h, h, hz]; simp [hp]
    · simp [h, Ne.symm h]
  · rw [if_neg hz, BitVec.getLsbD_and, BitVec.getLsbD_not, BitVec.getLsbD_twoPow]
    by_cases h : p' = p
    · rw [if_pos h, h, beq_eq_false_iff_ne.2 hz]; simp [hp]
    · simp [h, Ne.symm h, hp']

theorem raise_zero : g.raise 0 = g := by show { g with sticky := g.sticky ||| 0#6 } = g; rw [BitVec.or_zero]

theorem predResult_raise_laneNext (fl : Flags) : ((g.predResult p act v).raise fl).laneNext = { g.laneNext with
    preg := (g.predResult p act v).preg, mz := (g.predResult p act v).mz, sticky := g.sticky ||| fl } := by
  have hc : ((g.predResult p act v).raise fl).clauses = g.clauses := rfl
  unfold Gang.laneNext; rw [hc]
  split <;> rfl

/-- A lane instruction that acts, and that writes pd with the bits of a test and raises flags, has the predicate that the test gives. -/
theorem predResult_of_laneDo {i : Instr} {f : LaneWord} {s : State} {u : LaneUse} {h : Gang → Gang} {v : BitVec 32} {test : Nat → Bool}
    {fl : Flags} (he : exec i s = laneDo s f u h) (hr : LaneRuns s u)
    (hh : h s.me = (s.me.predResult f.pd.val (s.me.act f) v).raise fl)
    (hv : ∀ l < 32, (s.me.act f).getLsbD l = true → v.getLsbD l = test l) : PredResult i f s test fl := by
  obtain ⟨hheld, hb, hlim, htags⟩ := hr
  refine ⟨_, by rw [he, laneDo_runs s hb hheld hlim htags, hh], ?_⟩
  rw [setMe_me, predResult_raise_laneNext]
  have hpred (p : Nat) : ({ s.me.laneNext with
      preg := (s.me.predResult f.pd.val (s.me.act f) v).preg, mz := (s.me.predResult f.pd.val (s.me.act f) v).mz,
      sticky := s.me.sticky ||| fl } : Gang).pred p = (s.me.predResult f.pd.val (s.me.act f) v).pred p := rfl
  refine ⟨fun l hl => ?_, fun p hp => ?_, fun p hp => ?_, rfl, rfl, laneOwn_setMe _ s _⟩
  · rw [hpred, Gang.predResult, setPred_pred, if_pos rfl]
    simp only [BitVec.getLsbD_and, BitVec.getLsbD_or, BitVec.getLsbD_not, hl, decide_true, Bool.true_and]
    by_cases ha : (s.me.act f).getLsbD l = true
    · rw [hv l hl ha, ha, act_live ha]; simp
    · simp [ha]
  · rw [hpred, Gang.predResult, setPred_pred, if_neg hp]
  · rw [hpred]
    refine (setPred_mz_getLsbD s.me f.pd.val _ f.pd.isLt hp).trans ?_
    rw [Gang.predResult, setPred_pred]
    by_cases h : p = f.pd.val <;> simp [h]

end PredDo

/-! ### Float compares, classes and the two-element dot product (R136, R137, Table 6-4) -/

/-- R136: the eight tests: the six of an ordering, the unordered pair, and the ordered one. -/
theorem fcmpCode_eq (cc : Nat) (o : Option Ordering) (hcc : cc < 8) : fcmpCode cc o = match o with
    | some o => cc == 7 || (ordTests[cc]?.map (fun c => c o)).getD false
    | none => cc == 1 || cc == 6 := by
  interval_cases cc <;> cases o <;> rfl

theorem f32Class_lt (x : Nat) : f32Class x < 10 := by
  unfold f32Class
  repeat' split
  all_goals decide

theorem tagged_one {t : Ty} (h : t ≠ .raw32) (r : Nat) : tagged r 1 t = [(r, t)] := by
  rw [tagged, if_neg h]; rfl

theorem vfcmp_result {f : LaneWord} {s : State} (hr : LaneRuns s ⟨f.va.val :: bRegs f, [], bScalar f, [],
      tagged f.va.val 1 .f32 ++ bTag f .f32⟩) :
    let a (l : Nat) := Fmt.f32.decode (s.me.rv f.va.val l).toNat
    let b (l : Nat) := Fmt.f32.decode (s.me.b f l).toNat
    PredResult (.vfcmp f) f s (fun l => match FVal.cmp (a l) (b l) with
        | some o => f.opx.val == 7 || (ordTests[f.opx.val]?.map (fun c => c o)).getD false
        | none => f.opx.val == 1 || f.opx.val == 6)
      (laneFlags (s.me.act f) (fun l => snanFlag (a l) ||| snanFlag (b l))) := by
  intro a b
  refine predResult_of_laneDo (exec_vfcmp s f) hr rfl fun l hl _ => ?_
  rw [laneMask_getLsbD _ le_rfl hl, decide_eq_true hl, Bool.true_and, fcmpCode_eq _ _ f.opx.isLt]

theorem vfcls_result {f : LaneWord} {s : State} (hr : LaneRuns s ⟨[f.va.val], [], [], [], [(f.va.val, .f32)]⟩) :
    PredResult (.vfcls f) f s (fun l => f.ext.getLsbD (f32Class (s.me.rv f.va.val l).toNat)) 0 := by
  rw [← tagged_one (by decide)] at hr
  refine predResult_of_laneDo (exec_vfcls s f) hr (raise_zero _).symm fun l hl _ => ?_
  have hc := f32Class_lt (s.me.rv f.va.val l).toNat
  rw [laneMask_getLsbD _ le_rfl hl, decide_eq_true hl, Bool.true_and, LaneWord.x, Nat.testBit_mod_two_pow, Nat.pow_zero, Nat.div_one,
    decide_eq_true hc, Bool.true_and]
  rfl

theorem vfdp2_result {f : LaneWord} {t : Ty} {m : Fmt} {s : State} (ht : Ty.ofCode f.typ.val = some t) (hm : tyFmt t = some m)
    (hr : LaneRuns s ⟨f.va.val :: f.vc.val :: bRegs f, [f.vd.val], bScalar f, [],
      tagged f.va.val 1 t ++ bTag f t ++ [(f.vc.val, .f32)]⟩) :
    let two (x : Word) : List Nat := [elt 16 x 0, elt 16 x 1]
    let r (l : Nat) := stepFloat (laneSat f) m (s.me.rv f.vc.val l).toNat (two (s.me.rv f.va.val l)) (two (s.me.b f l))
    LaneResult (.vfdp2 f) f s .f32 (fun l v => v = BitVec.ofNat 32 (r l).1) (laneFlags (s.me.act f) (fun l => (r l).2)) := by
  intro two r
  have he := exec_vfdp2 s f
  rw [execVfdp2, laneTy_of_ofCode ht, laneFmt_of_tyFmt ht hm, tagged_one (by decide) f.vc.val] at he
  exact laneResult_of_laneDo (val := fun l => (BitVec.ofNat 32 (r l).1, (r l).2)) he hr rfl fun l _ _ => rfl

/-- Settles O25: each of the three instructions by the values that it writes. -/
theorem laneFloatTests : Obligations.LaneFloatTests :=
  ⟨fun _ _ _ => vfcmp_result, fun _ _ _ => vfcls_result, fun _ _ _ _ _ ht hm => vfdp2_result ht hm⟩

/-! ### Registers in a row (R87, R120, R122) -/

theorem laneFlags_zero (act : BitVec 32) : laneFlags act (fun _ => 0) = 0 := by
  have h (ls : List Nat) : ls.foldr (fun l x => if act.getLsbD l then (0 : BitVec 6) ||| x else x) 0 = 0 := by
    induction ls with
    | nil => rfl
    | cons l ls ih => rw [List.foldr_cons, ih]; split <;> rfl
  exact h _

/-- The flags of two results of each lane. -/
theorem laneFlags_or (act : BitVec 32) (a b : Nat → BitVec 6) :
    laneFlags act (fun l => a l ||| b l) = laneFlags act a ||| laneFlags act b := by
  unfold laneFlags
  induction List.range 32 with
  | nil => exact (BitVec.or_self ..).symm
  | cons l ls ih =>
    simp only [List.foldr_cons, ih]
    split
    · ac_rfl
    · rfl

theorem foldr_or_start {ι : Type} (F : ι → BitVec 6) (is : List ι) (x : BitVec 6) :
    is.foldr (fun i y => F i ||| y) x = is.foldr (fun i y => F i ||| y) 0 ||| x := by
  induction is with
  | nil => exact (BitVec.zero_or ..).symm
  | cons i is ih => rw [List.foldr_cons, List.foldr_cons, ih, BitVec.or_assoc]

/-- The elements of what is packed. -/
theorem elt_packF (t : Ty) (F : Nat → Nat × Flags) {i : Nat} (hi : i < t.elems) :
    elt t.width (packF t.width ((List.range t.elems).map F)).1 i = (F i).1 % 2 ^ t.width := by
  have hlt := pack_lt t.width (((List.range t.elems).map F).map (·.1))
  simp only [List.length_map, List.length_range, elems_mul_width] at hlt
  rw [elt, packF, BitVec.toNat_ofNat, Nat.mod_eq_of_lt hlt, pack_elt (by simpa using hi)]
  simp

section Results

variable (g : Gang) (vd : Nat) (act : BitVec 32) (ty : Ty) (val : Nat → Nat → Word × Flags)

theorem results_rv (n : Nat) {r l : Nat} (hl : l < 32) : (g.results vd act ty val n).rv r l
    = if vd ≤ r ∧ r < vd + n ∧ act.getLsbD l = true then (val (r - vd) l).1 else g.rv r l := by
  induction n with
  | zero => rw [if_neg (by omega)]; rfl
  | succ n ih =>
    rw [Gang.results, result_rv _ _ _ hl, ih]
    by_cases hr : r = vd + n
    · subst hr
      by_cases ha : act.getLsbD l = true
      · rw [if_pos ⟨rfl, ha⟩, if_pos ⟨by omega, by omega, ha⟩, Nat.add_sub_cancel_left]
      · rw [if_neg (fun h => ha h.2), if_neg (fun h => ha h.2.2), if_neg (fun h => ha h.2.2)]
    · have hlt : r < vd + (n + 1) ↔ r < vd + n := by omega
      simp only [hr, false_and, if_false, hlt]

theorem results_tag (n r : Nat) : (g.results vd act ty val n).tag r = if vd ≤ r ∧ r < vd + n then ty else g.tag r := by
  induction n with
  | zero => rw [if_neg (by omega)]; rfl
  | succ n ih =>
    rw [Gang.results, result_tag, ih]
    by_cases hr : r = vd + n
    · rw [if_pos hr, if_pos (by omega)]
    · rw [if_neg hr]; exact if_congr (by omega) rfl rfl

theorem results_sticky (n : Nat) : (g.results vd act ty val n).sticky
    = g.sticky ||| laneFlags act (fun l => (List.range n).foldr (fun r y => (val r l).2 ||| y) 0) := by
  induction n with
  | zero => simp only [List.range_zero, List.foldr_nil, laneFlags_zero]; exact (BitVec.or_zero ..).symm
  | succ n ih =>
    have hstep : (g.results vd act ty val (n + 1)).sticky
        = (g.results vd act ty val n).sticky ||| laneFlags act (fun l => (val n l).2) := rfl
    have hlast (l : Nat) : (List.range (n + 1)).foldr (fun r y => (val r l).2 ||| y) 0
        = (List.range n).foldr (fun r y => (val r l).2 ||| y) 0 ||| (val n l).2 := by
      rw [List.range_succ, List.foldr_append, foldr_or_start]; simp
    rw [hstep, ih, BitVec.or_assoc, ← laneFlags_or]
    simp only [hlast]

theorem results_laneNext (n : Nat) : (g.results vd act ty val n).laneNext = { g.laneNext with
    vreg := (g.results vd act ty val n).vreg, vtag := (g.results vd act ty val n).vtag, sticky := (g.results vd act ty val n).sticky } := by
  induction n with
  | zero =>
    rw [Gang.results]
    unfold Gang.laneNext
    split <;> rfl
  | succ n ih => rw [Gang.results, result_laneNext, ih]; rfl

/-- A lane instruction that acts, and that writes the registers from vd with their values and flags. -/
theorem writesRegs_of_laneDo {i : Instr} {f : LaneWord} {s : State} {u : LaneUse} {h : Gang → Gang} {n : Nat}
    {P : Nat → Nat → Word → Prop} {fl : Nat → Nat → BitVec 6} (he : exec i s = laneDo s f u h) (hr : LaneRuns s u)
    (hh : h s.me = s.me.results f.vd.val (s.me.act f) ty val n) (hP : ∀ l r, r < n → P l r (val r l).1)
    (hfl : ∀ l r, (val r l).2 = fl l r) : WritesRegs i f s f.vd.val n ty P fl := by
  obtain ⟨hheld, hb, hlim, htags⟩ := hr
  refine ⟨_, by rw [he, laneDo_runs s hb hheld hlim htags, hh], laneOwn_setMe _ s _, fun l hl ha r hrn => ?_, fun r l hl hrl => ?_,
    fun r => ?_, ?_, ?_⟩ <;> rw [setMe_me]
  · rw [laneNext_rv, results_rv _ _ _ _ _ _ hl, if_pos ⟨by omega, by omega, ha⟩, Nat.add_sub_cancel_left]; exact hP l r hrn
  · rw [laneNext_rv, results_rv _ _ _ _ _ _ hl, if_neg hrl]
  · rw [laneNext_tag, results_tag]
  · rw [laneNext_sticky, results_sticky]; simp only [hfl]
  · rw [results_laneNext]

end Results

/-! ### Conversions and unpacked blocks (R138, R140) -/

/-- R138: a conversion whose codes name types. -/
theorem vcvt_result {f : LaneWord} {d c : Ty} {s : State} (hd : Ty.ofCode f.typ.val = some d) (hc : Ty.ofCode (f.x 5 0) = some c)
    (hr : LaneRuns s ⟨regs f.va.val (cvtRegs d c).1, regs f.vd.val (cvtRegs d c).2, [], [], tagged f.va.val (cvtRegs d c).1 c⟩) :
    let e (l j : Nat) := cvtElem d c (if f.opx34 then .rna else laneRnd f) (laneSat f)
      (elt c.width (s.me.rv (f.va.val + j / c.elems) l) (j % c.elems))
    WritesRegs (.vcvt f) f s f.vd.val (cvtRegs d c).2 d
      (fun l r v => ∀ i < d.elems, elt d.width v i = (e l (r * d.elems + i)).1 % 2 ^ d.width)
      (fun l r => (List.range d.elems).foldr (fun i y => (e l (r * d.elems + i)).2 ||| y) 0) := by
  intro e
  have he := exec_vcvt s f
  rw [execVcvt, laneTy_of_ofCode hd, hc] at he
  exact writesRegs_of_laneDo _ _ he hr rfl (fun l r _ i hi => elt_packF d _ hi) fun l r => packF_snd _ _ _

/-- A row that keeps ext at zero above its two low bits. -/
theorem ext_lt_four {f : LaneWord} {r d : Bool} (h : (r && f.x 31 2 == 0 && d) = true) : f.ext.toNat < 4 := by
  have hext := f.ext.isLt
  simp only [Bool.and_eq_true, beq_iff_eq, LaneWord.x] at h
  omega

theorem x_one_zero {f : LaneWord} (h : f.ext.toNat < 4) : f.x 1 0 = f.ext.toNat := by
  unfold LaneWord.x; omega

theorem vunpkb_ext {f : LaneWord} (h : (Instr.vunpkb f).wf = true) : f.ext.toNat < 4 :=
  ext_lt_four ((wf_lane (i := .vunpkb f) rfl).1 h).1

theorem vpackb_ext {f : LaneWord} (h : (Instr.vpackb f).wf = true) : f.ext.toNat < 4 :=
  ext_lt_four ((wf_lane (i := .vpackb f) rfl).1 h).1

/-- R140: an unpacked block. -/
theorem vunpkb_result {f : LaneWord} {s : State} (hw : (Instr.vunpkb f).wf = true)
    (hr : LaneRuns s ⟨[f.va.val, f.vc.val], regs f.vd.val 8, [], [], [(f.va.val, .e2m1x8), (f.vc.val, .e3m5x4)]⟩) :
    WritesRegs (.vunpkb f) f s f.vd.val 8 .f32
      (fun l r v => ∀ n q, Fmt.e2m1.decode (elt 4 (s.me.rv f.va.val l) r) = .fin n q →
        v = BitVec.ofNat 32 (Fmt.f32.round .rn false n
          (q * Fmt.e3m5.quanta (elt 8 (s.me.rv f.vc.val l) f.ext.toNat)) (2 ^ (Fmt.e2m1.k + Fmt.e3m5.k))).1)
      (fun _ _ => 0) := by
  have he := exec_vunpkb s f
  rw [execVunpkb, x_one_zero (vunpkb_ext hw), tagged_one (by decide), tagged_one (by decide)] at he
  refine writesRegs_of_laneDo _ _ he hr rfl (fun l r _ n q hq => ?_) fun l r => ?_
  · dsimp only; rw [hq]
  · dsimp only; split <;> rfl

/-! ### Packed blocks (R139) -/

/-- A rounding that saturates gives no code above the largest finite one. -/
theorem round_e3m5_le (md : Rnd) (num : Nat) {den : Nat} (hd : 0 < den) :
    (Fmt.e3m5.round md true false num den).1 ≤ Fmt.e3m5.maxCode := by
  obtain ⟨y, -, hfin, hover⟩ := roundsExactly .e3m5 md true false hd num
  rcases le_or_gt y (Fmt.e3m5.quanta Fmt.e3m5.maxCode) with h | h
  · obtain ⟨c, hc, hr, -⟩ := hfin h
    rw [hr]; exact hc
  · rw [(hover h).1 (.inl rfl)]; exact le_rfl

theorem packScale_lt (xs : List Nat) : (packScale xs).1 < 256 := by
  unfold packScale
  dsimp only
  split
  · decide
  · exact Nat.lt_succ_of_le (round_e3m5_le _ _ (by decide))
  · decide

/-- A word is its bytes, with one of them replaced. -/
theorem setByte_eq_pack (x : Word) {k v : Nat} (hk : k < 4) (hv : v < 256) :
    setByte x k v = BitVec.ofNat 32 (pack 8 (((List.range 4).map (elt 8 x)).set k v)) := by
  have hx := x.isLt
  have hbytes : (List.range 4).map (elt 8 x) = [elt 8 x 0, elt 8 x 1, elt 8 x 2, elt 8 x 3] := rfl
  rw [setByte, hbytes]
  congr 1
  interval_cases k <;> simp only [List.set, pack, elt] <;> omega

theorem elt_setByte (x : Word) {k i v : Nat} (hk : k < 4) (hi : i < 4) (hv : v < 256) :
    elt 8 (setByte x k v) i = if i = k then v else elt 8 x i := by
  have hlt := pack_lt 8 (((List.range 4).map (elt 8 x)).set k v)
  have hlen : (((List.range 4).map (elt 8 x)).set k v).length = 4 := by simp
  rw [hlen] at hlt
  rw [setByte_eq_pack x hk hv, elt, BitVec.toNat_ofNat, Nat.mod_eq_of_lt hlt, pack_elt (by rwa [hlen]), List.getElem_set]
  by_cases h : i = k
  · rw [if_pos h.symm, if_pos h]; exact Nat.mod_eq_of_lt hv
  · rw [if_neg (Ne.symm h), if_neg h, List.getElem_map, List.getElem_range]; exact Nat.mod_eq_of_lt (elt_lt 8 x i)

section PackedBlock

variable (f : LaneWord) (g : Gang) (v : Nat → Word)

/-- The block, the scale and the flags of one lane of a packed block. -/
def packedLane (l : Nat) : Word × Nat × Flags :=
  packBlock (laneRnd f) ((List.range 8).map (fun j => (g.rv (f.va.val + j) l).toNat))

/-- vc with the scale in the byte that ext names. -/
def packedScale (l : Nat) : Word :=
  setByte (if f.vd.val = f.vc.val then (packedLane f g l).1 else g.rv f.vc.val l) (f.x 1 0) (packedLane f g l).2.1

/-- The gang with the blocks in vd and then the words `v` in vc. -/
def packedGang : Gang :=
  (g.result f.vd.val (g.act f) .e2m1x8 (fun l => ((packedLane f g l).1, (packedLane f g l).2.2))).result f.vc.val (g.act f) .e3m5x4
    (fun l => (v l, 0))

theorem packedGang_rv {q l : Nat} (hl : l < 32) : (packedGang f g v).rv q l =
    if q = f.vc.val ∧ (g.act f).getLsbD l = true then v l
    else if q = f.vd.val ∧ (g.act f).getLsbD l = true then (packedLane f g l).1 else g.rv q l := by
  rw [packedGang, result_rv _ _ _ hl, result_rv _ _ _ hl]

theorem packedGang_rv_frame {q l : Nat} (hl : l < 32) (hq : ¬((q = f.vd.val ∨ q = f.vc.val) ∧ (g.act f).getLsbD l = true)) :
    (packedGang f g v).rv q l = g.rv q l := by
  rw [packedGang_rv _ _ _ hl, if_neg (fun h => hq ⟨.inr h.1, h.2⟩), if_neg (fun h => hq ⟨.inl h.1, h.2⟩)]

theorem packedGang_tag (q : Nat) : (packedGang f g v).tag q =
    if q = f.vc.val then .e3m5x4 else if q = f.vd.val then .e2m1x8 else g.tag q := by
  rw [packedGang, result_tag, result_tag]

theorem packedGang_sticky :
    (packedGang f g v).sticky = g.sticky ||| laneFlags (g.act f) (fun l => (packedLane f g l).2.2) := by
  have h : (packedGang f g v).sticky
    = g.sticky ||| laneFlags (g.act f) (fun l => (packedLane f g l).2.2) ||| laneFlags (g.act f) (fun _ => 0) := rfl
  rw [h, laneFlags_zero]; exact BitVec.or_zero ..

theorem packedGang_laneNext : (packedGang f g v).laneNext = { g.laneNext with
    vreg := (packedGang f g v).vreg, vtag := (packedGang f g v).vtag, sticky := (packedGang f g v).sticky } := by
  rw [packedGang, result_laneNext, result_laneNext]; rfl

end PackedBlock

/-- What `vpackb` does: vd and vc are written, and vc gets a free value where it is the destination and a source (log 3). -/
theorem vpackb_runs {f : LaneWord} {s : State}
    (hr : LaneRuns s ⟨f.vc.val :: regs f.va.val 8, [f.vd.val, f.vc.val], [], [], tagged f.va.val 8 .f32⟩) :
    exec (.vpackb f) s = if f.vd.val = f.vc.val ∧ f.va.val ≤ f.vd.val ∧ f.vd.val < f.va.val + 8
      then .next (((s.taint s.cur [f.vd.val, f.vc.val]).useFree 32).setMe (packedGang f s.me s.free).laneNext)
      else .next ((s.taint s.cur [f.vd.val, f.vc.val]).setMe (packedGang f s.me (packedScale f s.me)).laneNext) := by
  obtain ⟨hheld, hb, hlim, htags⟩ := hr
  rw [exec_vpackb, execVpackb]
  exact laneGo_runs s hb hheld hlim htags

/-- R139: the block and the scale where they go to two registers. -/
theorem vpackb_result {f : LaneWord} {s : State} (hw : (Instr.vpackb f).wf = true)
    (hr : LaneRuns s ⟨f.vc.val :: regs f.va.val 8, [f.vd.val, f.vc.val], [], [], tagged f.va.val 8 .f32⟩) (hne : f.vd ≠ f.vc) :
    ∃ t, exec (.vpackb f) s = .next t ∧ LaneOwn s t
      ∧ (∀ l < 32, (s.me.act f).getLsbD l = true → t.me.rv f.vd.val l = (packedLane f s.me l).1
          ∧ ∀ i < 4, elt 8 (t.me.rv f.vc.val l) i
            = if i = f.ext.toNat then (packedLane f s.me l).2.1 else elt 8 (s.me.rv f.vc.val l) i)
      ∧ (∀ q, ∀ l < 32, ¬((q = f.vd.val ∨ q = f.vc.val) ∧ (s.me.act f).getLsbD l = true) → t.me.rv q l = s.me.rv q l)
      ∧ (∀ q, t.me.tag q = if q = f.vc.val then .e3m5x4 else if q = f.vd.val then .e2m1x8 else s.me.tag q)
      ∧ t.me.sticky = s.me.sticky ||| laneFlags (s.me.act f) (fun l => (packedLane f s.me l).2.2)
      ∧ t.me = { s.me.laneNext with vreg := t.me.vreg, vtag := t.me.vtag, sticky := t.me.sticky } := by
  have hval : f.vd.val ≠ f.vc.val := fun h => hne (Fin.ext h)
  have hext := vpackb_ext hw
  refine ⟨_, (vpackb_runs hr).trans (if_neg fun h => hval h.1), laneOwn_setMe _ s _, ?_⟩
  rw [setMe_me]
  refine ⟨fun l hl ha => ⟨?_, fun i hi => ?_⟩, fun q l hl hq => ?_, fun q => ?_, ?_, ?_⟩
  · rw [laneNext_rv, packedGang_rv _ _ _ hl, if_neg (fun h => hval h.1), if_pos ⟨rfl, ha⟩]
  · rw [laneNext_rv, packedGang_rv _ _ _ hl, if_pos ⟨rfl, ha⟩, packedScale, if_neg hval, x_one_zero hext]
    exact elt_setByte _ hext hi (packScale_lt _)
  · rw [laneNext_rv, packedGang_rv_frame _ _ _ hl hq]
  · rw [laneNext_tag, packedGang_tag]
  · rw [laneNext_sticky, packedGang_sticky]
  · rw [packedGang_laneNext]

/-- R139, log 3: in every case, also where vd and vc are one register, nothing else changes. -/
theorem vpackb_frame {f : LaneWord} {s : State}
    (hr : LaneRuns s ⟨f.vc.val :: regs f.va.val 8, [f.vd.val, f.vc.val], [], [], tagged f.va.val 8 .f32⟩) :
    ∃ t, exec (.vpackb f) s = .next t
      ∧ (∀ q, ∀ l < 32, ¬((q = f.vd.val ∨ q = f.vc.val) ∧ (s.me.act f).getLsbD l = true) → t.me.rv q l = s.me.rv q l)
      ∧ (∀ q, t.me.tag q = if q = f.vc.val then .e3m5x4 else if q = f.vd.val then .e2m1x8 else s.me.tag q)
      ∧ t.me = { s.me.laneNext with vreg := t.me.vreg, vtag := t.me.vtag, sticky := t.me.sticky }
      ∧ s.SameBytes t ∧ ∀ k, k ≠ s.cur → t.gang k = s.gang k := by
  obtain ⟨t, v, he, hme, hbytes, hgangs⟩ : ∃ t v, exec (.vpackb f) s = .next t
      ∧ t.me = (packedGang f s.me v).laneNext
      ∧ s.SameBytes t ∧ ∀ k, k ≠ s.cur → t.gang k = s.gang k := by
    rw [vpackb_runs hr]
    split
    · exact ⟨_, _, rfl, setMe_me .., fun _ => ⟨rfl, rfl, rfl, fun _ => rfl⟩, fun k hk => (setMe_gang ..).trans (if_neg hk)⟩
    · exact ⟨_, _, rfl, setMe_me .., (laneOwn_setMe _ s _).1, (laneOwn_setMe _ s _).2.1⟩
  refine ⟨t, he, fun q l hl hq => ?_, fun q => ?_, ?_, hbytes, hgangs⟩ <;> rw [hme]
  · rw [laneNext_rv, packedGang_rv_frame _ _ _ hl hq]
  · rw [laneNext_tag, packedGang_tag]
  · rw [packedGang_laneNext]

/-- Settles O26: conversions and unpacked blocks by the registers that they write (`writesRegs_of_laneDo`), a packed block by its two
registers, its scale in one byte (`elt_setByte`, `packScale_lt`). -/
theorem laneConversions : Obligations.LaneConversions :=
  ⟨fun _ _ _ _ _ hd hc => vcvt_result hd hc, fun _ _ hw hr => vunpkb_result hw hr,
    fun _ _ hw hr => ⟨vpackb_result hw hr, vpackb_frame hr⟩⟩

end Sys2Proof.Proofs
end

section
open Sys2Proof Sys2Proof.Machine Sys2Proof.Claims Sys2Proof.Laws

namespace Sys2Proof.Proofs

/-! ### Clauses enter the queue (R84, R107, R108) -/

/-- R79, R84: an entry of the clause queue starts unchecked, at its offset and with the count that it was given. -/
theorem newClause_fresh (s : State) (w : Crew) (off blocks : Nat) : (s.newClause w off blocks).off = off
    ∧ (s.newClause w off blocks).blocks = blocks ∧ (s.newClause w off blocks).checked = false
    ∧ (s.newClause w off blocks).started = false ∧ (s.newClause w off blocks).next = 0 := by
  unfold State.newClause
  split <;> exact ⟨rfl, rfl, rfl, rfl, rfl⟩

theorem enqueue_of_room {s : State} (h : s.me.clauses.length < 4) (off : Nat) : enqueue s off
    = .next (s.setMe { s.me with clauses := s.me.clauses ++ [s.newClause s.myCrew off s.me.nextBlk], pc := s.me.pc + 4 }) :=
  if_neg (not_le.2 h)

/-- R84: an instruction that enqueues while an entry is free. -/
theorem enqueues_of_exec {i : Instr} {s : State} {off : Nat} (he : exec i s = enqueue s off) (h : s.me.clauses.length < 4) :
    ∃ t c, exec i s = .next t ∧ c.off = off ∧ c.blocks = s.me.nextBlk ∧ c.checked = false ∧ c.started = false ∧ c.next = 0
      ∧ t.me = { s.me with clauses := s.me.clauses ++ [c], pc := s.me.pc + 4 } ∧ s.OwnGang t := by
  obtain ⟨hoff, hblk, hchk, hst, hnext⟩ := newClause_fresh s s.myCrew off s.me.nextBlk
  exact ⟨_, _, by rw [he, enqueue_of_room h], hoff, hblk, hchk, hst, hnext, setMe_me _ _, ownGang_setMe s _⟩

/-- Settles O6: both forms enqueue (`enqueues_of_exec`), `lrunr` once its register is free and aligned. -/
theorem clauseEnqueue : Obligations.ClauseEnqueue := by
  refine ⟨fun i s h => enqueues_of_exec ?_ h, fun sa s hb h ha => enqueues_of_exec ?_ h⟩
  · rw [exec_lrun, execLrun, Nat.mul_comm]
  · rw [exec_lrunr, execLrunr, scalarGo_free s hb]
    exact if_neg (not_not.2 ha)

/-! ### Waits that pass (R91, R109, R110, R118) -/

/-- R110: a flag that is not busy and that no clause names holds back no wait. -/
theorem flagWaits_eq_false {g : Gang} {i : Nat} (hb : (g.flag i).busy = false) (hc : ∀ c ∈ g.clauses, c.setA ≠ i ∧ c.setB ≠ i) :
    g.flagWaits i = false := by
  rw [Gang.flagWaits, hb, Bool.false_or, List.any_eq_false]
  intro c h
  simpa using hc c h

/-- A turn that only moves on. -/
theorem passes_of_exec {i : Instr} {s : State} (he : exec i s = .next (s.setMe (s.me.adv 4))) :
    ∃ t, exec i s = .next t ∧ s.WritesPc t (s.me.pc + 4) := ⟨_, he, writesPc_setMe s _⟩

theorem swaitf_passes {m : Fin 4096} {s : State} (h : ∀ i < 12, m.val.testBit i = true → (s.me.flag i).busy = false
    ∧ ∀ c ∈ s.me.clauses, c.setA ≠ i ∧ c.setB ≠ i) : exec (.swaitf m) s = .next (s.setMe (s.me.adv 4)) := by
  have hw : ((List.range 12).filter (fun i => m.val.testBit i)).any s.me.flagWaits = false := by
    rw [List.any_eq_false]
    intro i hi
    obtain ⟨hr, hm⟩ := List.mem_filter.1 hi
    obtain ⟨hb, hc⟩ := h i (List.mem_range.1 hr) hm
    rw [flagWaits_eq_false hb hc]
    decide
  rw [exec_swaitf, execSwaitf, hw]
  rfl

/-- R93: an issue counts no later than the second half of the die's cycle. -/
theorem issueOn_last_le (s : State) (lane : Bool) (k : Nat) :
    ((s.issueOn lane k).gang k).lastS ≤ max (2 * Map.get 0 s.cycles (slotDie k) + 2) (s.gang k).lastS
    ∧ ((s.issueOn lane k).gang k).lastL ≤ max (2 * Map.get 0 s.cycles (slotDie k) + 2) (s.gang k).lastL := by
  rw [show (s.issueOn lane k).gang k = (s.setGang k _).gang k from rfl, setGang_gang, if_pos rfl]
  cases lane
  · exact ⟨le_max_left _ _, le_max_right _ _⟩
  · exact ⟨le_max_right _ _, le_max_left _ _⟩

/-- R118: a yield counts as the latest issue of its die on both ports. -/
theorem syield_latest (s : State) : ∃ t, exec .syield s = .next t ∧ s.OwnGang t
    ∧ t.me = { s.me with pc := s.me.pc + 8, lastS := t.me.lastS, lastL := t.me.lastL }
    ∧ ∀ k lane, k / 4096 % 4 = s.cur / 4096 % 4 →
        ((s.issueOn lane k).gang k).lastS ≤ max t.me.lastS (s.gang k).lastS
        ∧ ((s.issueOn lane k).gang k).lastL ≤ max t.me.lastL (s.gang k).lastL := by
  refine ⟨_, exec_syield s, ownGang_setMe s _, ?_, fun k lane hk => ?_⟩ <;> rw [setMe_me]
  have hd : slotDie k = slotDie s.cur := hk
  obtain ⟨hS, hL⟩ := issueOn_last_le s lane k
  rw [hd] at hS hL
  exact ⟨hS.trans (max_le_max_right _ (Nat.le_succ _)), hL.trans (max_le_max_right _ (Nat.le_succ _))⟩

/-- Settles O7: each wait finds nothing to wait for, and a yield moves on (`syield_latest`). -/
theorem waitsThatPass : Obligations.WaitsThatPass :=
  ⟨fun _ h => passes_of_exec (if_neg (not_not.2 h)), fun _ _ h => passes_of_exec (swaitf_passes h), syield_latest⟩

/-! ### The extended pool (R78, R80, R114, R115) -/

theorem get_filter_lt {α : Type} (d : α) (m : Map α) (b k : Nat) :
    Map.get d (m.filter (fun e => decide (e.1 < b))) k = if b ≤ k then d else Map.get d m k := by
  induction m with
  | nil => simp
  | cons e m ih =>
    by_cases he : e.1 < b
    · rw [List.filter_cons_of_pos (by simpa using he), get_cons, get_cons, ih]
      grind
    · rw [List.filter_cons_of_neg (by simpa using he), get_cons, ih]
      grind

section Grant

variable (g : Gang) (n : Nat)

/-- R78: registers beyond the blocks held so far read zero. -/
theorem grant_rv {r l : Nat} (hl : l < 32) : (g.grant n).rv r l = if 64 + 64 * g.blocks ≤ r then 0 else g.rv r l := by
  have hk : (64 + 64 * g.blocks) * 32 ≤ r * 32 + l ↔ 64 + 64 * g.blocks ≤ r := by omega
  rw [show (g.grant n).rv r l = _ from get_filter_lt 0 g.vreg ((64 + 64 * g.blocks) * 32) (r * 32 + l)]
  simp only [hk]
  rfl

/-- R78: and carry the tag raw32. -/
theorem grant_tag (r : Nat) : (g.grant n).tag r = if 64 + 64 * g.blocks ≤ r then .raw32 else g.tag r :=
  get_filter_lt _ _ _ _

/-- What a write of a scalar register and the next word change. -/
theorem ws_adv_eq (r : Nat) (v n : Word) : (g.ws r v).adv n = { g with sreg := (g.ws r v).sreg, pc := g.pc + n } := by
  unfold Gang.ws Gang.adv
  split <;> rfl

end Grant

/-- What a write of a scalar register leaves, as R28 and R114 say it. -/
theorem vacq_answers {s t : State} {sd : SReg} {v : Word} (ht : t = s.setMe ((s.me.ws sd.val v).adv 8)) :
    (t.me.pc = s.me.pc + 8 ∧ s.SameBytes t ∧ (∀ k, k ≠ s.cur → t.gang k = s.gang k) ∧ ∀ r, r ≠ sd.val → t.me.rs r = s.me.rs r)
    ∧ t.me.rs sd.val = written sd.val v ∧ t.me = { s.me with sreg := t.me.sreg, pc := t.me.pc } ∧ t.vacqQ = s.vacqQ := by
  subst ht
  obtain ⟨⟨hbytes, hothers, _⟩, hrs, hme⟩ := writesScalar_ws s sd.val v 8
  refine ⟨⟨?_, hbytes, hothers, fun r h => hrs r (by simpa using h)⟩, ?_, hme, rfl⟩ <;> rw [setMe_me]
  · exact congrArg (· + 8) (ws_pc s.me sd.val v)
  · exact ws_self s.me sd.val v

section Vacq

variable {tr : Bool} {sd : SReg} {n : Fin 4} {s : State} (hc : s.me.clauses = []) (hr : s.me.rels = [])
  (hb : s.me.sBlocked [] (if tr then [sd.val] else []) = false)
include hc hr hb

/-- R114, R115: a request that no clause, no release and no register holds back. -/
theorem exec_vacq_free : exec (.vacq tr sd n) s =
    if n.val ≤ s.me.blocks then .next (s.setMe ((if tr then s.me.ws sd.val 1 else s.me).adv 8))
    else if tr then
      if Map.get [] s.vacqQ (s.cur / 16) = [] ∧ n.val - s.me.blocks ≤ s.freeBlocks (s.cur / 16)
      then .next (s.setMe (((s.me.grant n.val).ws sd.val 1).adv 8))
      else .next (s.setMe ((s.me.ws sd.val 0).adv 8))
    else .next (State.setMe
      { s with vacqQ := Map.put [] s.vacqQ (s.cur / 16) (Map.get [] s.vacqQ (s.cur / 16) ++ [(s.cur, n.val)]) }
      { s.me with wait := .vacq n.val, pc := s.me.pc + 8 }) := by
  have hp : ¬(s.me.clauses ≠ [] ∨ s.me.rels ≠ []) := by simp [hc, hr]
  rw [exec_vacq, execVacq, if_neg hp, scalarGo_free s hb]
  rfl

end Vacq

/-- R78: a `.try` that takes blocks: the gang has no release of its own left, so `grant` ends none. -/
theorem vacq_takes {s t : State} {sd : SReg} {n : Nat} (hr : s.me.rels = [])
    (ht : t = s.setMe (((s.me.grant n).ws sd.val 1).adv 8)) :
    (t.me.pc = s.me.pc + 8 ∧ s.SameBytes t ∧ (∀ k, k ≠ s.cur → t.gang k = s.gang k) ∧ ∀ r, r ≠ sd.val → t.me.rs r = s.me.rs r)
    ∧ t.vacqQ = s.vacqQ ∧ t.me.rs sd.val = written sd.val 1 ∧ t.me.blocks = n ∧ t.me.nextBlk = n
    ∧ (∀ r l, l < 32 → t.me.rv r l = if 64 + 64 * s.me.blocks ≤ r then 0 else s.me.rv r l)
    ∧ (∀ r, t.me.tag r = if 64 + 64 * s.me.blocks ≤ r then .raw32 else s.me.tag r)
    ∧ t.me = { s.me with sreg := t.me.sreg, pc := t.me.pc, blocks := n, nextBlk := n, vreg := t.me.vreg, vtag := t.me.vtag } := by
  have hme : t.me = { s.me.grant n with sreg := ((s.me.grant n).ws sd.val 1).sreg, pc := s.me.pc + 8 } := by
    rw [ht, setMe_me, ws_adv_eq]; rfl
  have hrs (r : Nat) : t.me.rs r = ((s.me.grant n).ws sd.val 1).rs r := by rw [hme]; rfl
  obtain ⟨hbytes, hothers, _⟩ := ownGang_setMe s (((s.me.grant n).ws sd.val 1).adv 8)
  rw [← ht] at hbytes hothers
  refine ⟨⟨by rw [hme], hbytes, hothers, fun r h => ?_⟩, by rw [ht]; rfl, ?_, by rw [hme]; rfl, by rw [hme]; rfl,
    fun r l hl => ?_, fun r => ?_, ?_⟩
  · rw [hrs, ws_rs, if_neg fun e => h e.1]; rfl
  · rw [hrs]; exact ws_self _ _ _
  · rw [hme]; exact grant_rv s.me n hl
  · rw [hme]; exact grant_tag s.me n r
  · rw [hme]; simp only [Gang.grant, hr]

/-- Settles O9: the outcomes of a request that may be made (`exec_vacq_free`), each by what it leaves. -/
theorem blockRequests : Obligations.BlockRequests := by
  intro tr sd n s hc hr hb q
  have he := exec_vacq_free (n := n) hc hr hb
  split_ifs at he with hn ht ht hq <;> refine ⟨_, he, ?_⟩
  · obtain ⟨⟨hpc, hbytes, hothers, hrs⟩, hsd, hme, hqueue⟩ := vacq_answers (s := s) (sd := sd) (v := 1) rfl
    rw [if_pos hn, if_pos ht]
    exact ⟨hpc, hbytes, hothers, hrs, hsd, hme, hqueue⟩
  · obtain ⟨hbytes, hothers, _⟩ := ownGang_setMe s (s.me.adv 8)
    rw [if_pos hn, if_neg ht, setMe_me]
    exact ⟨rfl, hbytes, hothers, fun r _ => rfl, rfl, rfl, rfl⟩
  · obtain ⟨⟨hpc, hbytes, hothers, hrs⟩, hqueue, htakes⟩ := vacq_takes (s := s) (sd := sd) (n := n.val) hr rfl
    rw [if_neg hn, if_pos ht, if_pos hq]
    exact ⟨hpc, hbytes, hothers, hrs, hqueue, htakes⟩
  · obtain ⟨⟨hpc, hbytes, hothers, hrs⟩, hsd, hme, hqueue⟩ := vacq_answers (s := s) (sd := sd) (v := 0) rfl
    rw [if_neg hn, if_pos ht, if_neg hq]
    exact ⟨hpc, hbytes, hothers, hrs, hqueue, hsd, hme⟩
  · rw [if_neg hn, if_neg ht, setMe_me]
    exact ⟨rfl, sameBytes_of_fields rfl rfl rfl fun _ => rfl, fun k hk => (setMe_gang _ k _).trans (if_neg hk), fun r _ => rfl,
      get_put_self, rfl⟩

/-- R114: the head of a queue whose gang may run and finds enough blocks is granted. -/
theorem vacqGrant_grants {q k n : Nat} {rest : List (Nat × Nat)} {s : State} (hq : Map.get [] s.vacqQ q = (k, n) :: rest)
    (hl : s.live k = true) (hf : n - (s.gang k).blocks ≤ s.freeBlocks q) : exec (.vacqGrant q) s
      = .next (State.setGang { s with vacqQ := Map.put [] s.vacqQ q rest } k { (s.gang k).grant n with wait := .none }) := by
  simp [execVacqGrant, hq, hl, hf]

/-- R115: a release that no register holds back lowers the count for the clauses behind it. -/
theorem vrel_free (n : Fin 4) {s : State} (hb : s.me.sBlocked [] [] = false) : exec (.vrel n) s = .next (s.setMe { s.me with
    nextBlk := min s.me.nextBlk n.val, pc := s.me.pc + 8
    rels := if n.val < s.me.nextBlk then s.me.rels ++ [n.val] else s.me.rels }) := by
  rw [exec_vrel, execVrel, scalarDo_free s hb]

/-- R80: a release that no clause, no pending register and no asynchronous read holds back. -/
theorem relReady_of_unused {s : State} {k n : Nat} (hc : ∀ c ∈ (s.gang k).clauses, c.blocks ≤ n)
    (hv : ∀ r ∈ (s.gang k).vpend, r < 64 + 64 * n)
    (hh : ∀ h ∈ s.hops, (∃ p ∈ h.parts, p.gang = k) → ∀ r ∈ asyncReads h.instr, r < 64 + 64 * n) : s.relReady k n = true := by
  simp only [State.relReady, Bool.and_eq_true, Bool.not_eq_true', List.all_eq_true, List.any_eq_true, List.any_eq_false,
    decide_eq_true_eq, not_le, beq_iff_eq, not_and, not_exists]
  exact ⟨⟨hc, hv⟩, hh⟩

/-- R115: the latest release that may take effect returns its blocks. -/
theorem blockReturn_returns {s : State} {k n : Nat} {pre post : List Nat} (hs : (s.gang k).rels = pre ++ n :: post)
    (hn : s.relReady k n = true) (hp : ∀ m ∈ post, s.relReady k m = false) : exec (.blockReturn k) s
      = .next (s.setGang k { (s.gang k).grant n with nextBlk := (s.gang k).nextBlk
                                                     rels := (s.gang k).rels.filter (fun m => decide (m < n)) }) := by
  have hfind : (s.gang k).rels.reverse.find? (s.relReady k) = some n := by
    have hpost : post.reverse.find? (s.relReady k) = none := by
      rw [List.find?_eq_none]; intro m hm; simp [hp m (List.mem_reverse.1 hm)]
    rw [hs, List.reverse_append, List.reverse_cons, List.append_assoc, List.find?_append, hpost]
    simp [hn]
  rw [exec_blockReturn, execBlockReturn, hfind]

/-- Settles O10: a grant (`vacqGrant_grants`), a release and the return of blocks (`blockReturn_returns`). -/
theorem blockGrantsAndReleases : Obligations.BlockGrantsAndReleases := by
  refine ⟨fun q k n rest s hq hl hf => ⟨_, vacqGrant_grants hq hl hf, ?_⟩, fun n s hb => ⟨_, vrel_free n hb, ownGang_setMe s _, setMe_me s _⟩,
    fun k n pre post s hs hn hp hc hv hh =>
      ⟨_, blockReturn_returns hs (relReady_of_unused hc hv hh) (fun m hm => (hp m hm).2), ?_⟩⟩
  · rw [setGang_gang, if_pos rfl]
    exact ⟨get_put_self, sameBytes_of_fields rfl rfl rfl fun _ => rfl, rfl, rfl, rfl, fun r l h => grant_rv _ n h, grant_tag _ n,
      fun j hj => (setGang_gang _ k j _).trans (if_neg hj)⟩
  · rw [setGang_gang, if_pos rfl]
    have hlow {r : Nat} (h : r < 64 + 64 * n) : ¬64 + 64 * (s.gang k).blocks ≤ r := by omega
    refine ⟨rfl, fun m hm => ?_, rfl, sameBytes_of_fields rfl rfl rfl fun _ => rfl, fun r l hl h => ?_, fun r h => ?_,
      fun j hj => (setGang_gang s k j _).trans (if_neg hj)⟩
    · simp only [hs, List.mem_filter, decide_eq_true_eq]
      exact ⟨by simp [hm], (hp m hm).1⟩
    · exact (grant_rv _ n hl).trans (if_neg (hlow h))
    · exact (grant_tag _ n r).trans (if_neg (hlow h))

end Sys2Proof.Proofs
end

section
open Sys2Proof Sys2Proof.Machine Sys2Proof.Claims Sys2Proof.Laws

namespace Sys2Proof.Proofs

/-! ### What issuing a lane instruction leaves of memory (R88, R156) -/

section Bytes

variable (s : State)

theorem sameBytes_refl : s.SameBytes s := sameBytes_of_fields rfl rfl rfl fun _ => rfl

/-- A crew record that keeps its scratchpad. -/
theorem sameBytes_setCrew (c : Nat) {w : Crew} (h : w.scratch = (s.crew c).scratch) : s.SameBytes (s.setCrew c w) :=
  sameBytes_of_fields rfl rfl rfl fun b => by rw [setCrew_crew]; split_ifs with hb <;> simp [h, hb]

theorem sameBytes_setGang (k : Nat) (g : Gang) : s.SameBytes (s.setGang k g) := (setGang_kept s k g).sameBytes

theorem sameBytes_report (k : Nat) (t : TrapInfo) : s.SameBytes (s.report k t) := by
  rw [report_only]; exact sameBytes_refl s

theorem sameBytes_mismatch (h : HOp) (ps : List HPart) : s.SameBytes (s.mismatch h ps) := by
  rw [mismatch_only]; exact sameBytes_refl s

theorem sameBytes_jointBreak (k : Nat) : s.SameBytes (s.jointBreak k) := by
  rw [jointBreak_only]; exact sameBytes_refl s

theorem sameBytes_stopCrew (c : Nat) (i : StopInfo) : s.SameBytes (s.stopCrew c i) := by
  unfold State.stopCrew
  dsimp only
  split_ifs
  · exact sameBytes_setCrew s c rfl
  · exact sameBytes_refl s

/-- R192, R193: a trap, however it is taken, writes no memory. -/
theorem sameBytes_takeTrap (k : Nat) (t : TrapInfo) : s.SameBytes (s.takeTrap k t) := by
  unfold State.takeTrap
  dsimp only
  split
  · have h (g : Gang) : s.SameBytes ((s.setGang k g).jointBreak k) :=
      sameBytes_trans (sameBytes_setGang s k g) (sameBytes_jointBreak _ k)
    split_ifs
    · exact h _
    · exact h _
  · exact sameBytes_trans (sameBytes_setGang s k _) (sameBytes_stopCrew _ _ _)

theorem sameBytes_laneTrap (cause : Nat) (lanes : BitVec 32) (a : Dword) : s.SameBytes (s.laneTrap cause lanes a) := by
  unfold State.laneTrap State.dropTrap
  dsimp only
  split
  · exact sameBytes_refl s
  · split_ifs
    · exact sameBytes_trans (sameBytes_setGang s _ _) (sameBytes_takeTrap _ _ _)
    · exact sameBytes_setGang s _ _

theorem sameBytes_parkNow (k : Nat) : s.SameBytes (s.parkNow k) := by
  obtain ⟨b, h | h⟩ := parkNow_spec s k <;> rw [h]
  · exact sameBytes_setGang s k _
  · exact sameBytes_refl s

theorem sameBytes_laneEnter (o : Op) (wr : List Nat) : s.SameBytes (s.laneEnter o wr) :=
  sameBytes_trans (sameBytes_of_fields rfl rfl rfl fun _ => rfl) (sameBytes_parkNow _ _)

/-! Matrix and winner-list instructions. -/

theorem sameBytes_hops (hs : List HOp) : s.SameBytes { s with hops := hs } := sameBytes_refl s

theorem sameBytes_hearthMarks (wr : List Nat) (flag : Option Nat) : s.SameBytes (s.hearthMarks wr flag) :=
  sameBytes_of_fields rfl rfl rfl fun _ => rfl

theorem sameBytes_parkedTrap (ps : List HPart) : ∀ s : State, s.SameBytes (s.parkedTrap ps) := by
  induction ps with
  | nil => exact sameBytes_refl
  | cons p ps ih =>
    exact fun s => sameBytes_trans (sameBytes_trans (sameBytes_report s _ _) (sameBytes_setGang _ _ _)) (ih _)

/-- R223, R225: an instruction enters its hearths' queues, is parked, or traps. -/
theorem sameBytes_hearthEnter (h : HOp) (wr : List Nat) (lanes : BitVec 32) (flag : Option Nat) :
    s.SameBytes (s.hearthEnter h wr lanes flag) := by
  unfold State.hearthEnter
  dsimp only
  split
  · exact sameBytes_trans (sameBytes_hearthMarks s wr flag) (sameBytes_hops _ _)
  · split
    · exact sameBytes_trans (sameBytes_parkedTrap _ s) (sameBytes_laneTrap _ _ _ _)
    · have hc (key : Nat) (t : TagSt) : s.SameBytes ((s.setCrew s.me.crew (s.myCrew.setTag key t)).hearthMarks wr flag) :=
        sameBytes_trans (sameBytes_setCrew s s.me.crew (w := s.myCrew.setTag key t) rfl) (sameBytes_hearthMarks _ wr flag)
      split_ifs
      · exact sameBytes_trans (hc _ _) (sameBytes_hops _ _)
      · exact sameBytes_trans (hc _ _) (sameBytes_hops _ _)

theorem sameBytes_hearthJoin (i : Instr) (blk : List Word) (lanes : BitVec 32) (flag : Option Nat) :
    s.SameBytes (s.hearthJoin i blk lanes flag) := by
  unfold State.hearthJoin
  extract_lets n g u part
  have hu : s.SameBytes u := sameBytes_setMe s _
  clear_value u
  refine sameBytes_trans hu ?_
  split
  · split_ifs
    · exact sameBytes_trans (sameBytes_hearthMarks u [] flag) (sameBytes_mismatch _ _ _)
    · exact sameBytes_hearthMarks u [] flag
  · dsimp only
    split_ifs
    · exact sameBytes_hearthMarks u [] flag
    · exact sameBytes_trans (sameBytes_trans (sameBytes_hops u _) (sameBytes_hearthMarks _ [] flag)) (sameBytes_mismatch _ _ _)
    · exact sameBytes_trans (sameBytes_hops u _) (sameBytes_hearthEnter _ _ _ _ _)

/-- An outcome that, where it is a next state, leaves every byte as it is. -/
def KeepsBytes (r : Res) : Prop := ∀ t, r = .next t → s.SameBytes t

variable {s}

theorem keepsBytes_next {t : State} (h : s.SameBytes t) : KeepsBytes s (.next t) := by
  rintro _ ⟨⟩
  exact h

theorem keepsBytes_trap {cause : Nat} {lanes : BitVec 32} {a : Dword} : KeepsBytes s (.next (s.laneTrap cause lanes a)) :=
  keepsBytes_next (sameBytes_laneTrap s cause lanes a)

theorem keepsBytes_ite {p : Prop} [Decidable p] {r q : Res} (hr : KeepsBytes s r) (hq : KeepsBytes s q) :
    KeepsBytes s (if p then r else q) := by
  split
  · exact hr
  · exact hq

theorem keepsBytes_laneGoIf {held : Bool} {lanes : BitVec 32} {u : LaneUse} {k : State → Res} (h : KeepsBytes s (k s)) :
    KeepsBytes s (laneGoIf s held lanes u k) :=
  keepsBytes_ite (keepsBytes_next (sameBytes_setMe s _)) (keepsBytes_ite keepsBytes_trap (keepsBytes_ite keepsBytes_trap h))

theorem keepsBytes_laneGo {lanes : BitVec 32} {u : LaneUse} {k : State → Res} (h : KeepsBytes s (k s)) :
    KeepsBytes s (laneGo s lanes u k) := keepsBytes_laneGoIf h

/-- R88: what is marked of operations that read asynchronously, undefined values that are used and the gang's own registers are
no memory. -/
theorem keepsBytes_own {wr : List Nat} {n : Nat} {g : Gang} : KeepsBytes s (.next ((s.taint s.cur wr).setMe g))
    ∧ KeepsBytes s (.next (((s.taint s.cur wr).useFree n).setMe g)) :=
  ⟨keepsBytes_next (sameBytes_of_fields rfl rfl rfl fun _ => rfl), keepsBytes_next (sameBytes_of_fields rfl rfl rfl fun _ => rfl)⟩

theorem keepsBytes_laneDo {f : LaneWord} {u : LaneUse} {h : Gang → Gang} : KeepsBytes s (laneDo s f u h) :=
  keepsBytes_laneGo (keepsBytes_own (n := 0)).1

theorem keepsBytes_laneMem {f : LaneWord} {u : LaneUse} {cause : Gang → Nat → Option Nat} {addr : Gang → Nat → Dword}
    {mk : Gang → Op} : KeepsBytes s (laneMem s f u cause addr mk) := by
  refine keepsBytes_laneGo ?_
  dsimp only
  split
  · exact keepsBytes_trap
  · exact keepsBytes_ite (keepsBytes_next (sameBytes_setMe s _)) (keepsBytes_next (sameBytes_laneEnter s _ _))

theorem keepsBytes_hearthGo {i : Instr} {f : LaneWord} {u : LaneUse} {lanes : BitVec 32} {chk : List Word → HCheck}
    {more : List Word} : KeepsBytes s (hearthGo s i f u lanes chk more) := by
  refine keepsBytes_ite (keepsBytes_next (sameBytes_setMe s _)) (keepsBytes_ite keepsBytes_trap
    (keepsBytes_ite keepsBytes_trap (keepsBytes_ite keepsBytes_trap ?_)))
  dsimp only
  split
  · exact keepsBytes_trap
  · exact keepsBytes_ite (keepsBytes_next (sameBytes_hearthJoin s _ _ _ _)) (keepsBytes_next (sameBytes_hearthEnter s _ _ _ _))

theorem keepsBytes_redeemGo {f : LaneWord} {i : Instr} {remote : Bool} : KeepsBytes s (redeemGo s f i remote) := by
  unfold redeemGo
  exact keepsBytes_laneGoIf (keepsBytes_ite keepsBytes_trap (keepsBytes_next (sameBytes_laneEnter s _ _)))

theorem keepsBytes_vpackb {f : LaneWord} : KeepsBytes s (execVpackb f s) := by
  unfold execVpackb
  exact keepsBytes_laneGo (keepsBytes_ite keepsBytes_own.2 (keepsBytes_own (n := 0)).1)

theorem keepsBytes_visect {f : LaneWord} : KeepsBytes s (execVisect f s) := by
  unfold execVisect
  exact keepsBytes_laneGo (keepsBytes_ite (keepsBytes_own (n := 0)).1 keepsBytes_own.2)

theorem keepsBytes_vprf {f : LaneWord} : KeepsBytes s (execVprf f s) := by
  unfold execVprf
  exact keepsBytes_laneGo (keepsBytes_ite (keepsBytes_next (sameBytes_setMe s _)) (keepsBytes_next (sameBytes_laneEnter s _ _)))

end Bytes

/-- Settles O58: each instruction of the lane stream by the operation through which it issues. -/
theorem laneStreamKeepsMemory : Obligations.LaneStreamKeepsMemory := by
  intro i s t hi
  suffices h : KeepsBytes s (exec i s) from h t
  cases i with
  | vadd | vsub | vmul | vmulh | vmad | vmin | vmax | vbfx =>
    simp only [exec_vadd, exec_vsub, exec_vmul, exec_vmulh, exec_vmad, exec_vmin, exec_vmax, exec_vbfx, execVadd, execVsub,
      execVmul, execVmulh, execVmad, execVmin, execVmax, execVbfx, laneElem]
    exact keepsBytes_laneDo
  | vabs | vneg | vclz | vpopc | vbrev =>
    simp only [exec_vabs, exec_vneg, exec_vclz, exec_vpopc, exec_vbrev, execVabs, execVneg, execVclz, execVpopc, execVbrev,
      laneUn]
    exact keepsBytes_laneDo
  | vand | vor | vxor | vandn =>
    simp only [exec_vand, exec_vor, exec_vxor, exec_vandn, execVand, execVor, execVxor, execVandn, laneBit]
    exact keepsBytes_laneDo
  | vshl | vshr | vsra =>
    simp only [exec_vshl, exec_vshr, exec_vsra, execVshl, execVshr, execVsra, laneShift]
    exact keepsBytes_laneDo
  | vfadd | vfsub | vfmul | vfma | vfmin | vfmax =>
    simp only [exec_vfadd, exec_vfsub, exec_vfmul, exec_vfma, exec_vfmin, exec_vfmax, execVfadd, execVfsub, execVfmul,
      execVfma, execVfmin, execVfmax, laneFlt, laneElem]
    exact keepsBytes_laneDo
  | vfrcp | vfsqrt | vfrsqrt | vflog2 | vfexp2 | vfrnd =>
    simp only [exec_vfrcp, exec_vfsqrt, exec_vfrsqrt, exec_vflog2, exec_vfexp2, exec_vfrnd, execVfrcp, execVfsqrt,
      execVfrsqrt, execVflog2, execVfexp2, execVfrnd, laneFun, laneUn]
    exact keepsBytes_laneDo
  | pand | por | pxor | pnot | pmov | pset =>
    simp only [exec_pand, exec_por, exec_pxor, exec_pnot, exec_pmov, exec_pset, execPand, execPor, execPxor, execPnot,
      execPmov, execPset, predOp]
    exact keepsBytes_laneDo
  | vshfl | vbcast | vrot =>
    simp only [exec_vshfl, exec_vbcast, exec_vrot, execVshfl, execVbcast, execVrot, lanePerm]
    exact keepsBytes_laneDo
  | vbfi | vmov | vli | vsel | vcmp | vdp4 | vaddc | vfcmp | vfcls | vfdp2 | vcvt | vunpkb | vtag | vtagq | pget | pcnt | vred
    | vscan | vrng | vlane | vnop =>
    simp only [exec_vbfi, exec_vmov, exec_vli, exec_vsel, exec_vcmp, exec_vdp4, exec_vaddc, exec_vfcmp, exec_vfcls,
      exec_vfdp2, exec_vcvt, exec_vunpkb, exec_vtag, exec_vtagq, exec_pget, exec_pcnt, exec_vred, exec_vscan, exec_vrng,
      exec_vlane, exec_vnop, execVbfi, execVmov, execVli, execVsel, execVcmp, execVdp4, execVaddc, execVfcmp, execVfcls,
      execVfdp2, execVcvt, execVunpkb, execVtag, execVtagq, execPget, execPcnt, execVred, execVscan, execVrng, execVlane,
      execVnop]
    exact keepsBytes_laneDo
  | vpackb => exact keepsBytes_vpackb
  | visect => exact keepsBytes_visect
  | vld | vlds =>
    simp only [exec_vld, exec_vlds, execVld, execVlds, laneLoad]
    exact keepsBytes_laneMem
  | vst | vsts =>
    simp only [exec_vst, exec_vsts, execVst, execVsts, laneStore]
    exact keepsBytes_laneMem
  | vatom | vatoms =>
    simp only [exec_vatom, exec_vatoms, execVatom, execVatoms, laneAtom]
    exact keepsBytes_laneMem
  | vcpidx =>
    simp only [exec_vcpidx, execVcpidx]
    exact keepsBytes_laneMem
  | vprf => exact keepsBytes_vprf
  | vredeem | vredeemRemote => exact keepsBytes_redeemGo
  | mxmac | mxtopk | mxv | mxrdy | mxld | mxst | mxclr | mxmovToTile | mxmovToVector | wlclr | wlget | wlins | wlmrg | wlthr |
    wlst | wlld | wlcfg =>
    simp only [exec_mxmac, exec_mxtopk, exec_mxv, exec_mxrdy, exec_mxld, exec_mxst, exec_mxclr, exec_mxmovToTile,
      exec_mxmovToVector, exec_wlclr, exec_wlget, exec_wlins, exec_wlmrg, exec_wlthr, exec_wlst, exec_wlld, exec_wlcfg,
      execMxmac, execMxtopk, execMxv, execMxrdy, execMxld, execMxst, execMxclr, execMxmovToTile, execMxmovToVector, execWlclr,
      execWlget, execWlins, execWlmrg, execWlthr, execWlst, execWlld, execWlcfg]
    exact keepsBytes_hearthGo
  | _ => cases hi

end Sys2Proof.Proofs
end

section
open Sys2Proof Sys2Proof.Machine Sys2Proof.Claims Sys2Proof.Laws

namespace Sys2Proof.Proofs

/-! ### Operations that the lane stream puts in flight (R86, R87, R180) -/

theorem laneNext_vpend_eq (g : Gang) (v : List Nat) :
    ({ g with vpend := v } : Gang).laneNext = { g.laneNext with vpend := v } := by
  have hc : ({ g with vpend := v } : Gang).clauses = g.clauses := rfl
  unfold Gang.laneNext
  rw [hc]
  split
  · rfl
  · rfl

/-- What a lane instruction's operation does as it issues; its gang may become parked (R198). -/
theorem laneEnter_spec (s : State) (o : Op) (wr : List Nat) :
    ∃ h, (s.laneEnter o wr).ops = s.ops ++ [{ o.idle with id := s.nextOp, head := h }]
      ∧ (s.laneEnter o wr).nextOp = s.nextOp + 1
      ∧ (s.laneEnter o wr).me = { (s.me.flagOp o.flag true).laneNext with
          vpend := s.me.vpend ++ wr, parked := (s.laneEnter o wr).me.parked }
      ∧ (∀ k, k ≠ s.cur → (s.laneEnter o wr).gang k = s.gang k)
      ∧ s.laneEnter o wr = { s with
          gangs := (s.laneEnter o wr).gangs, ops := (s.laneEnter o wr).ops, nextOp := (s.laneEnter o wr).nextOp
          hops := (s.laneEnter o wr).hops, tails := (s.laneEnter o wr).tails } := by
  let g : Gang := { (s.me.flagOp o.flag true).laneNext with vpend := s.me.vpend ++ wr }
  have he : s.laneEnter o wr = (((s.taint s.cur wr).issue o.idle).setMe g).parkNow s.cur :=
    congrArg (fun g => (((s.taint s.cur wr).issue o.idle).setMe g).parkNow s.cur) (laneNext_vpend_eq _ _)
  obtain ⟨b, hb⟩ := parkNow_spec (((s.taint s.cur wr).issue o.idle).setMe g) s.cur
  rw [he]
  refine ⟨if ((s.taint s.cur wr).queue o.idle.gang).isEmpty then s.nextOp else 0, ?_⟩
  have hg : (((s.taint s.cur wr).issue o.idle).setMe g).gang s.cur = g := setMe_me _ _
  have hk (k : Nat) (h : k ≠ s.cur) : (((s.taint s.cur wr).issue o.idle).setMe g).gang k = s.gang k :=
    (setMe_gang _ k g).trans (if_neg h)
  obtain hb | hb := hb <;> rw [hb]
  · refine ⟨rfl, rfl, ?_, fun k h => ?_, rfl⟩
    · have hm : ((((s.taint s.cur wr).issue o.idle).setMe g).setGang s.cur { g with parked := b }).me = { g with parked := b } :=
        (setGang_gang _ _ _ _).trans (if_pos rfl)
      rw [hg, hm]
    · rw [setGang_gang, if_neg h, hk k h]
  · refine ⟨rfl, rfl, ?_, hk, rfl⟩
    rw [setMe_me]

/-- R161: no acting lane meets a cause. -/
theorem lanesCause_eq_none {act : BitVec 32} {cause : Nat → Option Nat} {addr : Nat → Dword}
    (h : ∀ l < 32, act.getLsbD l = true → cause l = none) : lanesCause act cause addr = none := by
  have hz (c : Nat) : act &&& laneMask (fun l => cause l == some c) 32 = 0 := by
    apply BitVec.eq_of_getLsbD_eq
    intro l hl
    rw [BitVec.getLsbD_and, laneMask_getLsbD _ (le_refl 32) hl]
    cases ha : act.getLsbD l
    · simp
    · simp [h l hl ha]
  unfold lanesCause
  simp only [hz]
  rfl

/-- R37: one element for each acting lane, as the statements list them. -/
theorem laneEls_eq (act : BitVec 32) (addr : Nat → Dword) (data : Nat → List Byte) :
    laneEls act addr data = lanesOf act (fun l => element l (addr l) (data l)) := by
  rw [laneEls, lanesOf, ← List.filterMap_eq_map, List.filterMap_filter]
  rfl

theorem lanesOf_eq_nil {act : BitVec 32} {e : Nat → El} : lanesOf act e = [] ↔ act = 0 := by
  rw [lanesOf, List.map_eq_nil_iff, List.filter_eq_nil_iff]
  refine ⟨fun h => BitVec.eq_of_getLsbD_eq fun l hl => ?_, fun h l _ => by simp [h]⟩
  simpa using h l (List.mem_range.2 hl)

/-- R27: a signed field, added modulo 2^32. -/
theorem setWidth_sx {n v : Nat} (hn : 0 < n) (hn' : n ≤ 32) (hv : v < 2 ^ n) :
    (sx n v).setWidth 32 = (BitVec.ofNat n v).signExtend 32 := by
  rw [sx_eq_signExtend hn (by omega) hv]
  apply BitVec.eq_of_getLsbD_eq
  intro l hl
  simp only [BitVec.getLsbD_setWidth, BitVec.getLsbD_signExtend, hl, decide_true, Bool.true_and, show l < 64 by omega]

section Access

variable {i : Instr} {f : LaneWord} {s : State} {u : LaneUse}

theorem lt_x (hi lo : Nat) : f.x hi lo < 2 ^ (hi + 1 - lo) := Nat.mod_lt _ (Nat.two_pow_pos _)

theorem laneAddr_eq (l : Nat) : s.me.laneAddr f l = memA s f l := by
  rw [Gang.laneAddr, memA, sx_eq_signExtend (by omega) (by omega) (lt_x 23 8)]

theorem laneOff_eq (l : Nat) : s.me.laneOff f l = scrA s f l := by
  rw [Gang.laneOff, scrA, setWidth_sx (by omega) (by omega) (lt_x 23 8)]

/-- R86, R87: a lane instruction that enters its operation issues it. -/
theorem laneIssues_of_enter {o o' : Op} {wr : List Nat} (he : exec i s = .next (s.laneEnter o wr)) (ho : o' = o.idle)
    (hf : o'.flag = o.flag) : LaneIssues i s wr o' := by
  obtain ⟨h, hops, hnext, hme, hothers, honly⟩ := laneEnter_spec s o wr
  exact ⟨_, h, he, by rw [ho, hops], hnext, by rw [hf, ← hme], hothers, sameBytes_laneEnter s o wr, honly⟩

/-- R158, R161: a lane access that nothing holds back and none of whose acting lanes fails issues its operation. -/
theorem laneIssues_of_laneMem {cause : Gang → Nat → Option Nat} {addr : Gang → Nat → Dword} {mk : Gang → Op} {o : Op}
    {wr : List Nat} (he : exec i s = laneMem s f u cause addr mk) (hw : u.wr = wr) (hr : LaneRuns s u)
    (hc : ∀ l < 32, (s.me.act f).getLsbD l = true → cause s.me l = none)
    (hq : (mk s.me).inQ = true → s.queueFull s.cur = false) (ho : o = (mk s.me).idle) (hf : o.flag = (mk s.me).flag) :
    LaneIssues i s wr o := by
  obtain ⟨hheld, hb, hlim, htags⟩ := hr
  have hq' : ((mk s.me).inQ && s.queueFull s.cur) = false := by
    cases h : (mk s.me).inQ
    · rfl
    · rw [hq h]; rfl
  refine laneIssues_of_enter ?_ ho hf
  rw [he, laneMem, laneGo_runs s hb hheld hlim htags]
  dsimp only
  rw [lanesCause_eq_none hc, hq', hw]
  rfl

/-- Table 7-2: the scalar registers of the addresses of the lane accesses. -/
theorem laneSReads_pair {op : Nat} (h : i.laneParts = some (op, f)) (ho : op = 0x70 ∨ op = 0x71 ∨ op = 0x74 ∨ op = 0x78) :
    laneSReads i = (memUse f).srd := by
  unfold laneSReads memUse
  rw [h]
  by_cases hb : f.bsrc.val = 1 <;> obtain rfl | rfl | rfl | rfl := ho <;> simp [hb]

theorem laneSReads_one {op : Nat} (h : i.laneParts = some (op, f)) (ho : op = 0x72 ∨ op = 0x73 ∨ op = 0x75) :
    laneSReads i = (scrUse f).srd := by
  unfold laneSReads scrUse
  rw [h]
  by_cases hb : f.bsrc.val = 1 <;> obtain rfl | rfl | rfl := ho <;> simp [hb]

/-- What a lane access names for its address, and the address: an offset in the crew's scratchpad, or a virtual address. -/
def accessUse (f : LaneWord) (scr : Bool) : LaneUse := if scr then scrUse f else memUse f
def accessAt (s : State) (f : LaneWord) (scr : Bool) (l : Nat) : Dword := if scr then scrA s f l else memA s f l

theorem accessUse_rd (scr : Bool) : (accessUse f scr).rd = if scr then [f.va.val] else laneAddrRegs f := by
  cases scr <;> rfl

theorem accessAddr_eq (scr : Bool) (l : Nat) :
    (if scr then s.me.laneOff f l else s.me.laneAddr f l) = accessAt s f scr l := by
  rw [laneOff_eq, laneAddr_eq, accessAt]

theorem idle_eq_self {o : Op} (h : o.kind ≠ .load) : o.idle = o := if_neg (by simp [h])

theorem idle_load {o : Op} {p : Prop} [Decidable p] (hk : o.kind = .load) (hs : o.stage = .sent) (he : o.els = [] ↔ p) :
    o.idle = { o with stage := if p then .ready else .sent } := by
  by_cases hp : p
  · rw [if_pos hp]; exact if_pos (by simp [hk, he.2 hp])
  · rw [if_neg hp, ← hs]; exact if_neg (by simp [mt he.1 hp])

/-- R161: a load issues; where no lane acts it has nothing to perform. -/
theorem laneLoad_issues {scr : Bool} {t : Ty} (he : exec i s = laneLoad scr f s) (ht : Ty.ofCode f.typ.val = some t)
    (hr : LaneRuns s { accessUse f scr with wr := regs f.vd.val (2 ^ f.x 3 0) })
    (hc : ∀ l < 32, (s.me.act f).getLsbD l = true → (if scr then scrCause s.myCrew (4 * 2 ^ f.x 3 0) (accessAt s f scr l)
      else addrCause (4 * 2 ^ f.x 3 0) (accessAt s f scr l)) = none) :
    LaneIssues i s (regs f.vd.val (2 ^ f.x 3 0)) { s.laneOp with
      scr := scr, scope := (Scope.ofCode f.mode.val).getD .gang, width := 4 * 2 ^ f.x 3 0
      els := lanesOf (s.me.act f) (fun l => element l (accessAt s f scr l) [])
      dst := .vreg f.vd.val (2 ^ f.x 3 0) t, flag := s.me.attached f, stage := if s.me.act f = 0 then .ready else .sent } := by
  have hty : laneTy f = t := by rw [laneTy, ht]; rfl
  have hsrd : laneSReads (if scr then .vlds f else .vld f) = (accessUse f scr).srd := by
    cases scr
    · exact laneSReads_pair (op := 0x70) rfl (.inl rfl)
    · exact laneSReads_one (op := 0x72) rfl (.inl rfl)
  unfold laneLoad at he
  dsimp only at he
  rw [hsrd, ← accessUse_rd] at he
  refine laneIssues_of_laneMem he rfl ?_ (fun l hl ha => ?_) ?_ ?_ rfl
  · cases scr <;> exact hr
  · rw [accessAddr_eq]
    exact hc l hl ha
  · intro h; cases h
  · simp only [laneEls_eq, accessAddr_eq, hty]
    symm; exact idle_load rfl rfl lanesOf_eq_nil

/-- R161: a store issues into its queue, which is not full. -/
theorem laneStore_issues {scr : Bool} {t : Ty} (he : exec i s = laneStore scr f s) (ht : Ty.ofCode f.typ.val = some t)
    (hq : s.queueFull s.cur = false)
    (hr : LaneRuns s { accessUse f scr with
      rd := (accessUse f scr).rd ++ regs f.vc.val (2 ^ f.x 3 0), tags := tagged f.vc.val (2 ^ f.x 3 0) t })
    (hc : ∀ l < 32, (s.me.act f).getLsbD l = true → (if scr then scrCause s.myCrew (4 * 2 ^ f.x 3 0) (accessAt s f scr l)
      else addrCause (4 * 2 ^ f.x 3 0) (accessAt s f scr l)) = none) :
    LaneIssues i s [] { s.laneOp with
      kind := .store, inQ := true, stage := .queued, scr := scr, scope := (Scope.ofCode f.mode.val).getD .gang
      colour := f.x 7 5, width := 4 * 2 ^ f.x 3 0, arg := [BitVec.ofNat 32 f.typ.val]
      els := lanesOf (s.me.act f) (fun l => element l (accessAt s f scr l)
        ((List.range (2 ^ f.x 3 0)).flatMap (fun i => natLE 4 (s.me.rv (f.vc.val + i) l).toNat))) } := by
  have hty : laneTy f = t := by rw [laneTy, ht]; rfl
  have hsrd : laneSReads (if scr then .vsts f else .vst f) = (accessUse f scr).srd := by
    cases scr
    · exact laneSReads_pair (op := 0x71) rfl (.inr (.inl rfl))
    · exact laneSReads_one (op := 0x73) rfl (.inr (.inl rfl))
  unfold laneStore at he
  dsimp only at he
  rw [hsrd, ← accessUse_rd, hty] at he
  refine laneIssues_of_laneMem he rfl ?_ (fun l hl ha => ?_) (fun _ => hq) ?_ rfl
  · cases scr <;> exact hr
  · rw [accessAddr_eq]
    exact hc l hl ha
  · simp only [laneEls_eq, accessAddr_eq]
    exact (idle_eq_self (by rintro ⟨⟩)).symm

/-- R167: the packed word of a value and an index. -/
theorem maxviWord_eq (v k : Word) : laneAtom.maxviWord v k = (maxviKey v).toNat * 2 ^ 32 + (2 ^ 32 - 1 - k.toNat) := by
  rw [laneAtom.maxviWord, BitVec.toNat_not]

/-- R169: an atomic issues into its queue, which is not full. -/
theorem laneAtom_issues {scr : Bool} {op : AtomOp} {wide : Bool} {m : Nat} (he : exec i s = laneAtom scr f s)
    (hop : AtomOp.ofCode (f.x 3 0) = some op) (hw : wide = (f.x 4 4 == 1)) (hm : m = if wide then 2 else 1)
    (hq : s.queueFull s.cur = false)
    (hr : LaneRuns s { accessUse f scr with
      rd := (accessUse f scr).rd ++ regs f.vc.val m, wr := if f.opx34 then regs f.vd.val m else []
      tags := atomTags op f.vc.val wide })
    (hc : ∀ l < 32, (s.me.act f).getLsbD l = true → (if scr then scrCause s.myCrew (4 * m) (accessAt s f scr l)
      else atomCause (4 * m) (accessAt s f scr l)) = none) :
    LaneIssues i s (if f.opx34 then regs f.vd.val m else []) { s.laneOp with
      kind := .atom op wide, inQ := true, stage := .queued, scr := scr, scope := (Scope.ofCode f.mode.val).getD .gang
      colour := f.x 7 5, width := 4 * m
      els := lanesOf (s.me.act f) (fun l => element l (accessAt s f scr l)
        (if op = .maxvi then natLE 8 ((maxviKey (s.me.rv f.vc.val l)).toNat * 2 ^ 32
            + (2 ^ 32 - 1 - (s.me.rv (f.vc.val + 1) l).toNat))
          else (List.range m).flatMap (fun i => natLE 4 (s.me.rv (f.vc.val + i) l).toNat)))
      dst := if f.opx34 then .vreg f.vd.val m (atomTag op (s.me.tag f.vc.val)) else .none
      flag := if f.opx34 then s.me.attached f else none } := by
  have hsrd : laneSReads (if scr then .vatoms f else .vatom f) = (accessUse f scr).srd := by
    cases scr
    · exact laneSReads_pair (op := 0x74) rfl (.inr (.inr (.inl rfl)))
    · exact laneSReads_one (op := 0x75) rfl (.inr (.inr rfl))
  unfold laneAtom at he
  dsimp only at he
  rw [hsrd, ← accessUse_rd, hop, Option.getD_some, ← hw, ← hm] at he
  refine laneIssues_of_laneMem he rfl ?_ (fun l hl ha => ?_) (fun _ => hq) ?_ rfl
  · cases scr <;> exact hr
  · rw [accessAddr_eq]
    exact hc l hl ha
  · simp only [laneEls_eq, accessAddr_eq, maxviWord_eq]
    exact (idle_eq_self (by rintro ⟨⟩)).symm

/-- Table 1-4: the addresses that memory or a peer can hold. -/
theorem prefetchable_eq (va : Nat) : (match homeOf va with | some (.die _) => true | some (.peer _) => true | _ => false)
    = decide (va / 2 ^ 50 ≤ 3 ∨ 64 ≤ va / 2 ^ 50 ∧ va / 2 ^ 50 ≤ 127) := by
  unfold homeOf
  generalize va / 2 ^ 50 = h
  dsimp only
  split_ifs <;> simp <;> omega

theorem element_lane_of_mem {act : BitVec 32} {addr : Nat → Dword} {data : Nat → List Byte} {e : El}
    (h : e ∈ lanesOf act (fun l => element l (addr l) (data l))) : e.addr = addr e.lane := by
  obtain ⟨l, -, rfl⟩ := List.mem_map.1 h
  rfl

/-- R174: a prefetch is in flight with the addresses that memory or a peer can hold, and moves on where there is none. -/
theorem vprf_issues {els : List El} (hr : LaneRuns s (memUse f))
    (hels : els = (lanesOf (s.me.act f) (fun l => element l (memA s f l) [])).filter
      (fun e => decide ((memA s f e.lane).toNat / 2 ^ 50 ≤ 3
        ∨ 64 ≤ (memA s f e.lane).toNat / 2 ^ 50 ∧ (memA s f e.lane).toNat / 2 ^ 50 ≤ 127))) :
    (els ≠ [] → LaneIssues (.vprf f) s [] { s.laneOp with kind := .prf, els := els, arg := [if f.opx34 then 1 else 0] })
    ∧ (els = [] → ∃ t, exec (.vprf f) s = .next t ∧ t.me = s.me.laneNext ∧ LaneOwn s t ∧ t.ops = s.ops) := by
  obtain ⟨hheld, hb, hlim, htags⟩ := hr
  have hsrd : laneSReads (.vprf f) = (memUse f).srd := laneSReads_pair (op := 0x78) rfl (.inr (.inr (.inr rfl)))
  have hfilter : (laneEls (s.me.act f) (s.me.laneAddr f) (fun _ => [])).filter (fun e =>
      match homeOf e.addr.toNat with | some (.die _) => true | some (.peer _) => true | _ => false) = els := by
    rw [hels, laneEls_eq]
    simp only [laneAddr_eq, prefetchable_eq]
    exact List.filter_congr fun e he => by rw [element_lane_of_mem he]
  have he : exec (.vprf f) s = if els.isEmpty then .next (s.setMe s.me.laneNext)
      else .next (s.laneEnter { s.laneOp with kind := .prf, els := els, arg := [if f.opx34 then 1 else 0] } []) := by
    rw [exec_vprf, execVprf, hsrd]
    refine (laneGo_runs (u := memUse f) s hb hheld hlim htags).trans ?_
    exact congrArg (fun els : List El => if els.isEmpty then Host.Outcome.next (s.setMe s.me.laneNext)
      else .next (s.laneEnter { s.laneOp with kind := .prf, els := els, arg := [if f.opx34 then 1 else 0] } [])) hfilter
  refine ⟨fun hne => ?_, fun hnil => ⟨_, by rw [he, hnil]; rfl, setMe_me s _, ?_, rfl⟩⟩
  · refine laneIssues_of_enter (o := { s.laneOp with kind := .prf, els := els, arg := [if f.opx34 then 1 else 0] }) ?_
      (idle_eq_self (by rintro ⟨⟩)).symm rfl
    rw [he, if_neg (by simpa using hne)]
  · exact ⟨sameBytes_setMe s _, fun k hk => (setMe_gang s k _).trans (if_neg hk), rfl⟩

end Access

/-- Settles O30: the four kinds of access, in memory and in scratchpad. -/
theorem laneAccessesIssue : Obligations.LaneAccessesIssue := by
  intro f s scr n adr use acts sc
  refine ⟨fun p hp hscr _ t ht hr hc => laneLoad_issues ?_ ht hr hc,
    fun p hp hscr _ hq t ht hr hc => laneStore_issues ?_ ht hq hr hc,
    fun p hp hscr _ hq op hop hr hc => laneAtom_issues ?_ hop rfl rfl hq hr hc, fun _ hr => vprf_issues hr rfl⟩
  · obtain rfl | rfl := List.mem_pair.1 hp <;> rw [← hscr] <;> rfl
  · obtain rfl | rfl := List.mem_pair.1 hp <;> rw [← hscr] <;> rfl
  · obtain rfl | rfl := List.mem_pair.1 hp <;> rw [← hscr] <;> rfl

end Sys2Proof.Proofs
end

section
open Sys2Proof Sys2Proof.Machine Sys2Proof.Claims Sys2Proof.Laws

namespace Sys2Proof.Proofs

/-! ### The element rows as instructions of their own gang (Tables 6-1 and 6-2) -/

theorem exec_eltRow {p : (LaneWord → Instr) × Bool × (Ty → Nat → Nat → Nat)} (hp : p ∈ eltRows) (f : LaneWord) (s : State) :
    ∃ h, exec (p.1 f) s = laneDo s f (elemUse f (laneTy f) p.2.1 false) h := by
  simp only [eltRows, List.mem_cons, List.not_mem_nil, or_false] at hp
  obtain rfl | rfl | rfl | rfl | rfl | rfl := hp
  · exact ⟨_, by rw [exec_vmin, execVmin, laneElem]; rfl⟩
  · exact ⟨_, by rw [exec_vmax, execVmax, laneElem]; rfl⟩
  · exact ⟨_, by rw [exec_vmulh, execVmulh, laneElem]; rfl⟩
  · exact ⟨_, by rw [elemUse_un, exec_vclz, execVclz, laneUn]⟩
  · exact ⟨_, by rw [elemUse_un, exec_vpopc, execVpopc, laneUn]⟩
  · exact ⟨_, by rw [elemUse_un, exec_vbrev, execVbrev, laneUn]⟩

theorem exec_shiftEltRow {p : (LaneWord → Instr) × (Ty → Nat → Nat → Nat)} (hp : p ∈ shiftEltRows) (f : LaneWord) (s : State) :
    ∃ h, exec (p.1 f) s = laneDo s f (elemUse f (laneTy f) true false) h := by
  have hu : elemUse f (laneTy f) true false = ⟨f.va.val :: bRegs f, [f.vd.val], bScalar f, [],
      tagged f.va.val 1 (laneTy f) ++ bTag f (laneTy f)⟩ := by simp [elemUse]
  rw [hu]
  simp only [shiftEltRows, List.mem_cons, List.not_mem_nil, or_false] at hp
  obtain rfl | rfl | rfl := hp
  · exact ⟨_, by rw [exec_vshl, execVshl, laneShift]⟩
  · exact ⟨_, by rw [exec_vshr, execVshr, laneShift]⟩
  · exact ⟨_, by rw [exec_vsra, execVsra, laneShift]⟩

/-- The rows of `elementRows` act on their own gang and name the operands of `elemUse`. -/
theorem exec_elementRow {p : (LaneWord → Instr) × Bool × Bool} (hp : p ∈ elementRows) (f : LaneWord) (s : State) :
    ∃ h, exec (p.1 f) s = laneDo s f (elemUse f (laneTy f) p.2.1 p.2.2) h := by
  simp only [elementRows, List.mem_append, List.mem_map] at hp
  obtain ((⟨q, hq, rfl⟩ | ⟨q, hq, rfl⟩) | ⟨q, hq, rfl⟩) | ⟨q, hq, rfl⟩ := hp
  · exact ⟨_, exec_intRow hq f s⟩
  · exact exec_eltRow hq f s
  · exact exec_shiftEltRow hq f s
  · exact ⟨_, exec_floatRow hq f s⟩

/-! ### Precise traps of the lane stream (R79, R81, R191 to R193) -/

theorem flagClause_eq (g : Gang) (i : Nat) (up : Bool) : g.flagClause i up = { g with flags := (g.flagClause i up).flags } := by
  unfold Gang.flagClause
  split <;> rfl

theorem endClause_eq (g : Gang) (c : Clause) : g.endClause c = { g with flags := (g.endClause c).flags } := by
  unfold Gang.endClause
  split
  · rw [flagClause_eq, flagClause_eq g]
  · rfl

/-- R48, R86: discarded clauses leave the queue and release their set-flags. -/
theorem endClauses_eq (cs : List Clause) : ∀ g : Gang,
    g.endClauses cs = { g with clauses := [], sWait := false, flags := (g.endClauses cs).flags } := by
  induction cs with
  | nil => exact fun g => rfl
  | cons c cs ih => intro g; rw [Gang.endClauses, ih, endClause_eq]

/-- R87, R79, R81: a lane instruction that waits for nothing and names a register beyond the blocks, or a source with another tag,
traps; where both hold, with cause 0x04 (log 13). -/
theorem laneDo_traps {s : State} {f : LaneWord} {u : LaneUse} {k : Gang → Gang} (hb : s.me.lBlocked u = false)
    (hheld : s.laneHeld = false) (h : (∃ r ∈ u.rd ++ u.wr, s.me.vlimit ≤ r) ∨ ∃ q ∈ u.tags, s.me.tag q.1 ≠ q.2) :
    ∃ cause, laneDo s f u k = .next (s.laneTrap cause (s.me.act f) 0)
      ∧ ((∃ r ∈ u.rd ++ u.wr, s.me.vlimit ≤ r) → cause = 4) ∧ ((¬∃ r ∈ u.rd ++ u.wr, s.me.vlimit ≤ r) → cause = 3) := by
  have hw : ¬(s.me.lBlocked u || s.laneHeld) = true := by simp [hb, hheld]
  rw [laneDo, laneGo, laneGoIf, if_neg hw]
  by_cases hr : ∃ r ∈ u.rd ++ u.wr, s.me.vlimit ≤ r
  · rw [if_pos (by simpa [List.any_eq_true, or_and_right, exists_or] using hr)]
    exact ⟨4, rfl, fun _ => rfl, fun h => absurd hr h⟩
  · have ht := h.resolve_left hr
    rw [if_neg (by simpa [List.any_eq_true, or_imp, forall_and] using hr), if_pos (by simpa [List.any_eq_true] using ht)]
    exact ⟨3, rfl, fun h => absurd h hr, fun _ => rfl⟩

/-- Table 9-2: what the trap state records of a precise lane trap without an address. -/
theorem record_laneTrap (old : TrapState) (cause : Nat) (pc info : Word) (lanes : BitVec 32) (source drops : Nat) :
    old.record ⟨cause, false, true, pc, info, lanes, 0, source, 0, drops⟩
      = ⟨BitVec.ofNat 32 (cause + 512 + 1024 * drops), pc, info, lanes, 0, old.tcount + 1, true⟩ := by
  simp only [TrapState.record, ite_self]
  rfl

section LaneTrap

variable {s : State} {c : Clause} {cs : List Clause} {h : Nat} (hc : s.me.clauses = c :: cs) (hw : s.me.wait = .none)
  (hh : s.myCrew.handler = some h) (hm : s.me.trap.handler = false) (cause : Nat) (lanes : BitVec 32)
include hc hw hh hm

/-- R192: the clauses are discarded and counted, the gang enters its handler, and its registers keep their values. -/
theorem laneTrap_me : (s.laneTrap cause lanes 0).me = { s.me with
    clauses := [], flags := (s.laneTrap cause lanes 0).me.flags, pc := BitVec.ofNat 32 h, trapWait := none, parked := false
    sWait := false
    trap := ⟨BitVec.ofNat 32 (cause + 512 + 1024 * (cs.length + 1)), BitVec.ofNat 32 c.off, BitVec.ofNat 32 (c.next + 1), lanes, 0,
      s.me.trap.tcount + 1, true⟩ } := by
  obtain ⟨source, hs⟩ : ∃ n, (s.laneInstr.map laneSource).getD 1 = n := ⟨_, rfl⟩
  let info : TrapInfo := ⟨cause, false, true, BitVec.ofNat 32 c.off, BitVec.ofNat 32 (c.next + 1), lanes, 0, source, 0, cs.length + 1⟩
  have he : s.laneTrap cause lanes 0 = (s.setMe (s.me.endClauses s.me.clauses)).takeTrap s.cur info := by
    rw [State.laneTrap, hc, hs]
    refine (if_pos hw).trans ?_
    rw [show (s.gang s.cur).clauses = c :: cs from hc]
    rfl
  have hg : (s.setMe (s.me.endClauses s.me.clauses)).gang s.cur = s.me.endClauses s.me.clauses := setMe_me _ _
  have hcrew : (s.me.endClauses s.me.clauses).crew = s.me.crew := by rw [endClauses_eq]
  have htrap : (s.me.endClauses s.me.clauses).trap = s.me.trap := by rw [endClauses_eq]
  have hh' : ((s.setMe (s.me.endClauses s.me.clauses)).crew ((s.setMe (s.me.endClauses s.me.clauses)).gang s.cur).crew).handler
      = some h := by rw [hg, hcrew]; exact hh
  have hm' : ((s.setMe (s.me.endClauses s.me.clauses)).gang s.cur).trap.handler = false := by rw [hg, htrap]; exact hm
  have hcur : (s.laneTrap cause lanes 0).cur = s.cur := by rw [he, takeTrap_only _ info hh' hm']; rfl
  have hme : (s.laneTrap cause lanes 0).me = (s.laneTrap cause lanes 0).gang s.cur := by rw [State.me, hcur]
  rw [hme, he, takeTrap_gang _ info hh' hm', hg, record_laneTrap, htrap, endClauses_eq]

end LaneTrap

/-- Settles O32: an element row traps where it names what it may not (`laneDo_traps`), and `laneTrap_me` says what the trap leaves. -/
theorem laneTraps : Obligations.LaneTraps := by
  intro p hp f t c cs s h _ ht hc hw hh hm u hb hheld beyond wrong hbad
  obtain ⟨k, he⟩ := exec_elementRow hp f s
  rw [laneTy_of_ofCode ht] at he
  have hlim : s.me.vlimit = 64 + 64 * c.blocks := by rw [Gang.vlimit, hc]
  obtain ⟨cause, htrap, hbeyond, hwithin⟩ := laneDo_traps (f := f) (k := k) hb hheld (by rw [hlim]; exact hbad)
  rw [hlim] at hbeyond hwithin
  refine ⟨_, cause, he.trans htrap, hbeyond, hwithin, sameBytes_laneTrap s _ _ _, ?_⟩
  rw [laneTrap_me hc hw hh hm cause (s.me.act f)]
  exact ⟨rfl, rfl, rfl, rfl, rfl, rfl, rfl, rfl, rfl⟩

end Sys2Proof.Proofs
end

section
open Sys2Proof Sys2Proof.Machine Sys2Proof.Claims Sys2Proof.Laws

namespace Sys2Proof.Proofs

/-! ### A crew takes its core (R343, R350, R351, Table 4-1) -/

/-- Two states that differ in the harbour master and in the values drawn. -/
def ChoiceOnly (s t : State) : Prop := t = { s with harb := t.harb, fresh := t.fresh }

theorem ChoiceOnly.trans {s t u : State} (h : ChoiceOnly s t) (g : ChoiceOnly t u) : ChoiceOnly s u := by
  unfold ChoiceOnly at *
  rw [g, h]

section
variable (s : State)

theorem setPassed_choiceOnly (part core n : Nat) : ChoiceOnly s (s.setPassed part core n) := rfl

/-- R350: the choice of a core moves the partition's pointer and counts, and may draw scores. -/
theorem choose_choiceOnly {part : Nat} {pinned : Bool} {h : Shape} {x : Nat × List Nat × Nat} {s1 : State}
    (hc : s.choose part pinned h = some (x, s1)) : ChoiceOnly s s1 := by
  unfold State.choose at hc
  extract_lets cs win _ u1 u2 at hc
  clear_value win
  have h1 : ChoiceOnly s u1 := rfl
  have h2 : ChoiceOnly u1 u2 := by
    unfold u2
    split <;> rfl
  split at hc
  · cases hc
  · extract_lets y u3 at hc
    have h3 : ChoiceOnly u2 u3 := List.foldlRecOn (motive := ChoiceOnly u2) _ _ rfl fun t ht z _ => by
      split
      · exact ht
      · exact ht.trans (setPassed_choiceOnly _ _ _ _)
    split at hc
    · cases hc
      exact h1.trans (setPassed_choiceOnly _ _ _ _)
    · obtain ⟨-, rfl⟩ := Prod.ext_iff.1 (Option.some.inj hc)
      exact h1.trans (h2.trans (h3.trans (setPassed_choiceOnly _ _ _ _)))

/-- R350: a launch with one more crew to place that needs no co-residence places it where the choice says. -/
theorem crewPlace_starts {part core base : Nat} {seats : List Nat} {it : Item} {l : Launch} {s1 : State}
    (hi : s.nextItem part = some it) (ho : it.out = none) (hl : s.launch it.key = some l) (hr : l.recorded = true)
    (hd : dCores l.desc = false) (hc : s.choose l.part (s.pinned (it.key / 65536)) (dShape l.desc) = some ((core, seats, base), s1)) :
    exec (.crewPlace part) s = .next ((s1.startCrew it.key l.placed l.ncrews l.desc core seats base).setLaunch it.key
      { l with placed := l.placed + 1 }) := by
  have hp : s.placeOne it.key = some ((s1.startCrew it.key l.placed l.ncrews l.desc core seats base).setLaunch it.key
      { l with placed := l.placed + 1 }) := by
    unfold State.placeOne
    simp only [hl, hc]
  simp [execCrewPlace, hi, ho, hl, hr, hd, hp]

/-- What the start of a crew of one gang leaves: its crew, its gang, and an empty L1. -/
theorem startCrew_one (launch num ncrews : Nat) (d : BitVec 512) (core k base : Nat) :
    let t := s.startCrew launch num ncrews d core [k] base
    t.crew s.nextCrew = { Crew.empty with phase := .resident, launch := launch, num := num, desc := d, ncrews := ncrews, core := core
                                          slots := [k], scratchBase := base }
      ∧ t.gang k = gangAt d s.nextCrew num 0 ∧ (∀ x ∈ t.l1, x.core ≠ core)
      ∧ t.quay.mem = s.quay.mem ∧ t.hostMem = s.hostMem ∧ t.peerMem = s.peerMem := by
  intro t
  have ht : s.startCrew launch num ncrews d core [k] base = t := rfl
  unfold State.startCrew at ht
  extract_lets c _ w at ht
  have h := holdDie_slicesOnly ((((({ s with nextCrew := c + 1 } : State).setCrew c w).seatGangs d c num [k]).emptyL1 core))
    (launch / 65536) (core / 64)
  rw [ht] at h
  refine ⟨?_, ?_, ?_, h.kept.mem, h.kept.hostMem, h.kept.peerMem⟩
  · rw [h.kept.crew, crew_emptyL1]
    change (({ s with nextCrew := c + 1 } : State).setCrew c w).crew c = w
    rw [setCrew_crew, if_pos rfl]
  · rw [h.gang]
    change ((({ s with nextCrew := c + 1 } : State).setCrew c w).setGang k (gangAt d c num 0)).gang k = _
    rw [setGang_gang, if_pos rfl]
  · rw [h.kept.l1]
    exact fun x hx => by simpa using (List.mem_filter.1 hx).2

end

/-- R28: a 64-bit value is its two words, the odd register above. -/
theorem halves_append (v : Dword) : v.extractLsb' 32 32 ++ v.extractLsb' 0 32 = v := by
  rw [BitVec.extractLsb'_append_extractLsb'_eq_extractLsb' (start₁ := 0) (len₁ := 32) rfl]
  simp

section
variable (d : BitVec 512) (c num g : Nat)

/-- Table 4-1: the scalar registers of a gang at admission. -/
theorem gangAt_rs (r : Nat) : (gangAt d c num g).rs r =
    if r = 4 then BitVec.ofNat 32 num
    else if r = 3 then (BitVec.ofNat 64 (descF d 127 64)).extractLsb' 32 32
    else if r = 2 then (BitVec.ofNat 64 (descF d 127 64)).extractLsb' 0 32
    else 0 := by
  unfold gangAt
  simp only [ws_rs, wp_rs]
  have hempty (g0 : Gang) (h0 : g0.sreg = []) : g0.rs r = 0 := by rw [Gang.rs, h0]; exact ite_self _
  rw [hempty _ rfl]
  simp

/-- Table 4-1: s2:s3 holds the argument address. -/
theorem gangAt_rp_two : (gangAt d c num g).rp 2 = BitVec.ofNat 64 (descF d 127 64) := by
  rw [Gang.rp, gangAt_rs, gangAt_rs]
  exact halves_append _

/-- Table 4-1: s4 holds the number of the crew. -/
theorem gangAt_rs_four : (gangAt d c num g).rs 4 = BitVec.ofNat 32 num := by rw [gangAt_rs, if_pos rfl]

/-- Table 4-1: every other register of a gang at admission, and its queues. -/
theorem gangAt_fields : (gangAt d c num g).phase = .running ∧ (gangAt d c num g).crew = c
    ∧ (gangAt d c num g).pc = BitVec.ofNat 32 (descF d 223 192) ∧ (gangAt d c num g).vreg = []
    ∧ (gangAt d c num g).clauses = [] := by
  simp [gangAt, Gang.empty]

end

/-- Settles O47: the choice leaves all but the harbour master (`choose_choiceOnly`), and the crew starts there (`startCrew_one`) with a
gang as Table 4-1 says (`gangAt_rs`). -/
theorem crewsArePlaced : Obligations.CrewsArePlaced := by
  intro part k base it l core s s1 hi ho hl hr hd hc
  have hs : ChoiceOnly s s1 := choose_choiceOnly s hc
  have hn : s1.nextCrew = s.nextCrew := by rw [hs]
  have hk := choose_kept s hc
  have hstart := startCrew_one s1 it.key l.placed l.ncrews l.desc core k base
  rw [hn] at hstart
  obtain ⟨hcrew, hgang, hl1, hmem, hhost, hpeer⟩ := hstart
  obtain ⟨hphase, hof, hpc, hvreg, hclauses⟩ := gangAt_fields l.desc s.nextCrew l.placed 0
  have hexec := crewPlace_starts s hi ho hl hr hd hc
  generalize s1.startCrew it.key l.placed l.ncrews l.desc core [k] base = u at *
  refine ⟨_, hexec, launch_setLaunch u _ _, ?_⟩
  have hw : ∀ c, (u.setLaunch it.key { l with placed := l.placed + 1 }).crew c = u.crew c := fun _ => rfl
  have hg : ∀ j, (u.setLaunch it.key { l with placed := l.placed + 1 }).gang j = u.gang j := fun _ => rfl
  rw [hw, hg, hcrew, hgang, gangAt_rs_four, gangAt_rp_two]
  refine ⟨rfl, rfl, rfl, rfl, rfl, hphase, hof, hpc, rfl, rfl, fun r hne => ?_, fun r x => ?_, hclauses, hl1, fun a => ⟨?_, ?_, ?_⟩⟩
  · simp only [List.mem_cons, List.not_mem_nil, or_false, not_or] at hne
    rw [gangAt_rs, if_neg hne.2.2, if_neg hne.2.1, if_neg hne.1]
  · rw [Gang.rv, hvreg]; rfl
  · exact congrArg (Map.getList 0 · a 1) (hmem.trans hk.mem)
  · exact congrArg (Map.getList 0 · a 1) (hhost.trans hk.hostMem)
  · exact congrArg (Map.getList 0 · a 1) (hpeer.trans hk.peerMem)

end Sys2Proof.Proofs
end

section
open Sys2Proof Sys2Proof.Machine Sys2Proof.Claims Sys2Proof.Laws

namespace Sys2Proof.Proofs

/-! ### What ends with an operation (R156, R165, R198) -/

/-- Operations without the numbers at which they reached the head of their queues (R183). -/
def headless (l : List Op) : List Op := l.map (fun (p : Op) => { p with head := 0 })

theorem headless_map {f : Op → Op} (hf : ∀ p, { f p with head := 0 } = { p with head := 0 }) (l : List Op) :
    headless (l.map f) = headless l := by
  rw [headless, headless, List.map_map]
  exact List.map_congr_left fun p _ => hf p

theorem headless_drop (id : Nat) (l : List Op) :
    headless (l.filter (fun p => p.id != id)) = (headless l).filter (fun p => p.id != id) := by
  rw [headless, headless, List.filter_map]
  rfl

/-- Two states that differ in the fences of gangs, in whether they are parked, in the heads of queues, and in what the L1s hold. -/
structure SettlesOnly (s t : State) : Prop where
  crews : t.crews = s.crews
  mem : t.quay.mem = s.quay.mem
  hostMem : t.hostMem = s.hostMem
  peerMem : t.peerMem = s.peerMem
  ops : headless t.ops = headless s.ops
  gang : ∀ k, t.gang k = { s.gang k with fences := (t.gang k).fences, parked := (t.gang k).parked }

theorem SettlesOnly.refl (s : State) : SettlesOnly s s := ⟨rfl, rfl, rfl, rfl, rfl, fun _ => rfl⟩

theorem SettlesOnly.trans {s t u : State} (h : SettlesOnly s t) (g : SettlesOnly t u) : SettlesOnly s u :=
  ⟨g.crews.trans h.crews, g.mem.trans h.mem, g.hostMem.trans h.hostMem, g.peerMem.trans h.peerMem, g.ops.trans h.ops, fun k => by
    rw [g.gang, h.gang]⟩

theorem SettlesOnly.crew {s t : State} (h : SettlesOnly s t) (c : Nat) : t.crew c = s.crew c := by
  rw [State.crew, State.crew, h.crews]

theorem SettlesOnly.sameBytes {s t : State} (h : SettlesOnly s t) : s.SameBytes t :=
  sameBytes_of_fields h.mem h.hostMem h.peerMem fun c => by rw [h.crew]

theorem settlesOnly_foldl {β : Type} {f : State → β → State} (h : ∀ s x, SettlesOnly s (f s x)) (l : List β) (s : State) :
    SettlesOnly s (l.foldl f s) :=
  List.foldlRecOn l f (.refl s) fun t ht x _ => ht.trans (h t x)

section
variable (s : State)

theorem setGang_settlesOnly {k : Nat} {g : Gang} (hg : g = { s.gang k with fences := g.fences, parked := g.parked }) :
    SettlesOnly s (s.setGang k g) :=
  ⟨rfl, rfl, rfl, rfl, rfl, fun j => by
    rw [setGang_gang]
    split
    · next h => rw [h]; exact hg
    · rfl⟩

theorem emptyL1_settlesOnly (core : Nat) : SettlesOnly s (s.emptyL1 core) := ⟨rfl, rfl, rfl, rfl, rfl, fun _ => rfl⟩

theorem acquired_settlesOnly (k id : Nat) : SettlesOnly s (s.acquired k id) := by
  unfold State.acquired
  extract_lets g hd moved s1
  have h1 : SettlesOnly s s1 := ⟨rfl, rfl, rfl, rfl, headless_map (fun p => by split <;> rfl) _, fun _ => rfl⟩
  exact h1.trans (setGang_settlesOnly s1 rfl)

theorem settleAcq_settlesOnly (k : Nat) : SettlesOnly s (s.settleAcq k) := by
  unfold State.settleAcq
  extract_lets g met s1
  have h1 : SettlesOnly s s1 := (setGang_settlesOnly s rfl).trans
    (settlesOnly_foldl (fun t (f : Fence) => acquired_settlesOnly t k f.id) _ _)
  split
  · exact h1.trans (emptyL1_settlesOnly _ _)
  · exact h1

theorem settleFence_settlesOnly (k : Nat) : SettlesOnly s (s.settleFence k) :=
  (settleAcq_settlesOnly s k).trans (setGang_settlesOnly (s.settleAcq k) rfl)

theorem settleCore_settlesOnly (core : Nat) : SettlesOnly s (s.settleCore core) :=
  settlesOnly_foldl settleFence_settlesOnly _ s

theorem settleOf_settlesOnly (o : Op) : SettlesOnly s (s.settleOf o) :=
  (settleCore_settlesOnly s _).trans (settlesOnly_foldl settleCore_settlesOnly _ _)

theorem parkNow_settlesOnly (k : Nat) : SettlesOnly s (s.parkNow k) := by
  unfold State.parkNow
  split
  · exact setGang_settlesOnly s rfl
  · exact .refl s

theorem unpark_settlesOnly (k : Nat) : SettlesOnly s (s.unpark k) :=
  (setGang_settlesOnly s rfl).trans (parkNow_settlesOnly _ k)

/-- An operation that leaves the device's account settles what waited for it. -/
theorem retire_settlesOnly (o : Op) : SettlesOnly (s.dropOp o.id) (s.retire o) :=
  (settleOf_settlesOnly _ o).trans (unpark_settlesOnly _ o.gang)

/-- The gangs after an operation has left. -/
theorem retire_gang (o : Op) (k : Nat) : (s.retire o).gang k =
    { s.gang k with fences := ((s.retire o).gang k).fences, parked := ((s.retire o).gang k).parked } :=
  (retire_settlesOnly s o).gang k

end

/-- An operation is gone: the others stand but for their heads, and every byte reads as before. -/
def OpGone (op : Nat) (s t : State) : Prop := headless t.ops = headless (s.ops.filter (fun p => p.id != op)) ∧ s.SameBytes t

theorem retire_gone {s s1 : State} {o : Op} {op : Nat} (ho : o.id = op) (hops : headless s1.ops = headless s.ops)
    (hs : s.SameBytes s1) : OpGone op s (s1.retire o) := by
  subst ho
  have h := retire_settlesOnly s1 o
  refine ⟨h.ops.trans ?_, sameBytes_trans hs (sameBytes_trans (sameBytes_of_fields rfl rfl rfl fun _ => rfl) h.sameBytes)⟩
  rw [State.dropOp, headless_drop, hops, ← headless_drop]

/-! ### Scalar results (R83, R347) -/

section
variable (g : Gang) (r : Nat) (bs : List Byte)

theorem sReturn_sreg_rs (x : Nat) : (g.sReturn (.sreg r) (some bs)).rs x =
    if x = r then written r (BitVec.ofNat 32 (leNat bs)) else g.rs x := by
  change (g.ws r _).rs x = _
  rw [ws_rs, written]
  by_cases hx : x = r
  · subst hx
    by_cases h0 : x = 0
    · subst h0; rfl
    · rw [if_pos ⟨rfl, h0⟩, if_pos rfl, if_neg h0]
  · rw [if_neg (fun h => hx h.1), if_neg hx]

theorem sReturn_sreg_spend : (g.sReturn (.sreg r) (some bs)).spend = g.spend.filter (· != r) := by
  change (g.ws r _).spend.filter _ = _
  rw [ws_spend]
  exact List.filter_congr fun x _ => by simp [Dst.sregs, bne, beq_eq_decide]

theorem sReturn_pair_rs (x : Nat) (h : x ≠ r) (h1 : x ≠ r + 1) : (g.sReturn (.pair r) (some bs)).rs x = g.rs x := by
  change (g.wp r _).rs x = _
  rw [wp_rs, if_neg h1, if_neg (fun hx => h hx.1)]

theorem sReturn_pair_rp (h : r ≠ 0) : (g.sReturn (.pair r) (some bs)).rp r = BitVec.ofNat 64 (leNat bs) := by
  change (g.wp r _).rp r = _
  rw [Gang.rp, wp_rs, wp_rs, if_pos rfl, if_neg (by omega), if_pos ⟨rfl, h⟩]
  exact halves_append _

theorem sReturn_pair_spend : (g.sReturn (.pair r) (some bs)).spend = g.spend.filter (fun x => x != r && x != r + 1) := by
  change (g.wp r _).spend.filter _ = _
  rw [wp_spend]
  exact List.filter_congr fun x _ => by simp [Dst.sregs, bne, beq_eq_decide]

end

section
variable {op : Nat} {o : Op} {s : State} (ho : s.op op = some o) (hl : o.lane = false)
include ho hl

/-- R83: a value that has come back is written, and the operation leaves. -/
theorem scalarResultReturn_writes (hd : o.dst ≠ .none) (hst : o.stage = .ready) (hk : ∀ c, o.kind ≠ .mwait c)
    (ha : s.answer o = none) (hw : s.resultWaits o = false) :
    exec (.scalarResultReturn op) s = .next ((s.setGang o.gang ((s.gang o.gang).sReturn o.dst o.value)).retire o) := by
  rw [exec_scalarResultReturn, execScalarResultReturn, ho]
  dsimp only
  rw [if_neg (by simp [hl, hd])]
  split
  · next c hc => exact absurd hc (hk c)
  · rw [ha]
    exact if_neg (by simp [hst, hw])

/-- R347, R348: a `jcount` reads its counter, which acquires where it is complete. -/
theorem scalarResultReturn_counts {l : Level} (hk : o.kind = .jcount l) (hd : o.dst ≠ .none)
    (hid : (o.arg.getD 0 0).toNat < 65536) (ha : s.acqDone o.gang o.id = true) :
    ∃ u, SettlesOnly (s.setGang o.gang ((s.gang o.gang).sReturn o.dst
        (some (natLE 8 (s.counter o.asid l.code (o.arg.getD 0 0).toNat))))) u
      ∧ exec (.scalarResultReturn op) s = .next (u.retire o) := by
  have hans : s.answer o = some (s.counter o.asid l.code (o.arg.getD 0 0).toNat) := by
    simp only [State.answer, hk]
    rw [if_neg (by omega)]
  rw [exec_scalarResultReturn, execScalarResultReturn, ho]
  dsimp only
  rw [if_neg (by simp [hl, hd])]
  split
  · next c hc => rw [hk] at hc; cases hc
  · rw [hans]
    dsimp only
    rw [if_neg (by simp [ha])]
    refine ⟨_, ?_, rfl⟩
    split
    · exact .trans (by split; exacts [acquired_settlesOnly _ _ _, .refl _]) (emptyL1_settlesOnly _ _)
    · split
      · exact acquired_settlesOnly _ _ _
      · exact .refl _

end

theorem leNat_natLE_mod (n : Nat) : ∀ v, leNat (natLE n v) = v % 2 ^ (8 * n) := by
  induction n with
  | zero => intro v; simp [natLE, leNat, Nat.mod_one]
  | succ n ih =>
    intro v
    rw [natLE, leNat, ih, show 8 * (n + 1) = 8 + 8 * n by ring, Nat.pow_add, Nat.mod_mul]
    rfl

end Sys2Proof.Proofs
end

section
open Sys2Proof Sys2Proof.Machine Sys2Proof.Claims Sys2Proof.Laws

namespace Sys2Proof.Proofs

/-! ### Lane results (R81, R86, R87, R161) -/

/-- The register `r + i` of a group, by its number. -/
theorem mem_regs {r n x : Nat} : x ∈ regs r n ↔ r ≤ x ∧ x < r + n := by
  simp only [regs, List.mem_map, List.mem_range]
  exact ⟨by rintro ⟨i, hi, rfl⟩; omega, fun h => ⟨x - r, by omega, by omega⟩⟩

/-- What a lane of a register reads after the results of elements have been written to `n` registers from `r`. -/
def returned (g : Gang) (r n : Nat) (els : List El) (x l : Nat) : Word :=
  match (if r ≤ x ∧ x < r + n then els.find? (fun e => e.lane == l) else none) with
  | some e => e.word (x - r)
  | none => g.rv x l

theorem returned_of_outside {g : Gang} {r n : Nat} {els : List El} {x : Nat} (h : ¬(r ≤ x ∧ x < r + n)) (l : Nat) :
    returned g r n els x l = g.rv x l := by
  rw [returned, if_neg h]

theorem any_lane (els : List El) (l : Nat) : els.any (fun e => e.lane == l) = (els.find? (fun e => e.lane == l)).isSome := by
  rw [Bool.eq_iff_iff, List.any_eq_true, List.find?_isSome]

section
variable (g : Gang) (r : Nat) (els : List El)

/-- R161: the lanes whose elements were performed take their words, register by register. -/
theorem vReturn_rv (n : Nat) {x l : Nat} (hl : l < 32) : (g.vReturn r els n).rv x l = returned g r n (els.filter (fun e => e.st == .done)) x l := by
  induction n with
  | zero => rw [returned_of_outside (by omega)]; rfl
  | succ n ih =>
    rw [Gang.vReturn, wvs_rv _ _ _ _ _ _ hl, laneMask_getLsbD _ (le_refl _) hl, any_lane, ih]
    by_cases hx : x = r + n
    · subst hx
      rw [returned_of_outside (show ¬(r ≤ r + n ∧ r + n < r + n) by omega), returned,
        if_pos (show r ≤ r + n ∧ r + n < r + (n + 1) by omega), Nat.add_sub_cancel_left]
      cases (els.filter (fun e => e.st == .done)).find? (fun e => e.lane == l) with
      | none => simp
      | some e => simp [hl]
    · have hin : (r ≤ x ∧ x < r + n) ↔ (r ≤ x ∧ x < r + (n + 1)) := by omega
      rw [if_neg (fun h => hx h.1), returned, returned]
      simp only [hin]

theorem vReturn_vregOnly (n : Nat) : g.vReturn r els n = { g with vreg := (g.vReturn r els n).vreg } := by
  induction n with
  | zero => rfl
  | succ n ih =>
    rw [Gang.vReturn, Gang.wvs, ih]

theorem setTags_vtagOnly (rs : List Nat) (t : Ty) :
    rs.foldl (fun (u : Gang) x => u.setTag x t) g = { g with vtag := (rs.foldl (fun (u : Gang) x => u.setTag x t) g).vtag } :=
  List.foldlRecOn (motive := fun (u : Gang) => u = { g with vtag := u.vtag }) rs _ rfl fun u hu x _ => by rw [hu]; rfl

theorem setTags_tag (t : Ty) (x : Nat) (rs : List Nat) :
    ∀ g : Gang, (rs.foldl (fun (u : Gang) y => u.setTag y t) g).tag x = if x ∈ rs then t else g.tag x := by
  induction rs with
  | nil => exact fun g => rfl
  | cons y ys ih =>
    intro g
    rw [List.foldl_cons, ih, setTag_tag]
    by_cases hy : x ∈ ys
    · simp [hy]
    · simp [hy]

theorem flagOp_flagsOnly (i : Option Nat) (up : Bool) : g.flagOp i up = { g with flags := (g.flagOp i up).flags } := by
  cases i <;> rfl

theorem opDone_eq (vs : List Nat) (flag : Option Nat) : g.opDone vs flag = { g with
    flags := (g.flagOp flag false).flags, vpend := g.vpend.filter (fun r => !vs.contains r)
    vfault := g.vfault.filter (fun r => !vs.contains r) } := by
  rw [Gang.opDone, flagOp_flagsOnly]

end

section
variable {g : Gang} {o : Op} {r n : Nat} {ty : Ty} (hk : o.kind = .load) (hd : o.dst = .vreg r n ty)
include hk hd

theorem load_vregs : o.vregs = regs r n := by rw [Op.vregs, hd, hk, List.append_nil]

variable (hdone : ∀ e ∈ o.els, e.st = .done)
include hdone

theorem vResult_load : g.vResult o = (regs r n).foldl (fun (u : Gang) x => u.setTag x ty) (g.vReturn r o.els n) := by
  have hnot : ¬(!o.els.isEmpty && o.els.all (fun e => e.st == .dropped)) = true := by
    cases he : o.els with
    | nil => simp
    | cons e es => simp [hdone e (by rw [he]; exact List.mem_cons_self)]
  unfold Gang.vResult
  rw [hk, hd]
  exact if_neg hnot

/-- R81, R87, R161: what a lane load leaves in its gang as it completes. -/
theorem load_rv {x l : Nat} (hl : l < 32) : ((g.vResult o).opDone o.vregs o.flag).rv x l = returned g r n o.els x l := by
  have hall : o.els.filter (fun e => e.st == .done) = o.els := List.filter_eq_self.2 fun e he => by simp [hdone e he]
  rw [opDone_eq, vResult_load hk hd hdone, setTags_vtagOnly]
  exact (vReturn_rv g r o.els n hl).trans (by rw [hall])

theorem load_tag (x : Nat) : ((g.vResult o).opDone o.vregs o.flag).tag x = if r ≤ x ∧ x < r + n then ty else g.tag x := by
  rw [opDone_eq, vResult_load hk hd hdone, Gang.tag]
  refine (setTags_tag ty x (regs r n) _).trans ?_
  simp only [mem_regs]
  rw [vReturn_vregOnly]
  rfl

omit hdone in
theorem load_vpend {x : Nat} (hx : x ∈ ((g.vResult o).opDone o.vregs o.flag).vpend) : ¬(r ≤ x ∧ x < r + n) := by
  rw [opDone_eq, load_vregs hk hd] at hx
  have h := (List.mem_filter.1 hx).2
  simpa only [List.contains_iff_mem, mem_regs, Bool.not_eq_true', ← Bool.not_eq_true] using h

end

section
variable {op : Nat} {o : Op} {s : State} (ho : s.op op = some o) (hl : o.lane = true)
include ho hl

/-- R86: a lane operation whose results are known writes them and leaves. -/
theorem laneOpComplete_writes (hs : o.scr = false) (hst : o.stage = .ready) (hd : o.dst ≠ .none) (hk : o.kind = .load)
    (hw : s.resultWaits o = false) :
    exec (.laneOpComplete op) s
      = .next ((s.setGang o.gang (((s.gang o.gang).vResult o).opDone o.vregs o.flag)).retire o) := by
  rw [exec_laneOpComplete, execLaneOpComplete, ho]
  simp [hl, hs, hst, hd, hw, State.gatherLand, hk]

/-- A load from scratchpad as its bank has answered. -/
def bankRead (s : State) (o : Op) : Op := { o with els := o.els.map (s.scrRead o), stage := .ready }

/-- R157: a load from scratchpad reads the bank as it completes. -/
theorem laneOpComplete_reads (hs : o.scr = true) (hr : s.scrReady o = true) (hd : o.dst ≠ .none) (hk : o.kind = .load)
    (hw : s.resultWaits o = false) :
    exec (.laneOpComplete op) s = .next (((s.bypass o).setGang (bankRead s o).gang
      (((s.gang o.gang).vResult (bankRead s o)).opDone (bankRead s o).vregs (bankRead s o).flag)).retire (bankRead s o)) := by
  rw [exec_laneOpComplete, execLaneOpComplete, ho]
  simp [hl, hs, hr, hd, hw, State.gatherLand, hk, bankRead, State.bypass]
  rfl

end

/-! ### What the bank gives (R157) -/

theorem mergeFwd_none {fs : List Fwd} (h : ∀ f ∈ fs, f = .none) : ∀ {bs : List Byte}, bs.length = fs.length → mergeFwd fs bs = bs := by
  induction fs with
  | nil => exact fun hb => (List.length_eq_zero_iff.1 hb).symm ▸ rfl
  | cons f fs ih =>
    intro bs hb
    cases bs with
    | nil => cases hb
    | cons b bs =>
      have hf := h f List.mem_cons_self
      subst hf
      exact congrArg (b :: ·) (ih (fun f hf => h f (List.mem_cons_of_mem _ hf)) (Nat.succ.inj hb))

theorem getList_append (d : Byte) (m : Map Byte) (b : Nat) : ∀ a k, Map.getList d m k (a + b) = Map.getList d m k a ++ Map.getList d m (k + a) b := by
  intro a
  induction a with
  | zero => intro k; simp [Map.getList]
  | succ a ih =>
    intro k
    rw [Nat.succ_add, Map.getList, ih, Map.getList, List.cons_append, Nat.add_right_comm k 1 a, Nat.add_assoc k a 1]

/-- The word `i` of `n` words of a memory. -/
theorem getList_word (m : Map Byte) (a : Nat) {i n : Nat} (h : i < n) :
    ((Map.getList 0 m a (4 * n)).drop (4 * i)).take 4 = Map.getList 0 m (a + 4 * i) 4 := by
  rw [show 4 * n = 4 * i + (4 + 4 * (n - i - 1)) by omega, getList_append, getList_append,
    List.drop_left' length_getList, List.take_left' length_getList]

/-- An operation without the mark that orders loads at their core (R178). -/
def unmark (p : Op) : Op := if p.kind = .load then { p with status := 0 } else p
/-- Operations without heads and marks. -/
def unmarked (l : List Op) : List Op := (headless l).map unmark

theorem unmarked_drop_map {f : Op → Op} (hid : ∀ p, (f p).id = p.id)
    (hf : ∀ p, unmark { f p with head := 0 } = unmark { p with head := 0 }) (id : Nat) (l : List Op) :
    unmarked ((l.map f).filter (fun p => p.id != id)) = unmarked (l.filter (fun p => p.id != id)) := by
  have hfil : ((fun p : Op => p.id != id) ∘ f) = fun p => p.id != id := funext fun p => congrArg (· != id) (hid p)
  rw [List.filter_map, hfil, unmarked, unmarked, headless, headless, List.map_map, List.map_map, List.map_map]
  exact List.map_congr_left fun p _ => hf p

theorem unmarked_bypass (s : State) (o : Op) (id : Nat) :
    unmarked ((s.bypass o).ops.filter (fun p => p.id != id)) = unmarked (s.ops.filter (fun p => p.id != id)) := by
  refine unmarked_drop_map (fun p => ?_) (fun p => ?_) id s.ops
  · split <;> rfl
  · split
    · next h =>
      have hk : p.kind = .load := by simp only [Bool.and_eq_true, beq_iff_eq] at h; exact h.1.1.2
      simp [unmark, hk]
    · rfl

end Sys2Proof.Proofs
end

section
open Sys2Proof Sys2Proof.Machine Sys2Proof.Claims Sys2Proof.Laws

namespace Sys2Proof.Proofs

/-! ### Hearth instructions complete (R86, R220) -/

/-- What an instruction that no trap has cut short changes as it completes: registers, tiles and lists of gangs, undefined values drawn,
and the tails; no register becomes pending. -/
structure EndsOnly (s t : State) : Prop where
  rest : t = { s with gangs := t.gangs, fresh := t.fresh, tails := t.tails }
  vpend : ∀ k, ∀ x ∈ (t.gang k).vpend, x ∈ (s.gang k).vpend

theorem EndsOnly.refl (s : State) : EndsOnly s s := ⟨rfl, fun _ _ h => h⟩

theorem EndsOnly.trans {s t u : State} (h : EndsOnly s t) (g : EndsOnly t u) : EndsOnly s u :=
  ⟨by rw [g.rest, h.rest], fun k x hx => h.vpend k x (g.vpend k x hx)⟩

theorem wtCells_vpend (t : Nat) (cs : List (Nat × Nat × Nat × Flags)) : ∀ g : Gang, (g.wtCells t cs).vpend = g.vpend := by
  induction cs with
  | nil => exact fun _ => rfl
  | cons c cs ih => exact fun g => (ih _).trans rfl

section
variable (s : State)

/-- A gang changes and values are drawn. -/
theorem setGang_endsOnly {k : Nat} {g : Gang} (hg : ∀ x ∈ g.vpend, x ∈ (s.gang k).vpend) (n : Nat) :
    EndsOnly s ((s.setGang k g).useFree n) :=
  ⟨rfl, fun j x hx => by
    change x ∈ ((s.setGang k g).gang j).vpend at hx
    rw [setGang_gang] at hx
    split at hx
    · next h => rw [h]; exact hg x hx
    · exact hx⟩

theorem freeCells_endsOnly (k t : Nat) (cells : List (Nat × Nat)) : EndsOnly s (s.freeCells k t cells) :=
  setGang_endsOnly s (fun x hx => by rwa [wtCells_vpend] at hx) _

theorem freeLanes_endsOnly (k : Nat) (act : BitVec 32) (rs : List Nat) : ∀ s : State, EndsOnly s (s.freeLanes k act rs) := by
  induction rs with
  | nil => exact .refl
  | cons r rs ih => exact fun s => (setGang_endsOnly s (g := (s.gang k).wvs r act s.free) (fun x hx => hx) 32).trans (ih _)

/-- R88: what an instruction of which no gang has taken a deferred trap leaves undefined. -/
theorem hUndef_endsOnly {h : HOp} (hl : h.lost = []) (p : HPart) : EndsOnly s (s.hUndef h p) := by
  have hcells := freeCells_endsOnly s p.gang
  have hlanes := fun rs => freeLanes_endsOnly p.gang p.act rs s
  unfold State.hUndef
  rw [hl]
  dsimp only
  split
  · exact hcells _ _
  · exact hcells _ _
  · exact hcells _ _
  · exact hcells _ _
  · exact hcells _ _
  · exact hlanes _
  · exact .refl s
  · split
    · exact .refl s
    · exact setGang_endsOnly s (g := (s.gang p.gang).setList _ _) (fun x hx => hx) listFree
  · exact .refl s
  · exact hlanes _
  · exact hlanes _
  all_goals exact .refl s

theorem hCounts_endsOnly (h : HOp) (p : HPart) : EndsOnly s (s.hCounts h p).2 := by
  unfold State.hCounts
  split
  · exact ⟨rfl, fun _ _ hx => hx⟩
  · exact .refl s

/-- R86, R87: an instruction completes in a gang, where its registers are pending no longer. -/
theorem partDone_ends {h : HOp} (hl : h.lost = []) (p : HPart) :
    EndsOnly s (s.partDone h p) ∧ ∀ x ∈ ((s.partDone h p).gang p.gang).vpend, x ∉ h.dsts := by
  unfold State.partDone
  extract_lets u c t
  have hc : EndsOnly s c.2 := (hUndef_endsOnly s hl p).trans (hCounts_endsOnly u h p)
  have hsub : ∀ x ∈ ((c.2.gang p.gang).opDone h.dsts p.flag).vpend, x ∈ (c.2.gang p.gang).vpend ∧ x ∉ h.dsts := fun x hx => by
    rw [opDone_eq] at hx
    simpa [List.mem_filter] using hx
  have ht : EndsOnly c.2 t := setGang_endsOnly c.2 (fun x hx => (hsub x hx).1) 0
  refine ⟨(hc.trans ht).trans ⟨rfl, fun _ _ hx => hx⟩, fun x hx => (hsub x ?_).2⟩
  have hg : t.gang p.gang = (c.2.gang p.gang).opDone h.dsts p.flag := by unfold t; rw [setGang_gang, if_pos rfl]
  rw [← hg]
  exact hx

theorem partsDone_ends {h : HOp} (hl : h.lost = []) (ps : List HPart) : ∀ s : State,
    EndsOnly s (ps.foldl (fun t p => t.partDone h p) s)
      ∧ ∀ p ∈ ps, ∀ x ∈ ((ps.foldl (fun t p => t.partDone h p) s).gang p.gang).vpend, x ∉ h.dsts := by
  induction ps with
  | nil => exact fun s => ⟨.refl s, fun p hp => absurd hp List.not_mem_nil⟩
  | cons q qs ih =>
    intro s
    obtain ⟨hq, hfree⟩ := partDone_ends s hl q
    obtain ⟨hqs, hrest⟩ := ih (s.partDone h q)
    refine ⟨hq.trans hqs, fun p hp x hx => ?_⟩
    rcases List.mem_cons.1 hp with rfl | hp
    · exact hfree x (hqs.vpend _ x hx)
    · exact hrest p hp x hx

theorem EndsOnly.sameBytes {s t : State} (h : EndsOnly s t) : s.SameBytes t := by
  rw [h.rest]
  exact sameBytes_of_fields rfl rfl rfl fun _ => rfl

/-- R86, R87: an instruction that is over completes in every gang that issued it. -/
theorem hopDone_ends {h : HOp} (hl : h.lost = []) : (s.hopDone h).hops = s.hops.filter (fun x => x.id != h.id)
    ∧ s.SameBytes (s.hopDone h) ∧ ∀ p ∈ h.parts, ∀ x ∈ ((s.hopDone h).gang p.gang).vpend, x ∉ h.dsts := by
  obtain ⟨hends, hfree⟩ := partsDone_ends hl h.parts { s with hops := s.hops.filter (fun x => x.id != h.id) }
  refine ⟨?_, sameBytes_trans (sameBytes_hops s _) hends.sameBytes, hfree⟩
  rw [State.hopDone, hends.rest]

theorem untouched_eq {h : HOp} {l : List (Nat × Word × Word)} (ht : h.taint = []) (hl : h.lost = []) (hc : h.counts = l) :
    { h with taint := [], lost := [], counts := l } = h := by
  cases h
  dsimp only at ht hl hc
  rw [ht, hl, hc]

/-- Table 5-5: an `mxtopk` none of whose lines was overwritten keeps its counts until its attached flag is clear. -/
theorem hopDone_mxtopk {h : HOp} {f : LaneWord} {p : HPart} {c : Word × Word} (hl : h.lost = []) (hi : h.instr = .mxtopk f)
    (hp : h.parts = [p]) (ht : h.taint = []) (hc : h.counts = [(p.gang, c)]) :
    (s.hopDone h).tails = s.tails ++ [⟨h, p, []⟩]
      ∧ ((s.hopDone h).gang p.gang).abandoned = (s.gang p.gang).abandoned
      ∧ ((s.hopDone h).gang p.gang).skipped = (s.gang p.gang).skipped := by
  let v : State := { s with hops := s.hops.filter (fun x => x.id != h.id) }
  have hline : ∀ (u : State) l, u.lineLost h f l = false := fun u l => by rw [State.lineLost, ht]; rfl
  have hundef : v.hUndef h p = v := by
    unfold State.hUndef
    simp [hi, hl, hline]
  have hlost : v.scoreLost h p = false := by simp [State.scoreLost, hi, hline]
  have hcounts : v.hCounts h p = (c, v) := by simp [State.hCounts, hlost, HOp.countsOf, hc]
  have hdone : s.hopDone h = { v.setGang p.gang ((s.gang p.gang).opDone h.dsts p.flag) with tails := s.tails ++ [⟨h, p, []⟩] } := by
    rw [State.hopDone, hp, List.foldl_cons, List.foldl_nil, State.partDone]
    dsimp only
    rw [show ({ s with hops := s.hops.filter (fun x => x.id != h.id) } : State) = v from rfl, hundef, hcounts]
    dsimp only
    rw [untouched_eq ht hl hc]
    rfl
  have hgang : (s.hopDone h).gang p.gang = (s.gang p.gang).opDone h.dsts p.flag := by
    rw [hdone]
    exact (setGang_gang v _ _ _).trans (if_pos rfl)
  rw [hgang, opDone_eq, hdone]
  exact ⟨rfl, rfl, rfl⟩

/-! ### Tails (Table 5-5) -/

section
variable {s : State} {h : HOp} {f : LaneWord} {p : HPart} {c : Word × Word} (ht : s.tails = [⟨h, p, []⟩]) (hi : h.instr = .mxtopk f)
  (htaint : h.taint = []) (hc : h.counts = [(p.gang, c)])
include ht htaint

theorem settleTails_one : s.settleTails = ((s.tails.filter s.tailDue).foldl (fun u x =>
    u.setGang x.part.gang ((u.gang x.part.gang).setCounts x.hop.instr x.part.seq (x.hop.countsOf x.part)))
      { s with tails := s.tails.filter (fun x => !s.tailDue x) }) := by
  have hlost : s.tailLost ⟨h, p, []⟩ = s := by rw [State.tailLost, htaint]; rfl
  rw [State.settleTails, if_neg (by rw [ht]; exact Bool.false_ne_true)]
  dsimp only
  rw [show s.tails.foldl State.tailLost s = s by rw [ht]; exact hlost]

theorem settled_waits (hb : (s.gang p.gang).flagBusy p.flag = true) : settled (.next s) = .next s := by
  have hdue : s.tailDue ⟨h, p, []⟩ = false := by simp [State.tailDue, hb]
  have hnone : s.tails.filter s.tailDue = [] := by rw [ht]; simp [hdue]
  have hall : s.tails.filter (fun x => !s.tailDue x) = s.tails := by rw [ht]; simp [hdue]
  rw [settled, settleTails_one ht htaint, hnone, hall]
  rfl

include hi hc in
theorem settled_counts (hb : (s.gang p.gang).flagBusy p.flag = false) : settled (.next s) = .next
    ({ s with tails := [] }.setGang p.gang (if (s.gang p.gang).topkAt ≤ p.seq
      then { s.gang p.gang with abandoned := c.1, skipped := c.2, topkAt := p.seq } else s.gang p.gang)) := by
  have hdue : s.tailDue ⟨h, p, []⟩ = true := by simp [State.tailDue, hb]
  have hall : s.tails.filter s.tailDue = [⟨h, p, []⟩] := by rw [ht]; simp [hdue]
  have hnone : s.tails.filter (fun x => !s.tailDue x) = [] := by rw [ht]; simp [hdue]
  have hcount : h.countsOf p = c := by simp [HOp.countsOf, hc]
  rw [settled, settleTails_one ht htaint, hall, hnone, List.foldl_cons, List.foldl_nil, hi, hcount]
  rfl

end

/-! ### `mwait` (R171) -/

theorem asleep_op {s : State} {k : Nat} {o : Op} {e : El} (h : s.asleep k = some (o, e)) : s.op o.id = some o := by
  unfold State.asleep at h
  split at h
  · split at h
    · next id _ p hp =>
      split at h
      · split at h
        · obtain ⟨rfl, -⟩ := Prod.ext_iff.1 (Option.some.inj h)
          rw [findOp_id hp]
          exact hp
        · cases h
      · cases h
    · cases h
  · cases h

/-- R171: an `mwait` that reads its word again goes out with a new request. -/
theorem reread_op {s : State} {o : Op} (h : s.op o.id = some o) : (s.reread o).op o.id = some
    { o with stage := .sent, head := s.nextOp, els := o.els.map (fun (x : El) => { x with st := .todo, data := [] }) } :=
  op_setOp_self (p := { o with stage := .sent, head := s.nextOp, els := o.els.map (fun (x : El) => { x with st := .todo, data := [] }) }) h

theorem sameBytes_reread (s : State) (o : Op) : s.SameBytes (s.reread o) := sameBytes_of_fields rfl rfl rfl fun _ => rfl

end

end Sys2Proof.Proofs
end

section
open Sys2Proof Sys2Proof.Machine Sys2Proof.Claims Sys2Proof.Laws

namespace Sys2Proof.Proofs

/-! ### Each kind of result as it returns -/

/-- The gang of an operation that has left, where the gang's registers and tags were written before. -/
theorem retire_setGang_gang (s : State) (o : Op) (g : Gang) : ∃ fs b,
    ((s.setGang o.gang g).retire o).gang o.gang = { g with fences := fs, parked := b } := by
  have h := retire_gang (s.setGang o.gang g) o o.gang
  rw [setGang_gang, if_pos rfl] at h
  exact ⟨_, _, h⟩

theorem rp_of_marks (g : Gang) (fs : List Fence) (b : Bool) (r : Nat) : ({ g with fences := fs, parked := b } : Gang).rp r = g.rp r := rfl

section
variable {op : Nat} {o : Op} {s : State} (ho : s.op op = some o)
include ho

/-- An operation whose gang alone has changed is gone as it leaves. -/
theorem retire_setGang_gone (g : Gang) : OpGone op s ((s.setGang o.gang g).retire o) :=
  retire_gone (findOp_id ho) rfl (sameBytes_setGang s _ _)

theorem sreg_returns {r : Nat} {bs : List Byte} (hl : o.lane = false) (hd : o.dst = .sreg r) (hst : o.stage = .ready)
    (hk : ∀ c, o.kind ≠ .mwait c) (ha : s.answer o = none) (hw : s.resultWaits o = false) (hv : o.value = some bs) :
    ∃ t, exec (.scalarResultReturn op) s = .next t ∧ OpGone op s t
      ∧ (∀ x, (t.gang o.gang).rs x = if x = r then written r (BitVec.ofNat 32 (leNat bs)) else (s.gang o.gang).rs x)
      ∧ (t.gang o.gang).spend = (s.gang o.gang).spend.filter (· != r) := by
  refine ⟨_, scalarResultReturn_writes ho hl (by rw [hd]; simp) hst hk ha hw, retire_setGang_gone ho _, ?_⟩
  obtain ⟨fs, b, hg⟩ := retire_setGang_gang s o ((s.gang o.gang).sReturn o.dst o.value)
  rw [hg, hd, hv]
  exact ⟨fun x => sReturn_sreg_rs _ r bs x, sReturn_sreg_spend _ r bs⟩

theorem pair_returns {r : Nat} {bs : List Byte} (hl : o.lane = false) (hd : o.dst = .pair r) (hr : r ≠ 0) (hst : o.stage = .ready)
    (hk : ∀ c, o.kind ≠ .mwait c) (ha : s.answer o = none) (hw : s.resultWaits o = false) (hv : o.value = some bs) :
    ∃ t, exec (.scalarResultReturn op) s = .next t ∧ OpGone op s t
      ∧ (t.gang o.gang).rp r = BitVec.ofNat 64 (leNat bs)
      ∧ (∀ x, x ≠ r → x ≠ r + 1 → (t.gang o.gang).rs x = (s.gang o.gang).rs x)
      ∧ (t.gang o.gang).spend = (s.gang o.gang).spend.filter (fun x => x != r && x != r + 1) := by
  refine ⟨_, scalarResultReturn_writes ho hl (by rw [hd]; simp) hst hk ha hw, retire_setGang_gone ho _, ?_⟩
  obtain ⟨fs, b, hg⟩ := retire_setGang_gang s o ((s.gang o.gang).sReturn o.dst o.value)
  rw [hg, rp_of_marks, hd, hv]
  exact ⟨sReturn_pair_rp _ r bs hr, fun x h h1 => sReturn_pair_rs _ r bs x h h1, sReturn_pair_spend _ r bs⟩

theorem counter_returns {l : Level} {r : Nat} (hl : o.lane = false) (hk : o.kind = .jcount l) (hd : o.dst = .pair r) (hr : r ≠ 0)
    (hid : (o.arg.getD 0 0).toNat < 65536) (ha : s.acqDone o.gang o.id = true) :
    ∃ t, exec (.scalarResultReturn op) s = .next t ∧ OpGone op s t
      ∧ (t.gang o.gang).rp r = BitVec.ofNat 64 (s.counter o.asid l.code (o.arg.getD 0 0).toNat) := by
  obtain ⟨u, hu, hexec⟩ := scalarResultReturn_counts ho hl hk (by rw [hd]; simp) hid ha
  refine ⟨_, hexec, retire_gone (findOp_id ho) hu.ops (sameBytes_trans (sameBytes_setGang s _ _) hu.sameBytes), ?_⟩
  rw [retire_gang, rp_of_marks, hu.gang, rp_of_marks, setGang_gang, if_pos rfl, hd, sReturn_pair_rp _ _ _ hr]
  refine BitVec.eq_of_toNat_eq ?_
  rw [leNat_natLE_mod, BitVec.toNat_ofNat, BitVec.toNat_ofNat]
  exact Nat.mod_mod _ _

/-- R156: the acknowledgement of an entry ends it. -/
theorem storeAck_retires (hq : o.inQ = true) (hst : o.stage = .ready) (hd : o.dst = .none) :
    exec (.storeAck op) s = .next (s.retire o) := by
  rw [exec_storeAck, execStoreAck, ho]
  simp [hq, hst, hd]

theorem laneLoad_returns {r n : Nat} {ty : Ty} (hl : o.lane = true) (hs : o.scr = false) (hk : o.kind = .load)
    (hd : o.dst = .vreg r n ty) (hst : o.stage = .ready) (hw : s.resultWaits o = false) (hdone : ∀ e ∈ o.els, e.st = .done) :
    ∃ t, exec (.laneOpComplete op) s = .next t ∧ OpGone op s t
      ∧ (∀ x, ∀ l < 32, (t.gang o.gang).rv x l = returned (s.gang o.gang) r n o.els x l)
      ∧ (∀ x, (t.gang o.gang).tag x = if r ≤ x ∧ x < r + n then ty else (s.gang o.gang).tag x)
      ∧ ∀ x ∈ (t.gang o.gang).vpend, ¬(r ≤ x ∧ x < r + n) := by
  refine ⟨_, laneOpComplete_writes ho hl hs hst (by rw [hd]; simp) hk hw, retire_setGang_gone ho _, ?_⟩
  obtain ⟨fs, b, hg⟩ := retire_setGang_gang s o (((s.gang o.gang).vResult o).opDone o.vregs o.flag)
  rw [hg]
  exact ⟨fun x l hlt => load_rv hk hd hdone hlt, fun x => load_tag hk hd hdone x, fun x hx => load_vpend hk hd hx⟩

end

/-- What a lane of a register reads after a load from scratchpad: the bank's word, where no store of the queue stands over it. -/
theorem returned_bankRead {s : State} {o : Op} {g : Gang} {r n x l : Nat} (hwid : o.width = 4 * n)
    (hf : ∀ e ∈ o.els, ∀ f ∈ s.forward o e, f = .none) : returned g r n (bankRead s o).els x l =
      match (if r ≤ x ∧ x < r + n then o.els.find? (fun e => e.lane == l) else none) with
      | some e => BitVec.ofNat 32 (leNat ((s.crew o.crew).readScr (e.addr.toNat + 4 * (x - r)) 4))
      | none => g.rv x l := by
  by_cases hx : r ≤ x ∧ x < r + n
  · have hfind : (bankRead s o).els.find? (fun e => e.lane == l) = (o.els.find? (fun e => e.lane == l)).map (s.scrRead o) := by
      rw [bankRead, List.find?_map]
      rfl
    rw [returned, if_pos hx, if_pos hx, hfind]
    cases he : o.els.find? (fun e => e.lane == l) with
    | none => rfl
    | some e =>
      have hlen : (s.forward o e).length = o.width := by simp [State.forward]
      have hres : (s.scrRead o e).res = (s.crew o.crew).readScr e.addr.toNat o.width :=
        mergeFwd_none (hf e (List.mem_of_find?_eq_some he)) (by rw [hlen]; exact length_getList)
      change (s.scrRead o e).word (x - r) = _
      rw [El.word, hres, hwid, Crew.readScr, getList_word _ _ (by omega)]
      rfl
  · rw [returned_of_outside hx, if_neg hx]

theorem bankLoad_returns {op : Nat} {o : Op} {s : State} {r n : Nat} {ty : Ty} (ho : s.op op = some o) (hl : o.lane = true)
    (hs : o.scr = true) (hk : o.kind = .load) (hd : o.dst = .vreg r n ty) (hr : s.scrReady o = true) (hw : s.resultWaits o = false) :
    ∃ t, exec (.laneOpComplete op) s = .next t ∧ unmarked t.ops = unmarked (s.ops.filter (fun p => p.id != op)) ∧ s.SameBytes t
      ∧ ∀ x, ∀ l < 32, (t.gang o.gang).rv x l = returned (s.gang o.gang) r n (bankRead s o).els x l := by
  have hdone : ∀ e ∈ (bankRead s o).els, e.st = .done := fun e he => by
    obtain ⟨e', -, rfl⟩ := List.mem_map.1 he
    rfl
  have hexec := laneOpComplete_reads ho hl hs hr (by rw [hd]; simp) hk hw
  have hrv := fun x l (hlt : l < 32) => load_rv (g := s.gang o.gang) (o := bankRead s o) (x := x) hk hd hdone hlt
  generalize ((s.gang o.gang).vResult (bankRead s o)).opDone (bankRead s o).vregs (bankRead s o).flag = g at hexec hrv
  have hid : (bankRead s o).id = op := (findOp_id ho : o.id = op)
  obtain ⟨hops, hbytes⟩ := retire_gone (s := s.bypass o) (s1 := (s.bypass o).setGang (bankRead s o).gang g) hid rfl
    (sameBytes_setGang _ _ _)
  obtain ⟨fs, b, hg⟩ := retire_setGang_gang (s.bypass o) (bankRead s o) g
  refine ⟨_, hexec, ?_, hbytes, fun x l hlt => ?_⟩
  · rw [unmarked, hops]
    exact unmarked_bypass s o op
  · refine (congrArg (fun u : Gang => u.rv x l) hg).trans ?_
    exact hrv x l hlt

/-- Settles O40: each kind of result by its lemma above; what an operation leaves behind it settles by `retire_gone`. -/
theorem resultsReturn : Obligations.ResultsReturn := by
  refine ⟨fun op o s ho => ⟨?_, ?_, ?_, ?_, ?_, ?_⟩, ?_, ?_, ?_⟩
  · exact fun r bs hl hd hst hk ha hw hv => sreg_returns ho hl hd hst hk ha hw hv
  · exact fun r bs hl hd hr hst hk ha hw hv => pair_returns ho hl hd hr hst hk ha hw hv
  · intro l r id hl hk hd hr hid hlt ha
    subst hid
    exact counter_returns ho hl hk hd hr hlt ha
  · exact fun hq hst hd => ⟨_, storeAck_retires ho hq hst hd, retire_gone (findOp_id ho) rfl (sameBytes_refl s), retire_gang s o⟩
  · exact fun r n ty hl hs hk hd hst hw hdone => laneLoad_returns ho hl hs hk hd hst hw hdone
  · intro r n ty hl hs hk hd hr hw hwid hf
    obtain ⟨t, hexec, hops, hbytes, hrv⟩ := bankLoad_returns ho hl hs hk hd hr hw
    exact ⟨t, hexec, hops, hbytes, fun x l hlt => (hrv x l hlt).trans (returned_bankRead hwid hf)⟩
  · intro op h s ho hh hst hlater hlost
    obtain ⟨hhops, hbytes, hpend⟩ := hopDone_ends s hlost
    refine ⟨s.hopDone h, ?_, hhops, hbytes, hpend, fun f p c hi hp ht hc => hopDone_mxtopk s hlost hi hp ht hc⟩
    rw [exec_laneOpComplete, execLaneOpComplete, ho]
    simp [hh, hst, hlater]
  · intro h f p c s ht hi htaint hc g
    refine ⟨fun ⟨i, hp, hb⟩ => settled_waits ht htaint (by rw [hp]; exact hb), fun hclear => ?_⟩
    have hb : (s.gang p.gang).flagBusy p.flag = false := by
      cases hp : p.flag with
      | none => rfl
      | some i => exact hclear i hp
    refine ⟨_, settled_counts ht hi htaint hc hb, rfl, rfl, fun k hk => ?_, ?_⟩
    · exact (setGang_gang { s with tails := [] } _ _ _).trans (if_neg hk)
    · exact (setGang_gang { s with tails := [] } _ _ _).trans (if_pos rfl)
  · intro k o e s has
    have hop := asleep_op has
    refine ⟨fun hp => ⟨s.reread o, ?_, sameBytes_reread s o, reread_op hop⟩, fun hh => ⟨s.reread o, ?_, sameBytes_reread s o, reread_op hop⟩⟩
    · rw [exec_mwaitRecheck, execMwaitRecheck, has]
      exact if_neg hp
    · rw [exec_mwaitPollTimeout, execMwaitPollTimeout, has]
      exact if_pos hh

end Sys2Proof.Proofs
end

section
open Sys2Proof Sys2Proof.Machine Sys2Proof.Claims Sys2Proof.Laws

/-! ### What the scalar stream computes (Tables 5-1 to 5-3), as the statements spell it -/

namespace Sys2Proof.Proofs

section Values
variable {w : Nat}

theorem add_eq_ofNat (a b : BitVec w) : a + b = BitVec.ofNat w (a.toNat + b.toNat) := by
  rw [BitVec.ofNat_add, BitVec.ofNat_toNat, BitVec.ofNat_toNat, BitVec.setWidth_eq, BitVec.setWidth_eq]

theorem sub_eq_ofInt (a b : BitVec w) : a - b = BitVec.ofInt w (a.toNat - b.toNat) :=
  BitVec.eq_of_toInt_eq (by rw [BitVec.toInt_ofInt, BitVec.toInt_sub, BitVec.toInt_eq_toNat_bmod, BitVec.toInt_eq_toNat_bmod]; simp)

theorem mul_eq_ofNat (a b : BitVec w) : a * b = BitVec.ofNat w (a.toNat * b.toNat) := by
  rw [BitVec.ofNat_mul, BitVec.ofNat_toNat, BitVec.ofNat_toNat, BitVec.setWidth_eq, BitVec.setWidth_eq]

theorem shiftLeft_eq_ofNat (a : BitVec w) (n : Nat) : a <<< n = BitVec.ofNat w (a.toNat * 2 ^ n) :=
  BitVec.eq_of_toNat_eq (by rw [BitVec.toNat_shiftLeft, BitVec.toNat_ofNat, Nat.shiftLeft_eq])

theorem ushiftRight_eq_ofNat (a : BitVec w) (n : Nat) : a >>> n = BitVec.ofNat w (a.toNat / 2 ^ n) :=
  BitVec.eq_of_toNat_eq (by
    rw [BitVec.toNat_ushiftRight, BitVec.toNat_ofNat, Nat.shiftRight_eq_div_pow,
      Nat.mod_eq_of_lt ((Nat.div_le_self _ _).trans_lt a.isLt)])

theorem sshiftRight_eq_ofInt (a : BitVec w) (n : Nat) : a.sshiftRight n = BitVec.ofInt w (a.toInt / 2 ^ n) := by
  rw [← BitVec.ofInt_toInt (x := a.sshiftRight n), BitVec.toInt_sshiftRight, Int.shiftRight_eq_div_pow]
  norm_cast

/-- The codes of a compare by the model's arithmetic are those of R99. -/
theorem ccOf_eq_codesOf (a b : BitVec w) : ccOf w a.toNat b.toNat = codesOf a b := by
  have hv (x : BitVec w) : intVal true w x.toNat = x.toInt := by
    rw [intVal, BitVec.toInt_eq_msb_cond, BitVec.msb_eq_decide, Bool.true_and]
    norm_cast
  have hd : (a.toNat + (2 ^ w - b.toNat)) % 2 ^ w = (a - b).toNat := by rw [BitVec.toNat_sub, Nat.add_comm]
  have hz : ((a - b).toNat == 0) = (a == b) := by
    rw [Bool.eq_iff_iff, beq_iff_eq, beq_iff_eq, ← sub_eq_zero (a := a), BitVec.toNat_eq]; rfl
  simp only [ccOf, codesOf, hd, hv, hz, BitVec.msb_eq_decide, intLo, intHi, if_true, Int.sub_one_lt_iff]

end Values

theorem opShl_eq (a b : Word) : opShl a b = if b.toNat < 32 then BitVec.ofNat 32 (a.toNat * 2 ^ b.toNat) else 0 := by
  rw [opShl, shiftLeft_eq_ofNat]

theorem opShr_eq (a b : Word) : opShr a b = if b.toNat < 32 then BitVec.ofNat 32 (a.toNat / 2 ^ b.toNat) else 0 := by
  rw [opShr, ushiftRight_eq_ofNat]

/-- A count of 32 or more leaves 32 copies of the sign. -/
theorem opSra_eq (a b : Word) : opSra a b = if b.toNat < 32 then BitVec.ofInt 32 (a.toInt / 2 ^ b.toNat)
    else if a.msb then BitVec.allOnes 32 else 0 := by
  unfold opSra
  split
  · next h => rw [min_eq_left (by omega), sshiftRight_eq_ofInt]
  · next h =>
    rw [min_eq_right (by omega)]
    apply BitVec.eq_of_getLsbD_eq
    intro l hl
    have hs : (a.sshiftRight 31).getLsbD l = a.msb := by
      rw [BitVec.getLsbD_sshiftRight, BitVec.msb_eq_getLsbD_last]
      by_cases h0 : l = 0
      · subst h0; simp
      · simp [show ¬31 + l < 32 by omega, hl]
    rw [hs]
    cases a.msb
    · exact BitVec.getLsbD_zero.symm
    · rw [if_pos rfl, BitVec.getLsbD_allOnes, decide_eq_true hl]

theorem opMin_eq (a b : Word) : opMin a b = if a.toInt ≤ b.toInt then a else b := by
  unfold opMin
  rcases lt_trichotomy a.toInt b.toInt with h | h | h
  · rw [if_pos h, if_pos h.le]
  · rw [BitVec.eq_of_toInt_eq h, ite_self, ite_self]
  · rw [if_neg h.not_gt, if_neg h.not_ge]

theorem opMax_eq (a b : Word) : opMax a b = if a.toInt ≤ b.toInt then b else a := by
  rw [opMax, ← ite_not]; simp only [not_lt]

theorem opMinN_eq (a b : Word) : opMinN a b = if a.toNat ≤ b.toNat then a else b := by
  unfold opMinN
  rcases lt_trichotomy a.toNat b.toNat with h | h | h
  · rw [if_pos h, if_pos h.le]
  · rw [BitVec.eq_of_toNat_eq h, ite_self, ite_self]
  · rw [if_neg h.not_gt, if_neg h.not_ge]

theorem opMaxN_eq (a b : Word) : opMaxN a b = if a.toNat ≤ b.toNat then b else a := by
  rw [opMaxN, ← ite_not]; simp only [not_lt]

/-- `sclz`: the count bounds the value from both sides. -/
theorem opClz_bounds (a : Word) : (opClz a).toNat ≤ 32 ∧ a.toNat < 2 ^ (32 - (opClz a).toNat)
    ∧ (a ≠ 0 → 2 ^ (31 - (opClz a).toNat) ≤ a.toNat) ∧ (a = 0 → opClz a = 32) := by
  by_cases h0 : a = 0
  · subst h0; decide
  · have hn : a.toNat ≠ 0 := fun h => h0 (BitVec.eq_of_toNat_eq h)
    have hl : Nat.log2 a.toNat < 32 := (Nat.log2_lt hn).2 a.isLt
    have hc : (opClz a).toNat = 31 - Nat.log2 a.toNat := by
      rw [opClz, lzc, if_neg hn, BitVec.toNat_ofNat, Nat.mod_eq_of_lt (by omega)]
    rw [hc, show 32 - (31 - Nat.log2 a.toNat) = Nat.log2 a.toNat + 1 by omega,
      show 31 - (31 - Nat.log2 a.toNat) = Nat.log2 a.toNat by omega]
    exact ⟨by omega, Nat.lt_log2_self, fun _ => Nat.log2_self_le hn, fun h => absurd h h0⟩

theorem ones_eq_length (n : Nat) : ∀ v, ones n v = ((List.range n).filter (fun i => v.testBit i)).length := by
  induction n with
  | zero => exact fun v => rfl
  | succ n ih =>
    intro v
    have hs : (List.range n).filter ((fun i => v.testBit i) ∘ Nat.succ) = (List.range n).filter (fun i => (v / 2).testBit i) :=
      List.filter_congr fun i _ => Nat.testBit_succ v i
    rw [ones, ih, List.range_succ_eq_map, List.filter_cons, Nat.testBit_zero, List.filter_map, hs]
    rcases Nat.mod_two_eq_zero_or_one v with h | h <;> simp [h, Nat.add_comm]

theorem opPopc_toNat (a : Word) : (opPopc a).toNat = ((List.range 32).filter (fun i => a.getLsbD i)).length := by
  have hle : ones 32 a.toNat ≤ 32 := by
    rw [ones_eq_length]; exact (List.length_filter_le _ _).trans (List.length_range ..).le
  rw [opPopc, BitVec.toNat_ofNat, Nat.mod_eq_of_lt (by omega), ones_eq_length]
  rfl

theorem opShlD_eq (a : Dword) (b : Word) : opShlD a b = if b.toNat < 64 then BitVec.ofNat 64 (a.toNat * 2 ^ b.toNat) else 0 := by
  rw [opShlD, shiftLeft_eq_ofNat]

theorem opShrD_eq (a : Dword) (b : Word) : opShrD a b = if b.toNat < 64 then BitVec.ofNat 64 (a.toNat / 2 ^ b.toNat) else 0 := by
  rw [opShrD, ushiftRight_eq_ofNat]

/-! ### One turn of the scalar stream on its own registers -/

section Turns
variable {s : State}

/-- R28: a turn whose whole effect is a result in sd. -/
theorem writes_of_scalarDo {i : Instr} {rd : List Nat} {sd : SReg} {f : Gang → Gang} {n v : Word}
    (he : exec i s = scalarDo s rd [sd.val] f) (hf : f s.me = (s.me.ws sd.val v).adv n) (hb : s.me.sBlocked rd [sd.val] = false) :
    ∃ t, exec i s = .next t ∧ t.me.rs sd.val = written sd.val v ∧ t.me.pc = s.me.pc + n ∧ s.WritesScalar t [sd.val] := by
  refine ⟨s.setMe ((s.me.ws sd.val v).adv n), by rw [he, scalarDo_free s hb, hf], ?_, ?_, writesScalar_ws s _ _ _⟩ <;>
    rw [setMe_me]
  · exact ws_self _ _ _
  · rw [ws_adv_eq]

/-- R28: the pair that was written. -/
theorem wp_self (g : Gang) (p : Pair) (v : Dword) : (g.wp (ev p) v).rp (ev p) = writtenPair p v := by
  have hne : ev p ≠ ev p + 1 := by omega
  rw [Gang.rp, wp_rs, wp_rs, if_pos rfl, if_neg hne, writtenPair]
  by_cases hp : p.val = 0
  · simp [ev, hp]
  · rw [if_pos ⟨rfl, by simpa [ev] using hp⟩, if_neg hp, halves_append]

theorem writesPair_of_scalarDo {i : Instr} {rd : List Nat} {sd : Pair} {f : Gang → Gang} {n : Word} {v : Dword}
    (he : exec i s = scalarDo s rd (pr sd) f) (hf : f s.me = (s.me.wp (ev sd) v).adv n) (hb : s.me.sBlocked rd (pr sd) = false) :
    ∃ t, exec i s = .next t ∧ t.me.rp (ev sd) = writtenPair sd v ∧ t.me.pc = s.me.pc + n ∧ s.WritesScalar t (pr sd) := by
  refine ⟨s.setMe ((s.me.wp (ev sd) v).adv n), by rw [he, scalarDo_free s hb, hf], ?_, ?_, writesScalar_wp s _ _ _⟩ <;>
    rw [setMe_me]
  · exact wp_self _ _ _
  · exact congrArg (· + n) (wp_pc _ _ _)

/-- R99: a turn whose whole effect is on the condition codes. -/
theorem writesCodes_of_scalarDo {i : Instr} {rd : List Nat} {f : Gang → Gang} {c : CC} {n : Word}
    (he : exec i s = scalarDo s rd [] f) (hf : f s.me = { s.me with cc := c, pc := s.me.pc + n })
    (hb : s.me.sBlocked rd [] = false) : ∃ t, exec i s = .next t ∧ t.me.cc = c ∧ t.me.pc = s.me.pc + n ∧ s.WritesCodes t := by
  refine ⟨s.setMe { s.me with cc := c, pc := s.me.pc + n }, by rw [he, scalarDo_free s hb, hf], ?_, ?_, ownGang_setMe s _, ?_⟩ <;>
    rw [setMe_me]

end Turns

/-! ### The SALU group (R101) -/

theorem aluRR_congr {op f : Word → Word → Word} (h : ∀ a b, op a b = f a b) (sd sa sb : SReg) (s : State) :
    aluRR op sd sa sb s = aluRR f sd sa sb s := by rw [funext₂ h]

/-- Table 5-1: a row computes the table's value. -/
theorem exec_saluRow {p : (SReg → SReg → SReg → Instr) × (Word → Word → Word)} (hp : p ∈ saluRows) (sd sa sb : SReg) (s : State) :
    exec (p.1 sd sa sb) s = aluRR p.2 sd sa sb s := by
  simp only [saluRows, List.mem_cons, List.not_mem_nil, or_false] at hp
  obtain rfl | rfl | rfl | rfl | rfl | rfl | rfl | rfl | rfl | rfl | rfl | rfl | rfl | rfl | rfl | rfl := hp
  · exact aluRR_congr add_eq_ofNat sd sa sb s
  · exact aluRR_congr sub_eq_ofInt sd sa sb s
  · rfl
  · rfl
  · rfl
  · rfl
  · exact aluRR_congr opShl_eq sd sa sb s
  · exact aluRR_congr opShr_eq sd sa sb s
  · exact aluRR_congr opSra_eq sd sa sb s
  · exact aluRR_congr opMin_eq sd sa sb s
  · exact aluRR_congr opMax_eq sd sa sb s
  · exact aluRR_congr opMinN_eq sd sa sb s
  · exact aluRR_congr opMaxN_eq sd sa sb s
  · exact aluRR_congr mul_eq_ofNat sd sa sb s
  · rfl
  · rfl

/-- Table 5-1: a row with one source computes a value that the table allows. -/
theorem exec_saluRow1 {p : (SReg → SReg → Instr) × (Word → Word → Prop)} (hp : p ∈ saluRows1) (sd sa : SReg) (s : State) :
    ∃ op : Word → Word, exec (p.1 sd sa) s = aluR op sd sa s ∧ ∀ a, p.2 a (op a) := by
  simp only [saluRows1, List.mem_cons, List.not_mem_nil, or_false] at hp
  obtain rfl | rfl | rfl := hp
  · exact ⟨id, rfl, fun _ => rfl⟩
  · exact ⟨opClz, rfl, opClz_bounds⟩
  · exact ⟨opPopc, rfl, opPopc_toNat⟩

/-- Settles O1: each row is the shared operation with the table's value (`exec_saluRow`, `exec_saluRow1`), and a compare sets
the codes of R99 (`ccOf_eq_codesOf`). -/
theorem scalarRegisterResults : Obligations.ScalarRegisterResults := by
  refine ⟨fun p hp sd sa sb s hb => writes_of_scalarDo (exec_saluRow hp sd sa sb s) rfl hb, fun p hp sd sa s hb => ?_,
    fun sa sb s hb => writesCodes_of_scalarDo (exec_scmp s sa sb) (by rw [ccOf_eq_codesOf]) hb⟩
  obtain ⟨op, he, hv⟩ := exec_saluRow1 hp sd sa s
  obtain ⟨t, ht⟩ := writes_of_scalarDo he rfl hb
  exact ⟨t, _, ht.1, hv _, ht.2⟩

/-! ### The SALUD group (R102) -/

/-- Table 5-2: the rows over pairs, those with a count and those with two registers. -/
theorem exec_salud3 {p : (Pair → Pair → Pair → Instr) × (Dword → Dword → Dword)} (hp : p ∈ salud3) (sd sa sb : Pair) (s : State) :
    exec (p.1 sd sa sb) s = aluPP p.2 sd sa sb s := by
  simp only [salud3, List.mem_cons, List.not_mem_nil, or_false] at hp
  obtain rfl | rfl := hp
  · exact congrArg (aluPP · sd sa sb s) (funext₂ add_eq_ofNat)
  · exact congrArg (aluPP · sd sa sb s) (funext₂ sub_eq_ofInt)

theorem exec_saludS {p : (Pair → Pair → SReg → Instr) × (Dword → Word → Dword)} (hp : p ∈ saludS) (sd sa : Pair) (sb : SReg)
    (s : State) : exec (p.1 sd sa sb) s = aluPS p.2 sd sa sb s := by
  simp only [saludS, List.mem_cons, List.not_mem_nil, or_false] at hp
  obtain rfl | rfl := hp
  · exact congrArg (aluPS · sd sa sb s) (funext₂ opShlD_eq)
  · exact congrArg (aluPS · sd sa sb s) (funext₂ opShrD_eq)

theorem exec_saludW {p : (Pair → SReg → SReg → Instr) × (Word → Word → Dword)} (hp : p ∈ saludW) (sd : Pair) (sa sb : SReg)
    (s : State) : exec (p.1 sd sa sb) s = aluW p.2 sd sa sb s := by
  simp only [saludW, List.mem_cons, List.not_mem_nil, or_false] at hp
  obtain rfl | rfl := hp <;> rfl

/-- Settles O2: as O1, over pairs. -/
theorem scalarPairResults : Obligations.ScalarPairResults :=
  ⟨fun _ hp sd sa sb s hb => writesPair_of_scalarDo (exec_salud3 hp sd sa sb s) rfl hb,
   fun _ hp sd sa sb s hb => writesPair_of_scalarDo (exec_saludS hp sd sa sb s) rfl hb,
   fun _ hp sd sa sb s hb => writesPair_of_scalarDo (exec_saludW hp sd sa sb s) rfl hb,
   fun sd sa s hb => writesPair_of_scalarDo (exec_smovD s sd sa) rfl hb,
   fun sa sb s hb => writesCodes_of_scalarDo (exec_scmpD s sa sb) (by rw [ccOf_eq_codesOf]) hb⟩

/-! ### The immediate forms (R103) -/

/-- R27: the signed 19-bit immediate, as the statements spell it. -/
theorem imm19s_eq (i : Fin 524288) : imm19s i = sext32 19 i.val := setWidth_sx (by omega) (by omega) i.isLt

theorem aluR_congr {op f : Word → Word} (h : ∀ a, op a = f a) (sd sa : SReg) (s : State) : aluR op sd sa s = aluR f sd sa s := by
  rw [funext h]

theorem exec_immRow {p : (SReg → SReg → Fin 4096 → Instr) × (Word → Nat → Word)} (hp : p ∈ immRows) (sd sa : SReg) (i : Fin 4096)
    (s : State) : exec (p.1 sd sa i) s = aluR (p.2 · i.val) sd sa s := by
  simp only [immRows, List.mem_cons, List.not_mem_nil, or_false] at hp
  obtain rfl | rfl | rfl | rfl := hp
  · rw [exec_saddi, execSaddi, imm12s_eq]
    exact aluR_congr (add_eq_ofNat · _) sd sa s
  · rfl
  · rfl
  · rfl

theorem exec_shiftRow {p : (SReg → SReg → Fin 32 → Instr) × (Word → Nat → Word)} (hp : p ∈ shiftRows) (sd sa : SReg) (i : Fin 32)
    (s : State) : exec (p.1 sd sa i) s = aluR (p.2 · i.val) sd sa s := by
  simp only [shiftRows, List.mem_cons, List.not_mem_nil, or_false] at hp
  obtain rfl | rfl | rfl := hp
  · exact aluR_congr (shiftLeft_eq_ofNat · i.val) sd sa s
  · exact aluR_congr (ushiftRight_eq_ofNat · i.val) sd sa s
  · exact aluR_congr (sshiftRight_eq_ofInt · i.val) sd sa s

theorem exec_constRow {p : (SReg → Fin 524288 → Instr) × (Nat → Word)} (hp : p ∈ constRows) (sd : SReg) (i : Fin 524288) (s : State) :
    exec (p.1 sd i) s = aluI (p.2 i.val) sd s := by
  simp only [constRows, List.mem_cons, List.not_mem_nil, or_false] at hp
  obtain rfl | rfl := hp
  · exact congrArg (aluI · sd s) (imm19s_eq i)
  · rfl

/-- Settles O3: as O1, with a literal. -/
theorem scalarImmediateResults : Obligations.ScalarImmediateResults :=
  ⟨fun _ hp sd sa i s hb => writes_of_scalarDo (exec_immRow hp sd sa i s) rfl hb,
   fun _ hp sd sa i s hb => writes_of_scalarDo (exec_shiftRow hp sd sa i s) rfl hb,
   fun _ hp sd i s hb => writes_of_scalarDo (exec_constRow hp sd i s) rfl hb,
   fun sa i s hb => writesCodes_of_scalarDo (exec_scmpi s sa i) (by rw [ccOf_eq_codesOf, imm12s_eq]) hb⟩

/-! ### Branches, calls and jumps (R104-R106) -/

/-- Table 2-9: the model's test is the table's. -/
theorem test_eq_branchTest (g : Gang) {cnd : Nat} (h : cnd < 32) : g.test cnd = branchTest g cnd := by
  interval_cases cnd <;> rfl

/-- R27: the signed 20-bit offset of a branch. -/
theorem off20_eq (off : Fin 1048576) : (sx 20 off.val).setWidth 32 = sext32 20 off.val := setWidth_sx (by omega) (by omega) off.isLt

/-- Settles O4: a test that does not wait decides between two targets. -/
theorem branchTests : Obligations.BranchTests := by
  intro cnd inv off s h
  have hw : ¬(16 ≤ cnd.val ∧ s.me.clauses ≠ []) := fun ⟨hc, hq⟩ => h.elim (by omega) hq
  have he : exec (.sbr cnd inv off) s = .next (s.setMe { s.me with
      pc := if branchTest s.me cnd.val != inv then s.me.pc + 4 * sext32 20 off.val else s.me.pc + 4 }) := by
    rw [exec_sbr, execSbr, if_neg hw]
    simp only [test_eq_branchTest s.me cnd.isLt, off20_eq]
    cases branchTest s.me cnd.val != inv <;> rfl
  exact ⟨_, he, writesPc_setMe s _⟩

/-- R106, R194: a jump to an aligned target links and jumps; through `s0` it leaves handler mode. -/
theorem sjr_jumps {s : State} {sd sa : SReg} {i : Fin 4096} {target : Word} (hb : s.me.sBlocked [sa.val] [sd.val] = false)
    (ht : target = s.me.rs sa.val + 4 * sext32 12 i.val) (h4 : target.toNat % 4 = 0) :
    ∃ t, exec (.sjr sd sa i) s = .next t ∧ t.me.rs sd.val = written sd.val (s.me.pc + 4) ∧ t.me.pc = target
      ∧ (∀ r, r ≠ sd.val → t.me.rs r = s.me.rs r)
      ∧ t.me.trap = (if sd.val = 0 then { s.me.trap with handler := false } else s.me.trap)
      ∧ t.me = { s.me with sreg := t.me.sreg, pc := t.me.pc, trap := t.me.trap } ∧ s.OwnGang t := by
  have he : exec (.sjr sd sa i) s = .next (s.setMe { s.me with
      sreg := (s.me.ws sd.val (s.me.pc + 4)).sreg, pc := target,
      trap := if sd.val = 0 then { s.me.trap with handler := false } else s.me.trap }) := by
    rw [exec_sjr, execSjr, scalarGo_free s hb]
    simp only [imm12s_eq, ← ht, h4, ne_eq, not_true_eq_false, if_false]
    by_cases h0 : sd.val = 0 <;> simp only [h0, if_true, if_false, Gang.ws, Gang.leaveHandler]
  refine ⟨_, he, ?_, ?_, fun r hr => ?_, ?_, ?_, ownGang_setMe s _⟩ <;> rw [setMe_me]
  · exact ws_self s.me sd.val _
  · exact (ws_rs s.me sd.val r _).trans (if_neg fun h => hr h.1)

/-- Settles O5: a call is a link and a jump; a jump to a misaligned target is the trap of O13 (`sjr_traps`). -/
theorem callsAndJumps : Obligations.CallsAndJumps := by
  refine ⟨fun sd i s hb => writes_of_scalarDo (exec_scall s sd i) (by rw [imm19s_eq]) hb, fun sd sa i s hb => ⟨fun h4 => ?_, ?_⟩⟩
  · exact takesScalarTrap_of_exec (sjr_traps hb h4) (.inl rfl)
  · exact sjr_jumps hb rfl

/-! ### Special registers and sticky flags (R112, R113) -/

/-- The numbers of the 32-bit special registers (Tables 5-5 and 9-2). -/
def special32Keys : List Nat :=
  [0x000, 0x001, 0x002, 0x003, 0x004, 0x005, 0x006, 0x007, 0x008, 0x009, 0x00A, 0x00B, 0x00C, 0x014, 0x015, 0x016, 0x020, 0x021,
   0x030, 0x031, 0x032, 0x033, 0x036, 0x037] ++ (List.range 8).map (0x038 + ·)

theorem cc_word_toNat (c : CC) : c.word.toNat = 8 * c.z.toNat + 4 * c.n.toNat + 2 * c.c.toNat + c.v.toNat := by
  obtain ⟨z, n, c, v⟩ := c
  cases z <;> cases n <;> cases c <;> cases v <;> rfl

/-- The statement's list holds what the model reads under each number. -/
theorem special32_eq (s : State) : special32 s = special32Keys.map (fun n => (n, s.special s.cur n)) := by
  have hh : s.me.trap.handler.toNat = if s.me.trap.handler then 1 else 0 := by cases s.me.trap.handler <;> rfl
  simp only [special32, ← cc_word_toNat, hh]
  rfl

theorem special_of_special32 {s : State} {n v : Nat} (h : (n, v) ∈ special32 s) : n ∈ special32Keys ∧ s.special s.cur n = v := by
  rw [special32_eq] at h
  obtain ⟨m, hm, he⟩ := List.mem_map.1 h
  cases he
  exact ⟨hm, rfl⟩

theorem special_of_special64 {s : State} {n v : Nat} (h : (n, v) ∈ special64 s) :
    n ∈ [0x010, 0x012, 0x034] ∧ s.special s.cur n = v := by
  have he : special64 s = [0x010, 0x012, 0x034].map (fun n => (n, s.special s.cur n)) := rfl
  rw [he] at h
  obtain ⟨m, hm, he⟩ := List.mem_map.1 h
  cases he
  exact ⟨hm, rfl⟩

theorem sregWidth_special32 : ∀ n ∈ special32Keys, sregWidth n = some 32 ∧ n ≠ 0x028 := by decide
theorem sregWidth_special64 : ∀ n ∈ [0x010, 0x012, 0x034], sregWidth n = some 64 ∧ n ≠ 0x028 := by decide

/-- R112: a register that is not remote is written at once. -/
theorem exec_srd_word {s : State} {n : Fin 1024} (sd : SReg) (hw : sregWidth n.val = some 32) (hn : n.val ≠ 0x028) :
    exec (.srd sd n) s = scalarDo s [] [sd.val] (fun g => (g.ws sd.val (BitVec.ofNat 32 (s.special s.cur n.val))).adv 8) := by
  simp only [exec_srd, execSrd, hw, hn, if_false]
  rfl

theorem exec_srd_pair {s : State} {n : Fin 1024} {sd : SReg} {p : Pair} (hp : sd.val = 2 * p.val) (hw : sregWidth n.val = some 64)
    (hn : n.val ≠ 0x028) :
    exec (.srd sd n) s = scalarDo s [] (pr p) (fun g => (g.wp (ev p) (BitVec.ofNat 64 (s.special s.cur n.val))).adv 8) := by
  simp only [exec_srd, execSrd, hw, hn, hp, if_false]
  rfl

/-- R113: the flags that the mask does not name stay. -/
theorem sticky_andNot (f : BitVec 6) (m : Fin 64) {i : Nat} (hi : i < 6) :
    (f &&& ~~~(BitVec.ofNat 6 m.val)).getLsbD i = (f.getLsbD i && !m.val.testBit i) := by
  rw [BitVec.getLsbD_and, BitVec.getLsbD_not, BitVec.getLsbD_ofNat, decide_eq_true hi, Bool.true_and, Bool.true_and]

/-- Settles O8: a read writes what the tables list (`special_of_special32`, `special_of_special64`). -/
theorem specialAndStickyRegisters : Obligations.SpecialAndStickyRegisters := by
  refine ⟨⟨fun sd n s v hv hb => ?_, fun p sd n s v hp hv hb => ?_, fun sa n s _ hb => ?_⟩, fun sd s hb => ?_, fun m s hb => ?_⟩
  · obtain ⟨hk, rfl⟩ := special_of_special32 hv
    obtain ⟨hw, hn⟩ := sregWidth_special32 _ hk
    exact writes_of_scalarDo (exec_srd_word sd hw hn) rfl hb
  · obtain ⟨hk, rfl⟩ := special_of_special64 hv
    obtain ⟨hw, hn⟩ := sregWidth_special64 _ hk
    rw [hp]
    exact writesPair_of_scalarDo (exec_srd_pair hp hw hn) rfl hb
  · exact writesCodes_of_scalarDo (exec_swr s sa n) rfl hb
  · exact writes_of_scalarDo (exec_sgetf s sd) rfl hb
  · refine ⟨_, (exec_sclrf s m).trans (scalarDo_free s hb), ownGang_setMe s _, fun i hi => ?_, ?_⟩ <;> rw [setMe_me]
    exact sticky_andNot s.me.sticky m hi

end Sys2Proof.Proofs
end

section
open Sys2Proof Sys2Proof.Machine Sys2Proof.Claims Sys2Proof.Laws

namespace Sys2Proof.Proofs

/-! ### What the end of a gang does to the others (R119, R172, R223) -/

/-- Whether a gang runs, and what it holds of its quadrant. -/
def holdings (g : Gang) : GangPhase × Nat × Nat × Nat := (g.phase, g.blocks, g.ntiles, g.nlists)

/-- Two states with the same operations and bytes, whose gangs hold the same. -/
structure HoldsSame (s t : State) : Prop where
  cur : t.cur = s.cur
  ops : t.ops = s.ops
  bytes : s.SameBytes t
  gang : ∀ k, holdings (t.gang k) = holdings (s.gang k)

theorem HoldsSame.refl (s : State) : HoldsSame s s := ⟨rfl, rfl, sameBytes_refl s, fun _ => rfl⟩

theorem HoldsSame.trans {s t u : State} (h : HoldsSame s t) (g : HoldsSame t u) : HoldsSame s u :=
  ⟨g.cur.trans h.cur, g.ops.trans h.ops, sameBytes_trans h.bytes g.bytes, fun k => (g.gang k).trans (h.gang k)⟩

theorem HoldsSame.ite {s t u : State} {p : Prop} [Decidable p] (ht : HoldsSame s t) (hu : HoldsSame s u) :
    HoldsSame s (if p then t else u) := by split; exacts [ht, hu]

section
variable (s : State)

theorem setGang_holdsSame {k : Nat} {g : Gang} (hg : holdings g = holdings (s.gang k)) : HoldsSame s (s.setGang k g) :=
  ⟨rfl, rfl, sameBytes_setGang s k g, fun j => by
    rw [setGang_gang]
    split
    · next h => rw [h, hg]
    · rfl⟩

theorem setCrew_holdsSame {c : Nat} {w : Crew} (hw : w.scratch = (s.crew c).scratch) : HoldsSame s (s.setCrew c w) :=
  ⟨rfl, rfl, sameBytes_setCrew s c hw, fun _ => rfl⟩

theorem jointBreak_holdsSame (k : Nat) : HoldsSame s (s.jointBreak k) := by
  refine ⟨?_, ?_, sameBytes_jointBreak s k, fun j => ?_⟩
  · rw [jointBreak_only]
  · rw [jointBreak_only]
  · rw [jointBreak_notesOnly s k j]; rfl

theorem loseBegun_holdsSame (k : Nat) : HoldsSame s (s.loseBegun k) := ⟨rfl, rfl, sameBytes_refl s, fun _ => rfl⟩

theorem stopCrew_holdsSame (c : Nat) (i : StopInfo) : HoldsSame s (s.stopCrew c i) :=
  .ite (setCrew_holdsSame s rfl) (.refl s)

theorem takeTrap_holdsSame (k : Nat) (t : TrapInfo) : HoldsSame s (s.takeTrap k t) := by
  unfold State.takeTrap
  dsimp only
  split
  · have h (g : Gang) (hg : holdings g = holdings (s.gang k)) : HoldsSame s ((s.setGang k g).jointBreak k) :=
      (setGang_holdsSame s hg).trans (jointBreak_holdsSame _ k)
    refine .ite ((h _ ?_).trans (loseBegun_holdsSame _ k)) (h _ ?_) <;> rfl
  · refine (setGang_holdsSame s ?_).trans (stopCrew_holdsSame _ _ _)
    rfl

theorem barRelease_holdsSame (i : Nat) (ks : List Nat) : ∀ s : State, HoldsSame s (s.barRelease i ks) := by
  induction ks with
  | nil => exact .refl
  | cons k ks ih =>
    intro s
    refine (setGang_holdsSame s ?_).trans (ih _)
    split
    · split <;> rfl
    · rfl

theorem barTrap_holdsSame (i : Nat) (ks : List Nat) : ∀ s : State, HoldsSame s (s.barTrap i ks) := by
  induction ks with
  | nil => exact .refl
  | cons k ks ih =>
    intro s
    simp only [State.barTrap]
    split
    · refine .ite (.trans (.trans (setGang_holdsSame s ?_) (takeTrap_holdsSame _ _ _)) (ih _)) (ih s)
      rfl
    · exact ih s

/-- R172: a barrier's generation ends, or traps, or goes on. -/
theorem barCheck_holdsSame (c i : Nat) : HoldsSame s (s.barCheck c i) := by
  have hw : HoldsSame s (s.setCrew c ((s.crew c).setBar i ⟨0, []⟩)) := setCrew_holdsSame s rfl
  have hr := hw.trans (barRelease_holdsSame i (s.crew c).slots _)
  have ht := hw.trans (barTrap_holdsSame i (s.crew c).slots _)
  exact .ite (.refl s) (.ite (.ite hr (.refl s)) (.ite hr (.ite ht (.refl s))))

theorem barChecks_holdsSame (c n : Nat) : ∀ s : State, HoldsSame s (s.barChecks c n) := by
  induction n with
  | zero => exact .refl
  | succ n ih => exact fun s => (barCheck_holdsSame s c n).trans (ih _)

end

/-- A gang that does not run issues nothing. -/
theorem mayIssue_of_phase {s : State} {k : Nat} (h : (s.gang k).phase ≠ .running) : s.mayIssue k = false := by
  simp [State.mayIssue, State.live, h]

/-- R119: a gang as its exit leaves it. -/
def exitedGang (g : Gang) : Gang :=
  { g with phase := .exited, blocks := 0, nextBlk := 0, rels := [], ntiles := 0, nlists := 0, pc := g.pc + 8 }

theorem exec_sexit_free {s : State} (hc : s.me.clauses = []) (hf : ∀ i < 12, (s.me.flag i).busy = false) :
    exec .sexit s = .next (((s.setMe (exitedGang s.me)).jointBreak s.cur).barChecks s.me.crew 16) := by
  have hb : (List.range 12).any (fun i => (s.me.flag i).busy) = false := by
    rw [List.any_eq_false]
    exact fun i hi => by rw [hf i (List.mem_range.1 hi)]; decide
  have hn : ¬(s.me.clauses ≠ [] ∨ (List.range 12).any (fun i => (s.me.flag i).busy) = true) := by simp [hc, hb]
  exact if_neg hn

/-- Settles O15: the gang's exit is written first, and what it does to barriers and joint instructions leaves that
(`jointBreak_holdsSame`, `barChecks_holdsSame`). -/
theorem gangExits : Obligations.GangExits := by
  intro s hc hf _
  have h : HoldsSame (s.setMe (exitedGang s.me)) (((s.setMe (exitedGang s.me)).jointBreak s.cur).barChecks s.me.crew 16) :=
    (jointBreak_holdsSame _ s.cur).trans (barChecks_holdsSame s.me.crew 16 _)
  refine ⟨_, exec_sexit_free hc hf, ?_⟩
  generalize ((s.setMe (exitedGang s.me)).jointBreak s.cur).barChecks s.me.crew 16 = t at h ⊢
  have hg : holdings (t.gang s.cur) = (.exited, 0, 0, 0) := by rw [h.gang, setMe_gang, if_pos rfl]; rfl
  simp only [holdings, Prod.mk.injEq] at hg
  obtain ⟨hp, hb, ht, hl⟩ := hg
  have hi : t.mayIssue s.cur = false := mayIssue_of_phase (by rw [hp]; decide)
  have hme : t.me = t.gang s.cur := congrArg t.gang h.cur
  rw [hme, State.scalarReady, State.laneReady, hi]
  exact ⟨hp, hb, ht, hl, h.ops, sameBytes_trans (sameBytes_setMe s _) h.bytes, rfl, rfl⟩

end Sys2Proof.Proofs
end

section
open Sys2Proof Sys2Proof.Machine Sys2Proof.Claims Sys2Proof.Laws

namespace Sys2Proof.Proofs

/-! ### Taking a deferred trap (R192, R196, R231) -/

/-- R196: which of two reports of one cycle ranks first. -/
def earlier (m t : TrapInfo) : TrapInfo := if t.issue != 0 && (m.issue == 0 || decide (t.issue < m.issue)) then t else m

/-- A report that names no instruction gives way to every one that names one, and stays before another such. -/
theorem foldl_earlier_unnamed (l : List TrapInfo) (m : TrapInfo) (h : ∀ x ∈ l, x.issue = 0) : l.foldl earlier m = m := by
  induction l with
  | nil => rfl
  | cons x l ih =>
    have hx : earlier m x = m := if_neg (by simp [h x])
    rw [List.foldl_cons, hx]
    exact ih fun y hy => h y (List.mem_cons_of_mem _ hy)

/-- Of two reports that rank no earlier than `r`, one of them `r` itself, `r` is the earlier. -/
theorem earlier_eq_of_first {r m x : TrapInfo} (hr : r.issue ≠ 0) (hm : m = r ∨ m.issue = 0 ∨ r.issue < m.issue)
    (hx : x = r ∨ x.issue = 0 ∨ r.issue < x.issue) (h : r = m ∨ r = x) : earlier m x = r := by
  unfold earlier
  simp only [Bool.and_eq_true, bne_iff_ne, Bool.or_eq_true, beq_iff_eq, decide_eq_true_eq]
  split
  · grind
  · grind

/-- The report whose instruction issued first stays first. -/
theorem foldl_earlier_first (l : List TrapInfo) {r : TrapInfo} (hr : r.issue ≠ 0) : ∀ m, (r = m ∨ r ∈ l) →
    (∀ x ∈ m :: l, x = r ∨ x.issue = 0 ∨ r.issue < x.issue) → l.foldl earlier m = r := by
  induction l with
  | nil => exact fun m hm _ => (hm.resolve_right List.not_mem_nil).symm
  | cons x l ih =>
    intro m hm h
    obtain ⟨hmr, hxr, hl⟩ := List.forall_mem_cons.1 h |>.imp_right List.forall_mem_cons.1
    rw [List.foldl_cons]
    refine ih _ ?_ (List.forall_mem_cons.2 ⟨?_, hl⟩)
    · rw [List.mem_cons, ← or_assoc] at hm
      exact hm.imp_left fun h => (earlier_eq_of_first hr hmr hxr h).symm
    · obtain he | he := ite_eq_or_eq (x.issue != 0 && (m.issue == 0 || decide (x.issue < m.issue))) x m
      · rw [earlier, he]; exact hxr
      · rw [earlier, he]; exact hmr

/-- R196: the report that the statement names is the one that the model takes. -/
theorem firstReport_of_first {r0 rp : Nat × TrapInfo} {rs : List (Nat × TrapInfo)}
    (hp : rp ∈ (r0 :: rs).takeWhile (fun x => x.1 == r0.1))
    (h : rp.2.issue ≠ 0 ∧ (∀ x ∈ (r0 :: rs).takeWhile (fun x => x.1 == r0.1), x = rp ∨ x.2.issue = 0 ∨ rp.2.issue < x.2.issue)
      ∨ rp = r0 ∧ ∀ x ∈ (r0 :: rs).takeWhile (fun x => x.1 == r0.1), x.2.issue = 0) :
    firstReport (r0 :: rs) = some (r0.1, rp.2) := by
  rw [List.takeWhile_cons_of_pos (by simp)] at hp h
  have hf : firstReport (r0 :: rs) = some (r0.1, ((rs.takeWhile (fun x => x.1 == r0.1)).map (·.2)).foldl earlier r0.2) := rfl
  rw [hf]
  congr 2
  generalize rs.takeWhile (fun x => x.1 == r0.1) = l at hp h
  obtain ⟨hr, h⟩ | ⟨rfl, h⟩ := h
  · refine foldl_earlier_first _ hr _ ?_ ?_
    · exact (List.mem_cons.1 hp).imp (congrArg Prod.snd) (List.mem_map_of_mem (f := Prod.snd))
    · rw [← List.map_cons, List.forall_mem_map]
      exact fun x hx => (h x hx).imp_left (congrArg Prod.snd)
  · exact foldl_earlier_unnamed _ _ (List.forall_mem_map.2 fun x hx => h x (List.mem_cons_of_mem _ hx))

/-- Table 9-2: what the trap state records of a trap. -/
theorem record_eq (old : TrapState) (r : TrapInfo) : old.record r = ⟨BitVec.ofNat 32 (r.cause + (if r.deferred then 256 else 0)
    + (if r.lane then 512 else 0) + 1024 * r.drops), r.pc, r.info, r.lanes,
      if r.cause ∈ [5, 6, 7, 9, 0x0A, 0x0B, 0x0C, 0x14] ∨ r.cause = 1 ∧ r.source % 8 = 3 then r.addr else 0, old.tcount + 1, true⟩ := by
  have ha : hasAddr r = decide (r.cause ∈ [5, 6, 7, 9, 0x0A, 0x0B, 0x0C, 0x14] ∨ r.cause = 1 ∧ r.source % 8 = 3) := by
    rw [Bool.eq_iff_iff]
    simp only [hasAddr, Bool.or_eq_true, Bool.and_eq_true, List.contains_iff_mem, beq_iff_eq, decide_eq_true_eq, List.mem_cons,
      List.not_mem_nil, or_false]
    tauto
  rw [TrapState.record, ha]
  simp only [decide_eq_true_eq]

/-- R223: what a gang that traps keeps of the instructions in flight: each one that has a part of its own. -/
theorem mem_jointBreak_hops {s : State} {k : Nat} {h : HOp} (hh : h ∈ s.hops) (hp : ∃ p ∈ h.parts, p.gang = k) :
    h ∈ (s.jointBreak k).hops := by
  obtain ⟨p, hp, hk⟩ := hp
  have hu : h ∉ s.unmatched k := by
    intro hm
    simp only [State.unmatched, List.mem_filter, Bool.and_eq_true, Bool.not_eq_true', List.any_eq_false, beq_iff_eq] at hm
    exact hm.2.2 p hp hk
  rw [State.jointBreak, mismatches_only]
  exact List.mem_filter.2 ⟨hh, by simpa using hu⟩

/-- R231: a deferred trap that a handler takes leaves the gang's destinations of what has begun undefined. -/
theorem takeTrap_loses {s : State} {k hd : Nat} {t : TrapInfo} (hh : (s.crew (s.gang k).crew).handler = some hd)
    (hm : (s.gang k).trap.handler = false) (ht : t.deferred = true) {h : HOp} (h1 : h ∈ s.hops) (h2 : h.begun = true)
    (h3 : ∃ p ∈ h.parts, p.gang = k) : { h with lost := h.lost ++ [k] } ∈ (s.takeTrap k t).hops := by
  simp only [State.takeTrap, hh, hm, ht, if_true]
  refine (mem_loseBegun _).2 ⟨h, mem_jointBreak_hops h1 h3, if_pos ?_⟩
  simpa [h2] using h3

section Taken
variable {s : State} {k hd : Nat} {r0 : Nat × TrapInfo} {rs : List (Nat × TrapInfo)} {r : TrapInfo}
  (hf : firstReport (s.gang k).reports = some (r0.1, r)) (hr : (s.gang k).reports = r0 :: rs)
  (hc : r0.1 ≠ Map.get 0 s.cycles (slotDie k)) (hp : (s.gang k).phase = .running) (hw : (s.gang k).wait = .none)
  (ha : (s.crew (s.gang k).crew).alive = true)
include hf hr hc hp hw ha

/-- R192: between instructions the report is taken, the clauses are discarded, and the other reports are lost. -/
theorem exec_deferredTrapTake_taken : ∃ u : State, exec (.deferredTrapTake k) s
      = .next (u.takeTrap k { r with drops := (s.gang k).clauses.length })
    ∧ u.gang k = ({ s.gang k with reports := [] } : Gang).endClauses (s.gang k).clauses ∧ u = { s with gangs := u.gangs } := by
  have ht : s.takes k = true := by simp [State.takes, hr, hw]
  have hn : ((s.gang k).phase != .running || !(s.crew (s.gang k).crew).alive || !s.takes k
      || r0.1 == Map.get 0 s.cycles (slotDie k)) = false := by simp [hp, ha, ht, hc]
  have hg : { s.gang k with wait := Wait.none } = s.gang k := by rw [← hw]
  have hend : s.endWait k = s.setGang k (s.gang k) := by simp only [State.endWait, hw, hg]
  have hwe : (({ s.gang k with reports := [] } : Gang).endClauses (s.gang k).clauses).wait = .none := by rw [endClauses_eq]; exact hw
  have he : exec (.deferredTrapTake k) s = .next (((s.setGang k (s.gang k)).setGang k { s.gang k with reports := [] }).dropTrap k r) := by
    simp only [exec_deferredTrapTake, execDeferredTrapTake, hf, hn, hend, setGang_gang, if_true, Bool.false_eq_true, if_false]
  refine ⟨((s.setGang k (s.gang k)).setGang k { s.gang k with reports := [] }).setGang k _, ?_, by rw [setGang_gang, if_pos rfl], rfl⟩
  rw [he, State.dropTrap]
  simp only [setGang_gang, if_true, hw]

/-- R192, R196, R231: with a handler, outside handler mode, the trap is taken there. -/
theorem deferredTrapTake_taken (hh : (s.crew (s.gang k).crew).handler = some hd) (hm : (s.gang k).trap.handler = false) :
    ∃ t, exec (.deferredTrapTake k) s = .next t ∧ (t.gang k).reports = [] ∧ (t.gang k).clauses = []
      ∧ (t.gang k).pc = BitVec.ofNat 32 hd ∧ (t.gang k).parked = false ∧ s.SameBytes t
      ∧ (t.gang k).trap = (s.gang k).trap.record { r with drops := (s.gang k).clauses.length }
      ∧ (t.gang k).sreg = (s.gang k).sreg ∧ (t.gang k).vreg = (s.gang k).vreg ∧ (t.gang k).preg = (s.gang k).preg
      ∧ (t.gang k).cc = (s.gang k).cc
      ∧ (r.deferred = true → ∀ h ∈ s.hops, h.begun = true → (∃ p ∈ h.parts, p.gang = k) →
          { h with lost := h.lost ++ [k] } ∈ t.hops) := by
  obtain ⟨u, he, hg, hu⟩ := exec_deferredTrapTake_taken hf hr hc hp hw ha
  rw [endClauses_eq] at hg
  have hh' : (u.crew (u.gang k).crew).handler = some hd := by rw [hg, hu]; exact hh
  have hm' : (u.gang k).trap.handler = false := by rw [hg]; exact hm
  have hb : s.SameBytes u := by rw [hu]; exact sameBytes_refl s
  have hhops : u.hops = s.hops := by rw [hu]
  refine ⟨_, he, ?_⟩
  rw [takeTrap_gang u _ hh' hm', hg]
  exact ⟨rfl, rfl, rfl, rfl, sameBytes_trans hb (sameBytes_takeTrap u k _), rfl, rfl, rfl, rfl, rfl,
    fun ht h h1 => takeTrap_loses (t := { r with drops := (s.gang k).clauses.length }) hh' hm' ht (by rwa [hhops])⟩

end Taken

/-! ### An exited gang's slot (R119, R346, R352) -/

/-- R352: a put to a peer that the crew's launch does not wait for, as the model tests it. -/
theorem lets_of_put {w : Crew} {o : Op} (hq : o.inQ = true) (hd : w.d 497 497 = 0) (hst : o.stage = .sent ∨ o.stage = .ready)
    (hfar : ∃ e ∈ o.els, ∃ p, homeOf e.addr.toNat = some (.peer p))
    (hall : ∀ e ∈ o.els, e.st ≠ .faulted ∧ ((∃ p, homeOf e.addr.toNat = some (.peer p)) ∨ e.st = .done ∨ e.st = .dropped)) :
    w.lets o = true := by
  unfold Crew.lets
  extract_lets far
  have hp {e : El} (h : ∃ p, homeOf e.addr.toNat = some (.peer p)) : far e = true := by
    obtain ⟨p, hp⟩ := h
    simp only [far, hp]
  have h1 : o.faulted = false := by
    rw [Op.faulted, List.any_eq_false]
    exact fun e he => by simpa using (hall e he).1
  have h2 : o.els.any far = true := by
    obtain ⟨e, he, h⟩ := hfar
    exact List.any_eq_true.2 ⟨e, he, hp h⟩
  have h3 : o.els.all (fun e => far e || e.final) = true := by
    refine List.all_eq_true.2 fun e he => ?_
    rcases (hall e he).2 with h | h | h
    · rw [hp h, Bool.true_or]
    · simp [El.final, h]
    · simp [El.final, h]
  simp only [hd, hq, h1, h2, h3]
  simpa using hst

theorem rekey_one (k key j : Nat) : rekey [(k, key)] j = if j = k then key else j := by
  by_cases h : j = k
  · subst h; simp [rekey]
  · simp [rekey, h, Ne.symm h]

/-- A move of one key to another leaves the first to nobody. -/
theorem rekey_one_ne {k key : Nat} (h : key ≠ k) (j : Nat) : rekey [(k, key)] j ≠ k := by
  rw [rekey_one]; split <;> assumption

theorem heldKey_le (c num : Nat) : 16384 ≤ heldKey c num := by unfold heldKey; omega

/-- The key under which what a freed gang has issued goes on. -/
def freedKey (s : State) (k : Nat) : Nat := heldKey (s.gang k).crew (s.gang k).num

/-- What becomes of an operation where the slot of a gang is freed. -/
def freedOp (s : State) (k : Nat) (o : Op) : Op :=
  if o.gang == k && (s.crew (s.gang k).crew).lets o then { o with gang := freedKey s k, dst := .none, flag := none }
  else if o.gang == k then { o with gang := freedKey s k } else o

section Slot
variable {s : State} {k : Nat}

theorem freeGang_ops : (s.freeGang k).ops = s.ops.map (freedOp s k) := by
  unfold State.freeGang; dsimp only; split <;> rfl

theorem freeGang_hops : (s.freeGang k).hops = s.hops.map (HOp.rekeyed [(k, freedKey s k)]) := by
  unfold State.freeGang; dsimp only; split <;> rfl

theorem freeGang_puts : (s.freeGang k).puts = s.puts.filter (fun p => (s.op p.1).isSome)
    ++ (s.ops.filter (fun o => o.gang == k && (s.crew (s.gang k).crew).lets o)).map
      (fun o => (o.id, levelKey (s.crew (s.gang k).crew).asid 3 ((s.crew (s.gang k).crew).d 495 480))) := by
  unfold State.freeGang; dsimp only; split <;> rfl

theorem freeGang_gang : (s.freeGang k).gang k = Gang.empty := by
  unfold State.freeGang; dsimp only; rw [setCrew_gang, setGang_gang, if_pos rfl]

theorem freeGang_crew (b : Nat) : (s.freeGang k).crew b = if b = (s.gang k).crew then
    { s.crew b with slots := (s.crew b).slots.map (fun x => if x = k then freedKey s k else x) } else s.crew b := by
  unfold State.freeGang; dsimp only
  rw [setCrew_crew]
  split
  · next h => subst h; rfl
  · split <;> rfl

theorem sameBytes_freeGang : s.SameBytes (s.freeGang k) := by
  have h : (s.freeGang k).quay.mem = s.quay.mem ∧ (s.freeGang k).hostMem = s.hostMem ∧ (s.freeGang k).peerMem = s.peerMem := by
    unfold State.freeGang; dsimp only; split <;> exact ⟨rfl, rfl, rfl⟩
  exact sameBytes_of_fields h.1 h.2.1 h.2.2 fun c => by rw [freeGang_crew]; split <;> rfl

theorem freedOp_gang_ne (hk : freedKey s k ≠ k) (o : Op) : (freedOp s k o).gang ≠ k := by
  unfold freedOp
  split
  · exact hk
  · split
    · exact hk
    · next h => simpa using h

theorem freedOp_outside {o : Op} (hg : o.gang = k) (hq : o.inQ = false) : freedOp s k o = { o with gang := freedKey s k } := by
  have hl : (s.crew (s.gang k).crew).lets o = false := by simp [Crew.lets, hq]
  rw [freedOp, hl, Bool.and_false, if_neg Bool.false_ne_true, if_pos (beq_iff_eq.2 hg)]

/-- R119, R352: the slot of an exited gang is freed where its store queue holds nothing but puts to peers. -/
theorem gangSlotFree_frees (hk : k < 16384) (hp : (s.gang k).phase = .exited) (ha : (s.crew (s.gang k).crew).alive = true)
    (hl : ∀ o ∈ s.ops, o.gang = k → o.inQ = true → (s.crew (s.gang k).crew).lets o = true) :
    ∃ t key, exec (.gangSlotFree k) s = .next t ∧ t.gang k = Gang.empty ∧ k ∉ (t.crew (s.gang k).crew).slots
      ∧ (∀ o ∈ t.ops, o.gang ≠ k) ∧ (∀ h ∈ t.hops, ∀ p ∈ h.parts, p.gang ≠ k)
      ∧ 16384 ≤ key ∧ (∀ o ∈ s.ops, o.gang = k → o.inQ = false → { o with gang := key } ∈ t.ops) ∧ s.SameBytes t
      ∧ ∀ o ∈ s.ops, o.gang = k → o.inQ = true →
        (o.id, levelKey (s.crew (s.gang k).crew).asid 3 ((s.crew (s.gang k).crew).d 495 480)) ∈ t.puts := by
  have hle : 16384 ≤ freedKey s k := heldKey_le _ _
  have hne : freedKey s k ≠ k := by omega
  have hall : s.ops.all (fun o => o.gang != k || !o.inQ || (s.crew (s.gang k).crew).lets o) = true := by
    refine List.all_eq_true.2 fun o ho => ?_
    have := hl o ho
    by_cases hg : o.gang = k <;> by_cases hq : o.inQ = true <;> simp_all
  have he : exec (.gangSlotFree k) s = .next (s.freeGang k) := by
    rw [exec_gangSlotFree, execGangSlotFree]
    simp only [hp, ha, hall]
    rfl
  refine ⟨_, freedKey s k, he, freeGang_gang, ?_, ?_, ?_, hle, fun o ho hg hq => ?_, sameBytes_freeGang, fun o ho hg hq => ?_⟩
  · rw [freeGang_crew, if_pos rfl, List.mem_map]
    rintro ⟨x, -, hx⟩
    split at hx <;> contradiction
  · rw [freeGang_ops, List.forall_mem_map]
    exact fun o _ => freedOp_gang_ne hne o
  · rw [freeGang_hops, List.forall_mem_map]
    exact fun h _ => List.forall_mem_map.2 fun p _ => rekey_one_ne hne p.gang
  · rw [freeGang_ops, ← freedOp_outside hg hq]
    exact List.mem_map_of_mem ho
  · rw [freeGang_puts]
    have hm : o ∈ s.ops.filter (fun o => o.gang == k && (s.crew (s.gang k).crew).lets o) :=
      List.mem_filter.2 ⟨ho, by simp [hg, hl o ho hg hq]⟩
    exact List.mem_append_right _ (List.mem_map_of_mem hm)

end Slot

end Sys2Proof.Proofs
end

section
open Sys2Proof Sys2Proof.Machine Sys2Proof.Claims Sys2Proof.Laws

namespace Sys2Proof.Proofs

/-! ### What leaves with a crew (R119, R193) -/

/-- Two states with the same crews, fault rings, launches and levels, puts on the way, and busy pages. -/
structure BooksSame (s t : State) : Prop where
  crews : t.crews = s.crews
  rings : t.rings = s.rings
  harb : t.harb = s.harb
  puts : t.puts = s.puts
  busy : t.quay.busy = s.quay.busy

theorem BooksSame.refl (s : State) : BooksSame s s := ⟨rfl, rfl, rfl, rfl, rfl⟩

theorem BooksSame.trans {s t u : State} (h : BooksSame s t) (g : BooksSame t u) : BooksSame s u :=
  ⟨g.crews.trans h.crews, g.rings.trans h.rings, g.harb.trans h.harb, g.puts.trans h.puts, g.busy.trans h.busy⟩

theorem booksSame_foldl {β : Type} {f : State → β → State} (h : ∀ s x, BooksSame s (f s x)) (l : List β) (s : State) :
    BooksSame s (l.foldl f s) :=
  List.foldlRecOn l f (.refl s) fun t ht x _ => ht.trans (h t x)

section
variable (s : State)

theorem setGang_booksSame (k : Nat) (g : Gang) : BooksSame s (s.setGang k g) := ⟨rfl, rfl, rfl, rfl, rfl⟩

theorem acquired_booksSame (k id : Nat) : BooksSame s (s.acquired k id) := ⟨rfl, rfl, rfl, rfl, rfl⟩

theorem settleAcq_booksSame (k : Nat) : BooksSame s (s.settleAcq k) := by
  unfold State.settleAcq
  extract_lets g met s1
  have h1 : BooksSame s s1 := (setGang_booksSame s k _).trans
    (booksSame_foldl (fun t (f : Fence) => acquired_booksSame t k f.id) _ _)
  split
  · exact h1.trans ⟨rfl, rfl, rfl, rfl, rfl⟩
  · exact h1

theorem settleFence_booksSame (k : Nat) : BooksSame s (s.settleFence k) :=
  (settleAcq_booksSame s k).trans (setGang_booksSame (s.settleAcq k) k _)

theorem settleCore_booksSame (core : Nat) : BooksSame s (s.settleCore core) := booksSame_foldl settleFence_booksSame _ s

theorem fetchEnded_booksSame (key : Nat) : BooksSame s (s.fetchEnded key) :=
  booksSame_foldl (fun t k => (setGang_booksSame t k _).trans (settleCore_booksSame _ _)) _ s

theorem setBerth_booksSame (key : Nat) (b : Berth) : BooksSame s (s.setBerth key b) := ⟨rfl, rfl, rfl, rfl, rfl⟩

theorem letGo_booksSame (key : Nat) : BooksSame s (s.letGo key) := by
  unfold State.letGo
  dsimp only
  split
  · exact setBerth_booksSame s key _
  · exact (setBerth_booksSame s key _).trans (fetchEnded_booksSame _ key)

/-- Table 16-2: the claims of a crew that stops are dropped. -/
theorem dropClaims_booksSame (c : Nat) : BooksSame s (s.dropClaims c) := by
  refine booksSame_foldl (fun t k => ?_) _ s
  have h (p : Prop) [Decidable p] : BooksSame t (if p then t.letGo k else t) := by
    split
    · exact letGo_booksSame t k
    · exact .refl t
  split
  · exact h _
  · exact h _
  · exact .refl t

theorem unregister_booksSame (p : Reg → Bool) : BooksSame s (s.unregister p) := ⟨rfl, rfl, rfl, rfl, rfl⟩

theorem settleAcq_gang_ne {k j : Nat} (h : j ≠ k) : (s.settleAcq k).gang j = s.gang j := by
  unfold State.settleAcq
  extract_lets g met s1
  have ha (t : State) (f : Fence) : (t.acquired k f.id).gang j = t.gang j := by
    rw [State.acquired, setGang_gang, if_neg h]; rfl
  have h1 : s1.gang j = s.gang j := List.foldlRecOn met _ (motive := fun t => t.gang j = s.gang j)
    (by rw [setGang_gang, if_neg h]) fun t ht f _ => (ha t f).trans ht
  split
  · exact h1
  · exact h1

/-- A gang without fences stays as it is while fences are settled. -/
theorem settleFence_gang {j : Nat} (h : (s.gang j).fences = []) (k : Nat) : (s.settleFence k).gang j = s.gang j := by
  rw [State.settleFence, setGang_gang]
  split
  · next hj =>
    subst hj
    have hg : { s.gang j with fences := [] } = s.gang j := by rw [← h]
    have ha : (s.settleAcq j).gang j = s.gang j := by simp [State.settleAcq, h, hg]
    rw [ha, h]
    exact hg
  · next hj => exact settleAcq_gang_ne s hj

theorem settleCore_gang {j : Nat} (h : (s.gang j).fences = []) (core : Nat) : (s.settleCore core).gang j = s.gang j :=
  List.foldlRecOn _ State.settleFence (motive := fun t => t.gang j = s.gang j) rfl
    fun t ht k _ => (settleFence_gang t (by rw [ht, h]) k).trans ht

end

/-! #### What still acts of a crew that has stopped -/

/-- R193, R352: what may be left of the operations of a crew that stopped, but for its puts to peers. -/
def StillActs (busy : List Busy) (o : Op) : Prop :=
  o.kind = .kdrop ∨ (∃ l, o.kind = .jcancel l)
  ∨ o.dst = .none ∧ ∀ i e, o.els[i]? = some e → e.st = .dropped
      ∨ ∃ b ∈ busy, b.waiting = false ∧ ∃ x ∈ b.writes, x.op = o.id ∧ x.el = i

theorem orphan_crew {s : State} {key : Nat} {o p : Op} {stop : Bool} (h : s.orphan key o stop = some p) : p.crew = o.crew := by
  unfold State.orphan at h
  extract_lets stays o1 at h
  split at h
  · rw [← Option.some.inj h]
  · split at h
    · rw [← Option.some.inj h]
    · split at h
      · rw [← Option.some.inj h]
      · exact absurd h nofun

/-- R193: of a crew that stops, a request that has left it acts on, and so do writes parked at pages that have a frame. -/
theorem orphan_stillActs {s : State} {key : Nat} {o p : Op} (h : s.orphan key o true = some p) : StillActs s.quay.busy p := by
  unfold State.orphan at h
  extract_lets stays o1 at h
  split at h
  · next hx =>
    rw [← Option.some.inj h]
    unfold OpKind.external at hx
    split at hx
    · next hd => exact .inl hd
    · next l hd => exact .inr (.inl ⟨l, hd⟩)
    · exact absurd hx Bool.false_ne_true
  · simp only [Bool.not_true, Bool.false_and, Bool.false_eq_true, if_false] at h
    split at h
    · rw [← Option.some.inj h]
      refine .inr (.inr ⟨rfl, fun i e he => ?_⟩)
      simp only [List.getElem?_map, List.getElem?_zipIdx, Option.map_map, Option.map_eq_some_iff, Function.comp] at he
      obtain ⟨e', -, rfl⟩ := he
      by_cases hs : stays i = true
      · obtain ⟨b, hb, hw⟩ := List.any_eq_true.1 hs
        simp only [Bool.and_eq_true, Bool.not_eq_true', List.any_eq_true, beq_iff_eq] at hw
        exact .inr ⟨b, hb, hw⟩
      · left
        simp [hs]
    · exact absurd h nofun

/-! #### A crew is gone -/

theorem foldl_setGang_empty (ks : List Nat) (s : State) {k : Nat} (h : k ∈ ks ∨ s.gang k = Gang.empty) :
    (ks.foldl (fun t k => t.setGang k Gang.empty) s).gang k = Gang.empty := by
  induction ks generalizing s with
  | nil => exact h.resolve_left List.not_mem_nil
  | cons j ks ih =>
    refine ih _ ?_
    rw [setGang_gang]
    split
    · exact .inr rfl
    · next hj => exact h.imp_left fun h => (List.mem_cons.1 h).resolve_left hj

/-- What holds of every operation whatever its number at the head holds after fences are settled. -/
theorem forall_mem_of_headless {l l' : List Op} {P : Op → Prop} (hP : ∀ p : Op, P { p with head := 0 } ↔ P p)
    (h : headless l' = headless l) (hl : ∀ p ∈ l, P p) : ∀ p ∈ l', P p := by
  intro p hp
  have hm : { p with head := 0 } ∈ headless l := h ▸ List.mem_map_of_mem hp
  obtain ⟨q, hq, he⟩ := List.mem_map.1 hm
  rw [← hP p, ← he, hP q]
  exact hl q hq

section Discard
variable (s : State) (c : Nat) (stop : Bool)

/-- A crew that is to be discarded, without its claims where it stops, and without its registrations. -/
def unclaimed : State := (if stop then s.dropClaims c else s).unregister (fun r => r.crew == c)

/-- What is left of the operations where a crew is discarded. -/
def leftOps : List Op := (unclaimed s c stop).ops.filterMap (fun o => if o.crew == c && !s.isPut o.id then
  (unclaimed s c stop).orphan (heldKey c ((unclaimed s c stop).gang o.gang).num) o stop else some o)

theorem unclaimed_booksSame : BooksSame s (unclaimed s c stop) := by
  refine .trans ?_ (unregister_booksSame _ _)
  split
  · exact dropClaims_booksSame s c
  · exact .refl s

/-- A crew is discarded: what is left of its operations stays, its slots and its record are emptied, and then tokens and fences are
settled. -/
theorem discardCrew_eq : ∃ (u : State) (core asid die : Nat), s.discardCrew c stop
      = ((((s.crew c).slots.foldl (fun t k => t.setGang k Gang.empty) u).setCrew c { Crew.empty with core := core }).freeDie asid
          die).settleCore (s.crew c).core
    ∧ u.ops = leftOps s c stop ∧ u.rings = (unclaimed s c stop).rings ∧ u.harb = (unclaimed s c stop).harb := by
  unfold State.discardCrew
  extract_lets w s1 gone ids busy quay s2 s3 empty left
  exact ⟨s3, left.core, w.asid, w.core / 64, rfl, rfl, rfl, rfl⟩

/-- What is left of the operations of a crew that stops. -/
theorem leftOps_stillAct : ∀ o ∈ leftOps s c true, o.crew = c → s.isPut o.id = true ∨ StillActs s.quay.busy o := by
  intro o ho hc
  obtain ⟨o', -, h⟩ := List.mem_filterMap.1 ho
  split at h
  · right
    rw [← (unclaimed_booksSame s c true).busy]
    exact orphan_stillActs h
  · next hg =>
    cases h
    simp only [hc, beq_self_eq_true, Bool.true_and, Bool.not_eq_true', Bool.not_eq_false] at hg
    exact .inl hg

theorem discardCrew_spec :
    (∃ core, (s.discardCrew c stop).crew c = { Crew.empty with core := core })
    ∧ (∀ k ∈ (s.crew c).slots, (s.discardCrew c stop).gang k = Gang.empty)
    ∧ (s.discardCrew c stop).rings = s.rings ∧ (s.discardCrew c stop).harb = s.harb
    ∧ headless (s.discardCrew c stop).ops = headless (leftOps s c stop) := by
  obtain ⟨u, core, asid, die, he, hops, hrings, hharb⟩ := discardCrew_eq s c stop
  have hb := unclaimed_booksSame s c stop
  rw [he]
  generalize hv : (s.crew c).slots.foldl (fun t k => t.setGang k Gang.empty) u = v
  have hvb : BooksSame u v := hv ▸ booksSame_foldl (fun t k => setGang_booksSame t k Gang.empty) _ u
  have hvo : v.ops = u.ops := hv ▸ List.foldlRecOn _ _ (motive := fun (t : State) => t.ops = u.ops) rfl fun t ht _ _ => ht
  have hvg : ∀ k ∈ (s.crew c).slots, v.gang k = Gang.empty := fun k hk => hv ▸ foldl_setGang_empty _ u (.inl hk)
  have hd := freeDie_slicesOnly (v.setCrew c { Crew.empty with core := core }) asid die
  generalize (v.setCrew c { Crew.empty with core := core }).freeDie asid die = w at hd
  have hs := settleCore_booksSame w (s.crew c).core
  refine ⟨?_, fun k hk => ?_, ?_, ?_, ?_⟩
  · exact ⟨core, by rw [(settleCore_settlesOnly w _).crew, hd.kept.crew, setCrew_crew, if_pos rfl]⟩
  · have hw : w.gang k = Gang.empty := by rw [hd.gang, setCrew_gang, hvg k hk]
    rw [settleCore_gang w (by rw [hw]; rfl), hw]
  · rw [hs.rings, hd, setCrew_rings, hvb.rings, hrings, hb.rings]
  · rw [hs.harb, hd, setCrew_harb, hvb.harb, hharb, hb.harb]
  · rw [(settleCore_settlesOnly w _).ops, hd, setCrew_ops, hvo, hops]

end Discard

/-! #### A launch counts its crews, and an error is seen above it (R346, Table 20-4) -/

theorem crewEnded_launch {s : State} {key : Nat} {l : Launch} (h : s.launch key = some l) :
    (s.crewEnded key).launch key = some { l with ended := l.ended + 1 } := by
  rw [State.crewEnded, h]
  exact launch_setLaunch s key _

/-- A crew that ends changes its launch only. -/
theorem crewEnded_only (s : State) (key : Nat) : s.crewEnded key = { s with harb := (s.crewEnded key).harb } := by
  unfold State.crewEnded
  split <;> rfl

theorem markError_only (s : State) (asid lvl id : Nat) : s.markError asid lvl id = { s with harb := (s.markError asid lvl id).harb } := by
  unfold State.markError
  split <;> split <;> rfl

theorem errorUp_only (asid n : Nat) : ∀ (lvl id : Nat) (s : State),
    s.errorUp asid n lvl id = { s with harb := (s.errorUp asid n lvl id).harb } := by
  induction n with
  | zero => exact fun _ _ _ => rfl
  | succ n ih =>
    intro lvl id s
    simp only [State.errorUp]
    split
    · rw [ih, markError_only]
    · rw [markError_only]

/-- A level above launch marks no launch. -/
theorem markError_launch (s : State) (asid id key : Nat) {lvl : Nat} (h : lvl ≠ 0) :
    (s.markError asid lvl id).launch key = s.launch key := by
  rw [State.markError, if_neg h]
  split <;> rfl

theorem parent_ne_zero {s : State} {asid lvl id : Nat} {p : Nat × Nat} (h : s.parent asid lvl id = some p) : p.1 ≠ 0 := by
  have named {l : List (Nat × Nat)} (hl : ∀ x ∈ l, x.1 ≠ 0) (h : firstNamed l = some p) : p.1 ≠ 0 := hl p (List.mem_of_find?_eq_some h)
  unfold State.parent at h
  split at h
  · obtain ⟨l, -, h⟩ := Option.bind_eq_some_iff.1 h
    exact named (List.forall_mem_map.2 fun k hk => by simp at hk; omega) h
  · obtain ⟨l, -, h⟩ := Option.bind_eq_some_iff.1 h
    exact named (by simp) h
  · obtain ⟨l, -, h⟩ := Option.bind_eq_some_iff.1 h
    exact named (by simp) h
  · exact absurd h nofun

theorem errorUp_launch (asid key n : Nat) : ∀ (lvl id : Nat) (s : State), lvl ≠ 0 →
    (s.errorUp asid n lvl id).launch key = s.launch key := by
  induction n with
  | zero => exact fun _ _ _ _ => rfl
  | succ n ih =>
    intro lvl id s h
    simp only [State.errorUp]
    split
    · next hp => rw [ih _ _ _ (parent_ne_zero hp), markError_launch s _ _ _ h]
    · exact markError_launch s _ _ _ h

/-- Table 20-4: the error bit of a launch. -/
theorem launchError_launch {s : State} {asid id : Nat} {l : Launch} (h : s.launch (launchKey asid id) = some l) :
    (s.launchError asid id).launch (launchKey asid id) = some { l with error := true } := by
  have hm : (s.markError asid 0 id).launch (launchKey asid id) = some { l with error := true } := by
    rw [State.markError, if_pos rfl, h]
    exact launch_setLaunch s _ _
  rw [State.launchError, State.errorUp]
  split
  · next hp => rw [errorUp_launch _ _ _ _ _ _ (parent_ne_zero hp), hm]
  · exact hm

theorem launchKey_crew (w : Crew) : launchKey w.asid w.launchId = w.launch := Nat.div_add_mod' w.launch 65536

/-! #### CREW_END and CREW_STOP -/

theorem eq_empty_of_exists {w : Crew} (h : ∃ core, w = { Crew.empty with core := core }) : w = { Crew.empty with core := w.core } := by
  obtain ⟨core, rfl⟩ := h
  rfl

section End
variable (s : State) (c : Nat)

@[simp] theorem crewEnded_crew (key b : Nat) : (s.crewEnded key).crew b = s.crew b := by rw [crewEnded_only]; rfl

/-- What a crew leaves of the books of the device where it is discarded and counts as ended. -/
theorem discarded_ends (stop : Bool) {key : Nat} {l : Launch} (h : s.launch key = some l) :
    ((s.discardCrew c stop).crewEnded key).launch key = some { l with ended := l.ended + 1 } := by
  obtain ⟨-, -, -, hh, -⟩ := discardCrew_spec s c stop
  exact crewEnded_launch (by rw [State.launch, hh, ← h, State.launch])

/-- R119: a crew of which nothing is left ends. -/
theorem crewEnd_ends {l : Launch} (ha : (s.crew c).alive = true)
    (hs : ∀ k ∈ (s.crew c).slots, (s.gang k).phase = .absent) (hc : (s.crew c).ring.cmds = [])
    (hr : (s.crew c).ringLen = 0 ∨ (s.crew c).ring.notify ≤ (s.crew c).ring.consumed) (hl : s.launch (s.crew c).launch = some l) :
    ∃ t, exec (.crewEnd c) s = .next t ∧ t.crew c = { Crew.empty with core := (t.crew c).core }
      ∧ t.launch (s.crew c).launch = some { l with ended := l.ended + 1 } := by
  have hall : (s.crew c).slots.all (fun k => (s.gang k).phase == .absent) = true :=
    List.all_eq_true.2 fun k hk => beq_iff_eq.2 (hs k hk)
  have hn : ((s.crew c).ringLen == 0 || decide ((s.crew c).ring.notify ≤ (s.crew c).ring.consumed)) = true := by simpa using hr
  have he : exec (.crewEnd c) s = .next ((s.discardCrew c false).crewEnded (s.crew c).launch) := by
    rw [exec_crewEnd, execCrewEnd]
    exact if_pos (by rw [ha, hall, hc, hn]; rfl)
  refine ⟨_, he, eq_empty_of_exists ?_, discarded_ends s c false hl⟩
  rw [crewEnded_crew]
  exact (discardCrew_spec s c false).1

/-- A stopped crew is discarded, and counts as ended, with the error where there is one. -/
def stopped (i : StopInfo) : State :=
  if i.error then ((s.discardCrew c true).crewEnded (s.crew c).launch).launchError (s.crew c).asid (s.crew c).launchId
  else (s.discardCrew c true).crewEnded (s.crew c).launch

/-- It differs from a discarded one in the harbour master's books only. -/
theorem stopped_only (i : StopInfo) : stopped s c i = { s.discardCrew c true with harb := (stopped s c i).harb } := by
  unfold stopped
  split
  · rw [State.launchError, errorUp_only, crewEnded_only]
  · rw [crewEnded_only]

theorem stopped_launch (i : StopInfo) {l : Launch} (h : s.launch (s.crew c).launch = some l) :
    ∃ m, (stopped s c i).launch (s.crew c).launch = some m ∧ m.ended = l.ended + 1 ∧ (i.error = true → m.error = true) := by
  have hu := discarded_ends s c true h
  unfold stopped
  split
  · rw [← launchKey_crew] at hu
    have he := launchError_launch hu
    rw [launchKey_crew] at he
    exact ⟨_, he, rfl, fun _ => rfl⟩
  · next he => exact ⟨_, hu, rfl, fun h => absurd h he⟩

@[simp] theorem stopped_crews (i : StopInfo) : (stopped s c i).crews = (s.discardCrew c true).crews := by rw [stopped_only]
@[simp] theorem stopped_gangs (i : StopInfo) : (stopped s c i).gangs = (s.discardCrew c true).gangs := by rw [stopped_only]
@[simp] theorem stopped_rings (i : StopInfo) : (stopped s c i).rings = (s.discardCrew c true).rings := by rw [stopped_only]
@[simp] theorem stopped_ops (i : StopInfo) : (stopped s c i).ops = (s.discardCrew c true).ops := by rw [stopped_only]

/-- What is left of a crew that stops, but for its launch. -/
theorem stopped_spec (i : StopInfo) : (∃ core, (stopped s c i).crew c = { Crew.empty with core := core })
    ∧ (∀ k ∈ (s.crew c).slots, (stopped s c i).gang k = Gang.empty) ∧ (stopped s c i).rings = s.rings
    ∧ ∀ o ∈ (stopped s c i).ops, o.crew = c → s.isPut o.id = true ∨ StillActs s.quay.busy o := by
  obtain ⟨hcrew, hgang, hrings, -, hops⟩ := discardCrew_spec s c true
  simp only [State.crew, State.gang, stopped_crews, stopped_gangs, stopped_rings, stopped_ops] at *
  exact ⟨hcrew, hgang, hrings, forall_mem_of_headless (fun p => Iff.rfl) hops (leftOps_stillAct s c)⟩

/-- R201: the stop record waits to be posted. -/
def recorded (i : StopInfo) : State := if i.record then s.post (s.crew c).asid (s.stopRecord c i) else s

theorem recorded_only (i : StopInfo) : recorded s c i = { s with rings := (recorded s c i).rings } := by
  unfold recorded
  split <;> rfl

theorem recorded_pending (i : StopInfo) : ((recorded s c i).ring (s.crew c).asid).pending.length
    = (s.ring (s.crew c).asid).pending.length + (if i.record then 1 else 0) := by
  unfold recorded
  split
  · rw [State.post, ring_setRing, List.length_append]; rfl
  · rfl

theorem crewRests_of_done (ok : Op → Bool) (ho : ∀ o ∈ s.ops, o.crew = c → s.opRests o = true)
    (hh : ∀ h ∈ s.hops, h.crew ≠ c) (hc : (s.crew c).ring.cmds = []) : s.crewRests c ok = true := by
  simp only [State.crewRests, hc, List.all_nil, Bool.and_true, Bool.and_eq_true, List.all_eq_true, Bool.or_eq_true, bne_iff_ne]
  exact ⟨fun o h => or_iff_not_imp_left.2 fun hn => ho o h (by tauto), fun h hm => .inl (hh h hm)⟩

/-- R193, R195, R201: a crew that has begun to stop, and of which everything has come to rest, stops. -/
theorem crewStop_stops {i : StopInfo} (hi : (s.crew c).stop = some i) (hp : (s.crew c).phase = .stopping)
    (ho : ∀ o ∈ s.ops, o.crew = c → s.opRests o = true) (hh : ∀ h ∈ s.hops, h.crew ≠ c) (hc : (s.crew c).ring.cmds = []) :
    ∃ t, exec (.crewStop c) s = .next t ∧ t.crew c = { Crew.empty with core := (t.crew c).core }
      ∧ (∀ k ∈ (s.crew c).slots, t.gang k = Gang.empty)
      ∧ (t.ring (s.crew c).asid).pending.length = (s.ring (s.crew c).asid).pending.length + (if i.record then 1 else 0)
      ∧ (∀ o ∈ t.ops, o.crew = c → s.isPut o.id = true ∨ StillActs s.quay.busy o)
      ∧ ∀ l, s.launch (s.crew c).launch = some l → ∃ m, t.launch (s.crew c).launch = some m ∧ m.ended = l.ended + 1
          ∧ (i.error = true → m.error = true) := by
  have hr := crewRests_of_done s c (fun o => s.claims o || (o.faulted && s.tried o && s.noneMoves o)) ho hh hc
  have hrec := recorded_only s c i
  have hpend := recorded_pending s c i
  have hcrew : (recorded s c i).crew c = s.crew c := by rw [hrec]; rfl
  have he : exec (.crewStop c) s = .next (stopped (recorded s c i) c i) := by
    simp only [exec_crewStop, execCrewStop, hi, hp, hr, stopped, hcrew]
    rfl
  refine ⟨_, he, ?_⟩
  have hl {l : Launch} := stopped_launch (recorded s c i) c i (l := l)
  obtain ⟨h1, h2, h3, h4⟩ := stopped_spec (recorded s c i) c i
  rw [hcrew] at hl h2
  generalize stopped (recorded s c i) c i = t at *
  have hput (id : Nat) : (recorded s c i).isPut id = s.isPut id := by rw [hrec]; rfl
  have hbusy : (recorded s c i).quay.busy = s.quay.busy := by rw [hrec]
  have hlaunch (key : Nat) : (recorded s c i).launch key = s.launch key := by rw [hrec]; rfl
  rw [State.ring, ← h3, ← State.ring] at hpend
  simp only [hput, hbusy] at h4
  exact ⟨eq_empty_of_exists h1, h2, hpend, h4, fun l h => hl ((hlaunch _).trans h)⟩

end End

end Sys2Proof.Proofs
end

section
open Sys2Proof Sys2Proof.Machine Sys2Proof.Claims Sys2Proof.Laws

namespace Sys2Proof.Proofs

/-- Settles O41: the report whose instruction issued first is the one that is taken, and the trap is recorded by Table 9-2; a crew that
has come to rest is discarded, of which only what the statement lists is left; the slot of an exited gang is freed by a move to a key of no
slot; and a crew of which nothing is left is discarded. -/
theorem trapsAndEnds : Obligations.TrapsAndEnds := by
  unfold Obligations.TrapsAndEnds
  refine ⟨?_, ?_, ?_, fun c l s => crewEnd_ends s c⟩
  · intro k hd r0 rp rs s g r same hr hp hfirst hc hrun hw ha hh hm
    have hf : firstReport (s.gang k).reports = some (r0.1, rp.2) := by
      rw [show (s.gang k).reports = r0 :: rs from hr]
      exact firstReport_of_first hp hfirst
    obtain ⟨t, he, h1, h2, h3, h4, h5, htrap, hrest⟩ := deferredTrapTake_taken hf hr hc hrun hw ha hh hm
    exact ⟨t, he, h1, h2, h3, h4, h5, htrap.trans (record_eq _ _), hrest⟩
  · exact fun c i s => crewStop_stops s c
  · intro k s g w far put hk hp ha hput
    refine gangSlotFree_frees hk hp ha fun o ho hg hq => ?_
    obtain ⟨hd, hst, hfar, hall⟩ := hput o ho hg hq
    exact lets_of_put hq hd hst hfar hall

end Sys2Proof.Proofs
end

section
open Sys2Proof Sys2Proof.Machine Sys2Proof.Claims Sys2Proof.Laws

namespace Sys2Proof.Proofs

/-! ### Lane results without flags (R120, R122) -/

theorem elemUse_bin (f : LaneWord) (t : Ty) :
    elemUse f t true false = ⟨f.va.val :: bRegs f, [f.vd.val], bScalar f, [], tagged f.va.val 1 t ++ bTag f t⟩ := by
  simp [elemUse]

section Values

variable {i : Instr} {f : LaneWord} {s : State} {u : LaneUse} {ty : Ty} {h : Gang → Gang}

/-- A lane instruction that writes whole words and raises no flag. -/
theorem laneResult_of_words {x : Nat → Word} {P : Nat → Word → Prop} (he : exec i s = laneDo s f u h) (hr : LaneRuns s u)
    (hh : h s.me = s.me.result f.vd.val (s.me.act f) ty (fun l => (x l, 0)))
    (hP : ∀ l < 32, (s.me.act f).getLsbD l = true → P l (x l)) : LaneResult i f s ty P 0 := by
  have hres := laneResult_of_laneDo he hr hh hP
  rwa [flagsOf_eq_laneFlags, laneFlags_zero] at hres

/-- A lane instruction that acts element by element, whose element function raises no flag and keeps to the width. -/
theorem laneResult_of_elements {t : Ty} {fn : Nat → Nat → Nat → Nat × Flags} {a b c : Nat → Word} {r : Nat → Nat → Nat}
    (he : exec i s = laneDo s f u h) (hr : LaneRuns s u)
    (hh : h s.me = s.me.result f.vd.val (s.me.act f) ty (fun l => perElem t.elems t.width fn (a l) (b l) (c l)))
    (hfn : ∀ l j, fn (elt t.width (a l) j) (elt t.width (b l) j) (elt t.width (c l) j) = (r l j, 0) ∧ r l j < 2 ^ t.width) :
    LaneResult i f s ty (fun l v => ∀ j < t.elems, elt t.width v j = r l j) 0 := by
  have hfl (l : Nat) : (perElem t.elems t.width fn (a l) (b l) (c l)).2 = 0 := by
    rw [perElem_flags (q := fun _ => false) (hq := fun j => congrArg Prod.snd (hfn l j).1)]; simp
  have hres := laneResult_of_laneDo (P := fun l v => ∀ j < t.elems, elt t.width v j = r l j) he hr hh fun l _ _ j hj => by
    rw [elt_perElem t hj, (hfn l j).1, Nat.mod_eq_of_lt (hfn l j).2]
  simp only [flagsOf_eq_laneFlags, hfl, laneFlags_zero] at hres
  exact hres

end Values

/-! ### Values of elements (Table 6-1) -/

theorem intBits_lt (w : Nat) (v : Int) : intBits w v < 2 ^ w := by
  have hp : (0 : Int) < 2 ^ w := by positivity
  have := Int.emod_nonneg v hp.ne'
  have := Int.emod_lt_of_pos v hp
  unfold intBits; zify; omega

theorem intVal_true_eq_toInt {w a : Nat} (ha : a < 2 ^ w) : intVal true w a = (BitVec.ofNat w a).toInt := by
  rw [intVal, BitVec.toInt_eq_msb_cond, BitVec.msb_eq_decide, BitVec.toNat_ofNat, Nat.mod_eq_of_lt ha, Bool.true_and]
  norm_cast

theorem intVal_toNat (a : Word) : intVal true 32 a.toNat = a.toInt := by
  rw [intVal_true_eq_toInt a.isLt, BitVec.ofNat_toNat, BitVec.setWidth_eq]

theorem elemVal_inj {t : Ty} {a b : Nat} (ha : a < 2 ^ t.width) (hb : b < 2 ^ t.width) (h : elemVal t a = elemVal t b) : a = b := by
  unfold elemVal at h
  cases hs : t.isSigned with
  | false => simpa [hs] using h
  | true =>
    simp only [hs, if_true] at h
    have hn := congrArg BitVec.toNat (BitVec.eq_of_toInt_eq h)
    rwa [BitVec.toNat_ofNat, BitVec.toNat_ofNat, Nat.mod_eq_of_lt ha, Nat.mod_eq_of_lt hb] at hn

theorem ite_lt {c : Prop} [Decidable c] {a b n : Nat} (ha : a < n) (hb : b < n) : (if c then a else b) < n := by
  split
  · exact ha
  · exact hb

/-- Of two values that differ only where their order does, either test of the order takes the larger. -/
theorem ite_lt_eq_ite_le {a b : Nat} {x y : Int} (h : x = y → a = b) : (if x < y then b else a) = if x ≤ y then b else a := by
  rcases lt_trichotomy x y with hlt | heq | hgt
  · rw [if_pos hlt, if_pos hlt.le]
  · rw [h heq, ite_self, ite_self]
  · rw [if_neg hgt.not_gt, if_neg hgt.not_ge]

theorem lzc_lt (w a : Nat) : lzc w a < 2 ^ w := by
  refine lt_of_le_of_lt ?_ Nat.lt_two_pow_self
  unfold lzc; split <;> omega

theorem ones_lt (w a : Nat) : ones w a < 2 ^ w := by
  rw [ones_eq_length]
  exact ((List.length_filter_le _ _).trans (List.length_range ..).le).trans_lt Nat.lt_two_pow_self

theorem eltRev_lt (w : Nat) : ∀ a, eltRev w a < 2 ^ w := by
  induction w with
  | zero => intro a; exact Nat.one_pos
  | succ w ih =>
    intro a
    have hb : a % 2 * 2 ^ w ≤ 1 * 2 ^ w := Nat.mul_le_mul_right _ (by omega)
    have := ih (a / 2)
    rw [eltRev, Nat.pow_succ]; omega

/-- The reversed bits, read from the lowest one on. -/
theorem foldl_bits_eq_eltRev (w : Nat) : ∀ a x,
    (List.range w).foldl (fun x i => 2 * x + a / 2 ^ i % 2) x = x * 2 ^ w + eltRev w a := by
  induction w with
  | zero => intro a x; simp [eltRev]
  | succ w ih =>
    intro a x
    have hs (i : Nat) : a / 2 ^ (i + 1) % 2 = a / 2 / 2 ^ i % 2 := by rw [Nat.pow_succ', Nat.div_div_eq_div_mul]
    rw [List.range_succ_eq_map, List.foldl_cons, List.foldl_map]
    simp only [Nat.succ_eq_add_one, hs, ih, Nat.pow_zero, Nat.div_one, eltRev]
    ring

/-- R126: an arithmetic shift by the width or more leaves copies of the sign. -/
theorem eltSra_eq {w a : Nat} (b : Nat) (hw : 0 < w) (ha : a < 2 ^ w) : eltSra w a b =
    if b < w then ((BitVec.ofNat w a).toInt / 2 ^ b % 2 ^ w).toNat else if a.testBit (w - 1) then 2 ^ w - 1 else 0 := by
  rw [eltSra, intVal_true_eq_toInt ha]
  by_cases hb : b < w
  · rw [if_pos hb, min_eq_left hb.le]; rfl
  · have hsign : a.testBit (w - 1) = (BitVec.ofNat w a).msb := by
      rw [BitVec.msb_eq_getLsbD_last, BitVec.getLsbD_ofNat, decide_eq_true (by omega), Bool.true_and]
    have hp : (0 : Int) < 2 ^ w := by positivity
    have ha' : (a : Int) < 2 ^ w := by exact_mod_cast ha
    rw [if_neg hb, min_eq_right (by omega), hsign, BitVec.toInt_eq_msb_cond, BitVec.toNat_ofNat, Nat.mod_eq_of_lt ha]
    cases (BitVec.ofNat w a).msb with
    | false => rw [if_neg (by decide), Int.ediv_eq_zero_of_lt (by omega) ha']; simp [intBits]
    | true =>
      have hq : ((a : Int) - 2 ^ w) / 2 ^ w = -1 := by
        rw [Int.sub_ediv_of_dvd _ dvd_rfl, Int.ediv_self hp.ne', Int.ediv_eq_zero_of_lt (by omega) ha']; rfl
      have hm : (-1 : Int) % 2 ^ w = 2 ^ w - 1 := by rw [← Int.add_emod_right, Int.emod_eq_of_lt (by omega) (by omega)]; omega
      rw [if_pos rfl, Nat.cast_pow, Nat.cast_ofNat, hq, intBits, hm, if_pos rfl]
      zify [Nat.one_le_two_pow (n := w)]
      rw [Int.toNat_of_nonneg (by omega)]

theorem width_pos (t : Ty) : 0 < t.width := by cases t <;> decide

/-! ### The element rows (O20) -/

/-- A row of plain elements as its instruction performs it, and the value of its element. -/
theorem exec_eltRow_perElem {p : (LaneWord → Instr) × Bool × (Ty → Nat → Nat → Nat)} (hp : p ∈ eltRows) {f : LaneWord} {t : Ty}
    (ht : laneTy f = t) (s : State) : ∃ fn,
    exec (p.1 f) s = laneDo s f (elemUse f t p.2.1 false) (fun g => g.result f.vd.val (g.act f) t
      (fun l => perElem t.elems t.width fn (g.rv f.va.val l) (if p.2.1 then g.b f l else 0) 0))
    ∧ ∀ a b, a < 2 ^ t.width → b < 2 ^ t.width →
      fn a (if p.2.1 then b else 0) 0 = (p.2.2 t a b, 0) ∧ p.2.2 t a b < 2 ^ t.width := by
  subst ht
  simp only [eltRows, List.mem_cons, List.not_mem_nil, or_false] at hp
  obtain rfl | rfl | rfl | rfl | rfl | rfl := hp
  · refine ⟨_, rfl, fun a b ha hb => ?_⟩
    simp only [if_true, intVal_eq_elemVal _ ha, intVal_eq_elemVal _ hb]
    rw [← ite_not]
    simp only [not_lt, true_and]
    exact ite_lt ha hb
  · refine ⟨_, rfl, fun a b ha hb => ?_⟩
    simp only [if_true, intVal_eq_elemVal _ ha, intVal_eq_elemVal _ hb]
    rw [ite_lt_eq_ite_le (elemVal_inj ha hb)]
    exact ⟨rfl, ite_lt hb ha⟩
  · refine ⟨_, rfl, fun a b ha hb => ?_⟩
    simp only [if_true, intVal_eq_elemVal _ ha, intVal_eq_elemVal _ hb]
    exact ⟨rfl, intBits_lt _ _⟩
  · exact ⟨_, by rw [elemUse_un]; rfl, fun a b _ _ => ⟨rfl, lzc_lt _ a⟩⟩
  · refine ⟨_, by rw [elemUse_un]; rfl, fun a b _ _ => ?_⟩
    dsimp only
    rw [← ones_eq_length]
    exact ⟨rfl, ones_lt _ a⟩
  · refine ⟨_, by rw [elemUse_un]; rfl, fun a b _ _ => ?_⟩
    dsimp only
    rw [foldl_bits_eq_eltRev, Nat.zero_mul, Nat.zero_add]
    exact ⟨rfl, eltRev_lt _ a⟩

theorem exec_shiftEltRow_perElem {p : (LaneWord → Instr) × (Ty → Nat → Nat → Nat)} (hp : p ∈ shiftEltRows) {f : LaneWord} {t : Ty}
    (ht : laneTy f = t) (s : State) : ∃ fn,
    exec (p.1 f) s = laneDo s f (elemUse f t true false) (fun g => g.result f.vd.val (g.act f)
      (if t = .raw32 then g.tag f.va.val else t)
      (fun l => perElem t.elems t.width fn (g.rv f.va.val l) (g.b f l) 0))
    ∧ ∀ a b, a < 2 ^ t.width → fn a b 0 = (p.2 t a b, 0) ∧ p.2 t a b < 2 ^ t.width := by
  subst ht
  rw [elemUse_bin]
  simp only [shiftEltRows, List.mem_cons, List.not_mem_nil, or_false] at hp
  obtain rfl | rfl | rfl := hp
  · exact ⟨_, rfl, fun a b _ => ⟨rfl, ite_lt (Nat.mod_lt _ (Nat.two_pow_pos _)) (Nat.two_pow_pos _)⟩⟩
  · exact ⟨_, rfl, fun a b ha => ⟨rfl, ite_lt ((Nat.div_le_self _ _).trans_lt ha) (Nat.two_pow_pos _)⟩⟩
  · refine ⟨_, rfl, fun a b ha => ?_⟩
    dsimp only
    rw [← eltSra_eq b (width_pos _) ha]
    exact ⟨rfl, intBits_lt _ _⟩

/-- Settles O20: each row acts element by element with the value of the table (`exec_eltRow_perElem`, `exec_shiftEltRow_perElem`), and
raises no flag. -/
theorem laneIntegerElements : Obligations.LaneIntegerElements := by
  refine ⟨fun p hp f t s _ ht hr => ?_, fun p hp f t s _ ht hr => ?_⟩
  · obtain ⟨fn, he, hfn⟩ := exec_eltRow_perElem hp (laneTy_of_ofCode ht) s
    refine laneResult_of_elements he hr rfl fun l j => ?_
    have hb : elt t.width (if p.2.1 then s.me.b f l else 0) j = if p.2.1 then elt t.width (s.me.b f l) j else 0 := by
      split
      · rfl
      · simp [elt]
    rw [hb, show elt t.width 0 j = 0 by simp [elt]]
    exact hfn _ _ (elt_lt ..) (elt_lt ..)
  · obtain ⟨fn, he, hfn⟩ := exec_shiftEltRow_perElem hp (laneTy_of_ofCode ht) s
    refine laneResult_of_elements he hr rfl fun l j => ?_
    rw [show elt t.width 0 j = 0 by simp [elt]]
    exact hfn _ _ (elt_lt ..)

end Sys2Proof.Proofs
end

section
open Sys2Proof Sys2Proof.Machine Sys2Proof.Claims Sys2Proof.Laws

namespace Sys2Proof.Proofs

/-! ### Whole words (R126, R128, R132, R141, R149, R150) -/

section WholeWords

variable {f : LaneWord} {s : State}

/-- The bitwise rows check no tag, and the result takes the tag of the register that gives b, or of va. -/
theorem bitRow_result {p : (LaneWord → Instr) × (Word → Word → Word)} (hp : p ∈ bitRows)
    (hr : LaneRuns s ⟨f.va.val :: bRegs f, [f.vd.val], bScalar f, [], []⟩) :
    LaneResult (p.1 f) f s (s.me.tag (if f.bsrc.val = 0 then f.vb.val else f.va.val))
      (fun l v => v = p.2 (s.me.rv f.va.val l) (s.me.b f l)) 0 := by
  have he : exec (p.1 f) s = laneBit p.2 f s := by
    simp only [bitRows, List.mem_cons, List.not_mem_nil, or_false] at hp
    obtain rfl | rfl | rfl | rfl := hp <;> rfl
  exact laneResult_of_words he hr rfl fun _ _ _ => rfl

/-- R149: the hash, as the statement spells it. -/
theorem rng_eq (seed ctr : Word) (l : Nat) : rng seed ctr l =
    (let x := (seed ^^^ ctr ^^^ BitVec.ofNat 32 (l * 0x9E3779B1)) * 0x85EBCA77#32
     let y := (x ^^^ x >>> 15) * 0xC2B2AE3D#32
     y ^^^ y >>> 13) := by
  rw [BitVec.ofNat_mul]; rfl

/-- R150: the lane number in the gang, the crew or the launch. -/
theorem vlane_result (hr : LaneRuns s ⟨[], [f.vd.val], [], [], []⟩) :
    LaneResult (.vlane f) f s .n32 (fun l v => v = BitVec.ofNat 32 (l + 32 *
      (if f.opx.val = 0 then 0 else if f.opx.val = 1 then s.me.num
       else s.myCrew.num * s.myCrew.ngangs + s.me.num))) 0 := by
  have he := exec_vlane s f
  rw [execVlane] at he
  refine laneResult_of_words he hr rfl fun l _ _ => ?_
  split
  · next h => rw [if_pos h, Nat.mul_zero, Nat.add_zero]
  · next h => rw [if_neg (by rw [h]; decide), if_pos h, Nat.mul_comm, Nat.add_comm]
  · next h0 h1 => rw [if_neg h0, if_neg h1, Nat.mul_comm, Nat.add_comm]

theorem vnop_runs (hr : LaneRuns s ⟨[], [], [], [], []⟩) :
    ∃ t, exec (.vnop f) s = .next t ∧ t.me = s.me.laneNext ∧ LaneOwn s t := by
  obtain ⟨hheld, hb, hlim, htags⟩ := hr
  exact ⟨_, (exec_vnop s f).trans (laneDo_runs s hb hheld hlim htags), setMe_me .., laneOwn_setMe _ s _⟩

end WholeWords

/-- Settles O21: each instruction writes the words that its function names (`laneResult_of_words`); only the sign of the step of `vli`
(`setWidth_sx`), the hash (`rng_eq`) and the lane number (`vlane_result`) are spelt in another way. -/
theorem laneWholeWords : Obligations.LaneWholeWords := by
  intro f s
  refine ⟨fun p hp _ hr => bitRow_result hp hr, fun t _ ht hr => ?_, fun t _ ht hr => ?_, fun t _ ht hr => ?_, fun t _ ht hr => ?_,
    fun _ hr => ?_, fun _ hr => ?_, fun _ hr => vlane_result hr, fun _ hr => vnop_runs hr⟩
  · have he := exec_vmov s f
    rw [execVmov, laneTy_of_ofCode ht] at he
    exact laneResult_of_words he hr rfl fun _ _ _ => rfl
  · have he := exec_vli s f
    rw [execVli, laneTy_of_ofCode ht] at he
    exact laneResult_of_words he hr rfl fun l _ _ => by rw [setWidth_sx (by decide) (by decide) f.vc.isLt]
  · have he := exec_vsel s f
    rw [execVsel, laneTy_of_ofCode ht, ← elemUse_bin] at he
    exact laneResult_of_words he hr rfl fun _ _ _ => rfl
  · have he := exec_vtag s f
    rw [execVtag, laneTy_of_ofCode ht] at he
    exact laneResult_of_words he hr rfl fun _ _ _ => rfl
  · exact laneResult_of_words (exec_vtagq s f) hr rfl fun _ _ _ => rfl
  · have he := exec_vrng s f
    rw [execVrng, ← elemUse_bin] at he
    exact laneResult_of_words he hr rfl fun l _ _ => rng_eq _ _ l

end Sys2Proof.Proofs
end

section
open Sys2Proof Sys2Proof.Machine Sys2Proof.Claims Sys2Proof.Laws

namespace Sys2Proof.Proofs

/-! ### What a lane instruction names, and its type (R36, R81, R87) -/

/-- A lane instruction that names no more than another runs where that one does. -/
theorem laneRuns_of_subset {s : State} {u v : LaneUse} (hr : LaneRuns s u) (hrd : v.rd ⊆ u.rd) (hwr : v.wr ⊆ u.wr)
    (hsrd : v.srd ⊆ u.srd) (hswr : v.swr ⊆ u.swr) (htags : v.tags ⊆ u.tags) : LaneRuns s v := by
  obtain ⟨hheld, hb, hlim, ht⟩ := hr
  have hv : v.rd ++ v.wr ⊆ u.rd ++ u.wr := fun r h => List.mem_append.2 ((List.mem_append.1 h).imp (@hrd r) (@hwr r))
  have hany {a b : List Nat} (q : Nat → Bool) (h : a ⊆ b) (hq : b.any q = false) : a.any q = false :=
    List.any_eq_false.2 fun r hr => List.any_eq_false.1 hq r (h hr)
  simp only [Gang.lBlocked, meets, Bool.or_eq_false_iff] at hb
  obtain ⟨⟨hpend, hs⟩, hw⟩ := hb
  refine ⟨hheld, ?_, fun r hr => hlim r (hv hr), fun p hp => ht p (htags hp)⟩
  simp only [Gang.lBlocked, meets, Bool.or_eq_false_iff]
  exact ⟨⟨hany _ hv hpend, hany _ hsrd hs⟩, hany _ hswr hw⟩

/-- The types that a row admits. -/
theorem laneRow_typ_mem {r : LaneRow} {f : LaneWord} (h : r.ok f = true) : f.typ.val ∈ r.typs := by
  simp only [LaneRow.ok, Bool.and_eq_true, List.contains_iff_mem] at h
  tauto

/-- The codes of opx that a row admits. -/
theorem laneRow_opx_mem {r : LaneRow} {f : LaneWord} (h : r.ok f = true) : f.opx.val ∈ r.opx := by
  simp only [LaneRow.ok, Bool.and_eq_true, List.contains_iff_mem] at h
  tauto

theorem ofCode_typ_mem {f : LaneWord} {t : Ty} {l : List Nat} (ht : Ty.ofCode f.typ.val = some t) (h : f.typ.val ∈ l) :
    some t ∈ l.map Ty.ofCode := List.mem_map.2 ⟨_, h, ht⟩

/-- The types of one element. -/
theorem one_element {t : Ty} (h : t = .raw32 ∨ t = .s32 ∨ t = .n32 ∨ t = .f32) : t.elems = 1 ∧ t.width = 32 := by
  obtain rfl | rfl | rfl | rfl := h <;> decide

/-- An element function on a word of one element. -/
theorem perElem_one (fn : Nat → Nat → Nat → Nat × Flags) (a b c : Word) :
    perElem 1 32 fn a b c = (BitVec.ofNat 32 (fn a.toNat b.toNat c.toNat).1, (fn a.toNat b.toNat c.toNat).2) := by
  have he (x : Word) : elt 32 x 0 = x.toNat := by
    rw [elt, Nat.mul_zero, Nat.pow_zero, Nat.div_one, Nat.mod_eq_of_lt x.isLt]
  have hor (x : Flags) : x ||| 0 = x := BitVec.or_zero
  simp only [perElem, packF, List.range_one, List.map_cons, List.map_nil, List.foldr_cons, List.foldr_nil, pack, he, hor,
    Nat.mul_zero, Nat.add_zero]
  congr 1
  exact BitVec.eq_of_toNat_eq (by simp)

/-! ### Bit fields (R129) -/

/-- The arithmetic of an extracted field, on words: shifted right, cut to its length and extended again. -/
theorem bfx_signed (a : Word) {pos len : Nat} :
    BitVec.ofNat 32 (intBits 32 (intVal true len (intBits len (intVal true 32 a.toNat / 2 ^ pos))))
      = ((a.sshiftRight pos).signExtend len).signExtend 32 := by
  have hshift : intVal true 32 a.toNat / 2 ^ pos = (a.sshiftRight pos).toInt := by
    rw [intVal_toNat, BitVec.toInt_sshiftRight, Int.shiftRight_eq_div_pow]
    norm_cast
  have hbits (w : Nat) (v : Int) : intBits w v = (BitVec.ofInt w v).toNat := by rw [intBits, BitVec.toNat_ofInt]; norm_cast
  have hval : intVal true len (intBits len (a.sshiftRight pos).toInt) = ((a.sshiftRight pos).signExtend len).toInt := by
    rw [intVal_true_eq_toInt (intBits_lt _ _), hbits, BitVec.ofNat_toNat, BitVec.setWidth_eq]; rfl
  rw [hshift, hval, hbits, BitVec.ofNat_toNat, BitVec.setWidth_eq]; rfl

/-- R129: the bits of an extracted field, with zeros or copies of the sign above a and above the field. -/
theorem bfx_getLsbD (sg : Bool) (a : Word) (b : Nat) {i : Nat} (hi : i < 32) :
    let pos := b % 32
    let len := min (b / 256 % 64) 32
    let bit (j : Nat) : Bool := if j < 32 then a.getLsbD j else sg && a.getLsbD 31
    (BitVec.ofNat 32 (bfx sg a.toNat b)).getLsbD i
      = if len = 0 then false else if i < len then bit (pos + i) else sg && bit (pos + len - 1) := by
  intro pos len bit
  have hlen : len ≤ 32 := min_le_right _ _
  have hbfx : bfx sg a.toNat b = if len = 0 then 0
      else intBits 32 (intVal sg len (intBits len (intVal sg 32 a.toNat / 2 ^ pos))) := rfl
  rw [hbfx]
  by_cases h0 : len = 0
  · rw [if_pos h0, if_pos h0]; exact BitVec.getLsbD_zero
  rw [if_neg h0, if_neg h0]
  cases sg with
  | true =>
    have hbit (j : Nat) : (a.sshiftRight pos).getLsbD j = if j < 32 then bit (pos + j) else false := by
      rw [BitVec.getLsbD_sshiftRight, BitVec.msb_eq_getLsbD_last]
      by_cases hj : j < 32 <;> simp [bit, hj, Nat.not_le.2]
    have hext (j : Nat) (hj : j < len) : ((a.sshiftRight pos).signExtend len).getLsbD j = bit (pos + j) := by
      rw [BitVec.getLsbD_signExtend, hbit, decide_eq_true hj, Bool.true_and, if_pos (by omega), if_pos (by omega)]
    rw [bfx_signed, BitVec.getLsbD_signExtend, decide_eq_true hi, Bool.true_and]
    by_cases hil : i < len
    · rw [if_pos hil, if_pos hil, hext i hil]
    · rw [if_neg hil, if_neg hil, BitVec.msb_eq_getLsbD_last, hext _ (by omega), Nat.add_sub_assoc (by omega)]; rfl
  | false =>
    have hval : intBits 32 (intVal false len (intBits len (intVal false 32 a.toNat / 2 ^ pos)))
        = a.toNat / 2 ^ pos % 2 ^ len % 2 ^ 32 := by
      simp only [intVal, Bool.false_and, Bool.false_eq_true, if_false, intBits]
      norm_cast
    have hbit (j : Nat) : bit j = a.toNat.testBit j := by
      by_cases hj : j < 32
      · exact if_pos hj
      · exact (if_neg hj).trans (BitVec.getLsbD_of_ge a j (by omega)).symm
    rw [hval, BitVec.getLsbD_ofNat, Nat.testBit_mod_two_pow, Nat.testBit_mod_two_pow, Nat.testBit_div_two_pow]
    by_cases hil : i < len
    · simp [hi, hil, hbit, Nat.add_comm]
    · simp [hil]

/-- R129: an inserted field replaces the bits at its place; positions above bit 31 are dropped. -/
theorem bfi_getLsbD (a c : Word) (b : Nat) {i : Nat} (hi : i < 32) :
    let pos := b % 32
    let len := min (b / 256 % 64) 32
    (BitVec.ofNat 32 (bfi a.toNat b c.toNat)).getLsbD i
      = if pos ≤ i ∧ i < pos + len then a.getLsbD (i - pos) else c.getLsbD i := by
  intro pos len
  let m := (2 ^ len - 1) * 2 ^ pos % 2 ^ 32
  have hm : m < 2 ^ 32 := Nat.mod_lt _ (by decide)
  have hmask : m.testBit i = decide (pos ≤ i ∧ i < pos + len) := by
    rw [Nat.testBit_mod_two_pow, Nat.testBit_mul_two_pow, Nat.testBit_two_pow_sub_one]
    simp only [hi, decide_true, Bool.true_and, Bool.decide_and]
    by_cases hp : pos ≤ i <;> simp [hp]
    omega
  have hkeep : (2 ^ 32 - 1 - m).testBit i = !m.testBit i := by
    rw [Nat.sub_sub, Nat.add_comm, Nat.testBit_two_pow_sub_succ hm]; simp [hi]
  have hbfi : bfi a.toNat b c.toNat = (c.toNat &&& (2 ^ 32 - 1 - m)) ||| (a.toNat * 2 ^ pos % 2 ^ 32 &&& m) := rfl
  rw [hbfi, BitVec.getLsbD_ofNat, Nat.testBit_or, Nat.testBit_and, Nat.testBit_and, hkeep, hmask, Nat.testBit_mod_two_pow,
    Nat.testBit_mul_two_pow]
  by_cases h : pos ≤ i ∧ i < pos + len
  · simp [h, hi, BitVec.getLsbD]
  · simp [h, hi, BitVec.getLsbD]

/-- R129, Table 6-1: `vbfx` acts on one element, of type s32 or n32. -/
theorem vbfx_result {f : LaneWord} {t : Ty} {s : State} (hw : (Instr.vbfx f).wf = true) (ht : Ty.ofCode f.typ.val = some t)
    (hr : LaneRuns s (elemUse f t true false)) :
    let pos (l : Nat) : Nat := (s.me.b f l).toNat % 32
    let len (l : Nat) : Nat := min ((s.me.b f l).toNat / 256 % 64) 32
    LaneResult (.vbfx f) f s t (fun l v => ∀ i < 32, v.getLsbD i =
      (let a := s.me.rv f.va.val l
       let bit (j : Nat) : Bool := if j < 32 then a.getLsbD j else t == .s32 && a.getLsbD 31
       if len l = 0 then false
       else if i < len l then bit (pos l + i)
       else t == .s32 && bit (pos l + len l - 1))) 0 := by
  intro pos len
  have hrow := (Bool.and_eq_true_iff.1 ((wf_lane (i := .vbfx f) rfl).1 hw).1).1
  have hty : t = .s32 ∨ t = .n32 := by simpa [rowB, Ty.ofCode] using ofCode_typ_mem ht (laneRow_typ_mem hrow)
  have hsg : t.isSigned = (t == .s32) := by obtain rfl | rfl := hty <;> rfl
  obtain ⟨he1, hw32⟩ := one_element (t := t) (by tauto)
  have he := exec_vbfx s f
  rw [execVbfx, laneElem, laneTy_of_ofCode ht] at he
  simp only [he1, hw32, perElem_one, hsg] at he
  exact laneResult_of_words he hr rfl fun l _ _ i hi => bfx_getLsbD _ _ _ hi

/-- R129: `vbfi`; with raw32 vd takes vc's tag. -/
theorem vbfi_result {f : LaneWord} {t : Ty} {s : State} (ht : Ty.ofCode f.typ.val = some t)
    (hr : LaneRuns s (elemUse f t true true)) :
    let pos (l : Nat) : Nat := (s.me.b f l).toNat % 32
    let len (l : Nat) : Nat := min ((s.me.b f l).toNat / 256 % 64) 32
    LaneResult (.vbfi f) f s (if t = .raw32 then s.me.tag f.vc.val else t) (fun l v => ∀ i < 32, v.getLsbD i =
      if pos l ≤ i ∧ i < pos l + len l then (s.me.rv f.va.val l).getLsbD (i - pos l)
      else (s.me.rv f.vc.val l).getLsbD i) 0 := by
  intro pos len
  have he := exec_vbfi s f
  rw [execVbfi, laneTy_of_ofCode ht] at he
  have hr' : LaneRuns s ⟨f.va.val :: f.vc.val :: bRegs f, [f.vd.val], bScalar f, [],
      tagged f.va.val 1 t ++ tagged f.vc.val 1 t ++ bTag f t⟩ := by
    refine laneRuns_of_subset hr ?_ ?_ ?_ ?_ ?_ <;> simp [elemUse]
  exact laneResult_of_words he hr' rfl fun l _ _ i hi => bfi_getLsbD _ _ _ hi

/-! ### Addition with carry (R130) -/

/-- R76, R82: a predicate that is written in the acting lanes. -/
theorem predResult_pred (g : Gang) (p : Nat) (act v : BitVec 32) (q : Nat) :
    (g.predResult p act v).pred q = if q = p then ((v &&& act) ||| (g.pred p &&& ~~~act)) &&& g.live else g.pred q :=
  setPred_pred ..

theorem predResult_rv (g : Gang) (p : Nat) (act v : BitVec 32) (r l : Nat) : (g.predResult p act v).rv r l = g.rv r l := rfl

theorem predResult_sticky (g : Gang) (p : Nat) (act v : BitVec 32) : (g.predResult p act v).sticky = g.sticky := rfl

theorem predResult_pred_getLsbD {g : Gang} {p : Nat} {act v : BitVec 32} {l : Nat} (ha : act.getLsbD l = true)
    (hlive : g.live.getLsbD l = true) : ((g.predResult p act v).pred p).getLsbD l = v.getLsbD l := by
  rw [predResult_pred, if_pos rfl]; simp [ha, hlive]

@[simp] theorem laneNext_pred (g : Gang) (p : Nat) : g.laneNext.pred p = g.pred p := by simp [Gang.pred]

theorem result_sticky_zero (g : Gang) (r : Nat) (act : BitVec 32) (ty : Ty) (x : Nat → Word) :
    (g.result r act ty (fun l => (x l, 0))).sticky = g.sticky := by
  have h : (g.result r act ty (fun l => (x l, 0))).sticky = g.sticky ||| laneFlags act (fun _ => 0) := rfl
  rw [h, laneFlags_zero]; exact BitVec.or_zero

/-- R130: the sum with the carry of pC, and its carry in pd. -/
theorem vaddc_result {f : LaneWord} {s : State} (hr : LaneRuns s (elemUse f .n32 true false)) :
    let sum (l : Nat) : Nat := (s.me.rv f.va.val l).toNat + (s.me.b f l).toNat + ((s.me.pred f.vc.val).getLsbD l).toNat
    ∃ t, exec (.vaddc f) s = .next t ∧ LaneOwn s t
      ∧ (∀ r, ∀ l < 32, t.me.rv r l
          = if r = f.vd.val ∧ (s.me.act f).getLsbD l = true then BitVec.ofNat 32 (sum l) else s.me.rv r l)
      ∧ (∀ l < 32, (s.me.act f).getLsbD l = true → (t.me.pred f.pd.val).getLsbD l = decide (2 ^ 32 ≤ sum l))
      ∧ (∀ p, p ≠ f.pd.val → t.me.pred p = s.me.pred p) ∧ t.me.sticky = s.me.sticky := by
  intro sum
  have hcarry (l : Nat) : (if (s.me.pred f.vc.val).getLsbD l then 1 else 0) = ((s.me.pred f.vc.val).getLsbD l).toNat := by
    cases (s.me.pred f.vc.val).getLsbD l <;> rfl
  obtain ⟨hheld, hb, hlim, htags⟩ := elemUse_bin f .n32 ▸ hr
  have he : exec (.vaddc f) s = .next ((s.taint s.cur [f.vd.val]).setMe
      ((s.me.result f.vd.val (s.me.act f) .n32 (fun l => (BitVec.ofNat 32 (sum l), 0))).predResult f.pd.val (s.me.act f)
        (laneMask (fun l => decide (2 ^ 32 ≤ sum l)) 32)).laneNext) := by
    rw [exec_vaddc, execVaddc, laneDo_runs s hb hheld hlim htags]
    simp only [hcarry]; rfl
  refine ⟨_, he, laneOwn_setMe _ s _, fun r l hl => ?_, fun l hl ha => ?_, fun p hp => ?_, ?_⟩ <;> rw [setMe_me]
  · rw [laneNext_rv, predResult_rv, result_rv _ _ _ hl]
  · rw [laneNext_pred]
    refine (predResult_pred_getLsbD ha (act_live ha)).trans ?_
    rw [laneMask_getLsbD _ le_rfl hl, decide_eq_true hl, Bool.true_and]
  · rw [laneNext_pred, predResult_pred, if_neg hp]; rfl
  · rw [laneNext_sticky, predResult_sticky, result_sticky_zero]

/-! ### The four-element dot product (R67, R131) -/

/-- The flags `c` of the acting lanes that meet a test. -/
theorem laneFlags_test (act : BitVec 32) (q : Nat → Bool) (c : BitVec 6) :
    laneFlags act (fun l => if q l then c else 0) = if (List.range 32).any (fun l => act.getLsbD l && q l) then c else 0 := by
  simp only [laneFlags]
  induction List.range 32 with
  | nil => rfl
  | cons l ls ih =>
    rw [List.foldr_cons, List.any_cons, ih]
    rcases act.getLsbD l with _ | _ <;> rcases q l with _ | _ <;>
      cases ls.any (fun l => act.getLsbD l && q l) <;> simp

/-- R67: an accumulation wraps, or clamps with `.sat`. -/
theorem accInt_fst (sat : Bool) (v : Int) : BitVec.ofNat 32 (accInt sat v).1
    = BitVec.ofInt 32 (if sat then max (-2 ^ 31) (min (2 ^ 31 - 1) v) else v) := by
  have hbits (v : Int) : BitVec.ofNat 32 (intBits 32 v) = BitVec.ofInt 32 v :=
    BitVec.eq_of_toNat_eq (by rw [BitVec.toNat_ofNat, BitVec.toNat_ofInt, Nat.mod_eq_of_lt (intBits_lt 32 v), intBits]; norm_cast)
  have hlo : intLo true 32 = -2 ^ 31 := rfl
  have hhi : intHi true 32 = 2 ^ 31 - 1 := rfl
  unfold accInt
  rw [hlo, hhi]
  split
  · next h => cases sat <;> simp only [hbits, if_true, Bool.false_eq_true, if_false]; congr 1; omega
  · next h =>
    cases sat <;> simp only [hbits, if_true, Bool.false_eq_true, if_false]
    congr 1; split <;> omega

/-- R67: outside the range OF is raised, and with `.sat` SA as well. -/
theorem accInt_snd (sat : Bool) (v : Int) : (accInt sat v).2
    = if decide (v < -2 ^ 31) || decide (2 ^ 31 ≤ v) then (if sat then 36 else 4) else 0 := by
  have hlo : intLo true 32 = -2 ^ 31 := rfl
  have hhi : intHi true 32 = 2 ^ 31 - 1 := rfl
  have hout : (decide (v < -2 ^ 31) || decide (2 ^ 31 ≤ v)) = !decide (-2 ^ 31 ≤ v ∧ v ≤ 2 ^ 31 - 1) := by
    rw [← Bool.decide_or, ← decide_not]; exact decide_eq_decide.2 (by omega)
  unfold accInt
  rw [hlo, hhi, hout]
  by_cases h : -2 ^ 31 ≤ v ∧ v ≤ 2 ^ 31 - 1
  · simp only [h, decide_true, and_self, if_true, Bool.not_true, Bool.false_eq_true, if_false]
  · simp only [h, decide_false, if_false, Bool.not_false, if_true]
    cases sat <;> rfl

theorem dotInt_eq_sum (sg : Bool) (a b : Nat → Nat) (n : Nat) : dotInt sg 8 ((List.range n).map a) ((List.range n).map b)
    = ((List.range n).map (fun i => intVal sg 8 (a i) * intVal sg 8 (b i))).sum := by
  rw [dotInt, List.zipWith_map, List.zipWith_self, List.sum_eq_foldl]

/-- R131. -/
theorem vdp4_result {f : LaneWord} {t : Ty} {s : State} (hw : (Instr.vdp4 f).wf = true) (ht : Ty.ofCode f.typ.val = some t)
    (hr : LaneRuns s ⟨f.va.val :: f.vc.val :: bRegs f, [f.vd.val], bScalar f, [],
        tagged f.va.val 1 t ++ bTag f t ++ [(f.vc.val, .s32)]⟩) :
    let exact (l : Nat) : Int := (s.me.rv f.vc.val l).toInt + ((List.range 4).map (fun i =>
        elemVal t (elt 8 (s.me.rv f.va.val l) i) * elemVal t (elt 8 (s.me.b f l) i))).sum
    let sat := f.mode.val % 2 = 1
    LaneResult (.vdp4 f) f s .s32
      (fun l v => v = BitVec.ofInt 32 (if sat then max (-2 ^ 31) (min (2 ^ 31 - 1) (exact l)) else exact l))
      (if (List.range 32).any (fun l => (s.me.act f).getLsbD l
          && (decide (exact l < -2 ^ 31) || decide (2 ^ 31 ≤ exact l))) = true
       then (if sat then 36 else 4) else 0) := by
  intro exact sat
  have hrow := (Bool.and_eq_true_iff.1 ((wf_lane (i := .vdp4 f) rfl).1 hw).1).1
  have hty : t = .s8x4 ∨ t = .n8x4 := by simpa [rowC, Ty.ofCode] using ofCode_typ_mem ht (laneRow_typ_mem hrow)
  have hwidth : t.width = 8 := by obtain rfl | rfl := hty <;> rfl
  have hval (x : Word) (i : Nat) : intVal t.isSigned 8 (elt 8 x i) = elemVal t (elt 8 x i) := by
    have := intVal_eq_elemVal t (x := elt 8 x i) (hwidth ▸ elt_lt 8 x i)
    rwa [hwidth] at this
  have hstep (l : Nat) : stepInt (laneSat f) t.isSigned (s.me.rv f.vc.val l).toNat ((List.range 4).map (elt 8 (s.me.rv f.va.val l)))
      ((List.range 4).map (elt 8 (s.me.b f l))) = accInt (decide sat) (exact l) := by
    rw [stepInt, dotInt_eq_sum, intVal_toNat]
    simp only [hval]; rfl
  have he := exec_vdp4 s f
  rw [execVdp4, laneTy_of_ofCode ht, tagged_one (by decide) f.vc.val] at he
  have hres := laneResult_of_laneDo (ty := .s32)
    (P := fun l v => v = BitVec.ofInt 32 (if sat then max (-2 ^ 31) (min (2 ^ 31 - 1) (exact l)) else exact l))
    (val := fun l => (BitVec.ofNat 32 (accInt (decide sat) (exact l)).1, (accInt (decide sat) (exact l)).2)) he hr
    (by simp only [hstep]) fun l _ _ => by simp only [accInt_fst, decide_eq_true_eq]
  simp only [flagsOf_eq_laneFlags, accInt_snd, laneFlags_test, decide_eq_true_eq] at hres
  exact hres

/-- Settles O22: bit fields bit by bit (`bfx_getLsbD`, `bfi_getLsbD`), the sum with its carry, and the accumulation of the dot product
(`accInt_eq`) with the flags of the acting lanes that leave the range. -/
theorem laneBitFieldsCarryAndDot : Obligations.LaneBitFieldsCarryAndDot :=
  ⟨fun _ _ _ ht => ⟨fun hw hr => vbfx_result hw ht hr, fun _ hr => vbfi_result ht hr⟩,
    fun _ _ => ⟨fun _ hr => vaddc_result hr, fun _ hw ht hr => vdp4_result hw ht hr⟩⟩

end Sys2Proof.Proofs
end

section
open Sys2Proof Sys2Proof.Machine Sys2Proof.Claims Sys2Proof.Laws

namespace Sys2Proof.Proofs

/-! ### Compares and predicate instructions (R127, R142) -/

/-- R127: a code that names a test of the six. -/
theorem cmpCode_eq {cc : Nat} {c : Ordering → Bool} (h : ordTests[cc]? = some c) (o : Ordering) : cmpCode cc o = c o := by
  obtain ⟨hcc, rfl⟩ := List.getElem?_eq_some_iff.1 h
  have hlt : cc < 6 := hcc
  interval_cases cc <;> rfl

/-- R127, Table 6-1: `vcmp` compares one element, of type s32 or n32. -/
theorem vcmp_result {f : LaneWord} {t : Ty} {c : Ordering → Bool} {s : State} (hw : (Instr.vcmp f).wf = true)
    (ht : Ty.ofCode f.typ.val = some t) (hc : ordTests[f.opx.val]? = some c)
    (hr : LaneRuns s ⟨f.va.val :: bRegs f, [], bScalar f, [], tagged f.va.val 1 t ++ bTag f t⟩) :
    PredResult (.vcmp f) f s (fun l => c (compare (elemVal t (s.me.rv f.va.val l).toNat)
      (elemVal t (s.me.b f l).toNat))) 0 := by
  have hrow := (Bool.and_eq_true_iff.1 ((wf_lane (i := .vcmp f) rfl).1 hw).1).1
  have hty : t = .s32 ∨ t = .n32 := by simpa [Ty.ofCode] using ofCode_typ_mem ht (laneRow_typ_mem hrow)
  have hw32 : t.width = 32 := (one_element (by tauto)).2
  have hval (x : Word) : intVal t.isSigned 32 x.toNat = elemVal t x.toNat := by
    have := intVal_eq_elemVal t (x := x.toNat) (by rw [hw32]; exact x.isLt)
    rwa [hw32] at this
  have he := exec_vcmp s f
  rw [execVcmp, laneTy_of_ofCode ht] at he
  refine predResult_of_laneDo he hr (raise_zero _).symm fun l hl _ => ?_
  rw [laneMask_getLsbD _ le_rfl hl, decide_eq_true hl, Bool.true_and, cmpCode_eq hc, hval, hval]

/-- Table 6-5: a row combines its predicates bit by bit. -/
theorem exec_predRow {p : (LaneWord → Instr) × (Bool → Bool → Bool → Bool)} (hp : p ∈ predRows) (f : LaneWord) (s : State) :
    ∃ fn : BitVec 32 → BitVec 32 → BitVec 32, exec (p.1 f) s = predOp fn f s
      ∧ ∀ a b, ∀ l < 32, (fn a b).getLsbD l = p.2 (a.getLsbD l) (b.getLsbD l) (f.ext.getLsbD l) := by
  simp only [predRows, List.mem_cons, List.not_mem_nil, or_false] at hp
  obtain rfl | rfl | rfl | rfl | rfl | rfl := hp
  · exact ⟨(· &&& ·), rfl, fun _ _ _ _ => BitVec.getLsbD_and⟩
  · exact ⟨(· ||| ·), rfl, fun _ _ _ _ => BitVec.getLsbD_or⟩
  · exact ⟨(· ^^^ ·), rfl, fun _ _ _ _ => BitVec.getLsbD_xor⟩
  · exact ⟨fun a _ => ~~~a, rfl, fun a _ l hl => by rw [BitVec.getLsbD_not, decide_eq_true hl, Bool.true_and]⟩
  · exact ⟨fun a _ => a, rfl, fun _ _ _ _ => rfl⟩
  · exact ⟨fun _ _ => f.ext, rfl, fun _ _ _ _ => rfl⟩

theorem predRow_result {p : (LaneWord → Instr) × (Bool → Bool → Bool → Bool)} (hp : p ∈ predRows) {f : LaneWord} {s : State}
    (hr : LaneRuns s ⟨[], [], [], [], []⟩) :
    PredResult (p.1 f) f s (fun l => p.2 ((s.me.pred f.va.val).getLsbD l) ((s.me.pred f.vb.val).getLsbD l) (f.ext.getLsbD l)) 0 := by
  obtain ⟨fn, he, hfn⟩ := exec_predRow hp f s
  exact predResult_of_laneDo he hr (raise_zero _).symm fun l hl _ => hfn _ _ l hl

@[simp] theorem laneNext_rs (g : Gang) (r : Nat) : g.laneNext.rs r = g.rs r := by simp [Gang.rs]

theorem ws_laneNext (g : Gang) (r : Nat) (v : Word) : (g.ws r v).laneNext = { g.laneNext with sreg := (g.ws r v).sreg } := by
  unfold Gang.laneNext; rw [ws_clauses]
  unfold Gang.ws
  split <;> split <;> rfl

/-- A lane instruction whose whole effect is a result in a scalar register (R28). -/
theorem scalarResult_of_laneDo {i : Instr} {f : LaneWord} {s : State} {u : LaneUse} {h : Gang → Gang} {d : Nat} {v : Word}
    (he : exec i s = laneDo s f u h) (hr : LaneRuns s u) (hh : h s.me = s.me.ws d v) :
    ∃ t, exec i s = .next t ∧ LaneOwn s t ∧ t.me.rs d = written d v ∧ (∀ r, r ≠ d → t.me.rs r = s.me.rs r)
      ∧ t.me = { s.me.laneNext with sreg := t.me.sreg } := by
  obtain ⟨hheld, hb, hlim, htags⟩ := hr
  refine ⟨_, by rw [he, laneDo_runs s hb hheld hlim htags, hh], laneOwn_setMe _ s _, ?_, fun r hr => ?_, ?_⟩ <;> rw [setMe_me]
  · rw [laneNext_rs]; exact ws_self _ _ _
  · rw [laneNext_rs, ws_rs, if_neg (fun h => hr h.1)]
  · rw [ws_laneNext]

/-- Settles O23: compares and predicate instructions by the bits that they write (`predResult_of_laneDo`); `pget` and `pcnt` by the
scalar register that they write. -/
theorem lanePredicates : Obligations.LanePredicates := by
  refine fun f s => ⟨fun t c hw ht hc hr => vcmp_result hw ht hc hr, fun p hp _ hr => predRow_result hp hr, fun p hp _ hr => ?_⟩
  simp only [List.mem_cons, List.not_mem_nil, or_false] at hp
  obtain rfl | rfl := hp
  · exact scalarResult_of_laneDo (exec_pget s f) hr rfl
  · refine scalarResult_of_laneDo (exec_pcnt s f) hr ?_
    dsimp only
    rw [opPopc, ones_eq_length]; rfl

/-! ### Permutations (R143, R144, R145) -/

/-- R144: the source lane of the four modes. -/
theorem shflSrc_eq {m : Nat} (hm : m < 4) (l n : Nat) : shflSrc m l n
    = ([n, l ^^^ n, if l < n then l else l - n, if 31 < l + n then l else l + n])[m]?.getD 0 := by
  interval_cases m <;> rfl

/-- R143: a permutation gives the word of its source lane, or 0 where that lane is not live. -/
theorem lanePerm_result {i : Instr} {f : LaneWord} {s : State} {src src' : Nat → Nat → Nat} (he : exec i s = lanePerm src' f s)
    (hsrc : ∀ l n, src' l n = src l n) (hr : LaneRuns s ⟨f.va.val :: bRegs f, [f.vd.val], bScalar f, [], []⟩) :
    LaneResult i f s (s.me.tag f.va.val) (fun l v =>
      let j := src l ((s.me.b f l).toNat % 32)
      v = if s.me.live.getLsbD j then s.me.rv f.va.val j else 0) 0 := by
  obtain rfl : src' = src := funext₂ hsrc
  exact laneResult_of_words he hr rfl fun _ _ _ => rfl

/-- Settles O27: the source lanes are those of the table (`shflSrc_eq`, with the modes that the check of R36 admits). -/
theorem lanePermutations : Obligations.LanePermutations := by
  intro p hp f s hw hr
  simp only [List.mem_cons, List.not_mem_nil, or_false] at hp
  obtain rfl | rfl | rfl := hp
  · have hrow := (Bool.and_eq_true_iff.1 ((wf_lane (i := .vshfl f) rfl).1 hw).1).1
    have hm : f.opx.val < 4 := by
      have hmem : f.opx.val ∈ [0, 1, 2, 3] := laneRow_opx_mem hrow
      simp only [List.mem_cons, List.not_mem_nil, or_false] at hmem
      omega
    exact lanePerm_result (exec_vshfl s f) (shflSrc_eq hm) hr
  · exact lanePerm_result (exec_vbcast s f) (fun _ _ => rfl) hr
  · exact lanePerm_result (exec_vrot s f) (fun _ _ => rfl) hr

end Sys2Proof.Proofs
end

section
open Sys2Proof Sys2Proof.Machine Sys2Proof.Claims Sys2Proof.Laws

namespace Sys2Proof.Proofs

/-! ### The operations of Table 6-6 -/

theorem toNat_ite {c : Prop} [Decidable c] (a b : Word) : (if c then a else b).toNat = if c then a.toNat else b.toNat :=
  apply_ite BitVec.toNat c a b

/-- An integer operation on words, as the statement spells it. -/
theorem redComb_words {op : Nat} (h : op < redRows.length) (m : Rnd) (a b : Word) :
    redComb op m a.toNat b.toNat = ((redRows[op].1 a b).toNat, 0) := by
  have hlt : op < 8 := h
  interval_cases op
  · exact congrArg (·, 0) (BitVec.toNat_add a b).symm
  · simp only [redComb, redRows, List.getElem_cons_succ, List.getElem_cons_zero, intVal_toNat, toNat_ite]
    rw [← ite_not]; simp only [not_lt]
  · simp only [redComb, redRows, List.getElem_cons_succ, List.getElem_cons_zero, intVal_toNat, toNat_ite]
    rw [ite_lt_eq_ite_le fun h => congrArg BitVec.toNat (BitVec.eq_of_toInt_eq h)]
  · simp only [redComb, redRows, List.getElem_cons_succ, List.getElem_cons_zero, toNat_ite, min_def]
  · simp only [redComb, redRows, List.getElem_cons_succ, List.getElem_cons_zero, toNat_ite, max_def]
  · exact congrArg (·, 0) (BitVec.toNat_and a b).symm
  · exact congrArg (·, 0) (BitVec.toNat_or a b).symm
  · exact congrArg (·, 0) (BitVec.toNat_xor a b).symm

theorem redId_words {op : Nat} (h : op < redRows.length) : redId op = redRows[op].2.toNat := by
  have hlt : op < 8 := h
  interval_cases op <;> rfl

/-- The smaller or the larger of three words, by a key, in either bracketing. -/
theorem pick_assoc {α : Type} (key : α → Int) (a b c : α) :
    (let p (x y : α) := if key x ≤ key y then x else y; p (p a b) c = p a (p b c))
    ∧ (let p (x y : α) := if key x ≤ key y then y else x; p (p a b) c = p a (p b c)) := by
  dsimp only
  constructor <;> grind

theorem redRow_assoc {op : Nat} (h : op < redRows.length) (a b c : Word) :
    redRows[op].1 (redRows[op].1 a b) c = redRows[op].1 a (redRows[op].1 b c) := by
  have hlt : op < 8 := h
  have hint := pick_assoc BitVec.toInt a b c
  have hnat := pick_assoc (fun x : Word => (x.toNat : Int)) a b c
  simp only [Int.ofNat_le] at hnat
  interval_cases op
  · exact BitVec.add_assoc a b c
  · exact hint.1
  · exact hint.2
  · exact hnat.1
  · exact hnat.2
  · exact BitVec.and_assoc a b c
  · exact BitVec.or_assoc a b c
  · exact BitVec.xor_assoc a b c

/-! ### The tree of R146 -/

section Tree

variable {comb : Nat → Nat → Nat × Flags} {g : Word → Word → Word} (hc : ∀ a b : Word, comb a.toNat b.toNat = ((g a b).toNat, 0))
  (ha : ∀ a b c, g (g a b) c = g a (g b c))

/-- The combination of the words that are there, in list order. -/
def combineAll (g : Word → Word → Word) (xs : List (Option Word)) : Option Word := xs.foldr (Option.merge g) none

include hc ha

/-- One level halves the list, keeps its combination and raises no flag. -/
theorem redLevel_words : ∀ xs : List (Option Word), ∃ ys : List (Option Word),
    redLevel comb (xs.map (·.map BitVec.toNat)) = (ys.map (·.map BitVec.toNat), 0)
      ∧ ys.length = (xs.length + 1) / 2 ∧ combineAll g ys = combineAll g xs
  | [] => ⟨[], rfl, rfl, rfl⟩
  | [a] => ⟨[a], by cases a <;> rfl, by simp, rfl⟩
  | a :: b :: xs => by
    obtain ⟨ys, hl, hn, hy⟩ := redLevel_words xs
    have hassoc : Std.Associative g := ⟨ha⟩
    refine ⟨Option.merge g a b :: ys, ?_, by simp [hn]; omega, ?_⟩
    · cases a with
      | none => cases b <;> simp [redLevel, hl]
      | some a =>
        cases b with
        | none => simp [redLevel, hl]
        | some b => simp [redLevel, hl, hc]
    · simp only [combineAll, List.foldr_cons] at hy ⊢
      rw [hy]; exact Std.Associative.assoc _ _ _

/-- R146: the tree combines the words in order, and raises no flag. -/
theorem redTree_words : ∀ (n : Nat) (xs : List (Option Word)), xs.length ≤ 2 ^ n →
    redTree comb n (xs.map (·.map BitVec.toNat)) = ((combineAll g xs).map BitVec.toNat, 0)
  | 0, [], _ => rfl
  | 0, [a], _ => by cases a <;> rfl
  | n + 1, xs, h => by
    obtain ⟨ys, hl, hn, hy⟩ := redLevel_words hc ha xs
    rw [Nat.pow_succ] at h
    rw [redTree]
    rw [hl, redTree_words n ys (by omega), hy]
    exact congrArg (Prod.mk _) (BitVec.or_self ..)

omit hc in
/-- The combination of the words that are there, from the left. -/
theorem combineAll_map (x : Nat → Option Word) : ∀ ls : List Nat, combineAll g (ls.map x) =
    match ls.filterMap x with
    | [] => none
    | w :: ws => some (ws.foldl g w)
  | [] => rfl
  | l :: ls => by
    have hassoc : Std.Associative g := ⟨ha⟩
    have ih := combineAll_map x ls
    simp only [combineAll, List.map_cons, List.foldr_cons, List.filterMap_cons] at ih ⊢
    rw [ih]
    cases x l with
    | none => cases ls.filterMap x <;> rfl
    | some w =>
      cases ls.filterMap x with
      | nil => rfl
      | cons w' ws => simp [List.foldl_assoc]

end Tree

/-- R146: the tree over the lanes. -/
theorem redTree_lanes {op : Nat} (h : op < redRows.length) (m : Rnd) (x : Nat → Option Word) :
    redTree (redComb op m) 5 ((List.range 32).map (fun l => (x l).map BitVec.toNat))
      = (match (List.range 32).filterMap x with
         | [] => none
         | w :: ws => some (ws.foldl redRows[op].1 w).toNat, 0) := by
  have ht := redTree_words (redComb_words h m) (redRow_assoc h) 5 ((List.range 32).map x) (by simp)
  rw [List.map_map, combineAll_map (redRow_assoc h)] at ht
  refine Eq.trans ht ?_
  cases (List.range 32).filterMap x <;> rfl

/-! ### Reductions (R146, R167) -/

theorem raise_laneNext (g : Gang) (fl : Flags) : (g.raise fl).laneNext = { g.laneNext with sticky := g.sticky ||| fl } := by
  have hc : (g.raise fl).clauses = g.clauses := rfl
  unfold Gang.laneNext; rw [hc]
  split <;> rfl

theorem raise_result (g : Gang) (r : Nat) (act : BitVec 32) (ty : Ty) (val : Nat → Word × Flags) (fl : Flags) :
    (g.result r act ty val).raise fl = (g.raise fl).result r act ty val := by
  have h : (g.raise fl).result r act ty val
    = { (g.result r act ty val).raise fl with sticky := g.sticky ||| fl ||| flagsOf act val } := rfl
  rw [h, BitVec.or_assoc, BitVec.or_comm fl, ← BitVec.or_assoc]; rfl

/-- A lane instruction that writes whole words and raises flags of its own. -/
theorem laneResult_of_raise {i : Instr} {f : LaneWord} {s : State} {u : LaneUse} {ty : Ty} {h : Gang → Gang} {x : Nat → Word}
    {P : Nat → Word → Prop} {fl : Flags} (he : exec i s = laneDo s f u h) (hr : LaneRuns s u)
    (hh : h s.me = (s.me.raise fl).result f.vd.val (s.me.act f) ty (fun l => (x l, 0)))
    (hP : ∀ l < 32, (s.me.act f).getLsbD l = true → P l (x l)) : LaneResult i f s ty P fl := by
  obtain ⟨hheld, hb, hlim, htags⟩ := hr
  refine ⟨_, by rw [he, laneDo_runs s hb hheld hlim htags, hh], fun l hl ha => ?_, fun r l hl hrl => ?_, fun r => ?_, ?_, ?_,
    laneOwn_setMe _ s _⟩ <;> rw [setMe_me]
  · rw [laneNext_rv, result_rv _ _ _ hl, if_pos ⟨rfl, ha⟩]; exact hP l hl ha
  · rw [laneNext_rv, result_rv _ _ _ hl, if_neg hrl]; rfl
  · rw [laneNext_tag, result_tag]; rfl
  · rw [laneNext_sticky, result_sticky_zero]; rfl
  · rw [result_laneNext, raise_laneNext]

section Reduction

variable (f : LaneWord) (g : Gang)

/-- R167: the lanes whose value is a NaN. -/
def redNan (l : Nat) : Bool := (Fmt.f32.decode (g.rv f.va.val l).toNat).isNan

/-- R146: what a lane brings to the tree. -/
def redLeaf (l : Nat) : Option Nat :=
  if (g.act f).getLsbD l then
    (if f.x 3 0 = 11 then (if redNan f g l then none else
        some ((maxviKey (g.rv f.va.val l)).toNat * 2 ^ 32 + (2 ^ 32 - 1 - (g.rv f.vc.val l).toNat)))
      else some (g.rv f.va.val l).toNat)
  else none

/-- The tree over the lanes, its value, and the flags of the instruction. -/
def redResult : Option Nat × BitVec 6 := redTree (redComb (f.x 3 0) (laneRnd f)) 5 ((List.range 32).map (redLeaf f g))
def redValue : Nat := (redResult f g).1.getD (redId (f.x 3 0))
def redFlags : BitVec 6 :=
  (if f.x 3 0 = 11 then laneFlags (g.act f) (fun l => if redNan f g l then 1 else 0) else 0) ||| (redResult f g).2

/-- The leaves of the model. -/
theorem redLeaves_eq : redLeaves g f (f.x 3 0) = ((List.range 32).map (redLeaf f g),
    if f.x 3 0 = 11 then laneFlags (g.act f) (fun l => if redNan f g l then 1 else 0) else 0) := by
  unfold redLeaves
  by_cases h : f.x 3 0 = 11
  · rw [if_pos h, if_pos h]
    refine Prod.ext (List.map_congr_left fun l _ => ?_) rfl
    rw [redLeaf, if_pos h, packVi, BitVec.toNat_not]
    change (if ((g.act f).getLsbD l && !redNan f g l) = true then _ else _) = _
    cases (g.act f).getLsbD l <;> cases redNan f g l <;> rfl
  · rw [if_neg h, if_neg h]
    refine Prod.ext (List.map_congr_left fun l _ => ?_) rfl
    rw [redLeaf, if_neg h]

/-- The registers that `vred` names, as the statement spells them. -/
def redUse (t : Ty) : LaneUse :=
  ⟨f.va.val :: (if f.x 3 0 = 11 then [f.vc.val] else []), if f.opx34 then [] else [f.vd.val], [],
    if f.opx34 then (if f.x 3 0 = 11 then [f.vd.val, f.vd.val + 1] else [f.vd.val]) else [],
    (f.va.val, t) :: (if f.x 3 0 = 11 then [(f.vc.val, .n32)] else [])⟩

theorem tagged_subset (r : Nat) (t : Ty) : tagged r 1 t ⊆ [(r, t)] := by
  by_cases h : t = .raw32
  · simp [tagged, h]
  · rw [tagged_one h]; exact List.Subset.refl _

end Reduction

/-- What `vred` does to its gang. -/
def redGang (f : LaneWord) (t : Ty) (g : Gang) : Gang :=
  if !f.opx34 then (g.raise (redFlags f g)).result f.vd.val (g.act f) t (fun _ => (BitVec.ofNat 32 (redValue f g), 0))
  else if f.x 3 0 = 11 then (g.raise (redFlags f g)).wp f.vd.val (BitVec.ofNat 64 (redValue f g))
  else (g.raise (redFlags f g)).ws f.vd.val (BitVec.ofNat 32 (redValue f g))

theorem exec_vred_redGang {f : LaneWord} {t : Ty} (ht : Ty.ofCode f.typ.val = some t) (s : State) :
    exec (.vred f) s = laneDo s f { redUse f t with
      tags := tagged f.va.val 1 t ++ (if f.x 3 0 = 11 then tagged f.vc.val 1 .n32 else []) } (redGang f t) := by
  rw [exec_vred, execVred, laneTy_of_ofCode ht]
  simp only [redLeaves_eq, beq_iff_eq]
  rfl

theorem laneRuns_vred {f : LaneWord} {t : Ty} {s : State} (hr : LaneRuns s (redUse f t)) : LaneRuns s { redUse f t with
    tags := tagged f.va.val 1 t ++ (if f.x 3 0 = 11 then tagged f.vc.val 1 .n32 else []) } := by
  refine laneRuns_of_subset hr (List.Subset.refl _) (List.Subset.refl _) (List.Subset.refl _) (List.Subset.refl _) ?_
  refine List.append_subset.2 ⟨fun p hp => List.mem_cons.2 (.inl (List.mem_singleton.1 (tagged_subset _ _ hp))), fun p hp => ?_⟩
  rw [tagged_one (show Ty.n32 ≠ .raw32 by decide)] at hp
  exact List.mem_cons_of_mem _ hp

theorem wp_laneNext (g : Gang) (r : Nat) (v : Dword) : (g.wp r v).laneNext = { g.laneNext with sreg := (g.wp r v).sreg } := by
  rw [Gang.wp, ws_laneNext, ws_laneNext]

/-- R146: a reduction into a vector register. -/
theorem vred_vector {f : LaneWord} {t : Ty} {s : State} (ht : Ty.ofCode f.typ.val = some t) (hr : LaneRuns s (redUse f t))
    (hx : f.opx34 = false) :
    LaneResult (.vred f) f s t (fun _ w => w = BitVec.ofNat 32 (redValue f s.me)) (redFlags f s.me) := by
  refine laneResult_of_raise (exec_vred_redGang ht s) (laneRuns_vred hr) ?_ fun _ _ _ => rfl
  rw [redGang, hx]; rfl

/-- R146: a reduction into a scalar register, or for `.maxvi` into a pair. -/
theorem vred_scalar {f : LaneWord} {t : Ty} {s : State} (ht : Ty.ofCode f.typ.val = some t) (hr : LaneRuns s (redUse f t))
    (hx : f.opx34 = true) : ∃ u, exec (.vred f) s = .next u ∧ LaneOwn s u
      ∧ u.me.rs f.vd.val = written f.vd.val (BitVec.ofNat 32 (redValue f s.me))
      ∧ (f.x 3 0 = 11 → u.me.rs (f.vd.val + 1) = BitVec.ofNat 32 (redValue f s.me / 2 ^ 32))
      ∧ (∀ q, q ∉ (redUse f t).swr → u.me.rs q = s.me.rs q)
      ∧ u.me = { s.me.laneNext with sreg := u.me.sreg, sticky := s.me.sticky ||| redFlags f s.me } := by
  obtain ⟨hheld, hb, hlim, htags⟩ := laneRuns_vred hr
  refine ⟨_, (exec_vred_redGang ht s).trans (laneDo_runs s hb hheld hlim htags), laneOwn_setMe _ s _, ?_⟩
  rw [setMe_me, redGang, hx]
  by_cases h : f.x 3 0 = 11
  · have hlow (v : Nat) : (BitVec.ofNat 64 v).extractLsb' 0 32 = BitVec.ofNat 32 v := by
      apply BitVec.eq_of_toNat_eq; simp
    have hhigh (v : Nat) : (BitVec.ofNat 64 v).extractLsb' 32 32 = BitVec.ofNat 32 (v / 2 ^ 32) := by
      apply BitVec.eq_of_toNat_eq; simp [Nat.shiftRight_eq_div_pow]; omega
    simp only [Bool.not_true, Bool.false_eq_true, if_false, h, if_true, laneNext_rs, wp_rs, hlow, hhigh]
    refine ⟨?_, fun _ => trivial, fun q hq => ?_, ?_⟩
    · by_cases h0 : f.vd.val = 0 <;> simp [written, h0]
    · simp only [redUse, hx, h, if_true, List.mem_cons, List.not_mem_nil, or_false, not_or] at hq
      rw [if_neg hq.2, if_neg fun h => hq.1 h.1]; rfl
    · rw [wp_laneNext, raise_laneNext]
  · simp only [Bool.not_true, Bool.false_eq_true, if_false, h, laneNext_rs, ws_rs]
    refine ⟨?_, False.elim, fun q hq => ?_, ?_⟩
    · by_cases h0 : f.vd.val = 0 <;> simp [written, h0]
    · simp only [redUse, hx, h, if_true, if_false, List.mem_singleton] at hq
      rw [if_neg fun h => hq h.1]; rfl
    · rw [ws_laneNext, raise_laneNext]

/-! ### Scans (R147) -/

section Scan

variable (comb : Nat → Nat → Nat × Flags) (x : Nat → Option Nat)

/-- One lane of the running combination, with its flags. -/
def scanStep (a : Nat × Flags) (l : Nat) : Nat × Flags :=
  match x l with
  | none => a
  | some v => ((comb a.1 v).1, a.2 ||| (comb a.1 v).2)

theorem scanGo_flags (excl : Bool) : ∀ (ls : List Nat) (acc : Nat) (fl : Flags),
    fl ||| (scanGo comb excl x ls acc).2 = (ls.foldl (scanStep comb x) (acc, fl)).2
  | [], _, fl => BitVec.or_zero
  | l :: ls, acc, fl => by
    rw [scanGo, List.foldl_cons, scanStep]
    cases x l with
    | none => exact scanGo_flags excl ls acc fl
    | some v => dsimp only; rw [← BitVec.or_assoc, scanGo_flags excl ls]

/-- The result of a lane that acts: the combination before it, or with it. -/
theorem scanGo_get (excl : Bool) {l v : Nat} (hl : x l = some v) (post : List Nat) :
    ∀ (pre : List Nat) (acc : Nat) (fl : Flags), l ∉ pre → Map.get 0 (scanGo comb excl x (pre ++ l :: post) acc).1 l
      = BitVec.ofNat 32 ((if excl then pre else pre ++ [l]).foldl (scanStep comb x) (acc, fl)).1
  | [], acc, fl, _ => by
    rw [List.nil_append, scanGo, hl]
    dsimp only
    rw [get_cons, if_pos rfl]
    cases excl <;> simp [scanStep, hl]
  | p :: pre, acc, fl, h => by
    obtain ⟨hp, hpre⟩ := not_or.1 (mt List.mem_cons.2 h)
    have hcons : (if excl then p :: pre else p :: pre ++ [l]) = p :: (if excl then pre else pre ++ [l]) := by cases excl <;> rfl
    rw [hcons, List.foldl_cons, List.cons_append, scanGo, scanStep]
    cases x p with
    | none => exact scanGo_get excl hl post pre acc fl hpre
    | some w =>
      dsimp only
      rw [get_cons, if_neg hp]
      exact scanGo_get excl hl post pre _ _ hpre

/-- The running combination over the first `n` lanes. -/
def scanRun (id n : Nat) : Nat × Flags := (List.range n).foldl (scanStep comb x) (id, 0)

theorem scanGo_range_flags (excl : Bool) (id : Nat) : (scanGo comb excl x (List.range 32) id).2 = (scanRun comb x id 32).2 := by
  rw [scanRun, ← scanGo_flags comb x excl]; exact BitVec.zero_or.symm

theorem scanGo_range_get (excl : Bool) (id : Nat) {l v : Nat} (hl : l < 32) (hx : x l = some v) :
    Map.get 0 (scanGo comb excl x (List.range 32) id).1 l
      = BitVec.ofNat 32 (scanRun comb x id (if excl then l else l + 1)).1 := by
  obtain ⟨n, hn⟩ : ∃ n, 32 = l + (n + 1) := ⟨31 - l, by omega⟩
  have hsplit : List.range 32 = List.range l ++ l :: (List.range n).map (fun i => l + (i + 1)) := by
    rw [hn, List.range_add, List.range_succ_eq_map, List.map_cons, List.map_map]; rfl
  rw [hsplit, scanGo_get comb x excl hx _ _ id 0 (by simp), scanRun]
  cases excl with
  | true => rfl
  | false => rw [if_neg (by decide), if_neg (by decide), List.range_succ]

end Scan

/-- R147: a scan gives each acting lane the combination of the lanes below it, and with it where the scan is inclusive. -/
theorem vscan_result {f : LaneWord} {t : Ty} {s : State} (ht : Ty.ofCode f.typ.val = some t)
    (hr : LaneRuns s ⟨[f.va.val], [f.vd.val], [], [], [(f.va.val, t)]⟩) :
    let run (n : Nat) : Nat × BitVec 6 := (List.range n).foldl (fun a l =>
      if (s.me.act f).getLsbD l then
        let c := redComb (f.x 3 0) (laneRnd f) a.1 (s.me.rv f.va.val l).toNat
        (c.1, a.2 ||| c.2)
      else a) (redId (f.x 3 0), 0)
    LaneResult (.vscan f) f s t (fun l v => v = BitVec.ofNat 32 (run (if f.opx34 then l else l + 1)).1) (run 32).2 := by
  intro run
  let comb := redComb (f.x 3 0) (laneRnd f)
  let x (l : Nat) : Option Nat := if (s.me.act f).getLsbD l then some (s.me.rv f.va.val l).toNat else none
  have hrun (n : Nat) : run n = scanRun comb x (redId (f.x 3 0)) n := by
    have hstep : scanStep comb x = fun a l => if (s.me.act f).getLsbD l then
        ((comb a.1 (s.me.rv f.va.val l).toNat).1, a.2 ||| (comb a.1 (s.me.rv f.va.val l).toNat).2) else a := by
      funext a l
      simp only [scanStep, x]
      split <;> simp_all
    rw [scanRun, hstep]
  have hr' := laneRuns_of_subset hr (v := ⟨[f.va.val], [f.vd.val], [], [], tagged f.va.val 1 t⟩) (List.Subset.refl _)
    (List.Subset.refl _) (List.Subset.refl _) (List.Subset.refl _) (tagged_subset _ _)
  have he := exec_vscan s f
  rw [execVscan, laneTy_of_ofCode ht] at he
  rw [hrun 32, ← scanGo_range_flags comb x f.opx34]
  refine laneResult_of_raise (x := fun l => Map.get 0 (scanGo comb f.opx34 x (List.range 32) (redId (f.x 3 0))).1 l) he hr' ?_
    fun l hl ha => ?_
  · exact raise_result ..
  · rw [hrun]
    exact scanGo_range_get comb x _ _ hl (if_pos ha)

/-- Settles O28: the integer operations are associative (`redRow_assoc`), so the tree gives their combination (`redTree_words`);
`vred` writes the value of the tree over its leaves (`redLeaves_eq`), and `vscan` the running combination (`scanGo_get`). -/
theorem laneReductions : Obligations.LaneReductions := by
  refine ⟨fun op m a b h => ⟨redComb_words h m a b, redId_words h⟩, fun m a b => ⟨rfl, rfl, rfl, congrArg (·, 0) (max_def a b)⟩,
    fun op m x h => redTree_lanes h m x, fun f t s _ ht => ?_, fun f t s _ ht hr => vscan_result ht hr⟩
  intro vi d dst hr nan leaf r v fl
  cases hx : f.opx34 with
  | false => exact vred_vector ht hr hx
  | true =>
    obtain ⟨u, he, hown, hd, hd1, hq, hme⟩ := vred_scalar ht hr hx
    exact ⟨u, he, hown, hd, hd1, hq, hme⟩

end Sys2Proof.Proofs
end

section
open Sys2Proof Sys2Proof.Machine Sys2Proof.Claims Sys2Proof.Laws

namespace Sys2Proof.Proofs

/-! ### Ascending lists of keys (R148) -/

theorem ascending_of_pairwise : ∀ {a : List (Nat × Nat)}, a.Pairwise (fun x y => x.2 < y.2) → ascending a = true
  | [], _ => rfl
  | [_], _ => rfl
  | x :: y :: a, h => by
    obtain ⟨hx, ha⟩ := List.pairwise_cons.1 h
    rw [ascending, ascending_of_pairwise ha, decide_eq_true (hx y (List.mem_cons_self ..))]; rfl

/-- An ascending list holds a key once. -/
theorem filter_eq_find {b : List (Nat × Nat)} (hb : b.Pairwise (fun x y => x.2 < y.2)) (k : Nat) :
    b.filter (fun y => y.2 == k) = (b.find? (fun y => y.2 == k)).toList := by
  induction b with
  | nil => rfl
  | cons y ys ih =>
    obtain ⟨hy, hys⟩ := List.pairwise_cons.1 hb
    by_cases h : y.2 = k
    · have hnone : ys.filter (fun y => y.2 == k) = [] :=
        List.filter_eq_nil_iff.2 fun z hz => by have := hy z hz; simp; omega
      rw [List.filter_cons_of_pos (by simpa using h), List.find?_cons_of_pos (by simpa using h), hnone]; rfl
    · rw [List.filter_cons_of_neg (by simpa using h), List.find?_cons_of_neg (by simpa using h), ih hys]

theorem isectMatches_eq (a : List (Nat × Nat)) {b : List (Nat × Nat)} (hb : b.Pairwise (fun x y => x.2 < y.2)) :
    isectMatches a b = matchesOf a b := by
  rw [isectMatches, matchesOf, List.filterMap_eq_flatMap_toList]
  congr 1; funext x
  rw [filter_eq_find hb]
  cases b.find? (fun y => y.2 == x.2) <;> rfl

/-- The last key of an ascending list is its largest. -/
theorem le_getLast {a : List (Nat × Nat)} {x : Nat × Nat} (ha : a.Pairwise (fun x y => x.2 < y.2)) (hx : a.getLast? = some x) :
    x ∈ a ∧ ∀ e ∈ a, e.2 ≤ x.2 := by
  obtain ⟨ys, rfl⟩ := List.getLast?_eq_some_iff.1 hx
  obtain ⟨-, -, hlt⟩ := List.pairwise_append.1 ha
  refine ⟨by simp, fun e he => ?_⟩
  rcases List.mem_append.1 he with h | h
  · exact (hlt e h x (by simp)).le
  · rw [List.mem_singleton.1 h]

/-- R148: one list advances past the keys that the other list reaches. -/
theorem countP_eq_advance {a b : List (Nat × Nat)} {x y : Nat × Nat} (ha : a.Pairwise (fun x y => x.2 < y.2))
    (hb : b.Pairwise (fun x y => x.2 < y.2)) (hx : a.getLast? = some x) (hy : b.getLast? = some y) :
    a.countP (fun e => decide (e.2 ≤ min x.2 y.2)) = advance a b := by
  obtain ⟨-, hax⟩ := le_getLast ha hx
  obtain ⟨hyb, hby⟩ := le_getLast hb hy
  rw [advance, if_neg (List.ne_nil_of_mem hyb), List.countP_eq_length_filter]
  congr 1
  refine List.filter_congr fun e he => ?_
  rw [Bool.eq_iff_iff, decide_eq_true_eq, List.any_eq_true]
  simp only [decide_eq_true_eq]
  constructor
  · exact fun h => ⟨y, hyb, h.trans (min_le_right _ _)⟩
  · rintro ⟨z, hz, hez⟩
    exact le_min (hax e he) (hez.trans (hby z hz))

theorem isectAdv_eq {a b : List (Nat × Nat)} (ha : a.Pairwise (fun x y => x.2 < y.2)) (hb : b.Pairwise (fun x y => x.2 < y.2)) :
    isectAdv a b = (advance a b, advance b a) := by
  unfold isectAdv
  split
  · next x y hx hy =>
    dsimp only
    rw [countP_eq_advance ha hb hx hy, min_comm, countP_eq_advance hb ha hy hx]
  · next h =>
    cases hx : a.getLast? with
    | none =>
      obtain rfl := List.getLast?_eq_none_iff.1 hx
      cases b <;> simp [advance]
    | some x =>
      cases hy : b.getLast? with
      | none =>
        obtain rfl := List.getLast?_eq_none_iff.1 hy
        simp [advance]
      | some y => exact absurd hy (h x y hx)

/-! ### What `visect` writes (R148) -/

section Registers

variable (g : Gang) (d : Nat) (v : Word)

@[simp] theorem ws_rv (r l : Nat) : (g.ws d v).rv r l = g.rv r l := by simp [Gang.rv]
@[simp] theorem ws_tag (r : Nat) : (g.ws d v).tag r = g.tag r := by simp [Gang.tag]
@[simp] theorem ws_pred (p : Nat) : (g.ws d v).pred p = g.pred p := by simp [Gang.pred]

end Registers

/-- R82: the mask-is-zero flag of the predicate that is written. -/
theorem predResult_mz (g : Gang) (p : Nat) (act v : BitVec 32) (hp : p < 16) :
    (g.predResult p act v).mz.getLsbD p = ((g.predResult p act v).pred p == 0) := by
  rw [Gang.predResult, setPred_mz_getLsbD _ _ _ hp hp, setPred_pred, if_pos rfl, if_pos rfl]

theorem predResult_tag (g : Gang) (p : Nat) (act v : BitVec 32) (r : Nat) : (g.predResult p act v).tag r = g.tag r := rfl

theorem predResult_laneNext (g : Gang) (p : Nat) (act v : BitVec 32) : (g.predResult p act v).laneNext =
    { g.laneNext with preg := (g.predResult p act v).preg, mz := (g.predResult p act v).mz } := by
  have hc : (g.predResult p act v).clauses = g.clauses := rfl
  unfold Gang.laneNext; rw [hc]
  split <;> rfl

theorem result_zero_laneNext (g : Gang) (r : Nat) (act : BitVec 32) (ty : Ty) (x : Nat → Word) :
    (g.result r act ty (fun l => (x l, 0))).laneNext = { g.laneNext with
      vreg := (g.result r act ty (fun l => (x l, 0))).vreg, vtag := (g.result r act ty (fun l => (x l, 0))).vtag } := by
  rw [result_laneNext, flagsOf_eq_laneFlags, laneFlags_zero]
  have hs : g.sticky ||| 0 = g.laneNext.sticky := by rw [laneNext_sticky]; exact BitVec.or_zero
  rw [hs]

section Sect

variable (f : LaneWord) (g : Gang) (val : Nat → Word) (v : BitVec 32) (lo hi : Word)

/-- The gang with the words of `visect` in vd, its predicate in pd and the two advances in the pair that ext names. -/
def sectGang : Gang :=
  (((g.result f.vd.val g.live .n32 (fun l => (val l, 0))).predResult f.pd.val g.live v).ws (f.x 6 0) lo).ws (f.x 6 0 + 1) hi

theorem sectGang_rv {r l : Nat} (hl : l < 32) :
    (sectGang f g val v lo hi).rv r l = if r = f.vd.val ∧ g.live.getLsbD l = true then val l else g.rv r l := by
  rw [sectGang, ws_rv, ws_rv, predResult_rv, result_rv _ _ _ hl]

theorem sectGang_tag (r : Nat) : (sectGang f g val v lo hi).tag r = if r = f.vd.val then .n32 else g.tag r := by
  rw [sectGang, ws_tag, ws_tag, predResult_tag, result_tag]

theorem sectGang_pred {p : Nat} (hp : p ≠ f.pd.val) : (sectGang f g val v lo hi).pred p = g.pred p := by
  rw [sectGang, ws_pred, ws_pred, predResult_pred, if_neg hp]; rfl

theorem sectGang_pred_getLsbD {l : Nat} (hlive : g.live.getLsbD l = true) :
    ((sectGang f g val v lo hi).pred f.pd.val).getLsbD l = v.getLsbD l := by
  rw [sectGang, ws_pred, ws_pred]; exact predResult_pred_getLsbD hlive hlive

theorem sectGang_mz : (sectGang f g val v lo hi).mz.getLsbD f.pd.val = ((sectGang f g val v lo hi).pred f.pd.val == 0) := by
  rw [sectGang, ws_mz, ws_mz, ws_pred, ws_pred, predResult_mz _ _ _ _ f.pd.isLt]

theorem sectGang_rs (r : Nat) : (sectGang f g val v lo hi).rs r =
    if r = f.x 6 0 + 1 then hi else if r = f.x 6 0 then written r lo else g.rs r := by
  have hg : ((g.result f.vd.val g.live .n32 (fun l => (val l, 0))).predResult f.pd.val g.live v).rs r = g.rs r := rfl
  rw [sectGang, ws_rs, ws_rs, hg]
  by_cases h1 : r = f.x 6 0 + 1
  · rw [if_pos ⟨h1, by omega⟩, if_pos h1]
  · rw [if_neg fun h => h1 h.1, if_neg h1]
    by_cases h2 : r = f.x 6 0
    · subst h2
      by_cases h0 : f.x 6 0 = 0 <;> simp [written, h0]
    · rw [if_neg fun h => h2 h.1, if_neg h2]

theorem sectGang_laneNext : (sectGang f g val v lo hi).laneNext = { g.laneNext with
    vreg := (sectGang f g val v lo hi).vreg, vtag := (sectGang f g val v lo hi).vtag, preg := (sectGang f g val v lo hi).preg
    mz := (sectGang f g val v lo hi).mz, sreg := (sectGang f g val v lo hi).sreg } := by
  rw [sectGang, ws_laneNext, ws_laneNext, predResult_laneNext, result_zero_laneNext]
  simp only [ws_vreg, ws_vtag, ws_preg, ws_mz]
  rfl

end Sect

/-- What `visect` does: the matches and advances of ascending lists, and free values where a list does not ascend (R5). -/
theorem visect_runs {f : LaneWord} {s : State} (hr : LaneRuns s ⟨[f.va.val, f.vb.val], [f.vd.val], [], [f.x 6 0, f.x 6 0 + 1],
      [(f.va.val, .n32), (f.vb.val, .n32)]⟩) :
    let a := keyList s.me f.va.val
    let b := keyList s.me f.vb.val
    exec (.visect f) s = if ascending a && ascending b then
        .next ((s.taint s.cur [f.vd.val]).setMe (sectGang f s.me (fun l => (isectMatches a b).getD l 0xFFFFFFFF)
          (laneMask (fun l => decide (l < (isectMatches a b).length)) 32) (BitVec.ofNat 32 (isectAdv a b).1)
          (BitVec.ofNat 32 (isectAdv a b).2)).laneNext)
      else .next (((s.taint s.cur [f.vd.val]).useFree 35).setMe
        (sectGang f s.me s.free (s.free 32) (s.free 33) (s.free 34)).laneNext) := by
  obtain ⟨hheld, hb, hlim, htags⟩ := hr
  rw [exec_visect, execVisect, tagged_one (by decide), tagged_one (by decide)]
  exact laneGo_runs s hb hheld hlim htags

/-- R148: the results where both lists ascend. -/
theorem visect_result {f : LaneWord} {s : State} (hr : LaneRuns s ⟨[f.va.val, f.vb.val], [f.vd.val], [], [f.x 6 0, f.x 6 0 + 1],
      [(f.va.val, .n32), (f.vb.val, .n32)]⟩) :
    let d := f.x 6 0
    let a := keyList s.me f.va.val
    let b := keyList s.me f.vb.val
    let m := matchesOf a b
    a.Pairwise (fun x y => x.2 < y.2) → b.Pairwise (fun x y => x.2 < y.2) →
      ∃ t, exec (.visect f) s = .next t ∧ LaneOwn s t
        ∧ (∀ l < 32, s.me.live.getLsbD l = true → t.me.rv f.vd.val l = m.getD l 0xFFFFFFFF
            ∧ (t.me.pred f.pd.val).getLsbD l = decide (l < m.length))
        ∧ t.me.rs d = written d (BitVec.ofNat 32 (advance a b)) ∧ t.me.rs (d + 1) = BitVec.ofNat 32 (advance b a)
        ∧ t.me.tag f.vd.val = .n32
        ∧ (t.me.mz.getLsbD f.pd.val = (t.me.pred f.pd.val == 0)) := by
  intro d a b m ha hb
  have hasc : (ascending a && ascending b) = true := by rw [ascending_of_pairwise ha, ascending_of_pairwise hb]; rfl
  have he := (visect_runs hr).trans (if_pos hasc)
  rw [isectMatches_eq a hb, isectAdv_eq ha hb] at he
  refine ⟨_, he, laneOwn_setMe _ s _, ?_⟩
  rw [setMe_me]
  refine ⟨fun l hl hlive => ⟨?_, ?_⟩, ?_, ?_, ?_, ?_⟩
  · rw [laneNext_rv, sectGang_rv _ _ _ _ _ _ hl, if_pos ⟨rfl, hlive⟩]
  · rw [laneNext_pred, sectGang_pred_getLsbD _ _ _ _ _ _ hlive, laneMask_getLsbD _ le_rfl hl, decide_eq_true hl, Bool.true_and]
  · rw [laneNext_rs, sectGang_rs, if_neg (by omega), if_pos rfl]
  · rw [laneNext_rs, sectGang_rs, if_pos rfl]
  · rw [laneNext_tag, sectGang_tag, if_pos rfl]
  · rw [laneNext_mz, laneNext_pred, sectGang_mz]

/-- R148, R5: in every case, also where a list does not ascend, nothing else changes. -/
theorem visect_frame {f : LaneWord} {s : State} (hr : LaneRuns s ⟨[f.va.val, f.vb.val], [f.vd.val], [], [f.x 6 0, f.x 6 0 + 1],
      [(f.va.val, .n32), (f.vb.val, .n32)]⟩) :
    ∃ t, exec (.visect f) s = .next t
      ∧ (∀ r, ∀ l < 32, ¬(r = f.vd.val ∧ s.me.live.getLsbD l = true) → t.me.rv r l = s.me.rv r l)
      ∧ (∀ p, p ≠ f.pd.val → t.me.pred p = s.me.pred p)
      ∧ (∀ r, r ≠ f.x 6 0 → r ≠ f.x 6 0 + 1 → t.me.rs r = s.me.rs r)
      ∧ (∀ r, t.me.tag r = if r = f.vd.val then .n32 else s.me.tag r)
      ∧ t.me = { s.me.laneNext with vreg := t.me.vreg, vtag := t.me.vtag, preg := t.me.preg, mz := t.me.mz, sreg := t.me.sreg }
      ∧ s.SameBytes t ∧ (∀ k, k ≠ s.cur → t.gang k = s.gang k) := by
  obtain ⟨t, val, v, lo, hi, he, hme, hbytes, hgangs⟩ : ∃ t val v lo hi, exec (.visect f) s = .next t
      ∧ t.me = (sectGang f s.me val v lo hi).laneNext ∧ s.SameBytes t ∧ ∀ k, k ≠ s.cur → t.gang k = s.gang k := by
    have he := visect_runs hr
    dsimp only at he
    rw [he]
    split
    · exact ⟨_, _, _, _, _, rfl, setMe_me .., (laneOwn_setMe _ s _).1, (laneOwn_setMe _ s _).2.1⟩
    · exact ⟨_, _, _, _, _, rfl, setMe_me .., fun _ => ⟨rfl, rfl, rfl, fun _ => rfl⟩, fun k hk => (setMe_gang ..).trans (if_neg hk)⟩
  refine ⟨t, he, fun r l hl h => ?_, fun p hp => ?_, fun r h1 h2 => ?_, fun r => ?_, ?_, hbytes, hgangs⟩ <;> rw [hme]
  · rw [laneNext_rv, sectGang_rv _ _ _ _ _ _ hl, if_neg h]
  · rw [laneNext_pred, sectGang_pred _ _ _ _ _ _ hp]
  · rw [laneNext_rs, sectGang_rs, if_neg h2, if_neg h1]
  · rw [laneNext_tag, sectGang_tag]
  · rw [sectGang_laneNext]

/-- Settles O29: in ascending lists a key stands once (`filter_eq_find`) and the last one is the largest (`le_getLast`), so the model's
matches and advances are those of R148. -/
theorem laneIntersection : Obligations.LaneIntersection :=
  fun _ _ _ hr => ⟨visect_result hr, visect_frame hr⟩

end Sys2Proof.Proofs
end

section
open Sys2Proof Sys2Proof.Machine Sys2Proof.Claims Sys2Proof.Laws

namespace Sys2Proof.Proofs

/-! ### Operations that the scalar stream puts in flight (R83, R156, R180) -/

section Issue

variable {s : State} {i : Instr} {len : Word} {dst : List Nat} {o : Op}

/-- An instruction that enters its operation issues it, where its store queue has room. -/
theorem issues_of_enter (he : exec i s = .next (s.enter o len)) (hq : o.inQ = true → s.queueFull s.cur = false)
    (hd : o.dst.sregs = dst) : Issues i s len dst o := by
  obtain ⟨h, hops, hnext, hme, hothers, honly⟩ := enter_spec s o len hq
  refine ⟨_, h, he, hops, hnext, hd ▸ hme, hothers, ?_, honly⟩
  rw [honly]
  exact sameBytes_refl s

/-- R158: a memory instruction that nothing holds back and none of whose checks fails enters its operation. -/
theorem scalarMem_enters {rd wr : List Nat} {chk : Gang → List (Option Nat × Dword)} {mk : Gang → Op}
    (hb : s.me.sBlocked rd wr = false) (hc : ∀ c ∈ chk s.me, c.1 = none) :
    scalarMem s rd wr len chk mk = .next (s.enter (mk s.me) len) := by
  have hf : (chk s.me).find? (fun c => c.1.isSome) = none := by
    rw [List.find?_eq_none]
    intro c hm
    simp [hc c hm]
  rw [scalarMem, scalarGo_free s hb, hf]

end Issue

/-- R3: the bytes of a number, one by one. -/
theorem natLE_eq_map (n : Nat) : ∀ v, natLE n v = (List.range n).map (fun i => BitVec.ofNat 8 (v / 2 ^ (8 * i))) := by
  induction n with
  | zero => exact fun v => rfl
  | succ n ih =>
    intro v
    rw [natLE, ih, List.range_succ_eq_map, List.map_cons, List.map_map]
    refine congrArg₂ _ (by simp) (List.map_congr_left fun i _ => ?_)
    simp only [Function.comp, Nat.div_div_eq_div_mul, Nat.succ_eq_add_one, Nat.mul_add, Nat.pow_add]
    rw [Nat.mul_comm]

/-- R3: the bytes of a register or pair, as the statements list them. -/
theorem wdata_eq_regBytes (g : Gang) (wide : Bool) (r : Nat) : g.wdata wide r = regBytes g wide r := by
  unfold Gang.wdata regBytes
  have hlow (w : Word) (i : Nat) : BitVec.ofNat 8 (w.toNat / 2 ^ (8 * i)) = w.extractLsb' (8 * i) 8 := by
    rw [BitVec.extractLsb', Nat.shiftRight_eq_div_pow]
  cases wide with
  | false =>
    simp only [Bool.false_eq_true, if_false, natLE_eq_map]
    refine List.map_congr_left fun i hi => ?_
    rw [if_pos (List.mem_range.1 hi), hlow]
  | true =>
    simp only [if_true, natLE_eq_map]
    refine List.map_congr_left fun i hi => ?_
    have hi := List.mem_range.1 hi
    rw [Gang.rp, ← Nat.shiftRight_eq_div_pow]
    change (g.rs (r + 1) ++ g.rs r).extractLsb' (8 * i) 8 = _
    split
    · next h => rw [BitVec.extractLsb'_append_eq_of_add_le (by omega)]
    · next h => rw [BitVec.extractLsb'_append_eq_of_le (by omega)]; congr 1; omega


theorem wdst_sregs (wide : Bool) (r : Nat) : (wdst wide r).sregs = wregs wide r := by cases wide <;> rfl

/-- One check that does not fail. -/
theorem check_none {c : Option Nat} {a : Dword} (h : c = none) : ∀ x ∈ [(c, a)], x.1 = none := by simpa using h

/-- Settles O17: each access is a memory instruction whose checks do not fail (`scalarMem_enters`), so it enters its operation
(`issues_of_enter`). -/
theorem scalarAccessesIssue : Obligations.ScalarAccessesIssue := by
  intro s sa base
  have himm (i : Fin 4096) : (BitVec.ofNat 12 i.val).signExtend 64 = sx 12 i.val :=
    (sx_eq_signExtend (by omega) (by omega) i.isLt).symm
  simp only [himm, ← wdata_eq_regBytes]
  refine ⟨fun sd i hb ha => ?_, fun sd i hb ha => ?_, fun wide sc sd hb ha => ?_, fun hq =>
    ⟨fun sd col w hb ha => ?_, fun sd col w hb ha => ?_, fun wide sc m col sd hb ha => ?_,
      fun op wide sc ord col sd sb hb ha => ?_, fun wide sc ord col sd sb hb ha => ?_, fun sc m inc col sd sb hb hp hc => ?_⟩⟩
  case refine_1 | refine_2 =>
    refine issues_of_enter ?_ (fun h => by cases h) rfl
    simp only [exec_sld, exec_sldD, execSld, execSldD, sload]
    exact scalarMem_enters hb (check_none ha)
  case refine_3 =>
    refine issues_of_enter ?_ (fun h => by cases h) (wdst_sregs wide _)
    rw [exec_sldAcq, execSldAcq]
    exact scalarMem_enters hb (check_none ha)
  case refine_4 | refine_5 | refine_6 =>
    refine issues_of_enter ?_ (fun _ => hq) rfl
    simp only [exec_sst, exec_sstD, exec_sstRel, execSst, execSstD, sstore, execSstRel]
    exact scalarMem_enters hb (check_none ha)
  case refine_7 | refine_8 =>
    refine issues_of_enter ?_ (fun _ => hq) (wdst_sregs wide _)
    simp only [exec_satom, exec_scas, execSatom, execScas]
    exact scalarMem_enters hb (check_none ha)
  case refine_9 =>
    refine issues_of_enter ?_ (fun _ => hq) rfl
    rw [exec_ssendsig, execSsendsig]
    exact scalarMem_enters hb (by simpa using ⟨hp, hc⟩)

end Sys2Proof.Proofs
end

section
open Sys2Proof Sys2Proof.Machine Sys2Proof.Claims Sys2Proof.Laws

namespace Sys2Proof.Proofs

/-! ### The long operations as they issue (R171, R286, R303, R306, R327, R344, R348) -/

section LongOperations
variable {s : State}

/-- R306: an offset that is aligned and ends in the scratchpad passes its checks. -/
theorem sredeem_issues {sa sb : Pair} {tr : Bool} {sc : Scope} {sd off : SReg}
    (hb : s.me.sBlocked (pr sa ++ pr sb ++ [off.val]) (if tr then [sd.val] else []) = false) (ho : (s.me.rs off.val).toNat % 32 = 0)
    (hl : (s.me.rs off.val).toNat + tkLen (s.me.rp (ev sa)).toNat ≤ s.myCrew.scrSize) (hc : addrCause 8 (s.me.rp (ev sb)) = none) :
    Issues (.sredeem tr sc sd off sa sb) s 8 (if tr then [sd.val] else [])
      { s.baseOp with kind := .sredeem tr, scope := sc, width := 8, arg := [s.me.rs off.val],
                      els := [element 0 (s.me.rp (ev sa)) [], element 1 (s.me.rp (ev sb)) (regBytes s.me true (ev sa))],
                      dst := if tr then .sreg sd.val else .none } := by
  rw [← wdata_eq_regBytes]
  refine issues_of_enter ?_ (fun h => by cases h) (by cases tr <;> rfl)
  rw [exec_sredeem, execSredeem]
  exact scalarMem_enters hb (by simp only [setWidth_toNat]; simp [ho, hc, hl])

/-- R286: a frame instruction on an address of a page. -/
theorem pageOp_issues {i : Instr} {sa : Pair} {kind : OpKind} {dst : Dst} {ord : Order} (he : exec i s = pageOp s kind dst sa ord)
    (hq : s.queueFull s.cur = false) (hb : s.me.sBlocked (pr sa) dst.sregs = false) (ha : atPage (s.me.rp (ev sa)) = true) :
    Issues i s 8 dst.sregs (entryOf s kind .die ord (ordMask ord) 0 4 [element 0 (s.me.rp (ev sa)) []] dst) := by
  refine issues_of_enter ?_ (fun _ => hq) rfl
  rw [he, pageOp]
  exact scalarMem_enters hb (check_none (by simp [pageCause_eq, ha]))

/-- R327: a request (`pfxwalk` and the like) whose table and record are aligned and lie on a die. -/
theorem pfxOp_issues {i : Instr} {kind : Nat} {sc : Scope} {sd sb : Pair} {blk : Fin 16} (he : exec i s = pfxOp kind sc sd blk sb s)
    (hq : s.queueFull s.cur = false) (hb : s.me.sBlocked ((pfxUses kind).map (8 * blk.val + ·) ++ pr sb) (pr sd) = false)
    (hr : atDie (s.me.rp (ev sb)) = true) (hr' : (s.me.rp (ev sb)).toNat % 32 = 0) (ht : atDie (s.me.rp (8 * blk.val)) = true)
    (ht' : (s.me.rp (8 * blk.val)).toNat % 64 = 0) :
    Issues i s 8 (pr sd)
      { entryOf s (.pfx kind) .dev .rel (BitVec.allOnes 8) 0 4 [element 0 (s.me.rp (8 * blk.val)) []] (.pair (ev sd)) with
        arg := (List.range 8).map (fun i => if i ∈ pfxUses kind then s.me.rs (8 * blk.val + i) else 0)
          ++ [s.me.rs (ev sb), s.me.rs (ev sb + 1), BitVec.ofNat 32 sc.code] } := by
  refine issues_of_enter ?_ (fun _ => hq) rfl
  simp only [← List.contains_iff_mem]
  rw [he, pfxOp]
  refine scalarMem_enters hb fun c hc => ?_
  simp only [List.mem_cons, List.not_mem_nil, or_false] at hc
  obtain rfl | rfl | rfl | rfl := hc
  · exact if_neg (not_not.2 ht')
  · exact if_neg (not_not.2 hr')
  · exact (dieCause_eq _).trans (by simp [ht])
  · exact (dieCause_eq _).trans (by simp [hr])

/-- R171: `mwait` issues its read, and the gang waits for it. -/
theorem mwait_waits {sd : SReg} {sa sb : Pair} {sc : Scope} {cmp : WaitCmp} (hb : s.me.sBlocked (pr sa ++ pr sb) [sd.val] = false)
    (ha : addrCause 8 (s.me.rp (ev sa)) = none) :
    exec (.mwait sd sa sb sc cmp) s = .next ((s.issue { s.baseOp with
      kind := .mwait cmp, scope := sc, ord := .acq, width := 8, els := [el1 (s.me.rp (ev sa)) []], dst := .sreg sd.val,
      arg := [s.me.rs (ev sb), s.me.rs (ev sb + 1)] }).setMe { s.me with wait := .mwait s.nextOp, pc := s.me.pc + 4 }) := by
  rw [exec_mwait, execMwait, scalarGo_free s hb]
  simp only [ha]

/-- R92: a gang that waits issues nothing. -/
theorem scalarReady_of_wait {k : Nat} (h : (s.gang k).wait ≠ .none) : s.scalarReady k = false := by
  simp [State.scalarReady, State.mayIssue, h]

end LongOperations

/-- Settles O18: `mwait` by its own lemma (`mwait_waits`); each long operation enters its operation, since its checks do not fail
(`scalarMem_enters`, `issues_of_enter`). -/
theorem waitsAndLongOperationsIssue : Obligations.WaitsAndLongOperationsIssue := by
  refine ⟨fun sd sa sb sc cmp s hb ha => ?_, fun s sa => ⟨fun hb => ?_, fun sd hb => ?_, fun tr sc sd off sb hb ho hl hc => ?_,
    fun l sc sd r hb => ?_, fun l sd r hb => ?_, fun p sd n hn hp hb => ?_, fun hq => ⟨fun tr n l sd hb ha h32 h512 => ?_,
      fun tr sd hb ha => ?_, fun sd hb ha => ?_, fun pool sd hb ha => ?_, fun tr q sd hb ha h64 => ?_,
      fun p hp sc sd blk hb hr hr' ht ht' => ?_⟩⟩⟩
  · exact ⟨_, _, mwait_waits hb ha, rfl, setMe_me .., scalarReady_of_wait (by simp [State.setMe]), fun _ => ⟨rfl, rfl, rfl, fun _ => rfl⟩,
      fun k hk => (setMe_gang ..).trans (if_neg hk)⟩
  · refine issues_of_enter ?_ (fun h => by cases h) rfl
    rw [exec_kdrop, execKdrop]
    exact scalarMem_enters hb (by simp)
  · refine issues_of_enter ?_ (fun h => by cases h) rfl
    rw [exec_kstat, execKstat]
    exact scalarMem_enters hb (by simp)
  · exact sredeem_issues hb ho hl hc
  · refine issues_of_enter ?_ (fun h => by cases h) rfl
    rw [exec_jcount, execJcount]
    exact scalarMem_enters hb (by simp)
  · refine issues_of_enter ?_ (fun h => by cases h) rfl
    rw [exec_jcancel, execJcancel]
    exact scalarMem_enters hb (by simp)
  · have hpr : pr p = [sd.val, sd.val + 1] := by rw [hp]; rfl
    rw [hpr] at hb ⊢
    refine issues_of_enter ?_ (fun h => by cases h) rfl
    have hw : sregWidth n.val = some 64 := by rw [hn]; rfl
    simp only [exec_srd, execSrd, hw, beq_self_eq_true, if_true]
    rw [scalarGo_free s hb, if_pos hn]
  · refine issues_of_enter ?_ (fun _ => hq) rfl
    rw [exec_fetchk, execFetchk]
    exact scalarMem_enters hb (check_none ((fetchCause_eq _ _).trans (by rw [if_neg (by dsimp only; omega)]; simp [ha])))
  · exact pageOp_issues rfl hq hb ha
  · exact pageOp_issues rfl hq hb ha
  · exact pageOp_issues rfl hq hb ha
  · refine issues_of_enter ?_ (fun _ => hq) rfl
    rw [exec_slaunch, execSlaunch]
    exact scalarMem_enters hb (check_none ((if_neg (not_not.2 h64)).trans ((dieTest_eq _).trans (by simp [ha]))))
  · simp only [List.mem_cons, List.not_mem_nil, or_false] at hp
    obtain rfl | rfl | rfl | rfl := hp <;> exact pfxOp_issues rfl hq hb hr hr' ht ht'

end Sys2Proof.Proofs
end

section
open Sys2Proof Sys2Proof.Machine Sys2Proof.Claims Sys2Proof.Laws

namespace Sys2Proof.Proofs

/-! ### Hardware barriers (R172) -/

/-- A gang once barrier `i` is released. -/
def freedFrom (i : Nat) (g : Gang) : Gang :=
  match g.wait with
  | .bar j _ => if j = i then { g with wait := .none } else g
  | _ => g

theorem waits_or_not (i : Nat) (g : Gang) : (∃ pc, g.wait = .bar i pc) ∨ ∀ pc, g.wait ≠ .bar i pc := by
  by_cases h : ∃ pc, g.wait = .bar i pc
  · exact .inl h
  · exact .inr (not_exists.1 h)

theorem freedFrom_waits {i : Nat} {g : Gang} {pc : Word} (h : g.wait = .bar i pc) : freedFrom i g = { g with wait := .none } := by
  simp only [freedFrom, h, if_true]

theorem freedFrom_other {i : Nat} {g : Gang} (h : ∀ pc, g.wait ≠ .bar i pc) : freedFrom i g = g := by
  unfold freedFrom
  split
  · next j pc hw =>
    refine if_neg ?_
    rintro rfl
    exact h pc hw
  · rfl

theorem freedFrom_freedFrom (i : Nat) (g : Gang) : freedFrom i (freedFrom i g) = freedFrom i g := by
  obtain ⟨pc, h⟩ | h := waits_or_not i g
  · rw [freedFrom_waits h]
    exact freedFrom_other nofun
  · rw [freedFrom_other h, freedFrom_other h]

section Release
variable {i : Nat}

theorem barRelease_gang (k : Nat) (ks : List Nat) : ∀ s : State,
    (s.barRelease i ks).gang k = if k ∈ ks then freedFrom i (s.gang k) else s.gang k := by
  induction ks with
  | nil => exact fun s => rfl
  | cons j ks ih =>
    intro s
    refine (ih (s.setGang j (freedFrom i (s.gang j)))).trans ?_
    rw [setGang_gang]
    by_cases hj : k = j
    · subst hj
      simp [freedFrom_freedFrom]
    · simp [hj]

theorem barRelease_crew (c : Nat) (ks : List Nat) : ∀ s : State, (s.barRelease i ks).crew c = s.crew c := by
  induction ks with
  | nil => exact fun s => rfl
  | cons j ks ih => exact fun s => ih (s.setGang j (freedFrom i (s.gang j)))

end Release

/-! #### The trap of a generation -/

/-- Two states whose crews have the same handlers and barriers, and whose gangs belong to the same crews. -/
structure CrewsSame (s t : State) : Prop where
  member : ∀ k, (t.gang k).crew = (s.gang k).crew
  handler : ∀ c, (t.crew c).handler = (s.crew c).handler
  bars : ∀ c, (t.crew c).bars = (s.crew c).bars

theorem CrewsSame.trans {s t u : State} (h : CrewsSame s t) (g : CrewsSame t u) : CrewsSame s u :=
  ⟨fun k => (g.member k).trans (h.member k), fun c => (g.handler c).trans (h.handler c), fun c => (g.bars c).trans (h.bars c)⟩

section TakeTrap
variable (s : State)

theorem setGang_crewsSame {k : Nat} {g : Gang} (hg : g.crew = (s.gang k).crew) : CrewsSame s (s.setGang k g) :=
  ⟨fun j => by
    rw [setGang_gang]
    split
    · next h => rw [h, hg]
    · rfl, fun _ => rfl, fun _ => rfl⟩

theorem setCrew_crewsSame {c : Nat} {w : Crew} (hh : w.handler = (s.crew c).handler) (hb : w.bars = (s.crew c).bars) :
    CrewsSame s (s.setCrew c w) :=
  ⟨fun _ => rfl, fun b => by rw [setCrew_crew]; split_ifs with h <;> simp [h, hh],
    fun b => by rw [setCrew_crew]; split_ifs with h <;> simp [h, hb]⟩

theorem stopCrew_crewsSame (c : Nat) (i : StopInfo) : CrewsSame s (s.stopCrew c i) := by
  unfold State.stopCrew
  dsimp only
  split
  · exact setCrew_crewsSame s rfl rfl
  · exact ⟨fun _ => rfl, fun _ => rfl, fun _ => rfl⟩

theorem stopCrew_gang (c k : Nat) (i : StopInfo) : (s.stopCrew c i).gang k = s.gang k := by
  unfold State.stopCrew
  dsimp only
  split <;> rfl

/-- A trap is taken by the handler, or stops the crew. -/
theorem handler_or_stops (k : Nat) : (∃ h, (s.crew (s.gang k).crew).handler = some h ∧ (s.gang k).trap.handler = false)
    ∨ (s.crew (s.gang k).crew).handler = none ∨ (s.gang k).trap.handler = true := by
  cases (s.crew (s.gang k).crew).handler <;> cases (s.gang k).trap.handler <;> simp

/-- Of the trap of one gang another one notices reports and flags only. -/
theorem takeTrap_others {j k : Nat} (t : TrapInfo) (hj : j ≠ k) : NotesOnly (s.gang j) ((s.takeTrap k t).gang j) := by
  obtain ⟨h, hh, hm⟩ | h := handler_or_stops s k
  · exact takeTrap_notesOnly s t hh hm hj
  · rw [takeTrap_stops s t h, stopCrew_gang, setGang_gang, if_neg hj]
    rfl

theorem takeTrap_crewsSame (k : Nat) (t : TrapInfo) : CrewsSame s (s.takeTrap k t) := by
  obtain ⟨h, hh, hm⟩ | h := handler_or_stops s k
  · refine ⟨fun j => ?_, fun _ => ?_, fun _ => ?_⟩
    · by_cases hj : j = k
      · rw [hj, takeTrap_gang s t hh hm]
      · rw [takeTrap_notesOnly s t hh hm hj]
    all_goals
      rw [takeTrap_only s t hh hm]
      rfl
  · rw [takeTrap_stops s t h]
    refine (setGang_crewsSame s ?_).trans (stopCrew_crewsSame _ _ _)
    rfl

end TakeTrap

section Trap
variable {i : Nat}

/-- The trap that ends the generation of a barrier (R172). -/
def barTrapInfo (pc : Word) : TrapInfo := ⟨0x10, false, false, pc, 0, 0, 0, 0, 0, 0⟩

/-- The trap of one gang of a generation. -/
def State.barTrapOne (s : State) (k : Nat) (pc : Word) : State :=
  (s.setGang k { s.gang k with wait := .none }).takeTrap k (barTrapInfo pc)

theorem barTrapOne_crewsSame (s : State) (k : Nat) (pc : Word) : CrewsSame s (State.barTrapOne s k pc) := by
  refine (setGang_crewsSame s ?_).trans (takeTrap_crewsSame _ _ _)
  rfl

theorem barTrapOne_others (s : State) {j k : Nat} (pc : Word) (hj : j ≠ k) : NotesOnly (s.gang j) ((State.barTrapOne s k pc).gang j) := by
  have h := takeTrap_others (s.setGang k { s.gang k with wait := .none }) (barTrapInfo pc) hj
  rwa [setGang_gang, if_neg hj] at h

/-- A gang of the slot list that waits at the barrier traps; the list goes on. -/
theorem barTrap_cons_waits {s : State} {k : Nat} {pc : Word} (ks : List Nat) (h : (s.gang k).wait = .bar i pc) :
    s.barTrap i (k :: ks) = (State.barTrapOne s k pc).barTrap i ks := by
  simp only [State.barTrap, h, if_true]
  rfl

theorem barTrap_cons_other {s : State} {k : Nat} (ks : List Nat) (h : ∀ pc, (s.gang k).wait ≠ .bar i pc) :
    s.barTrap i (k :: ks) = s.barTrap i ks := by
  simp only [State.barTrap]
  split
  · next j pc hw =>
    refine if_neg ?_
    rintro rfl
    exact h pc hw
  · rfl

theorem barTrap_crewsSame (ks : List Nat) : ∀ s : State, CrewsSame s (s.barTrap i ks) := by
  induction ks with
  | nil => exact fun s => ⟨fun _ => rfl, fun _ => rfl, fun _ => rfl⟩
  | cons k ks ih =>
    intro s
    obtain ⟨pc, h⟩ | h := waits_or_not i (s.gang k)
    · rw [barTrap_cons_waits ks h]
      exact (barTrapOne_crewsSame s k pc).trans (ih _)
    · rw [barTrap_cons_other ks h]
      exact ih s

/-- A gang that does not wait at the barrier notices reports and flags only. -/
theorem barTrap_others {k : Nat} (ks : List Nat) : ∀ s : State, (∀ pc, (s.gang k).wait ≠ .bar i pc) →
    NotesOnly (s.gang k) ((s.barTrap i ks).gang k) := by
  induction ks with
  | nil => exact fun s _ => rfl
  | cons j ks ih =>
    intro s hk
    obtain ⟨pc, h⟩ | h := waits_or_not i (s.gang j)
    · rw [barTrap_cons_waits ks h]
      have hj : k ≠ j := by
        rintro rfl
        exact hk pc h
      have hn := barTrapOne_others s pc hj
      refine hn.trans (ih _ fun pc' hw => hk pc' ?_)
      rwa [hn] at hw
    · rw [barTrap_cons_other ks h]
      exact ih s hk

/-- R172: a gang that waits at the barrier, whose launch names a handler, enters it with cause 0x10. -/
theorem barTrap_waits {k hd : Nat} {pc : Word} (ks : List Nat) : ∀ s : State, k ∈ ks → (s.gang k).wait = .bar i pc →
    (s.crew (s.gang k).crew).handler = some hd → (s.gang k).trap.handler = false →
    let g := (s.barTrap i ks).gang k
    g.wait = .none ∧ g.trap.tcause = 0x10 ∧ g.pc = BitVec.ofNat 32 hd := by
  induction ks with
  | nil => exact fun s h => absurd h List.not_mem_nil
  | cons j ks ih =>
    intro s hk hw hh hm g
    by_cases hj : j = k
    · have h1 : g = ((State.barTrapOne s k pc).barTrap i ks).gang k :=
        congrArg (State.gang · k) (hj ▸ barTrap_cons_waits ks (hj ▸ hw))
      have h2 : (State.barTrapOne s k pc).gang k = { s.gang k with
          wait := .none, trap := (s.gang k).trap.record (barTrapInfo pc), pc := BitVec.ofNat 32 hd, trapWait := none,
          parked := false, sWait := false } := by
        refine (takeTrap_gang _ (barTrapInfo pc) (h := hd) ?_ ?_).trans ?_ <;> simp [hh, hm]
      have h3 := barTrap_others (i := i) ks (State.barTrapOne s k pc) (fun pc' => by rw [h2]; exact nofun)
      rw [h2] at h3
      rw [h1, h3]
      exact ⟨rfl, rfl, rfl⟩
    · have hin : k ∈ ks := (List.mem_cons.1 hk).resolve_left (Ne.symm hj)
      obtain ⟨pc', h⟩ | h := waits_or_not i (s.gang j)
      · have hn := barTrapOne_others s pc' (Ne.symm hj)
        have hc := barTrapOne_crewsSame s j pc'
        have hi := ih (State.barTrapOne s j pc') hin (by rw [hn]; exact hw) (by rw [hc.handler, hc.member]; exact hh)
          (by rw [hn]; exact hm)
        rwa [← barTrap_cons_waits ks h] at hi
      · have hi := ih s hin hw hh hm
        rwa [← barTrap_cons_other ks h] at hi

end Trap

/-! #### An arrival -/

theorem setBar_bar (w : Crew) (i : Nat) (b : Barrier) : (w.setBar i b).bar i = b := get_put_self

/-- The state in which a gang has arrived at a barrier, before its generation is looked at. -/
def arrivedAt (s : State) (i n : Nat) : State :=
  (s.setMe { s.me with wait := .bar i s.me.pc, pc := s.me.pc + 8 }).setCrew s.me.crew
    (s.myCrew.setBar i ⟨n, (s.myCrew.bar i).arrived ++ [s.me.num]⟩)

section Arrival
variable {s : State} {i n : Nat}

theorem arrivedAt_gang (k : Nat) : (arrivedAt s i n).gang k
    = if k = s.cur then { s.me with wait := .bar i s.me.pc, pc := s.me.pc + 8 } else s.gang k := by
  rw [arrivedAt, setCrew_gang, setMe_gang]

theorem arrivedAt_crew (c : Nat) : (arrivedAt s i n).crew c
    = if c = s.me.crew then s.myCrew.setBar i ⟨n, (s.myCrew.bar i).arrived ++ [s.me.num]⟩ else s.crew c := by
  rw [arrivedAt, setCrew_crew, setMe_crew]

theorem arrivedAt_sameBytes : s.SameBytes (arrivedAt s i n) :=
  sameBytes_setCrew (s.setMe _) _ rfl

/-- An arrival changes neither who runs nor who is who. -/
theorem arrivedAt_runs (k : Nat) : ((arrivedAt s i n).gang k).phase = (s.gang k).phase
    ∧ ((arrivedAt s i n).gang k).num = (s.gang k).num ∧ ((arrivedAt s i n).gang k).crew = (s.gang k).crew
    ∧ ((arrivedAt s i n).gang k).trap = (s.gang k).trap := by
  rw [arrivedAt_gang]
  split
  · next h => rw [h]; exact ⟨rfl, rfl, rfl, rfl⟩
  · exact ⟨rfl, rfl, rfl, rfl⟩

/-- R172: an arrival with a count that can be reached, and is the generation's. -/
theorem exec_sbar_arrives {id : Fin 16} {sa : SReg} (h : Arrives s [sa.val] []) (hn : n = if sa.val = 0 then 0 else (s.me.rs sa.val).toNat)
    (hc : sa.val ≠ 0 → 0 < n ∧ n ≤ s.myCrew.ngangs) (hb : (s.myCrew.bar id.val).arrived ≠ [] → (s.myCrew.bar id.val).n = n) :
    exec (.sbar id sa) s = .next ((arrivedAt s id.val n).barCheck s.me.crew id.val) := by
  rw [exec_sbar, execSbar, arrival_go h]
  dsimp only
  rw [← hn, if_neg (by rintro ⟨h0, hz⟩; have := hc h0; omega), if_neg (by rintro ⟨h0, hz⟩; exact hz (hb h0))]
  rfl

/-! #### What becomes of the generation -/

/-- The gangs of a crew that run and are not among those that have arrived. -/
def stillToCome (s : State) (i : Nat) : Nat :=
  (s.myCrew.slots.filter (fun k => (s.gang k).phase == .running
    && !((s.myCrew.bar i).arrived ++ [s.me.num]).contains (s.gang k).num)).length

/-- The state in which the barrier of a generation that ends is empty again. -/
def emptied (s : State) (i n : Nat) : State :=
  (arrivedAt s i n).setCrew s.me.crew ((s.myCrew.setBar i ⟨n, (s.myCrew.bar i).arrived ++ [s.me.num]⟩).setBar i ⟨0, []⟩)

theorem emptied_gang (k : Nat) : (emptied s i n).gang k = (arrivedAt s i n).gang k := rfl

theorem emptied_crew (c : Nat) : (emptied s i n).crew c = if c = s.me.crew then
    (s.myCrew.setBar i ⟨n, (s.myCrew.bar i).arrived ++ [s.me.num]⟩).setBar i ⟨0, []⟩ else s.crew c := by
  rw [emptied, setCrew_crew]
  split
  · rfl
  · next hc => rw [arrivedAt_crew, if_neg hc]

theorem emptied_sameBytes : s.SameBytes (emptied s i n) := by
  refine sameBytes_trans (arrivedAt_sameBytes (i := i) (n := n)) (sameBytes_setCrew _ _ ?_)
  rw [arrivedAt_crew, if_pos rfl]
  rfl

/-- The state in which the generation is looked at, as `State.barCheck` sees it. -/
theorem arrivedAt_barCheck : (arrivedAt s i n).barCheck s.me.crew i =
    if n = 0 then
      if s.myCrew.ngangs - s.exited s.myCrew ≤ (s.myCrew.bar i).arrived.length + 1 then (emptied s i n).barRelease i s.myCrew.slots
      else arrivedAt s i n
    else if n ≤ (s.myCrew.bar i).arrived.length + 1 then (emptied s i n).barRelease i s.myCrew.slots
    else if (s.myCrew.bar i).arrived.length + 1 + stillToCome s i < n then (emptied s i n).barTrap i s.myCrew.slots
    else arrivedAt s i n := by
  have hbar : (s.myCrew.setBar i ⟨n, (s.myCrew.bar i).arrived ++ [s.me.num]⟩).bar i = ⟨n, (s.myCrew.bar i).arrived ++ [s.me.num]⟩ := setBar_bar ..
  have hcrew : (arrivedAt s i n).crew s.me.crew = s.myCrew.setBar i ⟨n, (s.myCrew.bar i).arrived ++ [s.me.num]⟩ :=
    (arrivedAt_crew _).trans (if_pos rfl)
  have hout : (arrivedAt s i n).exited (s.myCrew.setBar i ⟨n, (s.myCrew.bar i).arrived ++ [s.me.num]⟩) = s.exited s.myCrew :=
    congrArg List.length (List.filter_congr fun k _ => by rw [(arrivedAt_runs k).1])
  have hmore : (s.myCrew.slots.filter (fun k => ((arrivedAt s i n).gang k).phase == .running
      && !((s.myCrew.bar i).arrived ++ [s.me.num]).contains ((arrivedAt s i n).gang k).num)).length = stillToCome s i :=
    congrArg List.length (List.filter_congr fun k _ => by rw [(arrivedAt_runs k).1, (arrivedAt_runs k).2.1])
  rw [State.barCheck, hcrew]
  simp only [hbar, hout]
  rw [if_neg (by simp), List.length_append, List.length_singleton]
  change (if n = 0 then _ else if _ then _ else if _ + _ + (s.myCrew.slots.filter _).length < n then _ else _) = _
  rw [hmore]
  rfl

end Arrival

section Generation
variable {s : State} {id : Fin 16} {sa : SReg} {n : Nat}

/-- R172: the arrival that completes its generation. -/
theorem sbar_completes (he : exec (.sbar id sa) s = .next ((emptied s id.val n).barRelease id.val s.myCrew.slots))
    (hcur : s.cur ∈ s.myCrew.slots) :
    ∃ t, exec (.sbar id sa) s = .next t ∧ t.me = { s.me with pc := s.me.pc + 8, wait := .none }
      ∧ t.myCrew.bar id.val = ⟨0, []⟩ ∧ s.SameBytes t
      ∧ ∀ k ∈ s.myCrew.slots, k ≠ s.cur → t.gang k = freedFrom id.val (s.gang k) := by
  have hh := barRelease_holdsSame id.val s.myCrew.slots (emptied s id.val n)
  have hme : ((emptied s id.val n).barRelease id.val s.myCrew.slots).me = { s.me with pc := s.me.pc + 8, wait := .none } := by
    have hc : ((emptied s id.val n).barRelease id.val s.myCrew.slots).cur = s.cur := hh.cur
    rw [State.me, hc, barRelease_gang, if_pos hcur, emptied_gang, arrivedAt_gang, if_pos rfl]
    exact freedFrom_waits rfl
  refine ⟨(emptied s id.val n).barRelease id.val s.myCrew.slots, he, hme, ?_, sameBytes_trans emptied_sameBytes hh.bytes, fun k hk hne => ?_⟩
  · rw [State.myCrew, hme, barRelease_crew, emptied_crew, if_pos rfl]
    exact setBar_bar ..
  · rw [barRelease_gang, if_pos hk, emptied_gang, arrivedAt_gang, if_neg hne]

/-- R172: the arrival after which the count can no longer be reached. -/
theorem sbar_fails (he : exec (.sbar id sa) s = .next ((emptied s id.val n).barTrap id.val s.myCrew.slots)) :
    ∃ t, exec (.sbar id sa) s = .next t ∧ t.myCrew.bar id.val = ⟨0, []⟩
      ∧ ∀ k ∈ s.myCrew.slots, (k = s.cur ∨ ∃ pc, (s.gang k).wait = .bar id.val pc) → ∀ hd,
          (s.crew (s.gang k).crew).handler = some hd → (s.gang k).trap.handler = false →
          (t.gang k).wait = .none ∧ (t.gang k).trap.tcause = 0x10 ∧ (t.gang k).pc = BitVec.ofNat 32 hd := by
  have hh := barTrap_holdsSame id.val s.myCrew.slots (emptied s id.val n)
  have hc := barTrap_crewsSame (i := id.val) s.myCrew.slots (emptied s id.val n)
  refine ⟨(emptied s id.val n).barTrap id.val s.myCrew.slots, he, ?_, fun k hk hw hd hhd hm => ?_⟩
  · have hme : ((emptied s id.val n).barTrap id.val s.myCrew.slots).me.crew = s.me.crew := by
      have hcur : ((emptied s id.val n).barTrap id.val s.myCrew.slots).cur = s.cur := hh.cur
      rw [State.me, hcur, hc.member, emptied_gang]
      exact (arrivedAt_runs _).2.2.1
    rw [State.myCrew, hme, Crew.bar, hc.bars, emptied_crew, if_pos rfl]
    exact setBar_bar ..
  · have hw' : ∃ pc, ((emptied s id.val n).gang k).wait = .bar id.val pc := by
      rw [emptied_gang, arrivedAt_gang]
      split
      · exact ⟨_, rfl⟩
      · next hne => exact hw.resolve_left hne
    have hhand (c : Nat) : ((emptied s id.val n).crew c).handler = (s.crew c).handler := by
      rw [emptied_crew]
      split
      · next hc =>
        rw [hc]
        rfl
      · rfl
    obtain ⟨pc, hw'⟩ := hw'
    obtain ⟨-, -, hcr, htr⟩ := arrivedAt_runs (s := s) (i := id.val) (n := n) k
    exact barTrap_waits _ _ hk hw' (by rw [emptied_gang, hhand, hcr, hhd]) (by rw [emptied_gang, htr, hm])

/-- R172: an arrival after which the generation goes on. -/
theorem sbar_waits (he : exec (.sbar id sa) s = .next (arrivedAt s id.val n)) :
    ∃ t, exec (.sbar id sa) s = .next t ∧ t.me = { s.me with pc := s.me.pc + 8, wait := .bar id.val s.me.pc }
      ∧ t.myCrew.bar id.val = ⟨n, (s.myCrew.bar id.val).arrived ++ [s.me.num]⟩ ∧ s.SameBytes t
      ∧ ∀ k, k ≠ s.cur → t.gang k = s.gang k := by
  have hme : (arrivedAt s id.val n).me = { s.me with pc := s.me.pc + 8, wait := .bar id.val s.me.pc } :=
    (arrivedAt_gang s.cur).trans (if_pos rfl)
  refine ⟨_, he, hme, ?_, arrivedAt_sameBytes, fun k hk => (arrivedAt_gang k).trans (if_neg hk)⟩
  rw [State.myCrew, hme, arrivedAt_crew, if_pos rfl]
  exact setBar_bar ..

end Generation

/-- Settles O11: after the arrival (`exec_sbar_arrives`) the model looks at the generation once (`arrivedAt_barCheck`), which
ends (`sbar_completes`), goes on (`sbar_waits`) or can no longer end (`sbar_fails`). -/
theorem hardwareBarrier : Obligations.HardwareBarrier := by
  intro id sa s hc ho hb hcur n
  have hdef : n = if sa.val = 0 then 0 else (s.me.rs sa.val).toNat := rfl
  clear_value n
  intro b hn hb' full
  have he := exec_sbar_arrives ⟨hc, ho, hb⟩ hdef hn hb'
  rw [arrivedAt_barCheck] at he
  refine ⟨fun hfull => sbar_completes (n := n) (he.trans ?_) hcur, fun hfull hmore => sbar_waits (he.trans ?_),
    fun h0 hmore => sbar_fails (n := n) (he.trans ?_)⟩
  · by_cases h0 : n = 0
    · rw [if_pos h0, if_pos (by simpa only [full, h0, if_true] using hfull)]
    · rw [if_neg h0, if_pos (by simpa only [full, h0, if_false] using hfull)]
  · by_cases h0 : n = 0
    · rw [if_pos h0, if_neg (by simpa only [full, h0, if_true, not_le] using hfull)]
    · rw [if_neg h0, if_neg (by simpa only [full, h0, if_false, not_le] using hfull)]
      exact congrArg _ (if_neg (not_lt.2 (hmore.resolve_left h0)))
  · rw [if_neg h0, if_neg (fun h => Nat.not_lt.2 h (by omega : b.arrived.length + 1 < n))]
    exact congrArg _ (if_pos hmore)

end Sys2Proof.Proofs
end

section
open Sys2Proof Sys2Proof.Machine Sys2Proof.Claims Sys2Proof.Laws

namespace Sys2Proof.Proofs

/-! ### Stores to a scratchpad (R155, R173, R256) -/

section ScratchStore
variable (s : State)

theorem notified_scratch (w : Crew) (off n : Nat) : (w.notified off n).scratch = w.scratch := by
  unfold Crew.notified
  split <;> rfl

theorem notified_slots (w : Crew) (off n : Nat) : (w.notified off n).slots = w.slots := by
  unfold Crew.notified
  split <;> rfl

theorem wakeObj_of_left {w : Crew} {g : Gang} {off gen : Nat} {pc : Word} (h : g.wait = .barw off gen pc) (hg : w.objGen off ≠ gen) :
    g.wakeObj w = { g with wait := .none } := by
  simp only [Gang.wakeObj, h, hg, if_false]

theorem wakeObj_of_stays {w : Crew} {g : Gang} (h : ∀ off gen pc, g.wait = .barw off gen pc → w.objGen off = gen) :
    g.wakeObj w = g := by
  unfold Gang.wakeObj
  split
  · next hw => exact if_pos (h _ _ _ hw)
  · rfl

theorem wakeObj_or (w : Crew) (g : Gang) : g.wakeObj w = { g with wait := .none } ∨ g.wakeObj w = g := by
  unfold Gang.wakeObj
  split
  · split
    · exact .inr rfl
    · exact .inl rfl
  · exact .inr rfl

theorem wakeObj_wakeObj (w : Crew) (g : Gang) : (g.wakeObj w).wakeObj w = g.wakeObj w := by
  obtain h | h := wakeObj_or w g <;> rw [h]
  · exact wakeObj_of_stays nofun
  · exact h

theorem wakeObjs_gang (w : Crew) (k : Nat) (ks : List Nat) : ∀ s : State,
    (s.wakeObjs w ks).gang k = if k ∈ ks then (s.gang k).wakeObj w else s.gang k := by
  induction ks with
  | nil => exact fun s => rfl
  | cons j ks ih =>
    intro s
    refine (ih (s.setGang j ((s.gang j).wakeObj w))).trans ?_
    rw [setGang_gang]
    by_cases hj : k = j
    · subst hj
      simp [wakeObj_wakeObj]
    · simp [hj]

/-- Waking the waiters of an object changes gangs only. -/
theorem wakeObjs_only (w : Crew) (ks : List Nat) : ∀ s : State, s.wakeObjs w ks = { s with gangs := (s.wakeObjs w ks).gangs } := by
  induction ks with
  | nil => exact fun s => rfl
  | cons j ks ih => exact fun s => (ih (s.setGang j ((s.gang j).wakeObj w))).trans rfl

variable (c off : Nat) (bs : List Byte) (byGang : Bool)

/-- The crew after a store to its scratchpad. -/
def crewStored : Crew :=
  if byGang then ((s.crew c).writeScr off bs).notified off bs.length else (s.crew c).writeScr off bs

theorem crewStored_scratch : (crewStored s c off bs byGang).scratch = Map.putList 0 (s.crew c).scratch off bs := by
  unfold crewStored
  split
  · exact notified_scratch ..
  · rfl

theorem crewStored_slots : (crewStored s c off bs byGang).slots = (s.crew c).slots := by
  unfold crewStored
  split
  · exact notified_slots ..
  · rfl

theorem scrStore_eq : s.scrStore c off bs byGang
    = (s.setCrew c (crewStored s c off bs byGang)).wakeObjs (crewStored s c off bs byGang) (crewStored s c off bs byGang).slots := rfl

/-- A store to a scratchpad changes its crew and what gangs wait for. -/
theorem scrStore_only : s.scrStore c off bs byGang
    = { s with gangs := (s.scrStore c off bs byGang).gangs, crews := (s.scrStore c off bs byGang).crews } := by
  rw [scrStore_eq, wakeObjs_only]
  rfl

theorem scrStore_gang (k : Nat) : (s.scrStore c off bs byGang).gang k
    = if k ∈ (s.crew c).slots then (s.gang k).wakeObj (crewStored s c off bs byGang) else s.gang k := by
  rw [scrStore_eq, wakeObjs_gang, crewStored_slots]
  rfl

theorem scrStore_crew (b : Nat) : (s.scrStore c off bs byGang).crew b = if b = c then crewStored s c off bs byGang else s.crew b := by
  rw [scrStore_eq, wakeObjs_only]
  exact setCrew_crew ..

/-- A read of the bytes stored. -/
theorem scrStore_readScr : ((s.scrStore c off bs byGang).crew c).readScr off bs.length = bs := by
  rw [scrStore_crew, if_pos rfl, Crew.readScr, crewStored_scratch, getList_putList]

/-- Every other byte of the scratchpad stays. -/
theorem scrStore_readScr_other {b a : Nat} (h : b ≠ c ∨ a < off ∨ off + bs.length ≤ a) :
    ((s.scrStore c off bs byGang).crew b).readScr a 1 = (s.crew b).readScr a 1 := by
  rw [scrStore_crew]
  split
  · next hb =>
    subst hb
    simp only [Crew.readScr, Map.getList, crewStored_scratch, get_putList]
    rw [if_neg (by omega)]
  · rfl

end ScratchStore

/-! ### Barrier objects (R173) -/

section Objects
variable {s : State} {arrive : Bool} {sd sa : SReg} {gen ex arr : Nat}

/-- The word of an object after an arrival. -/
def objectAfter (gen ex arr : Nat) : Nat :=
  if arr = ex then (gen + 1) % 2 ^ 16 * 2 ^ 48 + ex * 2 ^ 32 else gen * 2 ^ 48 + ex * 2 ^ 32 + arr

theorem objectAfter_lt (hg : gen < 2 ^ 16) (he : ex < 2 ^ 16) (ha : arr ≤ ex) : objectAfter gen ex arr < 2 ^ (8 * 8) := by
  unfold objectAfter
  split <;> omega

/-- R173: its generation is another one exactly if the arrival was the last. -/
theorem objectAfter_gen (hg : gen < 2 ^ 16) (he : ex < 2 ^ 16) (ha : arr ≤ ex) : bits (objectAfter gen ex arr) 63 48 = gen ↔ arr ≠ ex := by
  simp only [bits, objectAfter]
  split <;> omega

/-- The gang that has arrived. -/
def arriving (g : Gang) (arrive : Bool) (sd : SReg) (off gen : Nat) : Gang :=
  { g.ws sd.val (BitVec.ofNat 32 gen) with pc := g.pc + 8, wait := if arrive then .none else .barw off gen g.pc }

/-- The state in which the object of an arrival is stored. -/
def objectStored (s : State) (arrive : Bool) (sd : SReg) (off gen ex arr : Nat) : State :=
  (s.setMe (arriving s.me arrive sd off gen)).scrStore s.me.crew off (natLE 8 (objectAfter gen ex arr)) true

/-- R173: an arrival that can be counted stores the object. -/
theorem exec_sbarw_arrives (h : Arrives s [sa.val] [sd.val]) {off word : Nat} (ho : off = (s.me.rs sa.val).toNat)
    (hw : word = leNat (s.myCrew.readScr off 8)) (h8 : off % 8 = 0) (hs : off + 8 ≤ s.myCrew.scrSize)
    (ha : word % 2 ^ 32 + 1 ≤ word / 2 ^ 32 % 2 ^ 16) :
    exec (.sbarw arrive sd sa) s = .next 
      (objectStored s arrive sd off (word / 2 ^ 48 % 2 ^ 16) (word / 2 ^ 32 % 2 ^ 16) (word % 2 ^ 32 + 1)) := by
  rw [exec_sbarw, execSbarw, arrival_go h]
  have hc : scrCause s.myCrew 8 ((s.me.rs sa.val).setWidth 64) = none := by
    rw [scrCause, setWidth_toNat, ← ho, if_neg (not_not.2 h8), if_neg (by omega)]
  simp only [hc, ← ho, ← hw]
  rw [if_neg]
  · simp [bits, objectAfter, arriving, objectStored]
  · simp only [bits, Nat.reduceAdd, Nat.reduceSub, Nat.pow_zero, Nat.div_one]
    omega

variable {off : Nat}

theorem objectStored_readScr :
    ((objectStored s arrive sd off gen ex arr).crew s.me.crew).readScr off 8 = natLE 8 (objectAfter gen ex arr) := by
  have h := scrStore_readScr (s.setMe (arriving s.me arrive sd off gen)) s.me.crew off (natLE 8 (objectAfter gen ex arr)) true
  rwa [length_natLE] at h

theorem objectStored_readScr_other {a : Nat} (h : a < off ∨ off + 8 ≤ a) :
    ((objectStored s arrive sd off gen ex arr).crew s.me.crew).readScr a 1 = s.myCrew.readScr a 1 :=
  scrStore_readScr_other _ _ _ _ _ (.inr (by rwa [length_natLE]))

theorem objectStored_crew {c : Nat} (hc : c ≠ s.me.crew) : (objectStored s arrive sd off gen ex arr).crew c = s.crew c :=
  (scrStore_crew ..).trans (if_neg hc)

theorem objectStored_bytes (a : Nat) : (objectStored s arrive sd off gen ex arr).readPhys a 1 = s.readPhys a 1
    ∧ (objectStored s arrive sd off gen ex arr).readHost a 1 = s.readHost a 1
    ∧ (objectStored s arrive sd off gen ex arr).readPeer a 1 = s.readPeer a 1 := by
  rw [objectStored, scrStore_only]
  exact ⟨rfl, rfl, rfl⟩

section Counted
variable (hg : gen < 2 ^ 16) (he : ex < 2 ^ 16) (ha : arr ≤ ex)
include hg he ha

theorem leNat_objectStored :
    leNat (((objectStored s arrive sd off gen ex arr).crew s.me.crew).readScr off 8) = objectAfter gen ex arr := by
  rw [objectStored_readScr]
  exact leNat_natLE 8 _ (objectAfter_lt hg he ha)

/-- The gang that has arrived waits, unless it only arrives or has completed the generation. -/
theorem wakeObj_arriving {w : Crew} (hw : w.objGen off = bits (objectAfter gen ex arr) 63 48) (g : Gang) :
    (arriving g arrive sd off gen).wakeObj w
      = { arriving g arrive sd off gen with wait := if arrive || arr == ex then .none else .barw off gen g.pc } := by
  cases arrive with
  | true => exact wakeObj_of_stays nofun
  | false =>
    by_cases hl : arr = ex
    · refine (wakeObj_of_left rfl ?_).trans (by simp [hl])
      rw [hw]
      exact fun h => (objectAfter_gen hg he ha).1 h hl
    · refine (wakeObj_of_stays fun off' gen' pc h => ?_).trans (by simp [hl, arriving])
      cases h
      exact hw.trans ((objectAfter_gen hg he ha).2 hl)

theorem objectStored_me (hcur : s.cur ∈ s.myCrew.slots) : (objectStored s arrive sd off gen ex arr).me
    = { arriving s.me arrive sd off gen with wait := if arrive || arr == ex then .none else .barw off gen s.me.pc } := by
  have hcur' : (objectStored s arrive sd off gen ex arr).cur = s.cur := by rw [objectStored, scrStore_only]; rfl
  rw [State.me, hcur', objectStored, scrStore_gang, setMe_gang, if_pos rfl]
  refine (if_pos hcur).trans (wakeObj_arriving hg he ha ?_ _)
  have h := leNat_objectStored (s := s) (arrive := arrive) (sd := sd) (off := off) hg he ha
  rw [objectStored, scrStore_crew, if_pos rfl] at h
  rw [Crew.objGen, h]

end Counted

end Objects

/-- Settles O12: the arrival is one store of the object (`exec_sbarw_arrives`), which wakes the gang itself exactly if its
generation is another one (`objectAfter_gen`). -/
theorem barrierObject : Obligations.BarrierObject := by
  intro arrive sd sa s hc ho hb hcur off word gen ex arr h8 hs ha
  have he := exec_sbarw_arrives (arrive := arrive) ⟨hc, ho, hb⟩ (off := off) rfl (word := word) rfl h8 hs ha
  have hgen : gen < 2 ^ 16 := Nat.mod_lt _ (by decide)
  have hex : ex < 2 ^ 16 := Nat.mod_lt _ (by decide)
  change exec _ s = .next (objectStored s arrive sd off gen ex arr) at he
  clear_value gen ex arr
  have hme := objectStored_me (arrive := arrive) (sd := sd) (off := off) hgen hex ha hcur
  have hcrew : (objectStored s arrive sd off gen ex arr).myCrew = (objectStored s arrive sd off gen ex arr).crew s.me.crew := by
    refine congrArg (State.crew _) ((congrArg Gang.crew hme).trans ?_)
    exact ws_crew ..
  refine ⟨_, he, congrArg Gang.pc hme, ?_, fun r hr => ?_, congrArg Gang.wait hme, ?_, fun a h => ?_, fun c => objectStored_crew,
    objectStored_bytes⟩
  · exact (congrArg (Gang.rs · sd.val) hme).trans (ws_self ..)
  · exact (congrArg (Gang.rs · r) hme).trans ((ws_rs ..).trans (if_neg fun h => hr h.1))
  · rw [hcrew]
    exact leNat_objectStored hgen hex ha
  · rw [hcrew]
    exact objectStored_readScr_other h

end Sys2Proof.Proofs
end

section
open Sys2Proof Sys2Proof.Machine Sys2Proof.Claims Sys2Proof.Laws

namespace Sys2Proof.Proofs

/-! ### A load at its slice whose kept bytes are cut short (R157, R177) -/

/-- An element that keeps a single byte of what its queue gave it on its way out: the model keeps two for each byte of the load. -/
def cutEl : El := ⟨0, 0x10000, [0], .todo, []⟩
/-- Its load of four bytes. -/
def cutLoad : Op := { State.reset.baseOp with id := 1, crew := 1, asid := 1, els := [cutEl], dst := .sreg 5 }
/-- A readable normal leaf for page 1 in the TLB of the element's home slice. -/
def cutLeaf : TlbEntry := ⟨0, 0, 1, 3, 0x10000, BitVec.ofNat 64 (2 ^ 63 + 2 ^ 62 + 2 ^ 59)⟩
/-- The request as it stands at its slice, with its tokens paid. -/
def cutWaiter : Waiter := ⟨0, 1, 1, 0, 0, 1, 1⟩
/-- A device on which the load stands at its slice. -/
def cutState : State :=
  { State.reset with
    ops := [cutLoad], nextOp := 2
    quay := { State.reset.quay with paid := [cutWaiter], tlb := [cutLeaf] } }
/-- The choice in which the TLB hits. -/
def cutChoice : Choice := ⟨false, false, true, false, .ok⟩

theorem cutState_elAt : cutState.elAt 1 0 = some (cutLoad, cutEl) := by decide +kernel

theorem cutState_waiter : waiterOf cutLoad (cutState.group cutLoad 0) (0 * 64 + sliceOf cutEl.addr.toNat) = { cutWaiter with seen := 0 } := by
  decide +kernel

/-- The request has been admitted before (R295). -/
theorem cutState_admitted : cutState.admit1 { cutWaiter with seen := 0 } = (some 1, cutState) := rfl

theorem cutState_translates : ((cutState.pass { cutWaiter with seen := 0 }).slicePte 0 (sliceOf cutEl.addr.toNat) cutLoad.asid
    (cutEl.addr.toNat % 2 ^ 50) false cutChoice.tlbHit cutChoice.tlbFill).1.tr (cutEl.addr.toNat % 2 ^ 50) false = .ok 0 0 := by
  decide +kernel

theorem cutEl_home : homeOf cutEl.addr.toNat = some (.die 0) := by decide +kernel

/-- R176: the step is the access of the slice. -/
theorem cutState_accesses : exec (.sliceAccess 1 0 cutChoice) cutState = .next (cutState.dieAccess cutLoad 0 cutEl 0 cutChoice) := by
  change execSliceAccess 1 0 cutChoice cutState = _
  simp only [execSliceAccess, cutState_elAt, cutEl_home]

/-- No byte of the load is left of the four that lie there. -/
theorem cutState_returns_nothing : ((cutState.dieAccess cutLoad 0 cutEl 0 cutChoice).op 1).bind Op.value = some [] := by decide +kernel

/-- Refutes O38: the statement does not say that the bytes which a load's element keeps are two for each byte of the load. In
`cutState` a load of four bytes stands at its slice and keeps one byte; the model lays the bytes that lie there under the pairs that are
kept, of which there is none, so the load returns no byte. -/
theorem not_sliceAccesses : ¬ Obligations.SliceAccesses := by
  intro h
  obtain ⟨-, h, -⟩ := h
  obtain ⟨h, -⟩ := h 1 0 0 1 cutLoad cutEl cutChoice cutState cutState cutState_elAt rfl (by decide) cutEl_home
    (by rw [cutState_waiter]; exact cutState_admitted)
  obtain ⟨h, -⟩ := h rfl (by decide +kernel) (fun _ => by decide +kernel) (by decide +kernel)
  obtain ⟨t, he, ⟨o, ho, -, hv⟩, -⟩ := h 0 0 (by rw [cutState_waiter]; exact cutState_translates)
  rw [cutState_accesses] at he
  cases he
  have hn := cutState_returns_nothing
  rw [ho] at hn
  have hb : ([] : List Byte) = cutState.readPhys 0 cutLoad.width := Option.some.inj (hn.symm.trans hv)
  exact absurd (congrArg List.length hb) (by decide +kernel)

end Sys2Proof.Proofs
end

section
open Sys2Proof Sys2Proof.Machine Sys2Proof.Claims Sys2Proof.Laws

namespace Sys2Proof.Proofs

/-! ### The end of an operation of one element (R156, R158, R191) -/

section Replace
variable {s t : State} {o p : Op}

theorem setOp_setOp (h : o.id = p.id) : (s.setOp o).setOp p = s.setOp p := by
  simp only [State.setOp, List.map_map]
  congr 1
  refine List.map_congr_left fun q _ => ?_
  by_cases hq : q.id = p.id <;> simp [hq, h]

theorem headless_setOp (p : Op) :
    headless (s.setOp p).ops = (headless s.ops).map (fun q => if q.id = p.id then { p with head := 0 } else q) := by
  simp only [headless, State.setOp, List.map_map]
  refine List.map_congr_left fun q _ => ?_
  by_cases hq : q.id = p.id <;> simp [hq]

/-- An operation is replaced alike, whatever stands at the heads of the queues. -/
theorem SettlesOnly.setOp (h : SettlesOnly s t) {p q : Op} (hpq : { p with head := 0 } = { q with head := 0 }) :
    SettlesOnly (s.setOp p) (t.setOp q) := by
  refine ⟨h.crews, h.mem, h.hostMem, h.peerMem, ?_, h.gang⟩
  have hid := congrArg Op.id hpq
  change p.id = q.id at hid
  rw [headless_setOp, headless_setOp, h.ops, hpq, hid]

/-- What settles keeps an operation but for its head. -/
theorem SettlesOnly.op (h : SettlesOnly s t) {id : Nat} (ho : s.op id = some o) : ∃ n, t.op id = some { o with head := n } := by
  have hfind (l : List Op) : findOp (headless l) id = (findOp l id).map (fun p => { p with head := 0 }) := findOp_map fun _ => rfl
  have ht : (t.op id).map (fun p => { p with head := 0 }) = some { o with head := 0 } := by
    rw [State.op, ← hfind, h.ops, hfind, ← State.op, ho]
    rfl
  obtain ⟨q, hq, he⟩ := Option.map_eq_some_iff.1 ht
  have hq' : q = { o with head := q.head } := by
    have := congrArg (fun x : Op => { x with head := q.head }) he
    exact this
  exact ⟨q.head, hq' ▸ hq⟩

end Replace

section Single
variable {s : State} {o : Op} {e : El}

/-- The operation once its element has been performed, or is given up. -/
def endedWith (o : Op) (e : El) : Op := { o with stage := .ready, els := [e] }

theorem unsettled_single (he : o.els = [e]) : o.unsettled = (e.st == .todo) := by
  unfold Op.unsettled
  rw [he]
  cases o.kind <;> simp

theorem postOp_single (he : o.els = [e]) (hf : e.st ≠ .faulted) : s.postOp o = s := by
  have hu : e.unposted = false := by simp [El.unposted, hf]
  simp [State.postOp, State.postEls, he, hu]

/-- A performed element ends its operation. -/
theorem settleOp_done (ho : s.op o.id = some o) (he : o.els = [e]) (hst : e.st = .done) :
    SettlesOnly (s.setOp (endedWith o e)) (s.settleOp o.id) := by
  have htrap : o.trapOf = none := by
    have hn : causeOrder.find? (fun c => (o.els.filter (fun e => e.st == .trapped)).any (fun e => (e.res.headD 0).toNat == c)) = none := by
      simp [he, hst]
    simp only [Op.trapOf, hn]
  have hposted : e.posted = e := by simp [El.posted, hst]
  have hnt : (e.st == .trapped) = false := by rw [hst]; rfl
  have hset : (e.st == .todo) = false := by rw [hst]; rfl
  have hfin : ([e] : List El).all El.final = true := by simp [El.final, hst]
  rw [State.settleOp, ho]
  simp only [unsettled_single he, hset, postOp_single he (by rw [hst]; decide), htrap, he, List.map_cons, List.map_nil, hnt, hposted,
    Bool.false_eq_true, if_false, hfin, if_true]
  exact settleOf_settlesOnly _ o

/-- R191: what an operation of one trapped element reports. -/
def oneTrap (o : Op) (e : El) (cause : Nat) : TrapInfo :=
  ⟨cause, true, o.lane, o.pc, o.info,
    if o.kind.vredeems then o.arg.getD 3 0 else if o.lane then laneMask (fun l => decide (e.lane = l)) 32 else 0,
    e.addr, o.trapSource, o.id, 0⟩

theorem trapOf_single {cause : Nat} (he : o.els = [e]) (hst : e.st = .trapped) (hr : e.res = [BitVec.ofNat 8 cause])
    (hc : cause ∈ causeOrder) : o.trapOf = some (oneTrap o e cause) := by
  have hc8 : cause % 256 = cause := by
    have : ∀ c ∈ causeOrder, c % 256 = c := by decide
    exact this cause hc
  have hhit : (e.res.headD 0).toNat = cause := by rw [hr]; simpa using hc8
  have hord : ∀ c ∈ causeOrder, causeOrder.find? (fun x => c == x) = some c := by decide
  have hts : o.els.filter (fun e => e.st == .trapped) = [e] := by simp [he, hst]
  have hfind : causeOrder.find? (fun c => [e].any (fun e => (e.res.headD 0).toNat == c)) = some cause := by
    simp only [List.any_cons, List.any_nil, Bool.or_false, hhit, hord cause hc]
  have hone : [e].filter (fun e => (e.res.headD 0).toNat == cause) = [e] := by
    rw [List.filter_cons_of_pos (by rw [hhit]; exact beq_self_eq_true cause), List.filter_nil]
  simp only [Op.trapOf, hts, hfind, hone, oneTrap]
  simp [beq_eq_decide]

/-- R191: a trapped element ends its operation, which reports it. -/
theorem settleOp_trapped {cause : Nat} (ho : s.op o.id = some o) (he : o.els = [e]) (hst : e.st = .trapped)
    (hr : e.res = [BitVec.ofNat 8 cause]) (hc : cause ∈ causeOrder) :
    SettlesOnly ((s.report o.gang (oneTrap o e cause)).setOp (endedWith o { e with st := .dropped })) (s.settleOp o.id) := by
  have hyt : (e.st == .trapped) = true := by rw [hst]; rfl
  have hset : (e.st == .todo) = false := by rw [hst]; rfl
  have hfin : ([{ e with st := .dropped }] : List El).all El.final = true := rfl
  rw [State.settleOp, ho]
  simp only [unsettled_single he, hset, postOp_single he (by rw [hst]; decide), trapOf_single he hst hr hc, he, List.map_cons,
    List.map_nil, hyt, Bool.false_eq_true, if_false, hfin, if_true]
  exact settleOf_settlesOnly _ o

/-- The operation with its element in a new state. -/
def holding (o : Op) (e : El) : Op := { o with els := [e] }

theorem setOp_holding (s : State) (o : Op) (e f : El) : (s.setOp (holding o e)).setOp (endedWith (holding o e) f) = s.setOp (endedWith o f) :=
  setOp_setOp (p := endedWith o f) rfl

theorem op_setOp_holding (ho : s.op o.id = some o) (e : El) : (s.setOp (holding o e)).op (holding o e).id = some (holding o e) :=
  op_setOp_self ho

/-- An element that is performed and returns bytes ends its operation. -/
theorem elDone_single (ho : s.op o.id = some o) (he : o.els = [e]) (bs : List Byte) :
    SettlesOnly (s.setOp (endedWith o { e with st := .done, res := bs })) (s.elDone o.id 0 bs) := by
  have hset : s.elDone o.id 0 bs = (s.setOp (holding o { e with st := .done, res := bs })).settleOp o.id := by
    simp only [State.elDone, ho, he, holding]
    rfl
  rw [hset, ← setOp_holding s o { e with st := .done, res := bs }]
  exact settleOp_done (op_setOp_holding ho _) rfl rfl

theorem report_setOp (s : State) (k : Nat) (t : TrapInfo) (p : Op) : (s.setOp p).report k t = (s.report k t).setOp p := by
  unfold State.report
  dsimp only
  rw [apply_ite (State.setOp · p)]
  rfl

/-- An element that traps ends its operation, which reports it. -/
theorem trapEl_single {cause : Nat} (ho : s.op o.id = some o) (he : o.els = [e])
    (hk : o.kind = .load ∨ o.kind = .store ∨ ∃ a w, o.kind = .atom a w) (hc : cause ∈ causeOrder) :
    SettlesOnly ((s.report o.gang (oneTrap o e cause)).setOp (endedWith o { e with st := .dropped, res := [BitVec.ofNat 8 cause] }))
      (s.trapEl o.id 0 cause) := by
  have hset : s.trapEl o.id 0 cause = (s.setOp (holding o { e with st := .trapped, res := [BitVec.ofNat 8 cause] })).settleOp o.id := by
    simp only [State.trapEl, ho, he, holding]
    obtain hk | hk | ⟨a, w, hk⟩ := hk <;> rw [hk] <;> rfl
  rw [hset, ← setOp_holding _ o { e with st := .trapped, res := [BitVec.ofNat 8 cause] }, ← report_setOp]
  exact settleOp_trapped (op_setOp_holding ho _) rfl rfl rfl hc

/-- What a load or atomic reads, and what a store is told, ends it (R153, R183). -/
theorem readDone_single (ho : s.op o.id = some o) (he : o.els = [e]) (hk : ∀ c, o.kind ≠ .mwait c) (bs : List Byte) :
    SettlesOnly (s.setOp (endedWith o { e with st := .done, res := bs })) (s.readDone o 0 bs) := by
  have hacq : SettlesOnly s (if o.ord.acquires then s.acquired o.gang o.id else s) := by
    split
    · exact acquired_settlesOnly s _ _
    · exact .refl s
  have hread : s.readDone o 0 bs =
      if o.ord.acquires && decide (3 ≤ o.scope.code)
      then ((if o.ord.acquires then s.acquired o.gang o.id else s).elDone o.id 0 bs).emptyL1 (s.coreOf o)
      else (if o.ord.acquires then s.acquired o.gang o.id else s).elDone o.id 0 bs := by
    unfold State.readDone
    split
    · next c hc => exact absurd hc (hk c)
    · rfl
  rw [hread]
  generalize (if o.ord.acquires then s.acquired o.gang o.id else s) = s1 at hacq ⊢
  obtain ⟨n, hn⟩ := hacq.op ho
  have hset := hacq.setOp (p := endedWith o { e with st := .done, res := bs })
    (q := endedWith { o with head := n } { e with st := .done, res := bs }) rfl
  have hdone : SettlesOnly (s.setOp (endedWith o { e with st := .done, res := bs })) (s1.elDone o.id 0 bs) :=
    hset.trans (elDone_single (o := { o with head := n }) hn he bs)
  split
  · exact hdone.trans (emptyL1_settlesOnly _ _)
  · exact hdone

/-- The operation has its result. -/
theorem SettlesOnly.returned {t : State} {bs : List Byte} (h : SettlesOnly (s.setOp (endedWith o { e with st := .done, res := bs })) t)
    (ho : s.op o.id = some o) : Returned t o.id bs := by
  obtain ⟨n, hn⟩ := h.op (op_setOp_self (p := endedWith o { e with st := .done, res := bs }) ho)
  exact ⟨_, hn, rfl, rfl⟩

/-- The trap is reported, and no byte changes. -/
theorem SettlesOnly.trapped {t : State} {p : Op} {i : TrapInfo} (h : SettlesOnly ((s.report o.gang i).setOp p) t)
    (hp : (s.gang o.gang).phase = .running) :
    s.SameBytes t ∧ (t.gang o.gang).reports = (s.gang o.gang).reports ++ [(Map.get 0 s.cycles (slotDie o.gang), i)] := by
  refine ⟨sameBytes_trans (sameBytes_report s _ _) (sameBytes_trans (sameBytes_of_fields rfl rfl rfl fun _ => rfl) h.sameBytes), ?_⟩
  rw [h.gang]
  change ((s.report o.gang i).gang o.gang).reports = _
  simp only [State.report, hp, if_true, setGang_gang]

end Single

end Sys2Proof.Proofs
end

section
open Sys2Proof Sys2Proof.Machine Sys2Proof.Claims Sys2Proof.Laws

namespace Sys2Proof.Proofs

/-! ### Accesses of one element (R154, R155, R170, R367) -/

/-- What stands ready to be performed. -/
theorem elAt_spec {s : State} {op i : Nat} {o : Op} {e : El} (h : s.elAt op i = some (o, e)) :
    s.op op = some o ∧ o.els[i]? = some e ∧ o.stage = .sent ∧ e.st = .todo ∧ o.scr = false ∧ o.kind.memory = true := by
  unfold State.elAt at h
  split at h
  · cases h
  · next o' ho =>
    split at h
    · cases h
    · next e' he =>
      dsimp only at h
      split at h
      · next hc =>
        cases h
        simp only [Bool.and_eq_true, beq_iff_eq, Bool.not_eq_true'] at hc
        obtain ⟨⟨⟨⟨⟨hs, ht⟩, hsc⟩, hm⟩, -⟩, -⟩ := hc
        exact ⟨ho, he, hs, ht, hsc, hm⟩
      · cases h

section OneElement
variable {s : State} {o : Op} {e : El}

/-- An operation of one element goes as one request. -/
theorem group_single (he : o.els = [e]) (ht : e.st = .todo) : s.group o 0 = [(e, 0)] := by
  have hb : s.blockEls o 0 = [(e, 0)] := by simp [State.blockEls, he, ht]
  unfold State.group
  rw [he]
  dsimp only [List.getElem?_cons_zero]
  split
  · exact hb
  · exact hb
  · simp [ht]
  · simp [ht]
  · rfl

theorem length_forward : (s.forward o e).length = o.width := by simp [State.forward]

/-- Where the queue holds no byte of a load, its level gives all of them. -/
theorem mergeFwd_forward {bs : List Byte} (hf : ∀ x ∈ s.forward o e, x = .none) (hb : bs.length = o.width) :
    mergeFwd (s.forward o e) bs = bs := mergeFwd_none hf (hb.trans length_forward.symm)

theorem no_atomic (hf : ∀ x ∈ s.forward o e, x = .none) : (s.forward o e).any (· == .atomic) = false := by
  simp only [List.any_eq_false]
  intro x hx
  rw [hf x hx]
  decide

/-- R178: what bypasses changes no queue. -/
theorem bypass_queue (k : Nat) : (s.bypass o).queue k = s.queue k := by
  simp only [State.queue, State.bypass, List.filter_map]
  have hf : ((fun p : Op => p.gang == k && p.inQ && p.stage == .queued) ∘ fun p : Op =>
      if p.gang == o.gang && p.lane == o.lane && p.kind == .load && decide (p.id < o.id) && p.stage == .sent
      then { p with status := max 1 p.status } else p) = fun p : Op => p.gang == k && p.inQ && p.stage == .queued := by
    funext p
    simp only [Function.comp]
    split <;> rfl
  rw [hf]
  refine (List.map_congr_left fun p hp => if_neg fun hc => ?_).trans (List.map_id _)
  have hq := (List.mem_filter.1 hp).2
  simp only [Bool.and_eq_true, beq_iff_eq] at hc hq
  rw [hq.2] at hc
  exact absurd hc.2 (by decide)

theorem bypass_fwdByte (asid : Nat) (pl : Nat × Nat) (ps : List Op) : (s.bypass o).fwdByte asid pl ps = s.fwdByte asid pl ps := by
  induction ps with
  | nil => rfl
  | cons p ps ih =>
    have hp : (s.bypass o).fwdOp asid pl p = s.fwdOp asid pl p := rfl
    rw [State.fwdByte, State.fwdByte, hp, ih]

theorem bypass_forward : (s.bypass o).forward o e = s.forward o e := by
  have hp : (s.bypass o).place o e = s.place o e := rfl
  simp only [State.forward, bypass_queue, bypass_fwdByte, hp]

/-- The operation itself is not older than itself. -/
theorem bypass_op (ho : s.op o.id = some o) : (s.bypass o).op o.id = some o := by
  have h : (s.bypass o).op o.id = (s.op o.id).map (fun p => if p.gang == o.gang && p.lane == o.lane && p.kind == .load
      && decide (p.id < o.id) && p.stage == .sent then { p with status := max 1 p.status } else p) :=
    findOp_map fun p => by split <;> rfl
  rw [h, ho, Option.map_some, if_neg (by simp)]

end OneElement

/-! #### Through a window (R154, R155) -/

section Window
variable {s : State} {op : Nat} {o : Op} {e : El}

/-- The state in which a load or store through a window is performed: a load at its own core has bypassed older ones. -/
def atWindow (s : State) (o : Op) (e : El) : State := if o.kind.isLoad && ownWin o e then s.bypass o else s

theorem atWindow_only : ∃ l, atWindow s o e = { s with ops := l } := by
  unfold atWindow
  split
  · exact ⟨_, rfl⟩
  · exact ⟨s.ops, rfl⟩

theorem atWindow_op (ho : s.op o.id = some o) : (atWindow s o e).op o.id = some o := by
  unfold atWindow
  split
  · exact bypass_op ho
  · exact ho

theorem atWindow_forward : (atWindow s o e).forward o e = s.forward o e := by
  unfold atWindow
  split
  · exact bypass_forward
  · rfl

theorem atWindow_windowCause : (atWindow s o e).windowCause o e = s.windowCause o e := by
  obtain ⟨l, hl⟩ := atWindow_only (s := s) (o := o) (e := e)
  rw [hl]
  rfl

theorem atWindow_winRead (va n : Nat) : (atWindow s o e).winRead va n = s.winRead va n := by
  obtain ⟨l, hl⟩ := atWindow_only (s := s) (o := o) (e := e)
  rw [hl]
  rfl

theorem atWindow_sameBytes : s.SameBytes (atWindow s o e) := by
  obtain ⟨l, hl⟩ := atWindow_only (s := s) (o := o) (e := e)
  rw [hl]
  exact sameBytes_of_fields rfl rfl rfl fun _ => rfl

/-- A load is free to go (R6, R178). -/
def MayGo (s : State) (o : Op) (e : El) : Prop :=
  if homeOf e.addr.toNat = some .window ∧ ownWin o e = true then s.olderCore o = false else s.noRoom (s.coreOf o) 1 = false

/-- R14: an access of one element through a window is performed there. -/
theorem windowAccess_performs (h : s.elAt op 0 = some (o, e)) (he : o.els = [e]) (hh : homeOf e.addr.toNat = some .window)
    (hf : ∀ x ∈ s.forward o e, x = .none) (hg : o.kind.isLoad = true → MayGo s o e) :
    exec (.windowAccess op 0) s = .next ((atWindow s o e).winEl o e 0) := by
  obtain ⟨-, -, -, ht, -, -⟩ := elAt_spec h
  change execWindowAccess op 0 s = _
  rw [execWindowAccess, h]
  dsimp only
  rw [group_single he ht, if_neg (not_not.2 hh), if_neg (by simp only [List.any_cons, no_atomic hf]; simp)]
  unfold atWindow
  split
  · next hc =>
    obtain ⟨hl, hw⟩ := Bool.and_eq_true_iff.1 hc
    have hgo := hg hl
    rw [MayGo, if_pos ⟨hh, hw⟩] at hgo
    rw [if_neg (by simp [hgo])]
    rfl
  · next hc =>
    rw [if_neg]
    · rfl
    · rintro hn
      obtain ⟨hl, hn⟩ := Bool.and_eq_true_iff.1 hn
      have hgo := hg hl
      rw [MayGo, if_neg (fun hw => hc (by simp [hl, hw.2]))] at hgo
      rw [hgo] at hn
      cases hn

theorem winEl_load (hc : s.windowCause o e = none) (hk : o.kind = .load) :
    s.winEl o e 0 = s.readDone o 0 (mergeFwd (s.forward o e) (s.winRead e.addr.toNat o.width)) := by
  simp only [State.winEl, hc, hk, OpKind.isLoad, if_true]

theorem winEl_store (hc : s.windowCause o e = none) (hk : o.kind = .store) :
    s.winEl o e 0 = ((s.winWrite o.crew e.addr.toNat e.data).raise o.gang 0).readDone o 0 [] := by
  simp [State.winEl, hc, hk, OpKind.isLoad, State.counterCause, State.doWrite, Op.newBytes, Op.plain]

theorem winEl_traps {c : Nat} (hc : s.windowCause o e = some c) : s.winEl o e 0 = s.trapEl o.id 0 c := by
  simp only [State.winEl, hc]

/-- Item 3 of R158 names causes of its order. -/
theorem windowCause_mem {c : Nat} (hc : s.windowCause o e = some c) : c ∈ causeOrder := by
  have h : s.windowCause o e = none ∨ s.windowCause o e = some 9 ∨ s.windowCause o e = some 6 ∨ s.windowCause o e = some 4
      ∨ s.windowCause o e = some 3 := by
    unfold State.windowCause State.winCause
    grind
  rw [hc] at h
  simp only [reduceCtorEq, Option.some.injEq, false_or] at h
  obtain rfl | rfl | rfl | rfl := h <;> decide

theorem raise_none (k : Nat) : s.raise k 0 = s := if_pos (.inl rfl)

variable (h : s.elAt op 0 = some (o, e)) (he : o.els = [e]) (hf : ∀ x ∈ s.forward o e, x = .none) (hh : homeOf e.addr.toNat = some .window)
include h he hf hh

/-- R154, R155: a load through a window returns what its place shows. -/
theorem windowAccess_loads (hc : s.windowCause o e = none) (hk : o.kind = .load) (hg : MayGo s o e)
    (hl : (s.winRead e.addr.toNat o.width).length = o.width) :
    ∃ t, exec (.windowAccess op 0) s = .next t ∧ Returned t op (s.winRead e.addr.toNat o.width) ∧ s.SameBytes t := by
  obtain ⟨ho, -⟩ := elAt_spec h
  have hid : o.id = op := findOp_id ho
  subst hid
  refine ⟨_, windowAccess_performs h he hh hf (fun _ => hg), ?_⟩
  rw [winEl_load (atWindow_windowCause.trans hc) hk, atWindow_forward, atWindow_winRead, mergeFwd_forward hf hl]
  have hs := readDone_single (atWindow_op (e := e) ho) he (fun c => by rw [hk]; nofun) (s.winRead e.addr.toNat o.width)
  exact ⟨hs.returned (atWindow_op ho), sameBytes_trans atWindow_sameBytes (sameBytes_trans (sameBytes_of_fields rfl rfl rfl fun _ => rfl) hs.sameBytes)⟩

/-- R154, R155: a store through a window writes its place, and the operation ends. -/
theorem windowAccess_stores (hc : s.windowCause o e = none) (hk : o.kind = .store) :
    ∃ t, exec (.windowAccess op 0) s = .next t ∧
      SettlesOnly ((s.winWrite o.crew e.addr.toNat e.data).setOp (endedWith o { e with st := .done, res := [] })) t := by
  obtain ⟨ho, -⟩ := elAt_spec h
  have hid : o.id = op := findOp_id ho
  subst hid
  have hat : atWindow s o e = s := by simp [atWindow, hk, OpKind.isLoad]
  have hop : (s.winWrite o.crew e.addr.toNat e.data).op o.id = some o := by
    unfold State.winWrite
    dsimp only
    split
    · rw [scrStore_only]
      exact ho
    · exact ho
  refine ⟨_, windowAccess_performs h he hh hf (fun hl => by simp [hk, OpKind.isLoad] at hl), ?_⟩
  rw [hat, winEl_store hc hk, raise_none]
  exact readDone_single hop he (fun c => by rw [hk]; nofun) []

/-- R158: an access that the named core refuses traps. -/
theorem windowAccess_traps {c : Nat} (hc : s.windowCause o e = some c) (hk : o.kind = .load ∨ o.kind = .store)
    (hg : o.kind.isLoad = true → MayGo s o e) (hp : (s.gang o.gang).phase = .running) :
    ∃ t r, exec (.windowAccess op 0) s = .next t ∧ s.SameBytes t
      ∧ (t.gang o.gang).reports = (s.gang o.gang).reports ++ [r] ∧ r.2.cause = c := by
  obtain ⟨ho, -⟩ := elAt_spec h
  have hid : o.id = op := findOp_id ho
  subst hid
  have hcm : c ∈ causeOrder := windowCause_mem hc
  obtain ⟨l, hl⟩ := atWindow_only (s := s) (o := o) (e := e)
  have hgang : (atWindow s o e).gang o.gang = s.gang o.gang := by rw [hl]; rfl
  have hs := trapEl_single (atWindow_op (e := e) ho) he (hk.imp_right .inl) hcm
  obtain ⟨hb, hr⟩ := hs.trapped (by rw [hgang, hp])
  rw [hgang] at hr
  refine ⟨_, (Map.get 0 (atWindow s o e).cycles (slotDie o.gang), oneTrap o e c), windowAccess_performs h he hh hf hg, ?_, ?_, rfl⟩
  · rw [winEl_traps (atWindow_windowCause.trans hc)]
    exact sameBytes_trans atWindow_sameBytes hb
  · rw [winEl_traps (atWindow_windowCause.trans hc)]
    exact hr

end Window

/-! #### At the bank and in a register window -/

/-- A byte of the scratchpad after a store to it. -/
theorem scrStore_readScr_byte (s : State) (c off : Nat) (bs : List Byte) (byGang : Bool) (a : Nat) :
    ((s.scrStore c off bs byGang).crew c).readScr a 1
      = if off ≤ a ∧ a < off + bs.length then [bs.getD (a - off) 0] else (s.crew c).readScr a 1 := by
  rw [scrStore_crew, if_pos rfl]
  simp only [Crew.readScr, Map.getList, crewStored_scratch, get_putList]
  split <;> rfl

section Places
variable {s t : State} {va : Nat} {bs : List Byte} {p : Op}

theorem winWrite_bank (h35 : va.testBit 35 = true) (crew : Nat) : s.winWrite crew va bs
    = s.scrStore (s.gang (winSlot va)).crew (bits va 20 0) bs ((s.gang (winSlot va)).crew == crew) := by
  simp only [State.winWrite, h35, if_true]

theorem winRead_bank (h35 : va.testBit 35 = true) (n : Nat) :
    s.winRead va n = (s.crew (s.gang (winSlot va)).crew).readScr (bits va 20 0) n := by
  simp only [State.winRead, h35, if_true]

theorem winWrite_register (h35 : va.testBit 35 = false) (h0 : bits va 4 0 = 0) (hl : bs.length = 4) (crew : Nat) : s.winWrite crew va bs
    = (s.taint (winSlot va) [bits va 17 10]).setGang (winSlot va)
        ((s.gang (winSlot va)).wv (bits va 17 10) (bits va 9 5) (BitVec.ofNat 32 (leNat bs))) := by
  have hb : (overlay ((s.gang (winSlot va)).cell (bits va 17 10) (bits va 9 5)) 0 bs).take 4 = bs := by
    simp [overlay, ← hl]
  simp only [State.winWrite, h35, h0, hb, Bool.false_eq_true, if_false]

theorem winRead_register (h35 : va.testBit 35 = false) (h0 : bits va 4 0 = 0) :
    s.winRead va 4 = natLE 4 ((s.gang (winSlot va)).rv (bits va 17 10) (bits va 9 5)).toNat := by
  simp only [State.winRead, h35, h0, Gang.cell, Bool.false_eq_true, if_false, List.drop_zero]
  exact List.take_left' (length_natLE _ _)

/-- What a store at a bank through a window leaves. -/
theorem SettlesOnly.bank (h35 : va.testBit 35 = true) {crew : Nat} (h : SettlesOnly ((s.winWrite crew va bs).setOp p) t) :
    (∀ a, (t.crew (s.gang (winSlot va)).crew).readScr a 1 = if bits va 20 0 ≤ a ∧ a < bits va 20 0 + bs.length
        then [bs.getD (a - bits va 20 0) 0] else (s.crew (s.gang (winSlot va)).crew).readScr a 1)
      ∧ (∀ j, j ≠ (s.gang (winSlot va)).crew → t.crew j = s.crew j)
      ∧ ∀ a, t.readPhys a 1 = s.readPhys a 1 ∧ t.readHost a 1 = s.readHost a 1 ∧ t.readPeer a 1 = s.readPeer a 1 := by
  rw [winWrite_bank h35] at h
  refine ⟨fun a => ?_, fun j hj => ?_, fun a => ?_⟩
  · rw [h.crew]
    exact scrStore_readScr_byte ..
  · rw [h.crew]
    exact (scrStore_crew ..).trans (if_neg hj)
  · obtain ⟨h1, h2, h3, -⟩ := h.sameBytes a
    rw [h1, h2, h3, scrStore_only]
    exact ⟨rfl, rfl, rfl⟩

/-- What a store to a register window leaves. -/
theorem SettlesOnly.register (h35 : va.testBit 35 = false) (h0 : bits va 4 0 = 0) (hl : bs.length = 4) {crew : Nat}
    (h : SettlesOnly ((s.winWrite crew va bs).setOp p) t) :
    s.SameBytes t ∧ ∀ r, ∀ l < 32, (t.gang (winSlot va)).rv r l = if r = bits va 17 10 ∧ l = bits va 9 5
      then BitVec.ofNat 32 (leNat bs) else (s.gang (winSlot va)).rv r l := by
  rw [winWrite_register h35 h0 hl] at h
  refine ⟨sameBytes_trans (sameBytes_of_fields rfl rfl rfl fun _ => rfl) h.sameBytes, fun r l hl32 => ?_⟩
  have h95 : bits va 9 5 < 32 := Nat.mod_lt _ (by decide)
  rw [h.gang]
  refine Eq.trans ?_ (wv_rv (s.gang (winSlot va)) _ _ r l _ h95 hl32)
  change (State.gang ((s.taint _ _).setGang _ _) _).rv r l = _
  rw [setGang_gang, if_pos rfl]

end Places

/-! #### At the host (R170, R367) -/

/-- R71: flags change gangs only. -/
theorem raise_only (s : State) (k : Nat) (fl : Flags) : s.raise k fl = { s with gangs := (s.raise k fl).gangs } := by
  unfold State.raise
  split <;> rfl

/-- A write puts its bytes, may raise flags and patch an L1 line, and ends its element. -/
theorem doWrite_reads (s : State) (o : Op) (i : Nat) (e : El) (old : List Byte) (put : List Byte → State → State) :
    ∃ u : State, s.doWrite o i e old put = u.readDone o i (o.newBytes e old).2.1
      ∧ u = { put (o.newBytes e old).1 s with gangs := u.gangs, l1 := u.l1 } := by
  refine ⟨_, rfl, ?_⟩
  rw [raise_only]
  split <;> rfl


section Host
variable {s : State} {op : Nat} {o : Op} {e : El} (h : s.elAt op 0 = some (o, e)) (he : o.els = [e])
  (hh : homeOf e.addr.toNat = some .host)
include h he hh

/-- R367: an access that the host refuses, and an atomic that it cannot perform, traps. -/
theorem hostAccess_traps {refused : Bool} (hk : o.kind = .load ∨ o.kind = .store ∨ ∃ a w, o.kind = .atom a w)
    (hr : (refused || !o.hostOk) = true) (hg : o.kind.isLoad = true → s.noRoom (s.coreOf o) 1 = false)
    (hp : (s.gang o.gang).phase = .running) :
    ∃ t, exec (.hostAccessCompletion op 0 refused) s = .next t ∧ s.SameBytes t
      ∧ ∃ r, (t.gang o.gang).reports = (s.gang o.gang).reports ++ [r] ∧ r.2.cause = 7 := by
  obtain ⟨ho, -, -, ht, -, -⟩ := elAt_spec h
  have hid : o.id = op := findOp_id ho
  subst hid
  have hx : exec (.hostAccessCompletion o.id 0 refused) s = .next (s.trapEl o.id 0 7) := by
    change execHostAccessCompletion o.id 0 refused s = _
    rw [execHostAccessCompletion, h]
    dsimp only
    rw [group_single he ht, if_neg (not_not.2 hh), if_neg, if_pos hr]
    · rfl
    · intro hn
      obtain ⟨hl, hn⟩ := Bool.and_eq_true_iff.1 hn
      rw [hg hl] at hn
      cases hn
  obtain ⟨hb, hr⟩ := (trapEl_single (cause := 7) ho he hk (by decide)).trapped hp
  exact ⟨_, hx, hb, _, hr, rfl⟩

/-- R170, R367: a load at the host. -/
theorem hostAccess_loads (hk : o.kind = .load) (hf : ∀ x ∈ s.forward o e, x = .none) (hg : s.noRoom (s.coreOf o) 1 = false) :
    ∃ t, exec (.hostAccessCompletion op 0 false) s = .next t ∧ Returned t op (s.readHost (e.addr.toNat % 2 ^ 50) o.width) ∧ s.SameBytes t := by
  obtain ⟨ho, -, -, ht, -, -⟩ := elAt_spec h
  have hid : o.id = op := findOp_id ho
  subst hid
  have hx : exec (.hostAccessCompletion o.id 0 false) s = .next (s.readDone o 0 (s.readHost (e.addr.toNat % 2 ^ 50) o.width)) := by
    change execHostAccessCompletion o.id 0 false s = _
    rw [execHostAccessCompletion, h]
    dsimp only
    rw [group_single he ht, if_neg (not_not.2 hh), if_neg (by simp [hg]), if_neg (by simp [Op.hostOk, hk]), if_pos (by rw [hk]; rfl),
      if_neg (by simp only [List.any_cons, no_atomic hf]; simp)]
    simp only [State.each, List.foldl_cons, List.foldl_nil]
    rw [mergeFwd_forward (bs := s.readHost (e.addr.toNat % 2 ^ 50) o.width) hf length_getList]
  have hs := readDone_single ho he (fun c => by rw [hk]; nofun) (s.readHost (e.addr.toNat % 2 ^ 50) o.width)
  exact ⟨_, hx, hs.returned ho, sameBytes_trans (sameBytes_of_fields rfl rfl rfl fun _ => rfl) hs.sameBytes⟩

/-- Host memory after a write, and every other memory as it was. -/
def HostWrites (s t : State) (a : Nat) (bs : List Byte) : Prop :=
  (∀ b, t.readHost b 1 = if a ≤ b ∧ b < a + bs.length then [bs.getD (b - a) 0] else s.readHost b 1)
    ∧ ∀ b, t.readPhys b 1 = s.readPhys b 1 ∧ t.readPeer b 1 = s.readPeer b 1

/-- R170: a store at the host, and an atomic that it performs, write what they make of the old bytes. -/
theorem hostAccess_writes (hk : o.kind = .store ∨ ∃ a w, o.kind = .atom a w) (hok : o.hostOk = true) {old : List Byte}
    (hold : old = s.readHost (e.addr.toNat % 2 ^ 50) o.width) :
    ∃ t, exec (.hostAccessCompletion op 0 false) s = .next t ∧ Returned t op (o.newBytes e old).2.1
      ∧ HostWrites s t (e.addr.toNat % 2 ^ 50) (o.newBytes e old).1 := by
  obtain ⟨ho, -, -, ht, -, -⟩ := elAt_spec h
  have hid : o.id = op := findOp_id ho
  subst hid
  have hl : o.kind.isLoad = false := by obtain hk | ⟨a, w, hk⟩ := hk <;> rw [hk] <;> rfl
  have hcc : s.counterCause o 0 = none := by obtain hk | ⟨a, w, hk⟩ := hk <;> simp [State.counterCause, hk]
  have hx : exec (.hostAccessCompletion o.id 0 false) s
      = .next (s.doWrite o 0 e old (fun bs u => u.writeHost (e.addr.toNat % 2 ^ 50) bs)) := by
    change execHostAccessCompletion o.id 0 false s = _
    rw [execHostAccessCompletion, h]
    dsimp only
    rw [group_single he ht, if_neg (not_not.2 hh), if_neg (by simp [hl]), if_neg (by simp [hok]), if_neg (by simp [hl])]
    simp only [hcc, State.each, List.foldl_cons, List.foldl_nil, ← hold]
  obtain ⟨u, hu, hud⟩ := doWrite_reads s o 0 e old (fun bs u => u.writeHost (e.addr.toNat % 2 ^ 50) bs)
  have huop : u.op o.id = some o := by rw [hud]; exact ho
  have hs := readDone_single huop he (fun c => by obtain hk | ⟨a, w, hk⟩ := hk <;> rw [hk] <;> nofun) (o.newBytes e old).2.1
  rw [← hu] at hs
  refine ⟨_, hx, hs.returned huop, fun b => ?_, fun b => ?_⟩
  · rw [(hs.sameBytes b).2.1, ← readHost_writeHost, hud]
    rfl
  · obtain ⟨h1, -, h3, -⟩ := hs.sameBytes b
    rw [h1, h3, hud]
    exact ⟨rfl, rfl⟩

end Host

/-- Of plain accesses and atomics only a load loads. -/
theorem load_of_isLoad {k : OpKind} (hk : k = .load ∨ k = .store ∨ ∃ a w, k = .atom a w) (hl : k.isLoad = true) : k = .load := by
  obtain hk | hk | ⟨a, w, hk⟩ := hk
  · exact hk
  · rw [hk] at hl; cases hl
  · rw [hk] at hl; cases hl

/-- A load that may go to the host has room (R6). -/
theorem MayGo.host {s : State} {o : Op} {e : El} (h : MayGo s o e) (hh : homeOf e.addr.toNat = some .host) :
    s.noRoom (s.coreOf o) 1 = false := by
  rwa [MayGo, if_neg (by rw [hh]; rintro ⟨hw, -⟩; cases hw)] at h

/-- R170: the host performs an add and an exchange, and no other atomic. -/
theorem hostOk_atom {o : Op} {a : AtomOp} {w : Bool} (hk : o.kind = .atom a w) : o.hostOk = true ↔ a = .add ∨ a = .xchg := by
  cases a <;> simp [Op.hostOk, hk]

/-- Settles O39: an access through a window is performed there (`windowAccess_loads`, `windowAccess_stores`) or traps
(`windowAccess_traps`), and so is one at the host (`hostAccess_loads`, `hostAccess_writes`, `hostAccess_traps`). -/
theorem windowAndHostAccesses : Obligations.WindowAndHostAccesses := by
  intro op o e s h he hf va k c off traps goes
  refine ⟨fun hh hc h35 => ⟨fun hk hg => ?_, fun hk => ?_⟩, fun hh hc h35 h0 => ⟨fun hk hw hg => ?_, fun hk hl => ?_⟩,
    fun cause hh hc hk hg hp =>
      windowAccess_traps h he hf hh hc hk (fun hl => hg (load_of_isLoad (hk.imp_right .inl) hl)) hp,
    fun hh => ⟨fun hk hg => hostAccess_loads h he hh hk hf (MayGo.host hg hh), fun hk => ?_, fun aop wide hk hw hx => ?_,
      fun refused hp hk hr hg => ?_⟩⟩
  · rw [← winRead_bank h35]
    exact windowAccess_loads h he hf hh hc hk hg (by rw [winRead_bank h35]; exact length_getList)
  · obtain ⟨t, ht, hs⟩ := windowAccess_stores h he hf hh hc hk
    obtain ⟨hb, hj, -⟩ := hs.bank h35
    exact ⟨t, ht, hb, hj⟩
  · have hr := winRead_register (s := s) h35 h0
    rw [← hr, ← hw]
    exact windowAccess_loads h he hf hh hc hk hg (by rw [hw, hr, length_natLE])
  · obtain ⟨t, ht, hs⟩ := windowAccess_stores h he hf hh hc hk
    exact ⟨t, ht, hs.register h35 h0 hl⟩
  · obtain ⟨t, ht, -, hw⟩ := hostAccess_writes h he hh (.inl hk) (by simp [Op.hostOk, hk]) rfl
    simp only [Op.newBytes, hk] at hw
    exact ⟨t, ht, hw⟩
  · obtain ⟨t, ht, hr, hb⟩ := hostAccess_writes h he hh (.inr ⟨_, _, hk⟩) ((hostOk_atom hk).2 hx) rfl
    have hbits : 8 * wbytes wide = 8 * o.width := by rw [hw]; rfl
    simp only [Op.newBytes, hk, hbits] at hr hb
    exact ⟨t, ht, hr, hb⟩
  · refine hostAccess_traps h he hh hk ?_ (fun hl => MayGo.host (hg (load_of_isLoad hk hl)) hh) hp
    obtain hr | ⟨a, w, hka, hna⟩ := hr
    · rw [hr, Bool.true_or]
    · have hno : o.hostOk ≠ true := fun hok => by
        obtain rfl | rfl := (hostOk_atom hka).1 hok
        · exact hna.1 rfl
        · exact hna.2 rfl
      simp [hno]

end Sys2Proof.Proofs
end

section
open Sys2Proof Sys2Proof.Machine Sys2Proof.Claims Sys2Proof.Laws

namespace Sys2Proof.Proofs

/-! ### Queue entries that leave (R154, R156, R176) -/

/-! #### An operation that no fence moves (R183) -/

/-- The operation stands in the device, alone under its identity, and no acquire half of a fence of its gang is older. -/
structure Stands (o : Op) (s : State) : Prop where
  alone : ∀ p ∈ s.ops, p.id = o.id → p = o
  there : ∃ p ∈ s.ops, p.id = o.id
  fences : ∀ f ∈ (s.gang o.gang).fences, f.acq = true → o.id ≤ f.id

section Stands
variable {s : State} {o : Op}

theorem findOp_some_of_mem {l : List Op} {id : Nat} (h : ∃ p ∈ l, p.id = id) : ∃ p ∈ l, findOp l id = some p := by
  induction l with
  | nil =>
    obtain ⟨p, hp, -⟩ := h
    cases hp
  | cons q l ih =>
    rw [findOp]
    by_cases hq : q.id = id
    · exact ⟨q, List.mem_cons_self, if_pos hq⟩
    · obtain ⟨p, hp, hid⟩ := h
      obtain rfl | hp := List.mem_cons.1 hp
      · exact absurd hid hq
      · obtain ⟨r, hr, hf⟩ := ih ⟨p, hp, hid⟩
        exact ⟨r, List.mem_cons_of_mem _ hr, (if_neg hq).trans hf⟩

theorem Stands.op (h : Stands o s) : s.op o.id = some o := by
  obtain ⟨p, hp, hf⟩ := findOp_some_of_mem h.there
  rw [State.op, hf, h.alone p hp (findOp_id hf)]

/-- Operations that go through a function which leaves this one alone. -/
theorem Stands.map (h : Stands o s) {t : State} {f : Op → Op} (ht : t.ops = s.ops.map f) (hid : ∀ p, (f p).id = p.id)
    (hf : f o = o) (hfen : ∀ x ∈ (t.gang o.gang).fences, x.acq = true → o.id ≤ x.id) : Stands o t := by
  refine ⟨fun p hp hpi => ?_, ?_, hfen⟩
  · rw [ht] at hp
    obtain ⟨q, hq, rfl⟩ := List.mem_map.1 hp
    rw [h.alone q hq ((hid q).symm.trans hpi), hf]
  · obtain ⟨p, hp, hpi⟩ := h.there
    exact ⟨f p, ht ▸ List.mem_map_of_mem hp, (hid p).trans hpi⟩

/-- Its operations and the fences of its gang decide. -/
theorem Stands.congr (h : Stands o s) {t : State} (ht : t.ops = s.ops)
    (hfen : ∀ x ∈ (t.gang o.gang).fences, x.acq = true → o.id ≤ x.id) : Stands o t :=
  ⟨ht ▸ h.alone, ht ▸ h.there, hfen⟩

variable (hst : o.stage ≠ .queued)
include hst

/-- One that has left its queue is at no head of a queue. -/
theorem Stands.not_queued (h : Stands o s) {k : Nat} {p : Op} (hp : p ∈ s.queue k) : p.id ≠ o.id := by
  intro hid
  obtain ⟨hm, hq⟩ := List.mem_filter.1 hp
  rw [h.alone p hm hid] at hq
  simp only [Bool.and_eq_true, beq_iff_eq] at hq
  exact hst hq.2

theorem Stands.nextHead (h : Stands o s) (k : Nat) : Stands o (s.nextHead k) := by
  unfold State.nextHead
  split
  · exact h
  · next p ps hq =>
    split
    · have hp : p.id ≠ o.id := h.not_queued hst (k := k) (hq ▸ List.mem_cons_self)
      refine h.map (f := fun q => if q.id = p.id then { p with head := s.nextOp } else q) rfl (fun q => ?_) (if_neg hp.symm) h.fences
      split
      · next hpq => exact hpq.symm
      · rfl
    · exact h

/-- R183: an acquire of another gang, or of a later place, does not move it. -/
theorem Stands.acquired (h : Stands o s) {j id : Nat} (hj : j = o.gang → o.id ≤ id) : Stands o (s.acquired j id) := by
  unfold State.acquired
  extract_lets g hd moved s1
  have hmoved : moved o = false := by
    simp only [moved, Bool.and_eq_false_iff, decide_eq_false_iff_not, Bool.or_eq_false_iff, beq_eq_false_iff_ne]
    by_cases hlt : id < o.id
    · refine .inr ⟨?_, .inl fun hg => absurd (hj hg.symm) (by omega)⟩
      intro hid
      cases hq : s.queue j with
      | nil => simp only [hd, hq, List.head?_nil, Option.map_none, Option.getD_none] at hid; omega
      | cons p ps =>
        refine h.not_queued hst (k := j) (hq ▸ List.mem_cons_self) (p := p) ?_
        simp only [hd, hq, List.head?_cons, Option.map_some, Option.getD_some] at hid
        exact hid.symm
    · exact .inl hlt
  refine h.map (f := fun p => if moved p then { p with head := s.nextOp } else p) rfl (fun p => by split <;> rfl) ?_ fun x hx => ?_
  · simp [hmoved]
  · rw [setGang_gang] at hx
    split at hx
    · next hg =>
      obtain ⟨f, hf, rfl⟩ := List.mem_map.1 hx
      have := h.fences f (by rw [hg]; exact hf)
      split <;> exact this
    · exact h.fences x hx

theorem Stands.settleAcq (h : Stands o s) (j : Nat) : Stands o (s.settleAcq j) := by
  unfold State.settleAcq
  extract_lets g met s1
  have h0 : Stands o (s.setGang j { g with fences := g.fences.map (s.acqHalf j) }) := by
    refine h.congr rfl fun x hx => ?_
    rw [setGang_gang] at hx
    split at hx
    · next hg =>
      obtain ⟨f, hf, rfl⟩ := List.mem_map.1 hx
      intro ha
      exact h.fences f (by rw [hg]; exact hf) (Bool.and_eq_true_iff.1 ha).1
    · exact h.fences x hx
  have h1 : Stands o s1 := by
    refine List.foldlRecOn met _ h0 fun t ht f hf => ht.acquired hst fun hj => ?_
    obtain ⟨hm, ha⟩ := List.mem_filter.1 hf
    exact h.fences f (hj ▸ hm) (Bool.and_eq_true_iff.1 ha).1
  split
  · exact h1.congr rfl h1.fences
  · exact h1

theorem Stands.settleFence (h : Stands o s) (j : Nat) : Stands o (s.settleFence j) := by
  have h1 := h.settleAcq hst j
  refine h1.congr rfl fun x hx => ?_
  rw [State.settleFence, setGang_gang] at hx
  split at hx
  · next hg =>
    obtain ⟨f, hf, rfl⟩ := List.mem_map.1 (List.mem_filter.1 hx).1
    exact h1.fences f (by rw [hg]; exact hf)
  · exact h1.fences x hx

omit hst in
theorem settleFences_settlesOnly (s : State) (k : Nat) : SettlesOnly s (s.settleFences k) := settleCore_settlesOnly s _

/-- What settles leaves it as it is. -/
theorem Stands.settleFences (h : Stands o s) (k : Nat) : Stands o (s.settleFences k) :=
  List.foldlRecOn _ _ h fun _ ht j _ => ht.settleFence hst j

end Stands

/-! #### The entry that leaves -/

/-- Two states whose operations alone differ, each under its identity. -/
def OpsMove (s t : State) : Prop := ∃ f : Op → Op, (∀ p, (f p).id = p.id) ∧ t = { s with ops := s.ops.map f }

theorem OpsMove.refl (s : State) : OpsMove s s := ⟨id, fun _ => rfl, by simp⟩

theorem OpsMove.trans {s t u : State} (h : OpsMove s t) (g : OpsMove t u) : OpsMove s u := by
  obtain ⟨f, hf, rfl⟩ := h
  obtain ⟨f', hf', rfl⟩ := g
  exact ⟨f' ∘ f, fun p => (hf' _).trans (hf p), by simp⟩

section Leaves
variable (s : State) (k : Nat) (o : Op)

theorem waitAtomic_opsMove : OpsMove s (s.waitAtomic k) := ⟨_, fun p => by split <;> rfl, rfl⟩
theorem reload_opsMove : OpsMove s (s.reload k o) := ⟨_, fun p => by dsimp only; split <;> rfl, rfl⟩
theorem sendLoads_opsMove (id : Nat) : OpsMove s (s.sendLoads k id) := ⟨_, fun p => by split <;> rfl, rfl⟩

/-- The state in which an entry leaves: atomics and loads of its core have been told (R157, R179). -/
def told : State :=
  let sA := if o.kind == .store then s else s.waitAtomic k
  if o.kind.memory then (sA.reload k o).sendLoads k o.id else sA

theorem told_opsMove : OpsMove s (told s k o) := by
  have hA : OpsMove s (if o.kind == .store then s else s.waitAtomic k) := by
    split
    · exact .refl s
    · exact waitAtomic_opsMove s k
  unfold told
  dsimp only
  split
  · exact hA.trans ((reload_opsMove _ k o).trans (sendLoads_opsMove _ k o.id))
  · exact hA

/-- The entry once it has left its core. -/
def left : Op :=
  { o with stage := .sent, left := s.nextOp, seen := if o.seen = 0 then s.nextOp else o.seen,
           leftCores := slotCore k :: o.leftCores.filter (fun x => x != slotCore k) }

/-- R153: the L1 lines alone take the bytes of a store that leaves. -/
theorem l1Els_only (es : List El) : ∀ s : State, ∃ l, s.l1Els o es = { s with l1 := l } := by
  induction es with
  | nil => exact fun s => ⟨s.l1, rfl⟩
  | cons e es ih =>
    intro s
    obtain ⟨l, hl⟩ := ih (if e.open_ && o.plain e then s.l1Store (s.coreOf o) o.asid e.addr.toNat e.data else s)
    refine ⟨l, hl.trans ?_⟩
    split <;> rfl

theorem nextHead_only : s.nextHead k = { s with ops := (s.nextHead k).ops, nextOp := (s.nextHead k).nextOp } := by
  unfold State.nextHead
  split
  · rfl
  · split <;> rfl

/-- The state in which an entry of memory has left, and nothing of it has been performed. -/
def sentOff : State := (({ ((told s k o).setOp (left s k o)) with nextOp := s.nextOp + 1 }.l1Els o o.els).nextHead k)

/-- Only operations, L1 lines and the next number differ. -/
theorem sentOff_only : ∃ l l1 n, sentOff s k o = { s with ops := l, l1 := l1, nextOp := n } := by
  obtain ⟨f, -, hf⟩ := told_opsMove s k o
  obtain ⟨l1, hl⟩ := l1Els_only o o.els { ((told s k o).setOp (left s k o)) with nextOp := s.nextOp + 1 }
  unfold sentOff
  rw [nextHead_only, hl, hf]
  exact ⟨_, l1, _, rfl⟩

variable {s k o} {rest : List Op} (hq : s.queue k = o :: rest)
include hq

theorem queue_head_mem : o ∈ s.ops ∧ o.gang = k ∧ o.inQ = true ∧ o.stage = .queued := by
  have h : o ∈ s.queue k := hq ▸ List.mem_cons_self
  obtain ⟨hmem, hp⟩ := List.mem_filter.1 h
  simp only [Bool.and_eq_true, beq_iff_eq] at hp
  exact ⟨hmem, hp.1.1, hp.1.2, hp.2⟩

variable (hm : s.mayLeave k o = true)
include hm

omit hq in
/-- R181: no older fence holds it. -/
theorem leaves_fences : ∀ f ∈ (s.gang k).fences, f.acq = true → o.id ≤ f.id := by
  intro f hf ha
  simp only [State.mayLeave, State.acqDone, Bool.and_eq_true, List.all_eq_true, Bool.not_eq_true', Bool.and_eq_false_iff,
    decide_eq_false_iff_not] at hm
  obtain ⟨⟨⟨⟨⟨⟨⟨⟨-, -, hacq⟩, -⟩, -⟩, -⟩, -⟩, -⟩, -⟩, -⟩ := hm
  obtain h | h := hacq f hf
  · rw [ha] at h
    cases h
  · omega

theorem sentOff_stands : Stands (left s k o) (sentOff s k o) := by
  obtain ⟨hmem, hgang, -, -⟩ := queue_head_mem hq
  obtain ⟨f, hid, hf⟩ := told_opsMove s k o
  have h0 : Stands (left s k o) { ((told s k o).setOp (left s k o)) with nextOp := s.nextOp + 1 } := by
    refine ⟨fun p hp hpi => ?_, ⟨left s k o, ?_, rfl⟩, fun x hx ha => ?_⟩
    · obtain ⟨q, hqm, rfl⟩ := List.mem_map.1 hp
      split at hpi
      · next h => exact if_pos h
      · next h => exact absurd hpi h
    · refine List.mem_map.2 ⟨f o, ?_, if_pos (hid o)⟩
      rw [hf]
      exact List.mem_map_of_mem hmem
    · refine leaves_fences hm x ?_ ha
      rw [hf, left, hgang] at hx
      exact hx
  refine Stands.nextHead (by simp [left]) ?_ k
  obtain ⟨l1, hl⟩ := l1Els_only o o.els { ((told s k o).setOp (left s k o)) with nextOp := s.nextOp + 1 }
  rw [hl]
  exact h0.congr rfl h0.fences

/-- R156: an entry of memory leaves, and what its core performs of it is performed. -/
theorem leave_sends (hs : o.scr = false) (hne : o.els ≠ []) : exec (.storeQueueEntryLeave k) s = .next
    ((if o.kind.memory then (sentOff s k o).ownEls o.id (List.range o.els.length) else sentOff s k o).settleFences k) := by
  change execStoreQueueEntryLeave k s = _
  have he : (o.lane && o.els.isEmpty) = false := by simp [hne]
  rw [execStoreQueueEntryLeave, hq]
  dsimp only
  rw [if_neg (by simp [hm]), if_neg (by simp [hs]), he]
  rfl

/-- R154: a scratchpad entry is performed as it leaves. -/
theorem leave_banks (hs : o.scr = true) : exec (.storeQueueEntryLeave k) s = .next
    (((((told s k o).scrEls o o.els).1.setOp { left s k o with els := ((told s k o).scrEls o o.els).2, stage := .ready }).nextHead k).settleFences k) := by
  change execStoreQueueEntryLeave k s = _
  rw [execStoreQueueEntryLeave, hq]
  dsimp only
  rw [if_neg (by simp [hm]), if_pos hs]
  rfl

end Leaves

/-! #### What of it the core performs -/

section Own
variable {s : State} {k : Nat} {o : Op}

/-- R176: an operation none of whose elements is its core's keeps them all. -/
theorem ownEls_none {id : Nat} {p : Op} (hp : s.op id = some p) (hw : ∀ e ∈ p.els, ownWin p e = false) (is : List Nat) :
    s.ownEls id is = s := by
  induction is with
  | nil => rfl
  | cons i is ih =>
    rw [State.ownEls, hp]
    dsimp only
    split
    · next e he => rw [hw e (List.mem_of_getElem? he), Bool.and_false, Bool.false_and]; exact ih
    · exact ih

/-- A store of one element through a window of its own core is performed there. -/
theorem ownEls_store {e : El} (hp : s.op o.id = some o) (he : o.els = [e]) (ht : e.st = .todo) (hk : o.kind = .store)
    (hw : ownWin o e = true) : s.ownEls o.id (List.range o.els.length) = s.winEl o e 0 := by
  have hr : List.range o.els.length = [0] := by rw [he]; rfl
  rw [hr, State.ownEls, hp]
  dsimp only
  rw [he]
  simp only [List.getElem?_cons_zero, ht, hw, Op.bankTurn, hk, OpKind.atomic]
  rfl

/-- A store of one element to the scratchpad of its crew. -/
theorem scrEls_store {e : El} (he : o.els = [e]) (ho : e.open_ = true) (hk : o.kind = .store) :
    (s.scrEls o o.els).1 = s.scrStore o.crew e.addr.toNat e.data true := by
  rw [he]
  simp only [State.scrEls, ho, Bool.not_true, Bool.false_eq_true, if_false, Op.newBytes, hk, raise_none]

end Own

section Banks
variable {s : State} {k : Nat} {o : Op} {rest : List Op} {e : El}

/-- R154: a store to the own scratchpad is one store at the bank. -/
theorem leave_stores_scr (hq : s.queue k = o :: rest) (hm : s.mayLeave k o = true) (hs : o.scr = true) (hk : o.kind = .store)
    (he : o.els = [e]) (ho : e.open_ = true) :
    ∃ t, exec (.storeQueueEntryLeave k) s = .next t ∧ (∀ c, t.crew c = (s.scrStore o.crew e.addr.toNat e.data true).crew c)
      ∧ ∀ a, t.readPhys a 1 = s.readPhys a 1 ∧ t.readHost a 1 = s.readHost a 1 ∧ t.readPeer a 1 = s.readPeer a 1 := by
  obtain ⟨f, -, hf⟩ := told_opsMove s k o
  refine ⟨_, leave_banks hq hm hs, ?_⟩
  generalize { left s k o with els := ((told s k o).scrEls o o.els).2, stage := .ready } = p
  have hset := settleFences_settlesOnly ((((told s k o).scrEls o o.els).1.setOp p).nextHead k) k
  generalize ((((told s k o).scrEls o o.els).1.setOp p).nextHead k).settleFences k = t at hset ⊢
  rw [nextHead_only, scrEls_store he ho hk, hf] at hset
  refine ⟨fun c => (hset.crew c).trans ?_, fun a => ?_⟩
  · rw [scrStore_crew]
    exact scrStore_crew ..
  · obtain ⟨h1, h2, h3, -⟩ := hset.sameBytes a
    rw [h1, h2, h3, scrStore_only]
    exact ⟨rfl, rfl, rfl⟩

/-- R154: a store that a window of its own core performs there names a scratchpad. -/
theorem leave_window (hk : o.kind = .store) (he : o.els = [e]) (hw : ownWin o e = true) :
    o.els ≠ [] ∧ e.addr.toNat.testBit 35 = true := by
  refine ⟨by rw [he]; exact List.cons_ne_nil _ _, ?_⟩
  simp only [ownWin, hk, OpKind.isLoad, Bool.false_or, Bool.and_eq_true] at hw
  exact hw.1.2

/-- R154, R176: a store through a window of its own core is one store at the bank that the window names. -/
theorem leave_stores_window (hq : s.queue k = o :: rest) (hm : s.mayLeave k o = true) (hs : o.scr = false) (hk : o.kind = .store)
    (he : o.els = [e]) (ht : e.st = .todo) (hw : ownWin o e = true) (hc : s.windowCause o e = none) :
    let c := (s.gang (winSlot e.addr.toNat)).crew
    let off := bits e.addr.toNat 20 0
    ∃ t, exec (.storeQueueEntryLeave k) s = .next t
      ∧ (∀ a, (t.crew c).readScr a 1 = if off ≤ a ∧ a < off + e.data.length then [e.data.getD (a - off) 0] else (s.crew c).readScr a 1)
      ∧ (∀ d, d ≠ c → t.crew d = s.crew d)
      ∧ ∀ a, t.readPhys a 1 = s.readPhys a 1 ∧ t.readHost a 1 = s.readHost a 1 ∧ t.readPeer a 1 = s.readPeer a 1 := by
  obtain ⟨hne, h35⟩ := leave_window hk he hw
  obtain ⟨l, l1, n, hl⟩ := sentOff_only s k o
  have hst := sentOff_stands hq hm
  have hcause : (sentOff s k o).windowCause (left s k o) e = none := by
    rw [hl]
    exact hc
  have hop : ((sentOff s k o).winWrite (left s k o).crew e.addr.toNat e.data).op (left s k o).id = some (left s k o) := by
    rw [winWrite_bank h35, scrStore_only]
    exact hst.op
  have hkind : (left s k o).kind = .store := hk
  have hread := readDone_single hop he (fun c => by rw [hkind]; nofun) []
  have hown : (if o.kind.memory then (sentOff s k o).ownEls o.id (List.range o.els.length) else sentOff s k o)
      = ((sentOff s k o).winWrite (left s k o).crew e.addr.toNat e.data).readDone (left s k o) 0 [] := by
    rw [if_pos (by rw [hk]; rfl)]
    refine (ownEls_store (o := left s k o) hst.op he ht hk hw).trans ((winEl_store hcause hk).trans ?_)
    rw [raise_none]
  have hb := (hread.trans (settleFences_settlesOnly _ k)).bank h35
  refine ⟨_, leave_sends hq hm hs hne, ?_⟩
  rw [hown]
  generalize (State.settleFences _ k) = t at hb ⊢
  rw [hl] at hb
  exact hb

end Banks

/-- Settles O37: an entry that leaves stands as it was sent (`sentOff_stands`), and no fence that settles moves it
(`Stands.settleFences`); a store at the bank is one store to a scratchpad (`scrEls_store`, `ownEls_store`). -/
theorem queueEntriesLeave : Obligations.QueueEntriesLeave := by
  intro k o rest s hq hm bank
  refine ⟨fun hs hne hw => ?_, fun hs hk e he ho => ?_, fun hs hk e he ht hw hc => ?_⟩
  · have hst := sentOff_stands hq hm
    have hown : (if o.kind.memory then (sentOff s k o).ownEls o.id (List.range o.els.length) else sentOff s k o) = sentOff s k o := by
      split
      · next hmem => exact ownEls_none hst.op (fun e he => hw e he hmem) _
      · rfl
    refine ⟨_, leave_sends hq hm hs hne, ?_⟩
    rw [hown]
    obtain ⟨l, l1, n, hl⟩ := sentOff_only s k o
    refine ⟨(hst.settleFences (by simp [left]) k).op, sameBytes_trans ?_ (settleFences_settlesOnly _ k).sameBytes⟩
    rw [hl]
    exact sameBytes_of_fields rfl rfl rfl fun _ => rfl
  · obtain ⟨t, ht, hcrews, hbytes⟩ := leave_stores_scr hq hm hs hk he ho
    refine ⟨t, ht, fun a => ?_, fun d hd => ?_, fun a => ⟨(hbytes a).1, (hbytes a).2.1, (hbytes a).2.2⟩⟩
    · rw [hcrews]
      exact scrStore_readScr_byte s o.crew e.addr.toNat e.data true a
    · rw [hcrews]
      exact (scrStore_crew ..).trans (if_neg hd)
  · exact leave_stores_window hq hm hs hk he ht hw hc

end Sys2Proof.Proofs
end

section
open Sys2Proof Sys2Proof.Machine Sys2Proof.Claims Sys2Proof.Laws

namespace Sys2Proof.Proofs

/-! ### Fences (R165, R183): what the settling of fences leaves of them -/

/-! #### What a fence waits for is the same while fences settle -/

/-- Two states that differ in the fences of gangs, in the heads of queues, in the next number, and in lines that have left the L1s. -/
structure FencesOnly (s t : State) : Prop where
  ops : headless t.ops = headless s.ops
  crews : t.crews = s.crews
  quay : t.quay = s.quay
  hostMem : t.hostMem = s.hostMem
  peerMem : t.peerMem = s.peerMem
  cur : t.cur = s.cur
  nextOp : s.nextOp ≤ t.nextOp
  l1 : ∀ l ∈ t.l1, l ∈ s.l1
  gang : ∀ k, t.gang k = { s.gang k with fences := (t.gang k).fences }

theorem FencesOnly.refl (s : State) : FencesOnly s s := ⟨rfl, rfl, rfl, rfl, rfl, rfl, le_rfl, fun _ h => h, fun _ => rfl⟩

theorem FencesOnly.trans {s t u : State} (h : FencesOnly s t) (g : FencesOnly t u) : FencesOnly s u :=
  ⟨g.ops.trans h.ops, g.crews.trans h.crews, g.quay.trans h.quay, g.hostMem.trans h.hostMem, g.peerMem.trans h.peerMem,
    g.cur.trans h.cur, h.nextOp.trans g.nextOp, fun l hl => h.l1 l (g.l1 l hl), fun k => by rw [g.gang, h.gang]⟩

theorem fencesOnly_foldl {β : Type} {f : State → β → State} (h : ∀ s x, FencesOnly s (f s x)) (l : List β) (s : State) :
    FencesOnly s (l.foldl f s) :=
  List.foldlRecOn l f (.refl s) fun t ht x _ => ht.trans (h t x)

theorem FencesOnly.sameBytes {s t : State} (h : FencesOnly s t) : s.SameBytes t :=
  sameBytes_of_fields (by rw [h.quay]) h.hostMem h.peerMem fun c => by rw [State.crew, State.crew, h.crews]

theorem setGang_fencesOnly (s : State) (k : Nat) (fs : List Fence) : FencesOnly s (s.setGang k { s.gang k with fences := fs }) :=
  ⟨rfl, rfl, rfl, rfl, rfl, rfl, le_rfl, fun _ h => h, fun j => by
    rw [setGang_gang]
    split
    · next h => rw [h]
    · rfl⟩

theorem emptyL1_fencesOnly (s : State) (core : Nat) : FencesOnly s (s.emptyL1 core) :=
  ⟨rfl, rfl, rfl, rfl, rfl, rfl, le_rfl, fun _ h => (List.mem_filter.1 h).1, fun _ => rfl⟩

theorem acquired_fencesOnly (s : State) (k id : Nat) : FencesOnly s (s.acquired k id) := by
  unfold State.acquired
  extract_lets g hd moved s1
  have h1 : FencesOnly s s1 :=
    ⟨headless_map (fun p => by split <;> rfl) _, rfl, rfl, rfl, rfl, rfl, Nat.le_succ _, fun _ h => h, fun _ => rfl⟩
  exact h1.trans (setGang_fencesOnly s1 k _)

theorem settleAcq_fencesOnly (s : State) (k : Nat) : FencesOnly s (s.settleAcq k) := by
  unfold State.settleAcq
  extract_lets g met s1
  have h1 : FencesOnly s s1 := (setGang_fencesOnly s k _).trans
    (fencesOnly_foldl (fun t (f : Fence) => acquired_fencesOnly t k f.id) _ _)
  split
  · exact h1.trans (emptyL1_fencesOnly _ _)
  · exact h1

theorem settleFence_fencesOnly (s : State) (k : Nat) : FencesOnly s (s.settleFence k) :=
  (settleAcq_fencesOnly s k).trans (setGang_fencesOnly (s.settleAcq k) k _)

theorem settleCore_fencesOnly (s : State) (core : Nat) : FencesOnly s (s.settleCore core) :=
  fencesOnly_foldl settleFence_fencesOnly _ s

theorem any_headless {p : Op → Bool} (h : ∀ o : Op, p { o with head := 0 } = p o) (l : List Op) : (headless l).any p = l.any p := by
  rw [headless, List.any_map]
  exact congrArg (l.any ·) (funext h)

theorem all_headless {p : Op → Bool} (h : ∀ o : Op, p { o with head := 0 } = p o) (l : List Op) : (headless l).all p = l.all p := by
  rw [headless, List.all_map]
  exact congrArg (l.all ·) (funext h)

namespace FencesOnly

variable {s t : State} (h : FencesOnly s t)
include h

theorem any_ops {p : Op → Bool} (hp : ∀ o : Op, p { o with head := 0 } = p o) : t.ops.any p = s.ops.any p := by
  rw [← any_headless hp, h.ops, any_headless hp]

theorem all_ops {p : Op → Bool} (hp : ∀ o : Op, p { o with head := 0 } = p o) : t.ops.all p = s.ops.all p := by
  rw [← all_headless hp, h.ops, all_headless hp]

theorem fetchOpen (k id : Nat) : t.fetchOpen k id = s.fetchOpen k id := by
  rw [State.fetchOpen, State.fetchOpen, h.gang, h.quay]

theorem unreturned (k id : Nat) : t.unreturned k id = s.unreturned k id := by
  rw [State.unreturned, State.unreturned, h.fetchOpen, h.any_ops fun _ => rfl]

theorem olderDone (k id : Nat) (sc : Scope) (mask : BitVec 8) : t.olderDone k id sc mask = s.olderDone k id sc mask := by
  rw [State.olderDone, State.olderDone, h.fetchOpen, h.all_ops fun _ => rfl]

theorem cumulative (core n : Nat) (sc : Scope) : t.cumulative core n sc = s.cumulative core n sc := by
  rw [State.cumulative, State.cumulative, h.all_ops fun _ => rfl]

theorem acqOpen (k id : Nat) : t.ops.any (fun p => p.acqOpen k id) = s.ops.any (fun p => p.acqOpen k id) := h.any_ops fun _ => rfl

theorem coreOfGang (k : Nat) : t.coreOfGang k = s.coreOfGang k := by
  rw [State.coreOfGang, State.coreOfGang, h.gang, State.crew, State.crew, h.crews]

end FencesOnly

/-! #### The only fence of a gang -/

/-- What is left of the only fence of a gang, which waits for no other fence. -/
def halvesLeft (s : State) (k : Nat) (f : Fence) : Fence :=
  { f with acq := f.acq && s.unreturned k f.id
           rel := f.rel && !(!s.ops.any (fun p => p.acqOpen k f.id) && s.olderDone k f.id f.scope f.mask
             && s.cumulative (s.coreOfGang k) f.num f.scope) }

/-- The fences of a gang whose only fence has settled: a fence without a half is gone. -/
def fencesLeft (s : State) (k : Nat) (f : Fence) : List Fence := [halvesLeft s k f].filter (fun f => f.acq || f.rel)

theorem FencesOnly.fencesLeft {s t : State} (h : FencesOnly s t) (k : Nat) (f : Fence) : fencesLeft t k f = fencesLeft s k f := by
  rw [Proofs.fencesLeft, Proofs.fencesLeft, halvesLeft, halvesLeft, h.unreturned, h.acqOpen, h.olderDone, h.coreOfGang, h.cumulative]

theorem halvesLeft_idem (s : State) (k : Nat) (f : Fence) : halvesLeft s k (halvesLeft s k f) = halvesLeft s k f := by
  simp [halvesLeft, Bool.and_assoc]

/-- R182: its own acquire half holds no fence back, and only the acquires in flight are older. -/
theorem acqDone_own {s : State} {k id : Nat} {f : Fence} (hf : (s.gang k).fences = [f]) (hid : f.id = id) :
    s.acqDone k id = !s.ops.any (fun p => p.acqOpen k id) := by
  simp [State.acqDone, hf, hid]

section
variable {s : State} {k : Nat} {f : Fence} (hf : (s.gang k).fences = [f])
include hf

theorem settleAcq_fences : ((s.settleAcq k).gang k).fences = [s.acqHalf k f] := by
  have hone (t : State) (ht : (t.gang k).fences = [s.acqHalf k f]) : ((t.acquired k f.id).gang k).fences = [s.acqHalf k f] := by
    simp [State.acquired, ht, State.acqHalf]
  unfold State.settleAcq
  extract_lets g met s1
  have h0 : ((s.setGang k { g with fences := g.fences.map (s.acqHalf k) }).gang k).fences = [s.acqHalf k f] := by
    simp [g, hf]
  have h1 : (s1.gang k).fences = [s.acqHalf k f] :=
    List.foldlRecOn met _ (motive := fun (t : State) => (t.gang k).fences = [s.acqHalf k f]) h0 fun t ht x hx => by
      obtain rfl : x = f := by simpa [g, hf] using (List.mem_filter.1 hx).1
      exact hone t ht
  split
  · exact h1
  · exact h1

theorem settleFence_fences : ((s.settleFence k).gang k).fences = fencesLeft s k f := by
  have hq := settleAcq_fencesOnly s k
  have ha := settleAcq_fences hf
  have hleft : (s.settleAcq k).relHalf k (s.acqHalf k f) = halvesLeft s k f := by
    have hd : (s.settleAcq k).acqDone k f.id = !s.ops.any (fun p => p.acqOpen k f.id) := by
      rw [← hq.acqOpen]
      exact acqDone_own ha rfl
    simp only [State.relHalf, State.acqHalf, halvesLeft, hd, hq.olderDone, hq.coreOfGang, hq.cumulative]
  simp only [State.settleFence, setGang_gang, if_pos, ha, List.map_cons, List.map_nil, hleft, fencesLeft]

/-- R153: an acquire half at die scope or wider that is satisfied empties the L1 of the core. -/
theorem settleFence_empties (hacq : f.acq = true) (hu : s.unreturned k f.id = false) (hsc : 3 ≤ f.scope.code) :
    ∀ l ∈ (s.settleFence k).l1, l.core ≠ s.coreOfGang k := by
  intro l hl
  have hm : ((s.gang k).fences.filter (fun f => f.acq && !(s.acqHalf k f).acq)).any (fun f => decide (3 ≤ f.scope.code)) = true := by
    simp [hf, State.acqHalf, hacq, hu, hsc]
  change l ∈ (s.settleAcq k).l1 at hl
  rw [State.settleAcq, if_pos hm] at hl
  simpa [State.emptyL1] using (List.mem_filter.1 hl).2

end

/-- A fence that has settled stays as it is while the others do. -/
theorem settleFence_left {s : State} {k : Nat} {f : Fence} (hf : (s.gang k).fences = fencesLeft s k f) (j : Nat) :
    ((s.settleFence j).gang k).fences = fencesLeft s k f := by
  by_cases hj : k = j
  · subst hj
    by_cases hl : ((halvesLeft s k f).acq || (halvesLeft s k f).rel) = true
    · have h1 : fencesLeft s k f = [halvesLeft s k f] := List.filter_cons_of_pos hl
      rw [settleFence_fences (hf.trans h1), fencesLeft, halvesLeft_idem, fencesLeft]
    · have h0 : fencesLeft s k f = [] := List.filter_cons_of_neg hl
      rw [settleFence_gang s (hf.trans h0) k, hf]
  · rw [State.settleFence, setGang_gang, if_neg hj, settleAcq_gang_ne s hj, hf]

theorem settleFences_left {s : State} {k : Nat} {f : Fence} (hf : (s.gang k).fences = fencesLeft s k f) (l : List Nat) :
    ((l.foldl State.settleFence s).gang k).fences = fencesLeft s k f := by
  have h := List.foldlRecOn l State.settleFence (motive := fun t => FencesOnly s t ∧ (t.gang k).fences = fencesLeft s k f)
    ⟨.refl s, hf⟩ fun t ⟨hs, ht⟩ j _ => by
      rw [← hs.fencesLeft] at ht ⊢
      exact ⟨hs.trans (settleFence_fencesOnly t j), settleFence_left ht j⟩
  exact h.2

/-- The only fence of a gang settles in its turn, before which it stands and after which it stays as it is. -/
theorem settleCore_turn {s : State} {k : Nat} {f : Fence} (hf : (s.gang k).fences = [f]) :
    ∃ t, FencesOnly s t ∧ (t.gang k).fences = [f] ∧ FencesOnly (t.settleFence k) (s.settleCore (s.coreOfGang k))
      ∧ ((s.settleCore (s.coreOfGang k)).gang k).fences = fencesLeft s k f := by
  have hmem : (k, s.gang k) ∈ s.gangs := mem_of_get_ne fun h => by
    rw [State.gang, h] at hf
    exact List.cons_ne_nil f [] hf.symm
  unfold State.settleCore
  generalize hks : (List.filter _ s.gangs).map (·.1) = ks
  have hk : k ∈ ks := by
    rw [← hks]
    exact List.mem_map.2 ⟨_, List.mem_filter.2 ⟨hmem, by simp [hf]⟩, rfl⟩
  obtain ⟨as, bs, rfl, has⟩ := List.eq_append_cons_of_mem hk
  rw [List.foldl_append, List.foldl_cons]
  have ht : ((as.foldl State.settleFence s).gang k) = s.gang k :=
    List.foldlRecOn as State.settleFence (motive := fun t => t.gang k = s.gang k) rfl fun t ht j hj => by
      have hne : k ≠ j := fun h => has (h ▸ hj)
      rw [State.settleFence, setGang_gang, if_neg hne, settleAcq_gang_ne t hne, ht]
  have hs : FencesOnly s (as.foldl State.settleFence s) := fencesOnly_foldl settleFence_fencesOnly as s
  generalize as.foldl State.settleFence s = t at ht hs ⊢
  rw [← ht] at hf
  have hu := settleFence_fences hf
  have hst := hs.trans (settleFence_fencesOnly t k)
  rw [hs.fencesLeft, ← hst.fencesLeft] at hu
  refine ⟨t, hs, hf, fencesOnly_foldl settleFence_fencesOnly bs _, ?_⟩
  rw [settleFences_left hu, hst.fencesLeft]

theorem settleCore_fences {s : State} {k : Nat} {f : Fence} (hf : (s.gang k).fences = [f]) :
    ((s.settleCore (s.coreOfGang k)).gang k).fences = fencesLeft s k f := by
  obtain ⟨_, -, -, -, h⟩ := settleCore_turn hf
  exact h

theorem settleCore_empties {s : State} {k : Nat} {f : Fence} (hf : (s.gang k).fences = [f]) (hacq : f.acq = true)
    (hu : s.unreturned k f.id = false) (hsc : 3 ≤ f.scope.code) :
    ∀ l ∈ (s.settleCore (s.coreOfGang k)).l1, l.core ≠ s.coreOfGang k := by
  intro l hl
  obtain ⟨t, hs, ht, hrest, -⟩ := settleCore_turn hf
  rw [← hs.coreOfGang]
  rw [← hs.unreturned] at hu
  exact settleFence_empties ht hacq hu hsc l (hrest.l1 l hl)

end Sys2Proof.Proofs
end

section
open Sys2Proof Sys2Proof.Machine Sys2Proof.Claims Sys2Proof.Laws

namespace Sys2Proof.Proofs

/-! #### A fence takes its place, and the last access that it covers takes it away -/

/-- The fence that an `sfence` makes. -/
def newFence (s : State) (sc : Scope) (kind : FenceKind) (mask : Fin 256) : Fence :=
  ⟨s.nextOp, kind != .rel, kind != .acq, sc, BitVec.ofNat 8 mask.val, s.nextOp⟩

/-- The state in which an `sfence` has taken its place in issue order. -/
def fenced (s : State) (f : Fence) : State :=
  { s with nextOp := s.nextOp + 1 }.setMe { s.me with fences := [f], pc := s.me.pc + 8 }

section
variable (s : State) (f : Fence)

theorem fenced_gang (k : Nat) : (fenced s f).gang k = if k = s.cur then { s.me with fences := [f], pc := s.me.pc + 8 } else s.gang k :=
  setMe_gang _ _ _

theorem fenced_unreturned (id : Nat) : (fenced s f).unreturned s.cur id = s.unreturned s.cur id := by
  rw [State.unreturned, State.unreturned, State.fetchOpen, State.fetchOpen, fenced_gang, if_pos rfl]
  rfl

theorem fenced_olderDone (id : Nat) (sc : Scope) (mask : BitVec 8) :
    (fenced s f).olderDone s.cur id sc mask = s.olderDone s.cur id sc mask := by
  rw [State.olderDone, State.olderDone, State.fetchOpen, State.fetchOpen, fenced_gang, if_pos rfl]
  rfl

theorem fenced_coreOfGang : (fenced s f).coreOfGang s.cur = s.coreOfGang s.cur := by
  rw [State.coreOfGang, State.coreOfGang, fenced_gang, if_pos rfl]
  rfl

end

theorem sfence_fences (sc : Scope) (kind : FenceKind) (mask : Fin 256) (s : State) (h : s.me.fences = []) :
    let acq := kind != .rel && s.unreturned s.cur s.nextOp
    let rel := kind != .acq && !(s.acqDone s.cur s.nextOp && s.olderDone s.cur s.nextOp sc (BitVec.ofNat 8 mask.val)
      && s.cumulative (s.coreOfGang s.cur) s.nextOp sc)
    fencesLeft (fenced s (newFence s sc kind mask)) s.cur (newFence s sc kind mask) =
      if acq || rel then [⟨s.nextOp, acq, rel, sc, BitVec.ofNat 8 mask.val, s.nextOp⟩] else [] := by
  intro acq rel
  have hacq : s.acqDone s.cur s.nextOp = !s.ops.any (fun p => p.acqOpen s.cur s.nextOp) := by
    rw [State.acqDone, show (s.gang s.cur).fences = [] from h, List.all_nil, Bool.and_true]
  have hleft : halvesLeft (fenced s (newFence s sc kind mask)) s.cur (newFence s sc kind mask) =
      ⟨s.nextOp, acq, rel, sc, BitVec.ofNat 8 mask.val, s.nextOp⟩ := by
    simp only [halvesLeft, fenced_unreturned, fenced_olderDone, fenced_coreOfGang, newFence, acq, rel, hacq]
    rfl
  rw [fencesLeft, hleft, List.filter_cons, List.filter_nil]

/-- R165: a fence takes its place in issue order and stands while an older access that it covers is still to be done. -/
theorem sfence_takes_place (sc : Scope) (kind : FenceKind) (mask : Fin 256) (s : State) (h : s.me.fences = []) :
    let acq := kind != .rel && s.unreturned s.cur s.nextOp
    let rel := kind != .acq && !(s.acqDone s.cur s.nextOp && s.olderDone s.cur s.nextOp sc (BitVec.ofNat 8 mask.val)
      && s.cumulative (s.coreOfGang s.cur) s.nextOp sc)
    ∃ t, exec (.sfence sc kind mask) s = .next t ∧ s.nextOp < t.nextOp ∧ s.SameBytes t
      ∧ t.me.fences = (if acq || rel then [⟨s.nextOp, acq, rel, sc, BitVec.ofNat 8 mask.val, s.nextOp⟩] else [])
      ∧ t.me = { s.me with fences := t.me.fences, pc := s.me.pc + 8, parked := t.me.parked }
      ∧ (kind ≠ .rel → acq = false → 3 ≤ sc.code → ∀ l ∈ t.l1, l.core ≠ s.coreOfGang s.cur)
      ∧ ∀ k, k ≠ s.cur → t.gang k = { s.gang k with fences := (t.gang k).fences } := by
  intro acq rel
  have hleft := sfence_fences sc kind mask s h
  let f := newFence s sc kind mask
  have hf : ((fenced s f).gang s.cur).fences = [f] := by rw [fenced_gang, if_pos rfl]
  have hset := settleCore_fencesOnly (fenced s f) ((fenced s f).coreOfGang s.cur)
  have hfs := settleCore_fences hf
  have hl1 := settleCore_empties hf
  have hexec : exec (.sfence sc kind mask) s =
      .next (((fenced s f).settleCore ((fenced s f).coreOfGang s.cur)).parkNow s.cur) := by
    rw [exec_sfence, execSfence]
    simp only [h, List.nil_append]
    rfl
  generalize hu : (fenced s f).settleCore ((fenced s f).coreOfGang s.cur) = u at hset hfs hl1 hexec
  have hbytes := hset.sameBytes
  obtain ⟨gs, b, hpark, hgang⟩ := parkNow_only u s.cur
  have hme : (u.parkNow s.cur).me = { u.gang s.cur with parked := b } := by
    rw [State.me, show (u.parkNow s.cur).cur = s.cur by rw [hpark]; exact hset.cur, hgang, if_pos rfl]
  refine ⟨u.parkNow s.cur, hexec, ?_, ?_, ?_, ?_, ?_, ?_⟩
  · rw [hpark]
    exact hset.nextOp
  · exact sameBytes_trans (sameBytes_of_fields rfl rfl rfl fun _ => rfl) (sameBytes_trans hbytes (sameBytes_parkNow u s.cur))
  · rw [hme]
    exact hfs.trans hleft
  · rw [hme]
    have := hset.gang s.cur
    rw [fenced_gang, if_pos rfl] at this
    rw [this]
  · intro hk ha hc l hl
    rw [hpark] at hl
    rw [← fenced_coreOfGang s f]
    refine hl1 (by simp [f, newFence, hk]) ?_ hc l hl
    rw [fenced_unreturned]
    have hu : s.unreturned s.cur s.nextOp = false := by simpa [acq, hk] using ha
    exact hu
  · intro k hk
    rw [hgang, if_neg hk, hset.gang k, fenced_gang, if_neg hk]

/-- R165: the return of the last access that a fence covers takes it away. -/
theorem retire_ends_fence {s : State} {o : Op} {f : Fence} (hf : (s.gang o.gang).fences = [f]) (hops : s.ops = [o])
    (hg : o.gang < 16384) (hland : (s.gang o.gang).landing = []) : ((s.retire o).gang o.gang).fences = [] := by
  have hnone : (s.dropOp o.id).ops = [] := by simp [State.dropOp, hops]
  generalize hd : s.dropOp o.id = s1 at hnone
  have hgang : s1.gang o.gang = s.gang o.gang := by rw [← hd]; rfl
  have hfetch (id : Nat) : s1.fetchOpen o.gang id = false := by rw [State.fetchOpen, hgang, hland, List.any_nil]
  have hleft : fencesLeft s1 o.gang f = [] := by
    simp [fencesLeft, halvesLeft, State.unreturned, State.olderDone, State.cumulative, hnone, hfetch]
  have hcore : s1.coreOf o = s1.coreOfGang o.gang := by simp [State.coreOf, State.coreOfGang, hg]
  have hset : ((s1.settleOf o).gang o.gang).fences = [] := by
    rw [State.settleOf, hcore]
    have h0 : ((s1.settleCore (s1.coreOfGang o.gang)).gang o.gang).fences = [] := by
      rw [settleCore_fences (by rw [hgang, hf]), hleft]
    exact List.foldlRecOn _ State.settleCore (motive := fun t => (t.gang o.gang).fences = []) h0
      fun t ht core _ => by rw [settleCore_gang t ht, ht]
  rw [State.retire, hd, State.unpark]
  obtain ⟨gs, b, -, hp⟩ := parkNow_only ((s1.settleOf o).setGang o.gang
    { (s1.settleOf o).gang o.gang with parked := _ }) o.gang
  rw [hp, if_pos rfl, setGang_gang, if_pos rfl]
  exact hset

theorem sReturn_fences (g : Gang) (d : Dst) (v : Option (List Byte)) : (g.sReturn d v).fences = g.fences := by
  unfold Gang.sReturn
  dsimp only
  split
  · exact ws_fences g _ _
  · exact wp_fences g _ _
  · rfl

theorem sReturn_landing (g : Gang) (d : Dst) (v : Option (List Byte)) : (g.sReturn d v).landing = g.landing := by
  unfold Gang.sReturn
  dsimp only
  split
  · exact ws_landing g _ _
  · exact wp_landing g _ _
  · rfl

theorem scalarReturn_ends_fence (f : Fence) (o : Op) (s : State) (hf : (s.gang o.gang).fences = [f]) (hops : s.ops = [o])
    (hg : o.gang < 16384) (hl : o.lane = false) (hk : o.kind = .load) (hd : o.dst ≠ .none) (hst : o.stage = .ready)
    (hland : (s.gang o.gang).landing = []) :
    ∃ t, exec (.scalarResultReturn o.id) s = .next t ∧ (t.gang o.gang).fences = [] := by
  have ho : s.op o.id = some o := by simp [State.op, hops, findOp]
  have hwait : s.resultWaits o = false := by simp [State.resultWaits, State.loadBehind, hops]
  refine ⟨_, scalarResultReturn_writes ho hl hd hst (by simp [hk]) (by simp [State.answer, hk]) hwait, ?_⟩
  refine retire_ends_fence (f := f) ?_ hops hg ?_
  · rw [setGang_gang, if_pos rfl, sReturn_fences, hf]
  · rw [setGang_gang, if_pos rfl, sReturn_landing, hland]

end Sys2Proof.Proofs
end

section
open Sys2Proof Sys2Proof.Machine Sys2Proof.Claims Sys2Proof.Laws

namespace Sys2Proof.Proofs

/-! #### An acquire half holds later accesses where they are performed -/

theorem acqDone_of_fence {s : State} {k id : Nat} {f : Fence} (hf : f ∈ (s.gang k).fences) (ha : f.acq = true) (hid : f.id < id) :
    s.acqDone k id = false := by
  have hall : (s.gang k).fences.all (fun f => !(f.acq && decide (f.id < id))) = false :=
    List.all_eq_false.2 ⟨f, hf, by simp [ha, hid]⟩
  rw [State.acqDone, hall, Bool.and_false]

/-- An element that is still to be performed is one of the elements of its request. -/
theorem self_mem_group {s : State} {o : Op} {e : El} {i : Nat} (he : o.els[i]? = some e) (ht : e.st = .todo) :
    (e, i) ∈ s.group o i := by
  have hblock : (e, i) ∈ s.blockEls o i := by
    rw [State.blockEls, he]
    exact List.mem_filter.2 ⟨List.mem_zipIdx_iff_getElem?.2 he, by simp [ht]⟩
  have hrun : (e, i) ∈ ((o.els.zipIdx.filter (fun x => x.1.st == .todo)).dropWhile (fun x => decide (x.2 < i))).takeWhile
      (fun x => s.blockOf o x.1 == s.blockOf o e) := by
    obtain ⟨hi, rfl⟩ := List.getElem?_eq_some_iff.1 he
    have hsplit : o.els.zipIdx = (o.els.take i).zipIdx ++ (o.els[i], i) :: (o.els.drop (i + 1)).zipIdx (i + 1) := by
      conv_lhs => rw [← List.take_append_drop i o.els, List.drop_eq_getElem_cons hi, List.zipIdx_append, List.zipIdx_cons]
      simp [Nat.min_eq_left hi.le]
    have hlow : ∀ x ∈ (o.els.take i).zipIdx.filter (fun x => x.1.st == .todo), decide (x.2 < i) = true := by
      intro x hx
      have := List.snd_lt_of_mem_zipIdx (List.mem_filter.1 hx).1
      rw [List.length_take] at this
      exact decide_eq_true (by omega)
    rw [hsplit, List.filter_append, List.dropWhile_append_of_pos hlow, List.filter_cons_of_pos (by simp [ht]),
      List.dropWhile_cons_of_neg (by simp), List.takeWhile_cons_of_pos (by simp)]
    exact List.mem_cons_self
  unfold State.group
  rw [he]
  dsimp only
  split
  · exact hblock
  · exact hblock
  · exact hrun
  · exact hrun
  · exact List.mem_cons_self

/-- R181: an element whose operation waits for an acquire is not performed, unless its request has reached the slice. -/
theorem elAt_held {s : State} {o : Op} {op : Nat} (ho : s.op op = some o) (hacq : s.acqDone o.gang o.id = false)
    (hw : ∀ w ∈ s.quay.waits ++ s.quay.paid, w.who ≠ op) (i : Nat) : s.elAt op i = none := by
  unfold State.elAt
  rw [ho]
  dsimp only
  split
  · rfl
  · next e he =>
    refine if_neg fun hc => ?_
    simp only [Bool.and_eq_true, beq_iff_eq, Bool.or_eq_true] at hc
    obtain ⟨⟨⟨⟨⟨-, ht⟩, -⟩, -⟩, -⟩, harr | ⟨-, hall⟩⟩ := hc
    · obtain ⟨w, hw', hx⟩ := List.any_eq_true.1 harr
      exact hw w hw' (by simp_all)
    · have hin := List.all_eq_true.1 hall _ (self_mem_group he ht)
      simp [State.inOrder, hacq] at hin

theorem accesses_held {s : State} {o : Op} (ho : s.op o.id = some o) (hacq : s.acqDone o.gang o.id = false) (hk : o.kind ≠ .prf)
    (hw : ∀ w ∈ s.quay.waits ++ s.quay.paid, w.who ≠ o.id) (i : Nat) (ch : Choice) :
    exec (.sliceAccess o.id i ch) s = .next s ∧ exec (.windowAccess o.id i) s = .next s
      ∧ ∀ r, exec (.hostAccessCompletion o.id i r) s = .next s := by
  have hel := elAt_held ho hacq hw i
  refine ⟨?_, ?_, fun r => ?_⟩
  · rw [exec_sliceAccess, execSliceAccess, hel, ho]
    dsimp only
    split
    · next h _ => exact absurd h hk
    · exact if_neg (by simp [hacq])
    · rfl
  · rw [exec_windowAccess, execWindowAccess, hel]
  · rw [exec_hostAccessCompletion, execHostAccessCompletion, hel]

/-- R165: an unsatisfied half of a fence holds the later entries of its gang in the store queue. -/
theorem leave_held {s : State} {k : Nat} {o : Op} {rest : List Op} {f : Fence} (hf : f ∈ (s.gang k).fences)
    (hhalf : f.acq = true ∨ f.rel = true) (hq : s.queue k = o :: rest) (hid : f.id < o.id) :
    exec (.storeQueueEntryLeave k) s = .next s := by
  have hm : s.mayLeave k o = false := by
    obtain ha | hr := hhalf
    · simp [State.mayLeave, acqDone_of_fence hf ha hid]
    · have hall : (s.gang k).fences.all (fun f => !(f.rel && decide (f.id < o.id))) = false :=
        List.all_eq_false.2 ⟨f, hf, by simp [hr, hid]⟩
      simp only [State.mayLeave, hall, Bool.and_false, Bool.false_and]
  rw [exec_storeQueueEntryLeave, execStoreQueueEntryLeave, hq]
  exact if_pos (by rw [hm]; rfl)

end Sys2Proof.Proofs
end

section
open Sys2Proof Sys2Proof.Machine Sys2Proof.Claims Sys2Proof.Laws

namespace Sys2Proof.Proofs

/-! #### An acquire half holds the lane stream, but for the redeems -/

/-- Each lane instruction but a redeem issues as an instruction of the lanes or as one of the matrix unit. -/
theorem exec_lane (s : State) {i : Instr} (hi : i.laneParts.isSome = true) (hr : ∀ w, i ≠ .vredeem w ∧ i ≠ .vredeemRemote w) :
    (∃ lanes u k, exec i s = laneGo s lanes u k) ∨ ∃ f u lanes chk more, exec i s = hearthGo s i f u lanes chk more := by
  cases i with
  | vadd | vsub | vmul | vmulh | vmad | vmin | vmax | vbfx =>
    simp only [exec_vadd, exec_vsub, exec_vmul, exec_vmulh, exec_vmad, exec_vmin, exec_vmax, exec_vbfx, execVadd,
      execVsub, execVmul, execVmulh, execVmad, execVmin, execVmax, execVbfx, laneElem]
    exact .inl ⟨_, _, _, rfl⟩
  | vabs | vneg | vclz | vpopc | vbrev | vfrcp | vfsqrt | vfrsqrt | vflog2 | vfexp2 | vfrnd =>
    simp only [exec_vabs, exec_vneg, exec_vclz, exec_vpopc, exec_vbrev, exec_vfrcp, exec_vfsqrt, exec_vfrsqrt,
      exec_vflog2, exec_vfexp2, exec_vfrnd, execVabs, execVneg, execVclz, execVpopc, execVbrev, execVfrcp, execVfsqrt,
      execVfrsqrt, execVflog2, execVfexp2, execVfrnd, laneFun, laneUn]
    exact .inl ⟨_, _, _, rfl⟩
  | vand | vor | vxor | vandn | vshl | vshr | vsra =>
    simp only [exec_vand, exec_vor, exec_vxor, exec_vandn, exec_vshl, exec_vshr, exec_vsra, execVand, execVor, execVxor,
      execVandn, execVshl, execVshr, execVsra, laneBit, laneShift]
    exact .inl ⟨_, _, _, rfl⟩
  | vfadd | vfsub | vfmul | vfma | vfmin | vfmax =>
    simp only [exec_vfadd, exec_vfsub, exec_vfmul, exec_vfma, exec_vfmin, exec_vfmax, execVfadd, execVfsub, execVfmul,
      execVfma, execVfmin, execVfmax, laneFlt, laneElem]
    exact .inl ⟨_, _, _, rfl⟩
  | pand | por | pxor | pnot | pmov | pset | vshfl | vbcast | vrot =>
    simp only [exec_pand, exec_por, exec_pxor, exec_pnot, exec_pmov, exec_pset, exec_vshfl, exec_vbcast, exec_vrot,
      execPand, execPor, execPxor, execPnot, execPmov, execPset, execVshfl, execVbcast, execVrot, predOp, lanePerm]
    exact .inl ⟨_, _, _, rfl⟩
  | vbfi | vmov | vli | vsel | vcmp | vdp4 | vaddc | vfcmp | vfcls | vfdp2 | vcvt | vunpkb | vtag | vtagq | pget | pcnt |
    vred | vscan | vrng | vlane | vnop | vpackb | visect | vprf | vcpidx =>
    simp only [exec_vbfi, exec_vmov, exec_vli, exec_vsel, exec_vcmp, exec_vdp4, exec_vaddc, exec_vfcmp, exec_vfcls,
      exec_vfdp2, exec_vcvt, exec_vunpkb, exec_vtag, exec_vtagq, exec_pget, exec_pcnt, exec_vred, exec_vscan, exec_vrng,
      exec_vlane, exec_vnop, exec_vpackb, exec_visect, exec_vprf, exec_vcpidx, execVbfi, execVmov, execVli, execVsel,
      execVcmp, execVdp4, execVaddc, execVfcmp, execVfcls, execVfdp2, execVcvt, execVunpkb, execVtag, execVtagq, execPget,
      execPcnt, execVred, execVscan, execVrng, execVlane, execVnop, execVpackb, execVisect, execVprf, execVcpidx]
    exact .inl ⟨_, _, _, rfl⟩
  | vld | vlds | vst | vsts | vatom | vatoms =>
    simp only [exec_vld, exec_vlds, exec_vst, exec_vsts, exec_vatom, exec_vatoms, execVld, execVlds, execVst, execVsts,
      execVatom, execVatoms, laneLoad, laneStore, laneAtom]
    exact .inl ⟨_, _, _, rfl⟩
  | mxmac | mxtopk | mxv | mxrdy | mxld | mxst | mxclr | mxmovToTile | mxmovToVector | wlclr | wlget | wlins | wlmrg | wlthr
    | wlst | wlld | wlcfg =>
    simp only [exec_mxmac, exec_mxtopk, exec_mxv, exec_mxrdy, exec_mxld, exec_mxst, exec_mxclr, exec_mxmovToTile,
      exec_mxmovToVector, exec_wlclr, exec_wlget, exec_wlins, exec_wlmrg, exec_wlthr, exec_wlst, exec_wlld, exec_wlcfg,
      execMxmac, execMxtopk, execMxv, execMxrdy, execMxld, execMxst, execMxclr, execMxmovToTile, execMxmovToVector,
      execWlclr, execWlget, execWlins, execWlmrg, execWlthr, execWlst, execWlld, execWlcfg]
    exact .inr ⟨_, _, _, _, _, rfl⟩
  | vredeem w => exact absurd rfl (hr w).1
  | vredeemRemote w => exact absurd rfl (hr w).2
  | _ => cases hi

/-- R187: what an acquire before its clause holds waits. -/
theorem laneGo_held {s : State} (h : s.laneHeld = true) (lanes : BitVec 32) (u : LaneUse) (k : State → Res) :
    laneGo s lanes u k = .next (s.laneWait u) := if_pos (by rw [h, Bool.or_true])

theorem hearthGo_held {s : State} (h : s.laneHeld = true) (i : Instr) (f : LaneWord) (u : LaneUse) (lanes : BitVec 32)
    (chk : List Word → HCheck) (more : List Word) : hearthGo s i f u lanes chk more = .next (s.laneWait u) :=
  if_pos (by rw [h, Bool.or_true, Bool.true_or])

theorem lane_held {f : Fence} {i : Instr} {s : State} (hf : f ∈ s.me.fences) (ha : f.acq = true) (hid : f.id < s.me.laneSeq)
    (hi : i.laneParts.isSome = true) (hr : ∀ w, i ≠ .vredeem w ∧ i ≠ .vredeemRemote w) :
    ∃ b, exec i s = .next (s.setMe { s.me with parked := b }) := by
  have hheld : s.laneHeld = true := by rw [State.laneHeld, acqDone_of_fence hf ha hid]; rfl
  obtain ⟨lanes, u, k, he⟩ | ⟨f, u, lanes, chk, more, he⟩ := exec_lane s hi hr
  · rw [he, laneGo_held hheld]
    exact ⟨_, rfl⟩
  · rw [he, hearthGo_held hheld]
    exact ⟨_, rfl⟩

/-! #### A redeem of a clause enqueued later issues (R312) -/

theorem meets_mono {a b c : List Nat} (hab : ∀ r ∈ a, r ∈ b) (h : meets b c = false) : meets a c = false := by
  simp only [meets, List.any_eq_false] at h ⊢
  exact fun r hr => h r (hab r hr)

/-- The instruction of a redeem. -/
def redeemInstr (remote : Bool) (w : LaneWord) : Instr := if remote then .vredeemRemote w else .vredeem w

/-- The scalar registers that a redeem may read (R305). -/
def redeemReads (remote : Bool) (w : LaneWord) : List Nat :=
  [w.vb.val, w.vb.val + 1] ++ (if remote then [w.x 6 0, w.x 6 0 + 1] else [])

theorem laneSReads_redeem {remote : Bool} {w : LaneWord} (hwf : (redeemInstr remote w).wf = true) :
    ∀ r ∈ laneSReads (redeemInstr remote w), r ∈ redeemReads remote w := by
  have hvar : remote = false → w.x 7 7 ≠ 1 := by
    rintro rfl
    have h := (Bool.and_eq_true_iff.1 hwf).2
    simp [redeemInstr, Instr.variantOk] at h
    omega
  have hparts : (redeemInstr remote w).laneParts = some (0x76, w) := by cases remote <;> rfl
  cases remote with
  | false => simp [laneSReads, hparts, redeemReads, hvar rfl]
  | true =>
    intro r hr
    simp [laneSReads, hparts, redeemReads] at hr ⊢
    omega

theorem laneNext_clauses_congr {g h : Gang} (hc : g.clauses = h.clauses) : g.laneNext.clauses = h.laneNext.clauses := by
  unfold Gang.laneNext
  rw [hc]
  split
  · exact hc
  · rfl

/-- The operation of a redeem: its ticket, and the words that it needs as it is performed (R305). -/
def redeemOp (remote : Bool) (w : LaneWord) (s : State) : Op :=
  let win := if remote then s.me.rp (w.x 6 0) else 0
  { s.laneOp with kind := .vredeem w.opx34 remote, els := [el1 (s.me.rp w.vb.val) []],
                  arg := [s.me.rs w.vb.val, s.me.rs (w.vb.val + 1), BitVec.ofNat 32 w.vc.val, s.me.live, win.setWidth 32,
                          (win >>> 32).setWidth 32],
                  dst := .vreg w.vd.val (if remote then 0 else 4) (laneTy w), flag := s.me.attached w }

/-- The vector registers that a redeem fills (R305). -/
def redeemWrites (remote : Bool) (w : LaneWord) : List Nat :=
  (if remote then [] else regs w.vd.val 4) ++ (if w.opx34 then [w.vc.val] else [])

section
variable {remote : Bool} {w : LaneWord} {s : State} (hwf : (redeemInstr remote w).wf = true)
  (hready : LaneReady s ⟨[], redeemWrites remote w, redeemReads remote w, [], []⟩)
  (hwin : remote = true → remoteBad (s.me.rp (w.x 6 0)).toNat = false)
include hwf hready hwin

theorem exec_redeem : exec (redeemInstr remote w) s = .next (s.laneEnter (redeemOp remote w s) (redeemWrites remote w)) := by
  obtain ⟨hb, hr, ht⟩ := hready
  have hblocked : s.me.lBlocked ⟨[], redeemWrites remote w, laneSReads (redeemInstr remote w), [], []⟩ = false := by
    simp only [Gang.lBlocked, Bool.or_eq_false_iff] at hb ⊢
    obtain ⟨⟨hv, hs⟩, hw⟩ := hb
    exact ⟨⟨hv, meets_mono (laneSReads_redeem hwf) hs⟩, hw⟩
  have hgood : ¬(remote && remoteBad (if remote then s.me.rp (w.x 6 0) else 0).toNat) = true := by
    cases remote with
    | false => exact Bool.false_ne_true
    | true => exact Bool.eq_false_iff.1 (hwin rfl)
  have hgo : exec (redeemInstr remote w) s = redeemGo s w (redeemInstr remote w) remote := by cases remote <;> rfl
  rw [hgo, redeemGo]
  refine (laneGoIf_runs s hblocked hr ht).trans ?_
  exact if_neg hgood

/-- R312: a redeem issues whatever acquires its gang waits for. -/
theorem redeem_issues : ∃ t o, exec (redeemInstr remote w) s = .next t ∧ t.ops = s.ops ++ [o] ∧ o.id = s.nextOp
    ∧ o.kind = .vredeem w.opx34 remote ∧ o.stage = .sent ∧ t.me.clauses = s.me.laneNext.clauses := by
  obtain ⟨n, hops, -, hme, -⟩ := laneEnter_spec s (redeemOp remote w s) (redeemWrites remote w)
  rw [idle_eq_self (o := redeemOp remote w s) (by rintro ⟨⟩)] at hops
  refine ⟨_, _, exec_redeem hwf hready hwin, hops, rfl, rfl, rfl, ?_⟩
  rw [hme]
  exact laneNext_clauses_congr (by rw [flagOp_flagsOnly])

end

/-- Settles O16: what is left of a fence that settles (`sfence_takes_place`, `scalarReturn_ends_fence`), and what each half holds
(`accesses_held`, `leave_held`, `lane_held`), but for a redeem (`redeem_issues`). -/
theorem fenceHoldsLaterAccesses : Obligations.FenceHoldsLaterAccesses := by
  refine ⟨sfence_takes_place, ?_, ?_, ?_, ?_, fun f o _ s hf hops _ => scalarReturn_ends_fence f o s hf hops⟩
  · intro f o i ch s hf ha hid ho hk hw
    exact accesses_held ho (acqDone_of_fence hf ha hid) hk hw i ch
  · intro f k o rest s hf hhalf hq hid
    exact leave_held hf hhalf hq hid
  · intro f i s hf ha hid hi hr
    exact lane_held hf ha hid hi hr
  · intro f w remote s _ _ _ _ _ hwf hready hwin
    exact redeem_issues hwf hready hwin

end Sys2Proof.Proofs
end

section
open Sys2Proof Sys2Proof.Machine Sys2Proof.Claims Sys2Proof.Laws

namespace Sys2Proof.Proofs

/-! ### A scalar trap that no handler takes, or that waits (R192, R193) -/

section
variable {s : State} {i : Instr} {cause : Nat} {info : Word} {a : Dword}

/-- An instruction that takes a precise trap ends in the model's scalar trap. -/
theorem traps_exec (h : Traps s i cause info a) : ∃ source, exec i s = .next (s.scalarTrap cause info a source) := by
  cases h with
  | strap | sbrk => exact ⟨0, rfl⟩
  | sjr _ _ _ hb ht => exact ⟨0, sjr_traps hb ht⟩
  | lrunr _ hb ho => exact ⟨0, lrunr_traps hb ho⟩
  | access _ _ _ _ _ _ _ hi hb hf => exact access_traps hi hb hf
  | counter _ _ _ _ _ _ _ _ hb hn hp hf => exact counter_traps hb hn hp hf
  | request _ _ _ _ _ _ hi hb hf => exact request_traps hi hb hf
  | bar _ _ ha hn => exact ⟨0, bar_traps ha hn⟩
  | barObject _ _ _ _ _ ha h8 hs he hr hn =>
    subst he hr
    exact ⟨0, barObject_traps ha h8 hs rfl hn⟩
  | barPlace _ _ _ _ ha hc => exact ⟨0, barPlace_traps ha hc⟩

/-- Table 9-2: a trap whose cause records no address names none. -/
theorem traps_cause (h : Traps s i cause info a) : cause = 5 ∨ cause = 6 ∨ a = 0 := by
  cases h with
  | strap | sbrk | bar | barObject => exact .inr (.inr rfl)
  | sjr | lrunr => exact .inl rfl
  | access _ _ _ _ _ _ _ _ _ hf | counter _ _ _ _ _ _ _ _ _ _ _ hf => exact (failsWith_cause hf).imp_right .inl
  | request _ _ _ _ _ _ hi _ hf => exact (request_cause hi hf).imp_right .inl
  | barPlace _ _ _ _ _ hc =>
    split at hc
    · exact .inl hc
    · exact .inr (.inl hc.1)

/-- What a precise scalar trap tells of itself. -/
def scalarTrapInfo (s : State) (cause : Nat) (info : Word) (a : Dword) (source : Nat) : TrapInfo :=
  ⟨cause, false, false, s.me.pc, info, 0, a, source, 0, 0⟩

theorem scalarTrap_takes (hc : s.me.clauses = []) (source : Nat) :
    s.scalarTrap cause info a source = s.takeTrap s.cur (scalarTrapInfo s cause info a source) := if_pos hc

theorem scalarTrap_waits (hc : s.me.clauses ≠ []) (source : Nat) :
    s.scalarTrap cause info a source = s.setMe { s.me with trapWait := some (scalarTrapInfo s cause info a source) } := if_neg hc

/-- R193: a resident crew begins to stop. -/
theorem stopCrew_of_resident {c : Nat} (st : StopInfo) (h : (s.crew c).phase = .resident) :
    s.stopCrew c st = s.setCrew c { s.crew c with phase := .stopping, stop := some st } := if_pos (.inl h)

/-- R193: a trap that no handler takes writes the trap state of its gang, and its resident crew begins to stop. -/
theorem takeTrap_of_resident {k : Nat} (t : TrapInfo) (hp : (s.crew (s.gang k).crew).phase = .resident)
    (hh : (s.crew (s.gang k).crew).handler = none ∨ (s.gang k).trap.handler = true) :
    s.takeTrap k t = (s.setGang k { s.gang k with trap := (s.gang k).trap.record t, trapWait := none }).setCrew (s.gang k).crew
      { s.crew (s.gang k).crew with phase := .stopping, stop := some ⟨k, t, true, true⟩ } := by
  rw [takeTrap_stops s t hh]
  exact stopCrew_of_resident ⟨k, t, true, true⟩ hp

end

/-- Settles O14: the instruction ends in the model's scalar trap (`traps_exec`), which stops the crew where no handler takes it
(`takeTrap_of_resident`) and waits where clauses are queued (`scalarTrap_waits`). -/
theorem trapStopsCrewOrWaits : Obligations.TrapStopsCrewOrWaits := by
  intro s i cause info a h
  obtain ⟨source, he⟩ := traps_exec h
  rw [he]
  constructor
  · intro hc hp hh
    rw [scalarTrap_takes hc]
    have hbytes := sameBytes_takeTrap s s.cur (scalarTrapInfo s cause info a source)
    have hrec := record_scalarTrap s.me.trap s.me.pc info source (traps_cause h)
    rw [takeTrap_of_resident (scalarTrapInfo s cause info a source) hp hh] at hbytes ⊢
    refine ⟨_, ⟨s.cur, scalarTrapInfo s cause info a source, true, true⟩, rfl, ?_, hbytes, ?_, rfl, rfl, rfl, rfl, ?_,
      fun k hk => ?_⟩
    · simp [State.myCrew, State.me]
    · simp [State.myCrew, State.me]
    · rw [← hrec]
      simp [State.me, scalarTrapInfo]
    · rw [setCrew_gang, setGang_gang, if_neg hk]
  · intro hc
    rw [scalarTrap_waits hc]
    exact ⟨_, scalarTrapInfo s cause info a source, rfl, ownGang_setMe s _, setMe_me s _, rfl, rfl, rfl, rfl⟩

end Sys2Proof.Proofs
end

section
open Sys2Proof Sys2Proof.Machine Sys2Proof.Claims Sys2Proof.Laws

namespace Sys2Proof.Proofs

/-! ### The marks of launches (R347, R348, Table 20-4) -/

/-- Every launch is still there, and a mark of it that was set is still set. -/
def KeepsMarks (s t : State) : Prop :=
  ∀ key l, s.launch key = some l →
    ∃ m, t.launch key = some m ∧ (l.cancelled = true → m.cancelled = true) ∧ (l.error = true → m.error = true)

theorem KeepsMarks.trans {s t u : State} (h : KeepsMarks s t) (g : KeepsMarks t u) : KeepsMarks s u := by
  intro key l hl
  obtain ⟨m, hm, hmc, hme⟩ := h key l hl
  obtain ⟨n, hn, hnc, hne⟩ := g key m hm
  exact ⟨n, hn, hnc ∘ hmc, hne ∘ hme⟩

theorem keepsMarks_of_launches {s t : State} (h : t.harb.launches = s.harb.launches) : KeepsMarks s t :=
  fun key l hl => ⟨l, by rw [State.launch, h]; exact hl, id, id⟩

theorem KeepsMarks.refl (s : State) : KeepsMarks s s := keepsMarks_of_launches rfl

theorem keepsMarks_foldl {β : Type} {f : State → β → State} (h : ∀ s x, KeepsMarks s (f s x)) (l : List β) (s : State) :
    KeepsMarks s (l.foldl f s) :=
  List.foldlRecOn l f (.refl s) fun t ht x _ => ht.trans (h t x)

section
variable (s : State)

/-- A launch that is written anew with its marks. -/
theorem setLaunch_keepsMarks {key : Nat} {l m : Launch} (h : s.launch key = some l)
    (hc : l.cancelled = true → m.cancelled = true) (he : l.error = true → m.error = true) : KeepsMarks s (s.setLaunch key m) := by
  intro j k hk
  by_cases hj : j = key
  · subst hj
    obtain rfl : l = k := Option.some.inj (h.symm.trans hk)
    exact ⟨m, launch_setLaunch s j m, hc, he⟩
  · exact ⟨k, by rw [State.launch, State.setLaunch, get_put_ne hj]; exact hk, id, id⟩

theorem crewEnded_keepsMarks (key : Nat) : KeepsMarks s (s.crewEnded key) := by
  unfold State.crewEnded
  split
  · next l hl => exact setLaunch_keepsMarks s hl id id
  · exact .refl s

theorem markError_keepsMarks (asid lvl n : Nat) : KeepsMarks s (s.markError asid lvl n) := by
  by_cases h : lvl = 0
  · rw [State.markError, if_pos h]
    split
    · next l hl => exact setLaunch_keepsMarks s hl id (fun _ => rfl)
    · exact .refl s
  · intro key l hl
    exact ⟨l, by rw [markError_launch s asid n key h, hl], id, id⟩

theorem errorUp_keepsMarks (asid n : Nat) : ∀ (lvl id : Nat) (s : State), KeepsMarks s (s.errorUp asid n lvl id) := by
  induction n with
  | zero => exact fun _ _ s => .refl s
  | succ n ih =>
    intro lvl id s
    simp only [State.errorUp]
    split
    · exact (markError_keepsMarks s asid lvl id).trans (ih _ _ _)
    · exact markError_keepsMarks s asid lvl id

theorem stopCrew_keepsMarks (c : Nat) (i : StopInfo) : KeepsMarks s (s.stopCrew c i) := by
  unfold State.stopCrew
  dsimp only
  split
  · exact keepsMarks_of_launches rfl
  · exact .refl s

theorem cancelCrew_keepsMarks (c : Nat) (error : Bool) : KeepsMarks s (s.cancelCrew c error) := by
  unfold State.cancelCrew
  dsimp only
  split
  · obtain ⟨-, -, -, hharb, -⟩ := discardCrew_spec s c true
    exact (keepsMarks_of_launches (by rw [hharb])).trans (crewEnded_keepsMarks _ _)
  · exact stopCrew_keepsMarks s c _

theorem cancelCrews_keepsMarks (key : Nat) (error : Bool) : KeepsMarks s (s.cancelCrews key error) :=
  keepsMarks_foldl (fun t c => cancelCrew_keepsMarks t c error) _ s

/-- R348: an incomplete launch that is cancelled places no further crew. -/
def cancelledLaunch (l : Launch) : Launch :=
  { l with cancelled := true, st := .eligible, fixed := true, ncrews := if l.st = .queued then 0 else l.placed }

/-- R348: it is written anew and leaves the slipway, and then its crews stop. -/
theorem cancelLaunch_incomplete {key : Nat} {l : Launch} (error : Bool) (h : s.launch key = some l) (hc : ¬l.isComplete = true) :
    ∃ u : State, s.cancelLaunch key error = u.cancelCrews key error
      ∧ u.harb.launches = (s.setLaunch key (cancelledLaunch l)).harb.launches := by
  simp only [State.cancelLaunch, h, if_neg hc]
  exact ⟨_, rfl, rfl⟩

/-- R348: a launch that is cancelled has its mark, and every other one keeps its own. -/
theorem cancelLaunch_marks {key : Nat} {l : Launch} (error : Bool) (h : s.launch key = some l) :
    KeepsMarks s (s.cancelLaunch key error)
      ∧ ∃ m, (s.cancelLaunch key error).launch key = some m ∧ m.cancelled = true := by
  by_cases hc : l.isComplete = true
  · have he : s.cancelLaunch key error = s.setLaunch key { l with cancelled := true } := by
      rw [State.cancelLaunch, h]
      exact if_pos hc
    rw [he]
    exact ⟨setLaunch_keepsMarks s h (fun _ => rfl) id, _, launch_setLaunch s key _, rfl⟩
  · obtain ⟨u, he, hu⟩ := cancelLaunch_incomplete s error h hc
    rw [he]
    have hset : KeepsMarks s (s.setLaunch key (cancelledLaunch l)) := setLaunch_keepsMarks s h (fun _ => rfl) id
    have hcrews := (keepsMarks_of_launches hu).trans (cancelCrews_keepsMarks u key error)
    obtain ⟨n, hn, hnc, -⟩ := hcrews key _ (launch_setLaunch s key (cancelledLaunch l))
    exact ⟨hset.trans hcrews, n, hn, hnc rfl⟩

theorem cancelLaunch_keepsMarks (key : Nat) (error : Bool) : KeepsMarks s (s.cancelLaunch key error) := by
  cases h : s.launch key with
  | none =>
    rw [State.cancelLaunch, h]
    exact .refl s
  | some l => exact (cancelLaunch_marks s error h).1

/-! ### A launch of a context that is killed (R353) -/

/-- What `State.killContext` does to each launch of the context that is not complete. -/
def killLaunch (asid : Nat) (s : State) (key : Nat) : State := (s.cancelLaunch key true).launchError asid (key % 65536)

theorem killLaunch_keepsMarks (asid key : Nat) : KeepsMarks s (killLaunch asid s key) :=
  (cancelLaunch_keepsMarks s key true).trans (errorUp_keepsMarks asid 4 0 _ _)

theorem killLaunch_marks {asid id : Nat} {l : Launch} (hid : id < 65536) (h : s.launch (launchKey asid id) = some l) :
    ∃ m, (killLaunch asid s (launchKey asid id)).launch (launchKey asid id) = some m ∧ m.cancelled = true ∧ m.error = true := by
  obtain ⟨-, m, hm, hmc⟩ := cancelLaunch_marks s true h
  have hmod : launchKey asid id % 65536 = id := by unfold launchKey; omega
  rw [killLaunch, hmod]
  exact ⟨_, launchError_launch hm, hmc, rfl⟩

theorem killLaunches_marks {asid id : Nat} (hid : id < 65536) (keys : List Nat) : ∀ (s : State) (l : Launch),
    launchKey asid id ∈ keys → s.launch (launchKey asid id) = some l →
    ∃ m, (keys.foldl (killLaunch asid) s).launch (launchKey asid id) = some m ∧ m.cancelled = true ∧ m.error = true := by
  induction keys with
  | nil => exact fun s l h => absurd h List.not_mem_nil
  | cons k ks ih =>
    intro s l hk hl
    rw [List.foldl_cons]
    by_cases hkk : launchKey asid id = k
    · obtain ⟨m, hm, hmc, hme⟩ := killLaunch_marks s hid hl
      rw [hkk] at hm ⊢
      obtain ⟨n, hn, hnc, hne⟩ := keepsMarks_foldl (killLaunch_keepsMarks · asid ·) ks _ k m hm
      exact ⟨n, hn, hnc hmc, hne hme⟩
    · obtain ⟨m, hm, -⟩ := killLaunch_keepsMarks s asid k _ l hl
      exact ih _ m ((List.mem_cons.1 hk).resolve_left hkk) hm

end

/-! ### The ladder of a context and its crews (R206) -/

section
variable (s : State)

@[simp] theorem ctxCause_harb (kind source asid evseq : Nat) : (s.ctxCause kind source asid evseq).harb = s.harb := by
  obtain ⟨_, _, _, _, _, h⟩ := ctxCause_only s kind source asid evseq
  rw [h]

@[simp] theorem ctxCause_gangs (kind source asid evseq : Nat) : (s.ctxCause kind source asid evseq).gangs = s.gangs := by
  obtain ⟨_, _, _, _, _, h⟩ := ctxCause_only s kind source asid evseq
  rw [h]

@[simp] theorem ctxCause_crews (kind source asid evseq : Nat) : (s.ctxCause kind source asid evseq).crews = s.crews := by
  obtain ⟨_, _, _, _, _, h⟩ := ctxCause_only s kind source asid evseq
  rw [h]

@[simp] theorem ctxCause_ladderOf (kind source asid evseq a : Nat) :
    (s.ctxCause kind source asid evseq).ladderOf a = s.ladderOf a := by
  rw [State.ladderOf, ctxCause_harb, State.ladderOf]

@[simp] theorem setLadder_ladderOf (asid : Nat) (l : Ladder) : (s.setLadder asid l).ladderOf asid = l := get_put_self

/-- A table whose entries are written one by one. -/
theorem get_foldl_put (f : Nat → Nat) (ks : List Nat) (k : Nat) : ∀ m : Map Nat,
    Map.get 0 (ks.foldl (fun m j => Map.put 0 m j (f j)) m) k = if k ∈ ks then f k else Map.get 0 m k := by
  induction ks with
  | nil => exact fun m => rfl
  | cons j ks ih =>
    intro m
    rw [List.foldl_cons, ih, get_put]
    by_cases hk : k = j
    · simp [hk]
    · simp [hk]

/-- A crew that runs halts. -/
def haltedCrew (w : Crew) : Crew := if w.phase = .resident then { w with phase := .halting } else w

theorem haltedCrew_idem (w : Crew) : haltedCrew (haltedCrew w) = haltedCrew w := by
  by_cases h : w.phase = .resident <;> simp [haltedCrew, h]

theorem haltCrew_crew (c b : Nat) : (s.haltCrew c).crew b = if b = c then haltedCrew (s.crew b) else s.crew b := by
  unfold State.haltCrew haltedCrew
  dsimp only
  by_cases hb : b = c
  · subst hb
    split <;> simp
  · split <;> simp [hb]

theorem haltCrews_crew (b : Nat) (cs : List Nat) : ∀ s : State,
    (cs.foldl State.haltCrew s).crew b = if b ∈ cs then haltedCrew (s.crew b) else s.crew b := by
  induction cs with
  | nil => exact fun s => rfl
  | cons c cs ih =>
    intro s
    rw [List.foldl_cons, ih, haltCrew_crew]
    by_cases hb : b = c
    · simp [hb, haltedCrew_idem]
    · simp [hb]

theorem haltCrews_harb (cs : List Nat) : (cs.foldl State.haltCrew s).harb = s.harb :=
  List.foldlRecOn cs State.haltCrew (motive := fun t => t.harb = s.harb) rfl fun t ht c _ => by
    unfold State.haltCrew
    dsimp only
    split
    · exact ht
    · exact ht

end

/-! ### The commands and timers of the ladder (R206, R353, R371) -/

section
variable {s : State} {asid : Nat}

theorem startLadder_starts (hs : s.served = true) (hl : s.onLadder asid = false) :
    ∃ t, exec (.startLadder asid) s = .next t ∧ (t.ladderOf asid).step = 1
      ∧ (∀ d < 4, Map.get 0 (t.ladderOf asid).starts d = s.now d) ∧ t.gangs = s.gangs ∧ t.crews = s.crews
      ∧ CauseWritten s t 4 1 asid 0 := by
  have he : (!s.served || s.onLadder asid) = false := by rw [hs, hl]; rfl
  refine ⟨_, if_neg (Bool.eq_false_iff.1 he), ?_⟩
  rw [ctxCause_ladderOf, setLadder_ladderOf, ctxCause_gangs, ctxCause_crews]
  refine ⟨rfl, fun d hd => ?_, rfl, rfl, causeWritten_ctxCause 4 1 asid 0 ⟨rfl, rfl, rfl, rfl, rfl, rfl⟩⟩
  exact (get_foldl_put s.now (List.range 4) d []).trans (if_pos (List.mem_range.2 hd))

theorem graceTimerExpire_halts {die : Nat} (hd : die < 4) (hstep : (s.ladderOf asid).step ≠ 0) (hdie : die ∉ (s.ladderOf asid).dies)
    (hsince : 2 ^ s.ctxField asid 99 94 ≤ s.since (s.ladderOf asid) die) :
    ∃ t, exec (.graceTimerExpire asid die) s = .next t ∧ (t.ladderOf asid).step = 2
      ∧ (t.ladderOf asid).dies = (s.ladderOf asid).dies ++ [die] ∧ Map.get 0 (t.ladderOf asid).grace die = s.now die
      ∧ ∀ c ∈ s.crewsAt asid die, (s.crew c).phase = .resident → (t.crew c).phase = .halting := by
  have he : ¬((s.ladderOf asid).step == 0 || (s.ladderOf asid).dies.contains die || decide (4 ≤ die)
      || decide (s.since (s.ladderOf asid) die < 2 ^ s.ctxField asid 99 94)) = true := by
    simp [hstep, hdie, hd, hsince]
  refine ⟨_, if_neg he, ?_⟩
  generalize hu : (s.crewsAt asid die).foldl State.haltCrew _ = u
  have hladder : u.ladderOf asid = { s.ladderOf asid with
      step := 2, dies := (s.ladderOf asid).dies ++ [die], grace := Map.put 0 (s.ladderOf asid).grace die (s.now die) } := by
    rw [← hu, State.ladderOf, haltCrews_harb]
    exact setLadder_ladderOf s asid _
  have hcrew : ∀ c ∈ s.crewsAt asid die, (s.crew c).phase = .resident → (u.crew c).phase = .halting := by
    intro c hc hp
    rw [← hu, haltCrews_crew, if_pos hc]
    exact congrArg Crew.phase (if_pos hp)
  have hcause : (if (s.ladderOf asid).step = 1 then u.ctxCause 4 2 asid 0 else u).ladderOf asid = u.ladderOf asid
      ∧ (if (s.ladderOf asid).step = 1 then u.ctxCause 4 2 asid 0 else u).crews = u.crews := by
    split <;> simp
  rw [hcause.1, hladder]
  refine ⟨rfl, rfl, get_put_self, ?_⟩
  simp only [State.crew, hcause.2]
  exact hcrew

theorem killContext_ladderOf : (s.killContext asid).ladderOf asid = ⟨0, [], [], []⟩ := by
  unfold State.killContext
  rw [ctxCause_ladderOf, setLadder_ladderOf]

/-- R353: of a context that is killed every launch that is not complete is cancelled and has its error bit set. -/
theorem killContext_marks {id : Nat} {l : Launch} (hid : id < 65536) (hl : s.launch (launchKey asid id) = some l)
    (hc : l.isComplete = false) :
    ∃ m, (s.killContext asid).launch (launchKey asid id) = some m ∧ m.cancelled = true ∧ m.error = true := by
  unfold State.killContext
  extract_lets keys s1 s2
  have hkey : launchKey asid id ∈ keys := by
    refine List.mem_map.2 ⟨(launchKey asid id, some l), List.mem_filter.2 ⟨?_, ?_⟩, rfl⟩
    · rw [State.launch] at hl
      exact hl ▸ mem_of_get_ne (by simp [hl])
    · have hdiv : launchKey asid id / 65536 = asid := by unfold launchKey; omega
      simp [hdiv, hc]
  rw [State.launch, ctxCause_harb]
  exact killLaunches_marks hid keys s l hkey hl

theorem killTimerExpire_kills {die : Nat} (hdie : die ∈ (s.ladderOf asid).dies) (hcrews : s.crewsAt asid die ≠ [])
    (hsince : 2 ^ s.ctxField asid 105 100 ≤ (s.now die + 2 ^ 64 - Map.get 0 (s.ladderOf asid).grace die) % 2 ^ 64) :
    exec (.killTimerExpire asid die) s = .next (s.killContext asid) := by
  refine if_neg ?_
  simpa [hdie, hcrews] using hsince

theorem exec_kill_served (hs : s.served = true) : exec (.kill asid) s = .next (s.killContext asid) :=
  congrArg Host.Outcome.next (if_pos hs)

/-- R371: a device that does not serve its host takes no command of the ladder. -/
theorem ladder_unserved (hs : s.served = false) :
    exec (.startLadder asid) s = .next s ∧ exec (.resume asid) s = .next s ∧ exec (.kill asid) s = .next s := by
  simp [execStartLadder, execResume, execKill, hs]

end

/-- Settles O43: each command and each timer is one lemma; a kill goes through the launches one by one, and what it does to the later
ones takes no mark of an earlier one away (`killContext_marks`, `KeepsMarks`). -/
theorem preemptionLadder : Obligations.PreemptionLadder := by
  intro asid s
  refine ⟨ladder_unserved, fun hs => ⟨startLadder_starts hs, ?_, ?_⟩, fun die hd => ⟨graceTimerExpire_halts hd, ?_⟩⟩
  · exact ⟨_, congrArg Host.Outcome.next (if_pos hs), setLadder_ladderOf s asid _, rfl⟩
  · exact ⟨_, exec_kill_served hs, killContext_ladderOf, fun id l hid hl hc => killContext_marks hid hl hc⟩
  · intro hdie hcrews hsince
    exact ⟨_, killTimerExpire_kills hdie hcrews hsince, killContext_ladderOf, exec_kill_served⟩

end Sys2Proof.Proofs
end
